-- ==== Sys2Proof/Word.lean ====
section
/-! DEFINITION. The word types. -/

namespace Sys2Proof

/-- A 64-bit word. -/
abbrev Word := BitVec 64

/-- One octet. -/
abbrev Byte := BitVec 8

/-- A 5-bit register field (04 R78). -/
abbrev Reg := BitVec 5

/-- LS0, LE0, LC0, LS1, LE1, LC1, LS2, LE2, LC2 in this order: system register 0x010 + k (03 Table 3.3). -/
abbrev LoopReg := BitVec 4

/-- A counter register of Table 20.1: system register 0x440 + k. -/
abbrev CounterReg := BitVec 6

end Sys2Proof
end

