-- ==== Sys2Proof/Syntax.lean ====
section
/-! DEFINITION. The commands the block takes and the operands they carry. -/

namespace Sys2Proof

/-- Who executes a Nefen instruction: logical core Cn (01 R12) or Privet engine PRVn (03 R74). -/
inductive Hart where
  | core (n : Nat)
  | prv (n : Nat)
deriving DecidableEq, Repr

/-- Scope of a cache operation (04 R115): address, range, or set/way with the level field. -/
inductive Scope where
  | addr
  | range
  | setway (lvl : BitVec 2)
deriving DecidableEq, Repr

/-- What holds a translation cache: a core, a Privet engine or a PCIe root complex (07 R186, R189). -/
inductive TlbTarget where
  | core (n : Nat)
  | prv (n : Nat)
  | pe (n : Nat)
deriving DecidableEq, Repr

/-- How one PCIe root complex answered a confirming read (09 R227, R229) when it did not complete normally. -/
structure SyncAnswer where
  unit : Nat
  tmo : Bool
  err : Bool
deriving DecidableEq, Repr

/-- A REQ flit (10 Table 10.2). `addr` is the line's physical address bits 51:6 as a line number; a device store's data and a device
atomic's operand and expected value go with the request (log 35). -/
structure ReqFlit where
  dest : Nat
  src : Nat
  txid : Nat := 0
  oid : Nat := 0
  encl : Nat := 0
  addr : Nat := 0
  atop : Nat := 0
  off : Nat := 0
  len : Nat := 0
  lp : Bool := false
  spr : Bool := false
  retry : Bool := false
  epoch : Bool := false
  wrap : Bool := false
  lstamp : Nat := 0
  data : Word := 0
  expd : Word := 0
deriving DecidableEq, Repr

/-- A SNP flit (10 Table 10.3). -/
structure SnpFlit where
  dest : Nat
  src : Nat
  htxid : Nat := 0
  addr : Nat := 0
  epoch : Bool := false
  wrap : Bool := false
  lstamp : Nat := 0
deriving DecidableEq, Repr

/-- An RSP flit (10 Table 10.4). -/
structure RspFlit where
  dest : Nat
  src : Nat
  txid : Nat := 0
  info : Nat := 0
  spr : Bool := false
  epoch : Bool := false
  wrap : Bool := false
  lstamp : Nat := 0
deriving DecidableEq, Repr

/-- A DAT flit (10 Table 10.5, R239): control field, 32 bytes of data and their four tags. -/
structure DatFlit where
  dest : Nat
  src : Nat
  txid : Nat := 0
  be : BitVec 32 := 0
  half : Bool := false
  spr : Bool := false
  epoch : Bool := false
  wrap : Bool := false
  lstamp : Nat := 0
  data : BitVec 256 := 0
  tags : BitVec 16 := 0
deriving DecidableEq, Repr


/-- A message on a network (10 R236, Table 10.6) with its opcode. -/
inductive Msg where
  | req (opc : Nat) (q : ReqFlit)
  | snp (opc : Nat) (q : SnpFlit)
  | rsp (opc : Nat) (q : RspFlit)
  | dat (opc : Nat) (q : DatFlit)
deriving DecidableEq, Repr

/-- What a slot of a link flit carries (21 Table 21.7, R557, R558): a mesh message or a control message. -/
inductive Slot where
  | msg (m : Msg)
  | credit (req snp rsp dat : Nat)
  | alignReq (t1 : Nat)
  | alignRsp (t1 t2 t3 : Nat)
  | groupResume (link seq : Nat)
deriving DecidableEq, Repr

/-- What a Msg request carries (10 Table 10.6): a shootdown, a doorbell store, an interrupt or a slice's state in transfer. -/
inductive MsgBody where
  | shootdown (t : TlbTarget) (from_ : Nat)
  | doorbell (encl off : Nat) (data : Word)
  | interrupt (n : Nat) (m : Bool)
  | transfer (pos : Nat)
deriving DecidableEq, Repr

/-- A frame received at a channel port (14 R377, Table 14.4). -/
structure QctFrame where
  fcsOk : Bool := true
  dmac : Nat
  smac : Nat
  /-- the VLAN identifier of its IEEE 802.1Q tag, if it has one -/
  vid : Option Nat := none
  etype : Nat
  ver : Nat := 1
  ty : Nat
  /-- PAYLEN agrees with the frame's length -/
  lenOk : Bool := true
  ackv : Bool := false
  wantC : Bool := false
  wantD : Bool := false
  src : Nat
  dst : Nat
  sess : Nat
  crlimC : Nat := 0
  crlimD : Nat := 0
  txc : Nat := 0
  seq : Nat := 0
  ack : Nat := 0
  opid : Nat := 0
  cmdseq : Nat := 0
  count : Nat := 0
  /-- KIND or RSTATUS -/
  kind : Nat := 0
  devstat : Nat := 0
  payload : List Byte := []
deriving DecidableEq, Repr

/-- The errors a DRAM burst holds when it is read (11 R279): device and its eight symbols' error bits, code word k in octet k; for the
burst itself and for its tag line. -/
structure BurstErr where
  rank : Nat := 0
  errs : List (Nat × Nat) := []
  terrs : List (Nat × Nat) := []
deriving DecidableEq, Repr

/-- What a link or a receiver finds in a flit (10 R237, R239). -/
inductive FlitErr where
  /-- a single-bit error, corrected -/
  | corrected
  /-- an uncorrectable error on a wire of the link -/
  | uncorrectable (wire : Nat)
  /-- an uncorrectable error in a flit of data past its last link -/
  | past (opc : Nat) (f : DatFlit)
deriving DecidableEq, Repr

/-- A DIMM of a channel. -/
structure DimmAt where
  ch : Nat
  dimm : Nat
deriving DecidableEq, Repr

/-- The bursts that a command to a rank touched: data lines, and tag lines named by a data line each (11 R272). -/
structure Touched where
  lines : List Nat
  tags : List Nat
deriving DecidableEq, Repr

/-- What a core checker detects (16 Table 16.4). -/
inductive CheckErr where
  /-- rows 1, 2, 3, and the errors of unretired values of rows 4 and 7: retry -/
  | retry (row : Nat)
  /-- a single error of row 4 or 7: corrected -/
  | corrected (row : Nat)
  /-- row 9: an entry of the target buffer (0, set and way), a direction table (1, place), the indirect predictor (2, place), the return stack
  (3, place from the top) or the load-wait table (4, place) -/
  | predictor (what i way : Nat)
  /-- row 4, double error in an architectural value: file 0 g, 1 f, 2 v, 3 lk, and its register -/
  | reg (file : Nat) (r : BitVec 5)
  /-- rows 5 and 6: a line, and for a dirty L1D line its failing words -/
  | l1i (line : Nat)
  | l1d (line : Nat) (words : List Nat)
  /-- row 7, a retired store: its place in the store buffer, data or address failing, and the failing word's address -/
  | store (k : Nat) (data : Bool) (word : Nat)
  /-- row 7, a line of the combining buffer: data failing in a word, or its address -/
  | combine (line : Nat) (data : Bool) (word : Nat)
  /-- row 8: the entries that translate an address, or a wired slot -/
  | tlb (va : Word)
  | wired (slot : Nat)
  /-- row 10: one copy fails parity, or both fail or disagree -/
  | oneCopy
  | bothCopies
deriving DecidableEq, Repr

/-- A debug action at the JTAG port (12 Table 12.13). -/
inductive DbgReq where
  | halt (n : Nat)
  | step (n : Nat)
  | resume (n : Nat)
  /-- a register of a core: file 0 g, 1 f, 2 v, 3 lk, 4 PC, 5 system register -/
  | readReg (n file num : Nat)
  | writeReg (n file num : Nat) (v : BitVec 256)
  | readMem (pa len : Nat)
  | writeMem (pa : Nat) (bs : List Byte)
  | setBreak (n : Nat) (pc : Word)
  | clearBreak (n : Nat) (pc : Word)
deriving DecidableEq, Repr

/-- A signed image as Yew finds it in a flash slot: whether its two signatures verify, the digest of its public keys (12 R301). -/
structure Signed where
  mldsa : Bool
  ecdsa : Bool
  keyHash : List Byte
deriving DecidableEq, Repr

/-- A Yew firmware image (12 R301): security version, version, the minimum version it asks for, and its digest. -/
structure FwImage where
  sig : Signed
  secver : Nat
  version : Nat := 0
  minver : Nat := 0
  digest : List Byte := []
deriving DecidableEq, Repr

/-- A layout (12 R304): its digest, the header's channel state area in GiB and channel subsystem's ways, and its records of 512 octets. -/
structure Layout where
  sig : Signed
  digest : List Byte := []
  csaGiB : Nat := 0
  chnWays : Nat := 0
  recs : List (List Byte) := []
deriving DecidableEq, Repr

/-- The straps (23 R578). -/
structure Straps where
  socket : Nat := 0
  node : Nat := 0
  bifur : Nat := 0
deriving DecidableEq, Repr

/-- A BAR that Yew programs at stage 0x6 (21 R542): its root complex, root port, function, and PCIe addresses. -/
structure BarIn where
  pe : Nat
  port : Nat
  rid : Nat
  base : Nat
  size : Nat
deriving DecidableEq, Repr

/-- A DIMM as training finds it (11 Table 11.1): registered, device width in bits, speed grade, package ranks, dies in a stack, and device density
in Gbit. -/
structure Dimm where
  rdimm : Bool := true
  width : Nat := 4
  speed : Nat := 6400
  ranks : Nat := 1
  stack : Nat := 1
  gbit : Nat := 16
deriving DecidableEq, Repr

/-- What the boot stages find (12 Table 12.2, 23 Table 23.6): flash slots and size, the DIMMs of each channel, a channel that fails training or
self-test, noise sources that fail (die, test), PCIe ports with WIDTH and SPEED, BARs, PROT_STREAM entries whose function is missing, enclosure images; and the stage at which the command leaves the boot. -/
structure BootIn where
  upto : Nat := 15
  straps : Straps := {}
  fwA : Option FwImage := none
  fwB : Option FwImage := none
  layA : Option Layout := none
  layB : Option Layout := none
  flashSize : Nat := 0x2000000
  dimms : List (List Dimm) := List.replicate 16 [{}]
  trainFail : Option (Nat × Nat) := none
  bistFail : Option (Nat × Nat) := none
  noiseFail : List (Nat × Nat) := []
  pciePorts : List (Nat × Nat) := []
  bars : List BarIn := []
  missing : List Nat := []
  images : List (Nat × List Byte) := []
deriving DecidableEq, Repr


/-- An SDP request frame (19 Table 19.2): its port, 0 CAN-A and 1 CAN-B, the header without SVC, and the octets after the header. -/
structure SdpFrame where
  port : Nat
  flags : Nat := 0
  tid : Nat
  status : Nat := 0
  idx : Nat := 0
  sub : Nat := 0
  len : Nat := 0
  data : List Byte := []
deriving DecidableEq, Repr

/-- A debug token (12 R321): level, enclosure at D1, DeviceID digest, nonce, session length in ticks, signatures. -/
structure TokenIn where
  level : Nat := 0
  encl : Nat := 0
  digest : List Byte := []
  nonce : List Byte := []
  length : Nat := 0
  sig : Signed := { mldsa := false, ecdsa := false, keyHash := [] }
deriving DecidableEq, Repr

/-- A signed enrolment request (12 R302): the owner hash to program, or the slot to revoke. -/
structure OwnerIn where
  sig : Signed := { mldsa := false, ecdsa := false, keyHash := [] }
  slot : Nat := 0
  hash : List Byte := []
deriving DecidableEq, Repr

/-- What Yew reads in a request's data, and an enclosure's image in flash, where the request needs one. -/
structure SvcIn where
  tok : TokenIn := {}
  own : OwnerIn := {}
  img : List Byte := []
deriving DecidableEq, Repr

/-- A Box firmware image at the maintenance port (18 Table 18.3): whether its signatures verify and its key's hash is fused, its version,
the digest of it and the calibration fuses, and the minimum version it asks for. -/
structure BoxImage where
  mldsa : Bool
  ecdsa : Bool
  keyOk : Bool
  version : Nat
  digest : List Byte := []
  minver : Nat := 0
  /-- the check that fails when Box restarts on it, 0 for none (18 R497, Table 18.2) -/
  check : Nat := 0
deriving DecidableEq, Repr
/-- The commands of the block, one constructor per row of the opcode table, in the table's order.
Each carries the fields the spec gives the instruction word, message, descriptor or event (log 1). -/
inductive Instr where
  | referenceLost -- R42
  | referenceReturn -- R42
  | holdoverTimeout -- R42
  | wrapBitSet (k : Nat) -- R47
  | alignInterval -- R50
  | alignReq (link t1 : Nat) -- R561
  | alignRsp (link t1 t2 t3 : Nat) -- R561
  | stampAdjust -- R50
  | stampLinkLost -- R51
  | asyncEventTaken (n : Nat) -- R71
  | interruptDelivery (n : Nat) (m : Bool) -- R72
  | engineException (n : Nat) (code : BitVec 8) -- R77
  | add (h : Hart) (rd ra rb : Reg) -- R82
  | sub (h : Hart) (rd ra rb : Reg) -- R82
  | and (h : Hart) (rd ra rb : Reg) -- R82
  | or (h : Hart) (rd ra rb : Reg) -- R82
  | xor (h : Hart) (rd ra rb : Reg) -- R82
  | andn (h : Hart) (rd ra rb : Reg) -- R82
  | shl (h : Hart) (rd ra rb : Reg) -- R82
  | shr (h : Hart) (rd ra rb : Reg) -- R82
  | sra (h : Hart) (rd ra rb : Reg) -- R82
  | ror (h : Hart) (rd ra rb : Reg) -- R82
  | slt (h : Hart) (rd ra rb : Reg) -- R82
  | sltu (h : Hart) (rd ra rb : Reg) -- R82
  | seq (h : Hart) (rd ra rb : Reg) -- R82
  | mul (h : Hart) (rd ra rb : Reg) -- R82
  | mulh (h : Hart) (rd ra rb : Reg) -- R82
  | mulhu (h : Hart) (rd ra rb : Reg) -- R82
  | div (h : Hart) (rd ra rb : Reg) -- R84
  | divu (h : Hart) (rd ra rb : Reg) -- R85
  | rem (h : Hart) (rd ra rb : Reg) -- R84
  | remu (h : Hart) (rd ra rb : Reg) -- R84
  | clz (h : Hart) (rd ra : Reg) -- R82
  | ctz (h : Hart) (rd ra : Reg) -- R82
  | popc (h : Hart) (rd ra : Reg) -- R82
  | bswap (h : Hart) (rd ra : Reg) -- R82
  | mv (h : Hart) (rd ra : Reg) -- R82
  | addi (h : Hart) (rd ra : Reg) (imm : BitVec 16) -- R83
  | andi (h : Hart) (rd ra : Reg) (imm : BitVec 16) -- R83
  | ori (h : Hart) (rd ra : Reg) (imm : BitVec 16) -- R83
  | xori (h : Hart) (rd ra : Reg) (imm : BitVec 16) -- R83
  | shi (h : Hart) (rd ra : Reg) (op : BitVec 2) (amt : BitVec 6) -- R83
  | slti (h : Hart) (rd ra : Reg) (imm : BitVec 16) -- R83
  | sltiu (h : Hart) (rd ra : Reg) (imm : BitVec 16) -- R83
  | kstart (h : Hart) (rd : Reg) (imm : BitVec 16) -- R83
  | knext (h : Hart) (rd : Reg) (imm : BitVec 16) -- R83
  | krep (h : Hart) (rd : Reg) (imm : BitVec 16) -- R83
  | apc (h : Hart) (rd : Reg) (imm : BitVec 21) -- R83
  | apcD (h : Hart) (rd : Reg) (imm : BitVec 21) -- R83
  | apcC (h : Hart) (rd : Reg) (imm : BitVec 21) -- R83
  | sel (h : Hart) (rd ra rb rc : Reg) -- R86
  | cmov (h : Hart) (rd ra rc : Reg) -- R86
  | cmovz (h : Hart) (rd ra rc : Reg) -- R86
  | ext (h : Hart) (rd ra : Reg) (len pos : BitVec 6) -- R83
  | extu (h : Hart) (rd ra : Reg) (len pos : BitVec 6) -- R83
  | ins (h : Hart) (rd ra : Reg) (len pos : BitVec 6) -- R83
  | ldB (h : Hart) (rd ra : Reg) (imm : BitVec 16) -- R96
  | ldBu (h : Hart) (rd ra : Reg) (imm : BitVec 16) -- R96
  | ldH (h : Hart) (rd ra : Reg) (imm : BitVec 16) -- R96
  | ldHu (h : Hart) (rd ra : Reg) (imm : BitVec 16) -- R96
  | ldW (h : Hart) (rd ra : Reg) (imm : BitVec 16) -- R96
  | ldWu (h : Hart) (rd ra : Reg) (imm : BitVec 16) -- R96
  | ldD (h : Hart) (rd ra : Reg) (imm : BitVec 16) -- R99
  | ldfS (h : Hart) (rd ra : Reg) (imm : BitVec 16) -- R121
  | ldfD (h : Hart) (rd ra : Reg) (imm : BitVec 16) -- R96
  | vld (h : Hart) (rd ra : Reg) (imm : BitVec 16) -- R108
  | stB (h : Hart) (rd ra : Reg) (imm : BitVec 16) -- R96
  | stH (h : Hart) (rd ra : Reg) (imm : BitVec 16) -- R96
  | stW (h : Hart) (rd ra : Reg) (imm : BitVec 16) -- R96
  | stD (h : Hart) (rd ra : Reg) (imm : BitVec 16) -- R99
  | stfS (h : Hart) (rd ra : Reg) (imm : BitVec 16) -- R96
  | stfD (h : Hart) (rd ra : Reg) (imm : BitVec 16) -- R96
  | vst (h : Hart) (rd ra : Reg) (imm : BitVec 16) -- R108
  | ldx (h : Hart) (rd ra rb : Reg) (w : BitVec 3) (sh : BitVec 2) -- R97
  | stx (h : Hart) (rd ra rb : Reg) (w : BitVec 3) (sh : BitVec 2) (nt : Bool) -- R97
  | ldtg (h : Hart) (rd ra : Reg) (imm : BitVec 16) -- R100
  | pf (h : Hart) (hint ra : Reg) (imm : BitVec 16) -- R102
  | atomicSwap (h : Hart) (rd ra rb : Reg) (d : Bool) (ord : BitVec 2) -- R103
  | atomicAdd (h : Hart) (rd ra rb : Reg) (d : Bool) (ord : BitVec 2) -- R103
  | atomicAnd (h : Hart) (rd ra rb : Reg) (d : Bool) (ord : BitVec 2) -- R103
  | atomicOr (h : Hart) (rd ra rb : Reg) (d : Bool) (ord : BitVec 2) -- R103
  | atomicXor (h : Hart) (rd ra rb : Reg) (d : Bool) (ord : BitVec 2) -- R103
  | atomicMin (h : Hart) (rd ra rb : Reg) (d : Bool) (ord : BitVec 2) -- R103
  | atomicMax (h : Hart) (rd ra rb : Reg) (d : Bool) (ord : BitVec 2) -- R103
  | atomicMinu (h : Hart) (rd ra rb : Reg) (d : Bool) (ord : BitVec 2) -- R103
  | atomicMaxu (h : Hart) (rd ra rb : Reg) (d : Bool) (ord : BitVec 2) -- R103
  | atomicCas (h : Hart) (rd ra rb : Reg) (d : Bool) (ord : BitVec 2) -- R103
  | j (h : Hart) (off : BitVec 26) -- R87
  | call (h : Hart) (off : BitVec 26) -- R87
  | beq (h : Hart) (ra rb : Reg) (off : BitVec 16) -- R87
  | bne (h : Hart) (ra rb : Reg) (off : BitVec 16) -- R87
  | blt (h : Hart) (ra rb : Reg) (off : BitVec 16) -- R87
  | bge (h : Hart) (ra rb : Reg) (off : BitVec 16) -- R87
  | bltu (h : Hart) (ra rb : Reg) (off : BitVec 16) -- R87
  | bgeu (h : Hart) (ra rb : Reg) (off : BitVec 16) -- R87
  | jr (h : Hart) (ra : Reg) -- R88
  | callr (h : Hart) (ra : Reg) -- R88
  | ret (h : Hart) -- R88
  | loop (h : Hart) (lvl : BitVec 2) (rc : Reg) (off : BitVec 19) -- R90
  | mulw (h : Hart) (ra rb : Reg) -- R94
  | mulwu (h : Hart) (ra rb : Reg) -- R94
  | macw (h : Hart) (ra rb : Reg) -- R94
  | macwu (h : Hart) (ra rb : Reg) -- R94
  | fadd (h : Hart) (rd ra rb : Reg) (d : Bool) (rm : BitVec 3) -- R123
  | fsub (h : Hart) (rd ra rb : Reg) (d : Bool) (rm : BitVec 3) -- R123
  | fmul (h : Hart) (rd ra rb : Reg) (d : Bool) (rm : BitVec 3) -- R123
  | fdiv (h : Hart) (rd ra rb : Reg) (d : Bool) (rm : BitVec 3) -- R134
  | fsqrt (h : Hart) (rd ra : Reg) (d : Bool) (rm : BitVec 3) -- R134
  | fmin (h : Hart) (rd ra rb : Reg) (d : Bool) -- R130
  | fmax (h : Hart) (rd ra rb : Reg) (d : Bool) -- R130
  | fcopysign (h : Hart) (rd ra rb : Reg) (d : Bool) -- R129
  | fneg (h : Hart) (rd ra : Reg) (d : Bool) -- R129
  | fabs (h : Hart) (rd ra : Reg) (d : Bool) -- R129
  | fceq (h : Hart) (rd ra rb : Reg) (d : Bool) -- R130
  | fclt (h : Hart) (rd ra rb : Reg) (d : Bool) -- R130
  | fcle (h : Hart) (rd ra rb : Reg) (d : Bool) -- R130
  | fkind (h : Hart) (rd ra : Reg) (d : Bool) -- R123
  | fcvtF (h : Hart) (rd ra : Reg) (d : Bool) (rm : BitVec 3) -- R123
  | ftoiW (h : Hart) (rd ra : Reg) (d : Bool) (rm : BitVec 3) -- R131
  | ftoiWu (h : Hart) (rd ra : Reg) (d : Bool) (rm : BitVec 3) -- R131
  | ftoiL (h : Hart) (rd ra : Reg) (d : Bool) (rm : BitVec 3) -- R131
  | ftoiLu (h : Hart) (rd ra : Reg) (d : Bool) (rm : BitVec 3) -- R131
  | ffromiW (h : Hart) (rd ra : Reg) (d : Bool) (rm : BitVec 3) -- R131
  | ffromiWu (h : Hart) (rd ra : Reg) (d : Bool) (rm : BitVec 3) -- R131
  | ffromiL (h : Hart) (rd ra : Reg) (d : Bool) (rm : BitVec 3) -- R131
  | ffromiLu (h : Hart) (rd ra : Reg) (d : Bool) (rm : BitVec 3) -- R131
  | fmvTog (h : Hart) (rd ra : Reg) (d : Bool) -- R123
  | fmvFromg (h : Hart) (rd ra : Reg) (d : Bool) -- R132
  | fmadd (h : Hart) (rd ra rb rc : Reg) (d : Bool) (rm : BitVec 3) -- R124
  | fmsub (h : Hart) (rd ra rb rc : Reg) (d : Bool) (rm : BitVec 3) -- R124
  | fnmadd (h : Hart) (rd ra rb rc : Reg) (d : Bool) (rm : BitVec 3) -- R124
  | fnmsub (h : Hart) (rd ra rb rc : Reg) (d : Bool) (rm : BitVec 3) -- R124
  | vadd (h : Hart) (vd va vb : Reg) (ew : BitVec 3) -- R107
  | vsub (h : Hart) (vd va vb : Reg) (ew : BitVec 3) -- R107
  | vmul (h : Hart) (vd va vb : Reg) (ew : BitVec 3) -- R107
  | vmin (h : Hart) (vd va vb : Reg) (ew : BitVec 3) -- R107
  | vmax (h : Hart) (vd va vb : Reg) (ew : BitVec 3) -- R107
  | vminu (h : Hart) (vd va vb : Reg) (ew : BitVec 3) -- R107
  | vmaxu (h : Hart) (vd va vb : Reg) (ew : BitVec 3) -- R107
  | vand (h : Hart) (vd va vb : Reg) (ew : BitVec 3) -- R107
  | vor (h : Hart) (vd va vb : Reg) (ew : BitVec 3) -- R107
  | vxor (h : Hart) (vd va vb : Reg) (ew : BitVec 3) -- R107
  | vandn (h : Hart) (vd va vb : Reg) (ew : BitVec 3) -- R107
  | vshl (h : Hart) (vd va vb : Reg) (ew : BitVec 3) -- R107
  | vshr (h : Hart) (vd va vb : Reg) (ew : BitVec 3) -- R107
  | vsra (h : Hart) (vd va vb : Reg) (ew : BitVec 3) -- R107
  | vcmpeq (h : Hart) (vd va vb : Reg) (ew : BitVec 3) -- R107
  | vcmplt (h : Hart) (vd va vb : Reg) (ew : BitVec 3) -- R107
  | vcmpltu (h : Hart) (vd va vb : Reg) (ew : BitVec 3) -- R107
  | vperm (h : Hart) (vd va vb : Reg) -- R107
  | vred (h : Hart) (vd va : Reg) (ew : BitVec 3) -- R107
  | vbcast (h : Hart) (vd ra : Reg) (ew : BitVec 3) -- R108
  | vext (h : Hart) (rd va idx : Reg) (ew : BitVec 3) -- R108
  | vins (h : Hart) (vd ra idx : Reg) (ew : BitVec 3) -- R108
  | vfadd (h : Hart) (vd va vb : Reg) (d : Bool) -- R125
  | vfsub (h : Hart) (vd va vb : Reg) (d : Bool) -- R125
  | vfmul (h : Hart) (vd va vb : Reg) (d : Bool) -- R125
  | vfmin (h : Hart) (vd va vb : Reg) (d : Bool) -- R125
  | vfmax (h : Hart) (vd va vb : Reg) (d : Bool) -- R125
  | vfceq (h : Hart) (vd va vb : Reg) (d : Bool) -- R125
  | vfclt (h : Hart) (vd va vb : Reg) (d : Bool) -- R125
  | vfcle (h : Hart) (vd va vb : Reg) (d : Bool) -- R125
  | vftoi (h : Hart) (vd va : Reg) (d : Bool) -- R125
  | vffromi (h : Hart) (vd va : Reg) (d : Bool) -- R125
  | vfneg (h : Hart) (vd va : Reg) (d : Bool) -- R125
  | vfabs (h : Hart) (vd va : Reg) (d : Bool) -- R125
  | vfma (h : Hart) (vd va vb vc : Reg) (d : Bool) -- R107
  | vsel (h : Hart) (vd va vb vm : Reg) -- R107
  | mfs (h : Hart) (rd : Reg) (sys : BitVec 12) -- R62
  | mts (h : Hart) (sys : BitVec 12) (ra : Reg) -- R110
  | mtsLk (h : Hart) (ra : Reg) -- R110
  | mtsFcsr (h : Hart) (ra : Reg) -- R127
  | mtsCtxPredkey (h : Hart) (ra : Reg) -- R152
  | mtsCtxTagctl (h : Hart) (ra : Reg) -- R66
  | mtsCtxTiming (h : Hart) (ra : Reg) -- R135
  | mtsCachecfg (h : Hart) (ra : Reg) -- R201
  | mtsLoopRegister (h : Hart) (k : LoopReg) (ra : Reg) -- R93
  | mtsPwrctl (h : Hart) (ra : Reg) -- R474
  | mtsPmuSnap (h : Hart) (ra : Reg) -- R538
  | mtsCounter (h : Hart) (k : CounterReg) (ra : Reg) -- R531
  | tset (h : Hart) (rd ra : Reg) (ty : BitVec 3) -- R111
  | tget (h : Hart) (rd ra : Reg) -- R64
  | ecall (h : Hart) -- R109
  | ebreak (h : Hart) -- R109
  | eret (h : Hart) -- R112
  | wfi (h : Hart) -- R112
  | fence (h : Hart) -- R224
  | fenceSl (h : Hart) -- R224
  | fenceNt (h : Hart) -- R224
  | fenceIo (h : Hart) -- R224
  | syncIo (h : Hart) (bad : List SyncAnswer) -- R227
  | isync (h : Hart) -- R113
  | tlbw (h : Hart) (ra : Reg) -- R178
  | tlbiAll (h : Hart) (b : Bool) -- R185
  | tlbiAsid (h : Hart) (ra : Reg) (b : Bool) -- R185
  | tlbiVa (h : Hart) (ra : Reg) (b : Bool) -- R185
  | tlbiVaAll (h : Hart) (ra : Reg) (b : Bool) -- R185
  | tlbiNonglobal (h : Hart) (b : Bool) -- R185
  | walk (h : Hart) (rd ra : Reg) (intent : BitVec 2) -- R180
  | tlbr (h : Hart) (rd ra : Reg) -- R179
  | dcz (h : Hart) (ra : Reg) -- R203
  | clean (h : Hart) (rd ra rb : Reg) (sc : Scope) -- R204
  | inval (h : Hart) (rd ra rb : Reg) (sc : Scope) -- R204
  | clinv (h : Hart) (rd ra rb : Reg) (sc : Scope) -- R204
  | lockld (h : Hart) (rd ra rb : Reg) (sc : Scope) -- R212
  | unlock (h : Hart) (ra : Reg) (lvl : BitVec 2) -- R213
  | storeBufferWrite (h : Hart) -- R146
  | storeAddressReexec (h : Hart) (pc : Word) -- R148
  | loadWaitClear (n : Nat) -- R148
  | ntLineLeave (h : Hart) -- R150
  | safePointReached (n line : Nat) -- R156
  | tlbiShootdown (t : TlbTarget) (from_ : Nat) -- R187
  | ioTlbiAckTimeout (n : Nat) -- R188
  | ioTranslationWalk (t : TlbTarget) (stream : Nat) (va : Word) (store : Bool) -- R190
  | deviceLoadTimeout (h : Hart) -- R226
  | postedWriteDrop (pe port src addr : Nat) -- R228
  | flitUncorrectable (router dir net_ : Nat) (wire : FlitErr) (fails : Nat) -- R237: the link of a network into a router's port, what is found, resends that have failed
  | rdshared (q : ReqFlit) -- R252
  | rdunique (q : ReqFlit) -- R252
  | upgrade (q : ReqFlit) -- R252
  | claimzero (q : ReqFlit) -- R252
  | rdnt (q : ReqFlit) -- R256
  | rdonce (q : ReqFlit) -- R252
  | wrback (q : ReqFlit) -- R258
  | evictclean (q : ReqFlit) -- R249
  | wrptl (q : ReqFlit) -- R262
  | wrline (q : ReqFlit) -- R262
  | atomfar (q : ReqFlit) -- R261
  | cmoclean (q : ReqFlit) -- R252
  | cmoinval (q : ReqFlit) -- R252
  | cmoclinv (q : ReqFlit) -- R252
  | lockldRequest (q : ReqFlit) -- R212
  | rddev (q : ReqFlit) -- R225
  | wrdev (q : ReqFlit) -- R225
  | atomdev (q : ReqFlit) -- R104
  | msg (q : ReqFlit) (b : MsgBody) -- R243
  | snpshared (q : SnpFlit) -- R257
  | snpunique (q : SnpFlit) -- R257
  | snpinval (q : SnpFlit) -- R257
  | snpclean (q : SnpFlit) -- R257
  | snpcleaninval (q : SnpFlit) -- R257
  | snpbackinval (q : SnpFlit) -- R255
  | snponce (q : SnpFlit) -- R257
  | memrd (q : SnpFlit) (e : BurstErr) -- R277
  | memwr (q : SnpFlit) (e : BurstErr) -- R283
  | memrdnt (q : SnpFlit) (e : BurstErr) -- R277
  | ack (q : RspFlit) -- R250
  | comp (q : RspFlit) -- R243
  | grant (q : RspFlit) -- R243
  | dbgo (q : RspFlit) -- R258
  | retry (q : RspFlit) -- R247
  | requestReissue (src txid : Nat) -- R247
  | refuse (q : RspFlit) -- R155
  | accept (q : RspFlit) -- R225
  | rspi (q : RspFlit) -- R257
  | rsps (q : RspFlit) -- R257
  | rspievict (q : RspFlit) -- R257
  | rspwbpend (q : RspFlit) -- R258
  | memcomp (q : RspFlit) -- R262
  | datas (q : DatFlit) -- R243
  | datae (q : DatFlit) -- R243
  | datam (q : DatFlit) -- R243
  | dataec (q : DatFlit) -- R263
  | datamc (q : DatFlit) -- R263
  | datant (q : DatFlit) -- R154
  | dataonce (q : DatFlit) -- R243
  | devdata (q : DatFlit) -- R225
  | snpdataclean (q : DatFlit) -- R252
  | snpdatadirty (q : DatFlit) -- R252
  | wbdata (q : DatFlit) -- R258
  | wrdata (q : DatFlit) -- R262
  | atomopnd (q : DatFlit) -- R261
  | atomresult (q : DatFlit) -- R261
  | atomresultc (q : DatFlit) -- R263
  | memdata (q : DatFlit) -- R277
  | routeTableWrite (tab : List (Nat × Nat)) -- R266
  | routeSwitch (t : Nat) -- R266
  | epochDrainLatch -- R267
  | refresh (ch rank : Nat) -- R272
  | dimmTemperature (ch : DimmAt) (temp : Nat) -- R272
  | caParityError (ch : Nat) (ok : Bool) (rank : Nat) (lines : Touched) -- R272
  | patrolScrub (line : Nat) (tag : Bool) (e : BurstErr) (written : Bool) -- R289
  | scrubPeriodEnd (ch : Nat) (done : Bool) -- R289
  | flipMaskFired (idx sub : Nat) -- R294
  | powerUp (b : BootIn) -- R580
  | stageBoundExceeded -- R580
  | enclosureReset (e : Nat) (img : List Byte) -- R312
  | attestReq (e : Nat) (nonce : List Byte) (addr : Nat) -- R318
  | nonceExpiry -- R321
  | debugSessionEnd (k : Nat) -- R321
  | rmaTransition (signed : Bool) -- R324
  | sqTail (q : ReqFlit) -- R336
  | cqHead (q : ReqFlit) -- R336
  | queueEnable (q : ReqFlit) -- R334
  | queueDisable (q : ReqFlit) -- R335
  | journalRecordFree (opid : Nat) -- R336
  | coalesceTimeout (kind e slot : Nat) -- R340
  | featuresOk (q : ReqFlit) -- R344
  | channelReset (q : ReqFlit) -- R346
  | start (subch : Nat) -- R355
  | resume (subch : Nat) -- R355
  | halt (subch : Nat) -- R356
  | clear (subch : Nat) -- R355
  | test (subch : Nat) -- R355
  | commandSend (opid : Nat) -- R390
  | responseTimerExpiry (opid : Nat) -- R369
  | operationDeadline (opid : Nat) -- R357
  | pathFailure (opid : Nat) -- R350
  | pathRecover (subch path : Nat) -- R350
  | engineHeartbeatMiss (n : Nat) -- R361
  | engineTakeover (n : Nat) -- R365
  | endingSwap (opid : Nat) -- R363
  | portCfg (port : Nat) (v : Word) -- R376
  | linkUp (port speed : Nat) (fec : Bool) -- R373
  | linkDown (port : Nat) -- R376
  | frameDiscard (port : Nat) (f : QctFrame) -- R378
  | openAck (port : Nat) (f : QctFrame) -- R379
  | data (port : Nat) (f : QctFrame) -- R391
  | rsp (port : Nat) (f : QctFrame) -- R391
  | ackf (port : Nat) (f : QctFrame) -- R382
  | nak (port : Nat) (f : QctFrame) -- R383
  | close (port : Nat) (f : QctFrame) -- R379
  | retransmissionTimeout (port node : Nat) -- R383
  | keepaliveExpiry (port node : Nat) -- R379
  | ackTimer (port node : Nat) -- R382
  | receiveBufferFree (port : Nat) -- R385
  | qctNodeWrite (sub : Nat) (v : Word) -- R380
  | cancelComplete (opid : Nat) -- R393
  | endSend (port node : Nat) -- R394
  | compress (n : Nat) -- R408
  | decompress (n : Nat) -- R414
  | gcmEnc (n : Nat) -- R417
  | gcmDec (n : Nat) -- R418
  | xtsEnc (n : Nat) -- R417
  | xtsDec (n : Nat) -- R417
  | ctr (n : Nat) -- R417
  | hash (n : Nat) -- R417
  | hmac (n : Nat) -- R417
  | hmacVerify (n : Nat) -- R418
  | sign (n : Nat) -- R417
  | verify (n : Nat) -- R418
  | ecdh (n : Nat) -- R417
  | kemEncaps (n : Nat) -- R417
  | kemDecaps (n : Nat) -- R417
  | keygen (n : Nat) -- R424
  | derive (n : Nat) -- R417
  | wrap (n : Nat) -- R427
  | unwrap (n : Nat) -- R427
  | destroy (n : Nat) -- R422
  | holPublic (n : Nat) -- R417
  | random (n : Nat) -- R429
  | acceleratorEngineFailed (unit reason : Nat) -- R404
  | drbgReseed (n e : Nat) -- R429
  | entropySourceFail (die test : Nat) -- R430
  | errorRecord (k : Nat) -- R437
  | checkerError (n : Nat) (e : CheckErr) -- R441
  | arrayError (code unit set way line : Nat) (words : List Nat) (syn : Nat) (ue : Bool) -- R446
  | coreFailover (n : Nat) (ok : Bool) -- R448
  | coreLost (n reason : Nat) -- R451
  | tileHeartbeatMiss (t : Nat) -- R457
  | drainTimeout (t : Nat) -- R457
  | zombie (t net_ : Nat) -- R459
  | sliceSubstitution (p : Nat) -- R460
  | sliceTransferComplete (p : Nat) -- R461
  | rasForceCoreFailover (n : Nat) -- R466
  | rasForceSliceSubstitution (p : Nat) -- R466
  | rasForceEngineFailure (unit : Nat) -- R466
  | fltRing (e : Nat) (v : Word) -- R438
  | fltHead (e : Nat) (v : Word) -- R438
  | inputSample (v : Nat) -- R487
  | emergencySaveAndStop (cause value : Nat) -- R488
  | thermalTrip (die : Nat) -- R579
  | powerLimitCheck (avg v amps : Nat) -- R472
  | thermalLimit (die : Nat) (temp : Int) -- R472
  | diDtGuard (die : Nat) (on : Bool) -- R470
  | oppVoltageReached (n : Nat) -- R474
  | cs3DelayExpiry (n : Nat) -- R476
  | pkDwellExpiry (k : Nat) -- R479
  | handshakeAccept (key unit : Nat) -- R481
  | handshakeDelay (key unit d : Nat) -- R481
  | handshakeRefuse (key unit reason : Nat) -- R482
  | handshakeTimeout (key unit : Nat) -- R481
  | wakeSource (src unit core : Nat) -- R486
  | cs3Exit (n : Nat) (ok : Bool) -- R477
  | boxStart (v : Nat) (cal ref bad0 bad1 : Bool) -- R497
  | boxUpdate (e v amps : Nat) (rev : Bool) -- R494
  | commitPeriodic -- R496
  | supplyFail (v : Nat) -- R496
  | boxUnseal (go : Bool) -- R501
  | boxLoad (img : BoxImage) (go : Bool) -- R501
  | boxSeal (go : Bool) -- R501
  | maintReleased -- R503
  | read (f : SdpFrame) -- R512
  | write (f : SdpFrame) (x : SvcIn) -- R512
  | info (f : SdpFrame) -- R518
  | enrolSlot0 (f : SdpFrame) -- R302
  | enrolSlot (f : SdpFrame) (x : SvcIn) -- R302
  | revokeSlot (f : SdpFrame) (x : SvcIn) -- R302
  | nonceRequest (f : SdpFrame) -- R321
  | token (jtag : Bool) (f : SdpFrame) (x : SvcIn) -- R321
  | releaseToken (f : SdpFrame) (x : SvcIn) -- R321
  | segment (svc : Nat) (f : SdpFrame) (x : SvcIn) -- R511
  | stagingTimeout (port : Nat) -- R511
  | heartbeat -- R512
  | busOff (port : Nat) (off : Bool) (tec rec_ : Nat) -- R506
  | mailboxRead (e m : Nat) -- R521
  | mailboxWrite (e m : Nat) (img : List Byte) -- R521
  | mailboxInfo (e m : Nat) -- R521
  | modReset (x : Straps) -- R582
  | counterOverflow (n k : Nat) -- R533
  | bandwidthWindowEnd -- R536
  | snapshotLatch (e : Nat) -- R539
  | inboundDmaWrite (pe rid : Nat) (ep : Bool) (va : Word) (bs : List Byte) -- R548
  | inboundDmaRead (pe rid tag : Nat) (va : Word) (len : Nat) -- R548
  | inboundAtomicop (pe rid tag op len : Nat) (va opnd expd : Word) -- R548
  | msi (pe rid data : Nat) -- R550
  | pcieCompletion (pe tag : Nat) (ok : Bool) (data : Nat) -- R545
  | completionTimeout (pe tag : Nat) -- R545
  | pcieLinkDown (pe port : Nat) (lost : List (Nat × Nat)) -- R228
  | streamEnable (q : ReqFlit) -- R547
  | setpend (q : ReqFlit) -- R552
  | claim (q : ReqFlit) -- R553
  | complete (q : ReqFlit) -- R553
  | timerPending (n : Nat) -- R552
  | linkTraining (link : Nat) (ok : Bool) (peer : Nat) (layout : Bool) (master : Option (Nat × Nat)) (delay : Nat) -- R556
  | linkFlit (link : Nat) (crcOk : Bool) (ty seq ack : Nat) (slots : List Slot) -- R559
  | replayRequest (link seq : Nat) -- R559
  | credit (link a b c d : Nat) -- R558
  | groupResume (link failed seq : Nat) -- R560
  | socketLinkDown (link : Nat) -- R560
  | modRstN (x : Straps) -- R578
  | inputStartThreshold (x : Straps) -- R580
  | illegalInstruction (h : Hart) (w : BitVec 32) -- R79
  | debugRequest (r : DbgReq) -- R320
  | boxMaintNLow -- R501
  | aerErrorMessage (pe port : Nat) (uncor : Bool) -- R541
deriving DecidableEq, Repr

end Sys2Proof
end

