-- ==== Sys2Proof/Config.lean ====
section
/-! DEFINITION. What the spec leaves open: free values and uninterpreted functions, with no body. -/

namespace Sys2Proof.Config

/-- The k-th free value, any natural number: what the spec leaves undefined takes it reduced to its width (log 2). -/
opaque free : Nat → Nat

/-- What a byte reads as after its key was replaced: key generation, line number, byte offset, old byte (11 R298, log 7). -/
opaque scrambled : Nat → Nat → Nat → BitVec 8 → BitVec 8

/-- A published algorithm the spec names and does not restate, by name: inputs as octets to outputs as octets (log 8). -/
opaque standard : String → List (List (BitVec 8)) → List (BitVec 8)

/-- The octets of a stored document (certificates, images) that the spec does not list, by name (log 8). -/
opaque document : String → List (BitVec 8)

/-- What an octet of a log record reads as once an array error has destroyed it: ring position of the log, offset (16 Table 16.5, log 32). -/
opaque lostOctet : Nat → Nat → BitVec 8

/-- The hash that indexes and tags a predictor table or the load-wait table, and picks its bits: table, branch or load address, global history,
key and privilege level (06 R148, R151, log 92). -/
opaque predHash : Nat → BitVec 64 → List Bool → BitVec 64 → Nat → Nat

/-- The keystream under which targets are stored, from key and privilege level (06 R151, log 92). -/
opaque predStream : BitVec 64 → Nat → BitVec 64

/-- The base of the module's block of MAC addresses, fused at manufacture (22 R569). -/
opaque macBase : Nat

end Sys2Proof.Config
end

