-- ==== Sys2Proof/Machine/Bits.lean ====
section
/-! DEFINITION. Bit fields, sign extension, byte order and the tree pseudo-LRU of 08 R197. -/

namespace Sys2Proof.Machine

/-- Bits hi:lo of a number (00 R6). -/
def nbits (w hi lo : Nat) : Nat := (w >>> lo) % 2 ^ (hi + 1 - lo)

/-- Bits hi:lo of a word (00 R6). -/
def fld {n : Nat} (w : BitVec n) (hi lo : Nat) : Nat := nbits w.toNat hi lo

/-- One bit of a word. -/
def flag {n : Nat} (w : BitVec n) (i : Nat) : Bool := w.toNat.testBit i

/-- A word with bits hi:lo replaced. -/
def setFld (w : Word) (hi lo v : Nat) : Word :=
  BitVec.ofNat 64 (w.toNat - (nbits w.toNat hi lo <<< lo) + ((v % 2 ^ (hi + 1 - lo)) <<< lo))

/-- A word with one bit replaced. -/
def setBit (w : Word) (i : Nat) (b : Bool) : Word := setFld w i i b.toNat

/-- Sign extension of the low `k` bits of a number to a word (04 R80). -/
def sext (k v : Nat) : Word := (BitVec.ofNat k v).signExtend 64

/-- The low `k` octets of a number, least significant first (00 R7). -/
def leBytes : Nat → Nat → List Byte
  | 0, _ => []
  | k + 1, v => BitVec.ofNat 8 v :: leBytes k (v >>> 8)

/-- The number whose octets, least significant first, are given (00 R7). -/
def leNat : List Byte → Nat
  | [] => 0
  | b :: bs => b.toNat + (leNat bs <<< 8)

/-- A truth value as a word. -/
def ofBool (b : Bool) : Word := if b then 1 else 0

/-- A word's eight octets in reverse (BSWAP). -/
def bswap (w : Word) : Word := BitVec.ofNat 64 (leNat (leBytes 8 w.toNat).reverse)

/-- Number of ones among the low `k` bits. -/
def popcount (w : Nat) : Nat → Nat
  | 0 => 0
  | k + 1 => (w.testBit k).toNat + popcount w k

/-- Leading zeros of the low `k` bits. -/
def clz (w : Nat) : Nat → Nat
  | 0 => 0
  | k + 1 => if w.testBit k then 0 else 1 + clz w k

/-- Trailing zeros from bit `i`, looking at `k` bits. -/
def ctz (w i : Nat) : Nat → Nat
  | 0 => 0
  | k + 1 => if w.testBit i then 0 else 1 + ctz w (i + 1) k

/-! ### Tree pseudo-LRU (08 R197): bit `node` of `tree` is 1 when the node points to its upper half; the root is node 1. -/

/-- Update a tree of `2^k` ways so that every node on the path to way `w` points away from it. -/
def treeTouch (w : Nat) : Nat → Nat → Nat → Nat
  | 0, _, tree => tree
  | k + 1, node, tree =>
    let up := w.testBit k
    let cleared := if tree.testBit node then tree - 2 ^ node else tree
    treeTouch w k (2 * node + up.toNat) (if up then cleared else cleared + 2 ^ node)

/-- Whether some way in `[base, base + n)` is eligible. -/
def anyWay (elig : Nat → Bool) (base n : Nat) : Bool := (List.range n).any (fun i => elig (base + i))

/-- The way the tree points to among eligible ways: the victim choice of R197 when no eligible way is invalid. -/
def treeVictim (elig : Nat → Bool) (tree : Nat) : Nat → Nat → Nat → Nat
  | 0, _, base => base
  | k + 1, node, base =>
    let side := tree.testBit node
    let half := 2 ^ k
    let sb := if side then base + half else base
    let side' := if anyWay elig sb half then side else !side
    treeVictim elig tree k (2 * node + side'.toNat) (if side' then base + half else base)

end Sys2Proof.Machine
end

