-- ==== Sys2Proof/Machine/Maps.lean ====
section
/-! DEFINITION. Sparse data by key: a list of key and value pairs in one canonical form. -/

namespace Sys2Proof.Machine

/-- A sparse table: pairs of key and value, keys strictly rising, no entry equal to what an unlisted key reads as. -/
abbrev FMap (α : Type) := List (Nat × α)

variable {α : Type}

/-- The value listed under a key. -/
def mFind : FMap α → Nat → Option α
  | [], _ => none
  | (k, v) :: m, n => if k = n then some v else mFind m n

/-- The value under a key, with `d` for what is not listed. -/
def mGet (d : α) (m : FMap α) (n : Nat) : α := (mFind m n).getD d

/-- List a value under a key, in key order. -/
def mIns : FMap α → Nat → α → FMap α
  | [], n, v => [(n, v)]
  | (k, w) :: m, n, v =>
    if n < k then (n, v) :: (k, w) :: m else if n = k then (n, v) :: m else (k, w) :: mIns m n v

/-- Unlist a key. -/
def mDel : FMap α → Nat → FMap α
  | [], _ => []
  | (k, w) :: m, n => if k = n then mDel m n else (k, w) :: mDel m n

/-- Write a value under a key whose unlisted reading is `d`: writing `d` unlists it. -/
def mPut [DecidableEq α] (d : α) (m : FMap α) (n : Nat) (v : α) : FMap α :=
  if v = d then mDel m n else mIns m n v

/-- Every key of `m` is at least `n` and the keys rise strictly. -/
def mSortedFrom : Nat → FMap α → Bool
  | _, [] => true
  | n, (k, _) :: m => decide (n ≤ k) && mSortedFrom (k + 1) m

/-- The canonical form with unlisted reading `d`: keys strictly rising, no entry equal to `d`. -/
def mWf [DecidableEq α] (d : α) (m : FMap α) : Bool :=
  mSortedFrom 0 m && m.all (fun e => decide (e.2 ≠ d))

/-- The lowest key at or above `n` and below `n + fuel` that is not listed. -/
def mFree (m : FMap α) : Nat → Nat → Option Nat
  | 0, _ => none
  | fuel + 1, n => if (mFind m n).isNone then some n else mFree m fuel (n + 1)

end Sys2Proof.Machine
end

