-- ==== Sys2Proof/Machine/State.lean ====
section
/-! DEFINITION. The state of the block, as plain data, and its value at reset. -/

namespace Sys2Proof.Machine

/-! ## The Nefen core and the Privet engine (03) -/

/-- Privilege levels (03 Table 3.1). -/
inductive Level where
  | u
  | s
  | m
deriving DecidableEq, Repr

/-- The tag types that a register holds (03 Table 3.6a); codes 5 and 6 never appear in a register. -/
inductive Tag where
  | data
  | dptr
  | cptr
  | link
  | hndl
  | pois
deriving DecidableEq, Repr

/-- A tagged 64-bit value (03 R60). -/
structure GVal where
  v : Word
  t : Tag
deriving DecidableEq, Repr

/-- What a core or engine is doing (03 R59, R70; 04 R112; 16 R448, R451; 17 Table 17.3). -/
inductive RunState where
  | unpowered
  | gated
  | running
  | wfi
  | cs3
  | faultStop
  | failover
  | lost
deriving DecidableEq, Repr

/-- A store-buffer entry (06 R146): one store's bytes within one line. -/
structure SbEntry where
  pa : Nat
  bytes : List Byte
  /-- the tag of an aligned full-word store; none for a narrow store (03 Table 3.7) -/
  tag : Option Tag
  /-- DCZ (08 R203): 64 zero octets and eight DATA tags -/
  dcz : Bool
  /-- NT store (06 R150) -/
  nt : Bool
  /-- store to device space or a PCIe window (09 R225) -/
  dev : Bool
  /-- the translated virtual page number, for the acknowledgement of 07 R187 -/
  va : Word
  pc : Word
deriving DecidableEq, Repr

/-- A line of the non-temporal combining buffer (06 R150): byte values and full-word tags by offset in the line. -/
structure NtLine where
  line : Nat
  bytes : FMap Byte
  tags : FMap Tag
  /-- it has left the buffer and is not yet accepted at its home -/
  leaving : Bool := false
deriving DecidableEq, Repr

/-- A TLB entry (07 Tables 7.8, 7.9). -/
structure TlbEntry where
  vpn : Nat
  asid : Nat
  ppn : Nat
  cont : Nat
  d : Bool
  g : Bool
  u : Bool
  x : Bool
  w : Bool
  r : Bool
deriving DecidableEq, Repr

/-- A set of ways with its pseudo-LRU tree (08 R197). -/
structure PSet (α : Type) where
  ways : FMap α := []
  tree : Nat := 0
deriving DecidableEq, Repr

/-- The destination of an access a core waits for. -/
structure LoadDst where
  rd : Reg
  size : Nat
  sext : Bool
  va : Word
deriving DecidableEq, Repr

/-- What a core waits for before its oldest instruction can complete. -/
inductive Wait where
  | none
  /-- a device load (09 R225): physical address, target unit, deadline in stamp ticks (09 R226), transaction -/
  | devLoad (pa unit deadline tx : Nat) (dst : LoadDst)
  /-- an atomic to device space (04 R104) -/
  | devAtomic (pa unit deadline tx : Nat) (dst : LoadDst)
  /-- an atomic at the home slice (10 R261): its operation, width and operands -/
  | farAtomic (pa op : Nat) (d : Bool) (b exp : GVal) (dst : LoadDst)
  /-- a broadcast TLBI (07 R186): the targets that have not acknowledged, the form and its operands, and its stamp (07 R188) -/
  | tlbi (targets : List TlbTarget) (form : Nat) (va : Word) (asid : Nat) (at_ : Nat)
  /-- a WALK whose leaf is being marked at its home (07 R183): the leaf's address and the value read, and the instruction's operands -/
  | mark (pa : Nat) (leaf : Word) (rd ra : Reg) (intent : BitVec 2)
  /-- a cache operation by address or range (08 R207, R208): its code, the line after the last one sent, the lines still to send, how many were
  processed, the stamp at which it began, the translations of its pages, and for a range its destination, base and length -/
  | cmo (op : Nat) (next : Word) (left done at_ : Nat) (pages : List (Word × Nat)) (range : Option (Reg × Word × Word))
deriving DecidableEq, Repr

/-- An entry of the branch target buffer or of the indirect predictor (06 R151): a tag, and the target as it is stored, encrypted. -/
structure TargetEntry where
  tag : Nat
  enc : Word
deriving DecidableEq, Repr

/-- An entry of a direction table (06 R138, R151): a tag and a counter, taken from 4 up. -/
structure DirEntry where
  tag : Nat
  ctr : Nat
deriving DecidableEq, Repr

/-- The branch predictors of a core (06 Table 6.2, R151): target buffer, six direction tables by table × 2,048 + index, indirect
predictor, and the global history, newest first. -/
structure Predictor where
  btb : FMap (PSet TargetEntry) := []
  dir : FMap DirEntry := []
  ind : FMap TargetEntry := []
  hist : List Bool := []
deriving DecidableEq, Repr

/-- Where a load that executed ahead of retirement took its line from (06 R154). -/
inductive EarlyFrom where
  | l1d
  | shadow
  | stores
deriving DecidableEq, Repr

/-- A load executed before it is the oldest instruction (06 R148, R149, R156): its physical address and width, and its source. -/
structure Early where
  pa : Nat
  n : Nat
  from_ : EarlyFrom
deriving DecidableEq, Repr

/-- An instruction fetched and not yet retired (06 R138, R161): what it is and where it was fetched, the address predicted to follow it and
the global history before it, whether a branch has resolved in EX and was mispredicted, what a load did ahead of retirement, and the stamp at
which the oldest was last held. -/
structure WinEntry where
  i : Instr
  pc : Word
  pred : Word
  hist : List Bool := []
  resolved : Bool := false
  missed : Bool := false
  early : Option Early := Option.none
  heldAt : Option Nat := Option.none
deriving DecidableEq, Repr

/-- A product not yet visible on a Privet engine (03 R75): the value and how many instructions followed the multiply. -/
structure Product where
  hi : Word
  lo : Word
  age : Nat
deriving DecidableEq, Repr

/-- One Nefen core (03 R60) or Privet engine (03 R74). -/
structure Cpu where
  g : FMap GVal := []
  lk : GVal := ⟨0, .data⟩
  f : FMap Word := []
  v : FMap (BitVec 256) := []
  ls : FMap Word := []
  le : FMap Word := []
  lc : FMap Word := []
  ph : Word := 0
  pl : Word := 0
  pc : Word := 0
  level : Level := .m
  /-- system registers by number, but those under fields of their own -/
  sys : FMap Word := []
  run : RunState := .unpowered
  /-- halted by a D1 or D2 session (12 R326); halting again after the instruction under way; past the breakpoint at its PC -/
  halted : Bool := false
  stepping : Bool := false
  passed : Bool := false
  wait : Wait := .none
  /-- device accesses that completed in the tick of their deadline: that tick, address and unit (02 R54) -/
  ended : List (Nat × Nat × Nat) := []
  /-- machine checks pending, by SEQ (16 R440) -/
  mcheck : List Nat := []
  /-- I/O barrier error pending: the address of the SYNC.IO (09 R229) -/
  iobar : Option Word := Option.none
  /-- interrupts delivered and pending: M level and S level (03 R72) -/
  irqM : Bool := false
  irqS : Bool := false
  sb : List SbEntry := []
  nt : List NtLine := []
  /-- device stores sent and not accepted (09 R225): their number, and the transaction, unit and address of each -/
  devSent : Nat := 0
  devOut : List (Nat × Nat × Nat) := []
  /-- device accesses sent so far: the next one's transaction number -/
  devTx : Nat := 0
  /-- targets that accepted a device store since the last SYNC.IO, with the last store's address (09 R227) -/
  devUnits : FMap Nat := []
  /-- return stack, top first (06 R153) -/
  rstack : List Word := []
  pred : Predictor := {}
  /-- the instructions fetched behind the one that is waited for, oldest first (06 R138) -/
  win : List WinEntry := []
  /-- load-wait bits that are set, of 1,024 (06 R148) -/
  loadWait : List Nat := []
  /-- contention counters (10 R263) -/
  contend : FMap Nat := []
  itlb : PSet TlbEntry := {}
  dtlb : FMap TlbEntry := []
  /-- the trees of the three DTLB groups and the groups, most recent first (07 R173) -/
  dtrees : FMap Nat := []
  dorder : List Nat := [0, 1, 2]
  l2tlb : FMap (PSet TlbEntry) := []
  wired : FMap TlbEntry := []
  /-- compares of the WALK under way that failed (07 R183) -/
  walkTries : Nat := 0
  mulq : List Product := []
  retries : Nat := 0
  /-- retries that succeeded in the hour window (16 R445): the window and the count -/
  hourWin : Nat := 0
  hourRetries : Nat := 0
  /-- operating point in force, and the limits upon it (17 R474) -/
  opp : Nat := 0
  /-- the point that a rising voltage moves toward (17 R475) -/
  moving : Option Nat := Option.none
  powerLim : Nat := 0
  thermalLim : Nat := 0
  /-- stamp at which CS1 was entered (17 R476) -/
  cs1At : Nat := 0
  /-- the enclosure whose channel operation a Privet engine works on (13 R353): the stream of its translations -/
  stream : Option Nat := Option.none
  /-- a translation of the engine failed: its operation is to end (03 R77) -/
  opFail : Bool := false
  /-- a Privet engine declared failed (13 R361) -/
  failed : Bool := false
deriving DecidableEq, Repr

/-! ## Memory and caches (08, 10, 11) -/

/-- A line's octets and its eight tag codes. -/
structure Line where
  data : BitVec 512
  tags : BitVec 32
deriving DecidableEq, Repr

/-- The coherent memory (09 R217) with what lies beneath dirty copies. -/
structure Mem where
  /-- octets by physical address -/
  bytes : List Host.Cell := []
  /-- tag codes by word (physical address div 8), 11 R276 -/
  tags : FMap (BitVec 4) := []
  /-- by line: the L2's copy beneath a dirty L1D line, the LLC's or memory's beneath a dirty L2 line, memory's beneath a dirty LLC sector (08 R204, R206) -/
  under1 : FMap Line := []
  under2 : FMap Line := []
  under3 : FMap Line := []
  /-- key generation of a granule and of a line's ciphertext (11 R298) -/
  keyGen : FMap Nat := []
  lineGen : FMap Nat := []
  /-- granules whose enclosure has no key (15 R431), and no key at all (15 R431, 12 R324) -/
  noKey : FMap Bool := []
  noKeys : Bool := false
  /-- Privet local memory, by engine × 0x40000 + address (03 Table 3.14) -/
  loc : FMap Byte := []
  locTags : FMap (BitVec 4) := []
deriving DecidableEq, Repr

/-- MOESI states of an L2 line (08 Table 8.2). -/
inductive L2State where
  | m
  | o
  | e
  | s
deriving DecidableEq, Repr

/-- An L2 entry. -/
structure L2Entry where
  line : Nat
  st : L2State
deriving DecidableEq, Repr

/-- An L1 entry: line and dirty bit (08 R198). -/
structure L1Entry where
  line : Nat
  dirty : Bool
deriving DecidableEq, Repr

/-- An eviction that awaits Comp (10 Table 10.10, R258): a write-back when `dirty`, otherwise an eviction notice. -/
structure WbEntry where
  line : Nat
  dirty : Bool
  txid : Nat
  /-- snoops answered RspWbPend whose DbGo has not come: home unit and HTXID -/
  snooped : List (Nat × Nat) := []
  /-- the data was sent; Comp was received -/
  sent : Bool := false
  comp : Bool := false
deriving DecidableEq, Repr

/-- A shadow fill buffer entry (06 R154-R158): the line, what a non-tracking read delivered, whether the read has been answered, whether the
entry holds the tracked line and in which state, whether it was taken from the L2, and whether it is dead with its read still in flight. -/
structure Shadow where
  line : Nat
  data : BitVec 512 := 0
  tags : BitVec 32 := 0
  filled : Bool := false
  /-- the tracked read was sent; its grant has arrived, with its state -/
  asked : Bool := false
  tracked : Option L2State := none
  fromL2 : Bool := false
  dead : Bool := false
deriving DecidableEq, Repr

/-- The caches of one tile (08 Table 8.1), by set. -/
structure Tile where
  l1i : FMap (PSet L1Entry) := []
  l1d : FMap (PSet L1Entry) := []
  l2 : FMap (PSet L2Entry) := []
  wb : List WbEntry := []
  shadow : List Shadow := []
  /-- lines that loads executed ahead of retirement watch (06 R149) -/
  watch : List Nat := []
  /-- lines granted with the C mark to the held atomic that asked for them (10 R263) -/
  contested : List Nat := []
  /-- memory requests sent so far: their ordering identifiers rotate (09 Table 9.6) -/
  oid : Nat := 0
deriving DecidableEq, Repr

/-- An LLC entry (08 R195, R211): block, lock bit, valid and dirty sectors. -/
structure LlcEntry where
  block : Nat
  lock : Bool
  empty : Bool
  valid : BitVec 4
  dirty : BitVec 4
deriving DecidableEq, Repr

/-- Snoop-filter states (10 Table 10.9). -/
inductive SfState where
  | s
  | o
  | x
deriving DecidableEq, Repr

/-- A snoop-filter entry (10 Table 10.9). In coarse mode `sharers` holds groups of eight tiles. -/
structure SfEntry where
  line : Nat
  st : SfState
  own : Option Nat
  coarse : Bool
  sharers : List Nat
  rmt : List Nat
  /-- lost in both copies: rebuilt on the line's next request (16 R447) -/
  lost : Bool := false
deriving DecidableEq, Repr

/-- The requests a home orders for one line (10 Table 10.8). -/
inductive HomeReq where
  | rdShared
  | rdUnique
  | upgrade
  | claimZero
  | rdOnce
  | lockLd
  | wrPtl
  | wrLine
  | atomFar
  | cmoClean
  | cmoInval
  | cmoClinv
  | wrBack
  | rdNt
  /-- no request: the eviction of a filter entry (10 R255) -/
  | backInval
deriving DecidableEq, Repr

/-- A transaction under way at a home (10 R250). -/
structure Txn where
  line : Nat
  req : HomeReq
  q : ReqFlit
  htxid : Nat
  /-- holders whose snoop answer is awaited; those to whom DbGo was sent and whose data is awaited (10 R258) -/
  awaiting : List Nat := []
  fetched : List Nat := []
  /-- WrBacks absorbed whose data is awaited: unit and TXID (10 R258) -/
  absorbed : List (Nat × Nat) := []
  /-- WrBacks answered Comp with INFO 1 once their sender's data has arrived -/
  stale : List (Nat × Nat) := []
  /-- a holder's data arrived; it was dirty -/
  ownerData : Bool := false
  gotDirty : Bool := false
  /-- the line was removed or taken from another L2 (10 R263) -/
  taken : Bool := false
  /-- another far atomic of the line was ordered within the 256 mesh cycles before it (10 R263) -/
  recent : Bool := false
  /-- it waits for a filter entry (10 R255) -/
  needEntry : Bool := false
  /-- the filter state when it started -/
  st0 : Option SfState := none
  /-- MemRd was sent; its data has arrived -/
  memAsked : Bool := false
  memHere : Bool := false
  /-- write data or operands awaited, and the flits received -/
  needData : Bool := false
  dats : List DatFlit := []
  /-- MemComp awaited, Comp withheld until it comes -/
  needComp : Bool := false
  compLast : Bool := false
  /-- the grant was sent and its Ack is awaited -/
  needAck : Bool := false
deriving DecidableEq, Repr

/-- A request of a unit that awaits its answer (10 R251), by SRC × 1024 + TXID. -/
structure Mshr where
  opc : Nat
  q : ReqFlit
  /-- answered Retry, at which stamp: to be issued again (10 R247) -/
  retried : Option Nat := none
deriving DecidableEq, Repr

/-- One home slice: a slice position's LLC and snoop filter (08 R192, 10 R248, R253). -/
structure Slice where
  llc : FMap (PSet LlcEntry) := []
  sf : FMap (PSet SfEntry) := []
  /-- the priority bit: true names input L (10 R248) -/
  prioL : Bool := false
  txns : List Txn := []
  /-- requests ordered behind another of their line; whether a far atomic was ordered soon after another (10 R263) -/
  waitq : List (HomeReq × ReqFlit × Bool) := []
  /-- stamp of the last far atomic of a line (10 R263) -/
  farAt : FMap Nat := []
  /-- position in transfer (10 R268) -/
  moving : Bool := false
deriving DecidableEq, Repr

/-- A flit on the mesh (10 R240, R241): its message, the stamp of its injection, the router and input port (N 0, S 1, E 2, W 3, local 4)
whose buffer holds it, none while it waits at its sender, and the mesh cycles before it may move on. -/
structure Flit where
  msg : Msg
  at_ : Nat
  pos : Option (Nat × Nat) := none
  wait : Nat := 0
deriving DecidableEq, Repr

/-- The routing state of the mesh (10 R265-R267) and its links (10 R237, 16 R462). -/
structure Mesh where
  /-- routing tables 0 and 1: slice position to router number, plus 512 when SPR is set -/
  table0 : FMap Nat := []
  table1 : FMap Nat := []
  epoch : Bool := false
  /-- the announced switch tick -/
  switchAt : Option Nat := Option.none
  /-- the old epoch has not drained -/
  draining : Bool := false
  /-- sums latched so far, and the stamp of the switch or of the last latch -/
  latches : List Nat := []
  latchAt : Nat := 0
  /-- a further change, held until the old epoch has drained (10 R267): the entries of its table -/
  heldTab : Option (List (Nat × Nat)) := Option.none
  /-- positions that the written table moves to another slice (10 R268) -/
  moves : List Nat := []
  /-- round-robin arbiters: the input served last, by (router × 5 + output) × 4 + network (10 R241) -/
  rr : FMap Nat := []
  /-- resends of the flit that a link's sender holds, by link (10 R237) -/
  resends : FMap Nat := []
  /-- slice position being moved, and where to (16 R460) -/
  movingPos : Option (Nat × Nat) := Option.none
  /-- spare wires used, by link: router × 64 + direction × 8 + network -/
  wires : FMap Nat := []
deriving DecidableEq, Repr

/-- A MemWr accepted whose data is awaited (11 R283): controller, sender, HTXID, line, the errors its burst holds, and the first half. -/
structure MemWrite where
  mc : Nat
  src : Nat
  htxid : Nat
  line : Nat
  rank : Nat
  errs : List (Nat × Nat)
  half0 : Option DatFlit := none
deriving DecidableEq, Repr

/-- A tag line in a controller's tag cache (11 R277): its channel tag-line number and dirty bit. -/
structure TagLine where
  tl : Nat
  dirty : Bool
deriving DecidableEq, Repr

/-- The memory controllers (11). -/
structure Dram where
  /-- tag caches, by channel × 512 + set -/
  tagc : FMap (PSet TagLine) := []
  /-- corrected bursts in the scrub period, by channel × 4096 + (2 × rank + subchannel) × 16 + device (11 R281) -/
  ceCnt : FMap Nat := []
  /-- hour window of the last MEM_CE record, same key, plus 1 (11 R282) -/
  ceHour : FMap Nat := []
  /-- the patrol scrub: period in force, by channel (11 R289) -/
  scrubHours : FMap Nat := []
  writes : List MemWrite := []
  /-- the DIMMs of each channel that training found (11 R271); sensors above a threshold, by channel × 4 + 2 × DIMM, plus 1 for the upper one (11 R272) -/
  dimms : List (List Dimm) := []
  hot : FMap Bool := []
  /-- installed capacity per channel in GiB -/
  capGiB : Nat := 0
  /-- channel state area in GiB (12 Table 12.4a header) -/
  csaGiB : Nat := 0
deriving DecidableEq, Repr

/-! ## Records (16) -/

/-- An error record (16 Table 16.1) without its SEQ. -/
structure ErrRec where
  stamp : Nat
  useq : Nat
  unit : Nat
  net : Nat := 4
  cls : Nat
  sev : Nat
  inexact : Bool := false
  unaligned : Bool := false
  superseded : Bool := false
  late : Bool := false
  encl : Nat := 0xFF
  core : Nat := 0xFF
  tile : Nat := 0xFF
  addr : Nat := 0
  d0 : Nat := 0
  d1 : Nat := 0
  pktStamp : Nat := 0
  /-- enclosures whose fault rings it goes to beside its own (16 R465) -/
  rings : List Nat := []
deriving DecidableEq, Repr

/-- A core failover under way (16 Table 16.6): old tile, trigger, stamp of step 1, the last step completed, the spare chosen in step 2,
what the core was doing, and whether its enclosure was reset meanwhile (16 R453). -/
structure Failover where
  old : Nat
  trigger : Nat
  at_ : Nat
  step : Nat := 1
  spare : Option Nat := none
  was : RunState
  reset : Bool := false
deriving DecidableEq, Repr

/-- The RAS controller (16). -/
structure Ras where
  /-- records sent and not yet assigned a SEQ (16 R437) -/
  inbox : List ErrRec := []
  /-- the module log, oldest first: SEQ and record (16 R438) -/
  mlog : List (Nat × ErrRec) := []
  seq : Nat := 0
  useq : FMap Nat := []
  /-- first-of-hour marks: unit × 65536 + class to hour window plus 1 (16 R439) -/
  hour : FMap Nat := []
  /-- LOST_BEFORE due, by enclosure (16 R438) -/
  lostDue : FMap Bool := []
  /-- array errors of a slice in the hour (16 R460) -/
  arrCnt : FMap Nat := []
  arrWin : FMap Nat := []
  /-- stamp at which a tile's CORE gate entered DRAINING -/
  drainAt : FMap Nat := []
  /-- failovers under way, by core (16 R448) -/
  fail : FMap Failover := []
  /-- save slots of the cores in Juniper, for CS3 and failover (16 R450) -/
  saves : FMap Cpu := []
  /-- records ever appended to the module log: the next one lies at ring position `mlogN` modulo 8,192 (22 R568) -/
  mlogN : Nat := 0
  /-- slice positions due for substitution, oldest first; spare slices in use, by number (16 R460) -/
  subst : List Nat := []
  spareUsed : List Nat := []
  /-- log records marked lost in Juniper: module log ring positions, and 8,192 + change-log ring positions (16 Table 16.5) -/
  logLost : List Nat := []
deriving DecidableEq, Repr

/-! ## I/O translation caches (07 R189) -/

/-- An entry of an I/O translation cache: tagged with a stream identifier and an ASID. -/
structure IoEntry where
  stream : Nat
  asid : Nat
  e : TlbEntry
deriving DecidableEq, Repr

/-- A cached pointer entry: its physical address and its value. -/
structure IoPtr where
  pa : Nat
  val : Word
deriving DecidableEq, Repr

/-- One I/O translation cache. -/
structure IoTlb where
  ents : PSet IoEntry := {}
  ptrs : PSet IoPtr := {}
deriving DecidableEq, Repr

/-! ## Clock root (02) -/

/-- The clock root and the alignment of the stamp (02 R42, R49-R51; 21 R561). -/
structure Clk where
  /-- stamp at which the reference was lost -/
  refLostAt : Option Nat := none
  /-- ALIGN_REQ under way: link and the stamp at which it was sent -/
  t1 : Option (Nat × Nat) := none
  /-- ticks of correction still to make: positive to hold, negative to advance -/
  slew : Int := 0
  lastAdjust : Option Nat := none
  /-- stamp of the last ALIGN_REQ sent (02 R50) -/
  lastAlign : Option Nat := none
  /-- this socket has been aligned to another master since module reset -/
  slaved : Bool := false
deriving DecidableEq, Repr

/-! ## The whole block -/

/-- Where the module stands in its power-up (12 Table 12.2, 17 R489, 23 R580). -/
inductive Phase where
  /-- no input power, or before the first power-up -/
  | off
  /-- a boot stage of 12 Table 12.2 in progress -/
  | boot (stage : Nat)
  /-- stopped at a boot stage -/
  | failed (stage : Nat)
  | running
  /-- after the emergency save and stop (17 R489) -/
  | stopped
deriving DecidableEq, Repr

/-! ## Interrupt controller, PCIe and links (21) -/

/-- A BAR that Yew programmed (21 R542): its root complex and root port, the requester identifier of its function, and its PCIe addresses. -/
structure Bar where
  pe : Nat
  port : Nat
  rid : Nat
  base : Nat
  size : Nat
deriving DecidableEq, Repr

/-- A non-posted request whose tag a root complex holds (21 R545). -/
structure PTag where
  pe : Nat
  tag : Nat
  /-- the core's request, and what it is -/
  q : ReqFlit
  kind : Nat
  deadline : Nat
  /-- the core's access ended by its own timeout -/
  late : Bool := false
deriving DecidableEq, Repr

/-- A request of this socket that a link unit has sent to the peer as its proxy (10 R264): its sender and transaction here, opcode and line. -/
structure LinkReq where
  src : Nat
  txid : Nat
  opc : Nat
  line : Nat
  /-- a Grant that waits until the other holders here have given the line up -/
  grant : Option RspFlit := none
deriving DecidableEq, Repr

/-- A snoop of one of this socket's homes sent to the peer: the home's router, SPR bit and transaction, and the line. -/
structure LinkSnoop where
  src : Nat
  htxid : Nat
  line : Nat
  /-- answered RspWbPend: the home's DbGo and the data are to come -/
  pend : Bool := false
deriving DecidableEq, Repr

/-- A snoop of the peer that a link unit has forwarded to the holders here (10 R264): opcode, line, the holders that have not answered,
and what the answers gave: the data (dirty or clean), a shared answer, a pending write-back. -/
structure LinkFwd where
  opc : Nat
  line : Nat
  waits : List Nat
  data : Option Bool := none
  halves : List DatFlit := []
  shared : Bool := false
  pend : Option Nat := none
deriving DecidableEq, Repr

/-- A request of the peer under way at a home here: the link unit that issues it, and its line. -/
structure LinkIn where
  unit : Nat
  line : Nat
deriving DecidableEq, Repr

/-- The directory of a peer's line (10 R264): its holders in this socket, and its owner among them. -/
structure DirLine where
  holders : List Nat
  /-- the holder granted E or M, or that holds the line in O -/
  own : Option Nat := none
deriving DecidableEq, Repr

/-- What the link units toward one peer socket keep (10 R264): this socket's requests and snoops by the number they carry on the link, the
peer's requests by TXID, the peer's snoops under way by HTXID, and the directory by line. -/
structure Proxy where
  outq : FMap LinkReq := []
  osnp : FMap LinkSnoop := []
  inq : FMap LinkIn := []
  isnp : FMap LinkFwd := []
  dir : FMap DirLine := []
deriving DecidableEq, Repr

/-- A window store that a root complex accepted in a tick (09 R228): the tick, root complex and port, the source core, the address, and the
TLP that carries it. -/
structure Posted where
  at_ : Nat
  pe : Nat
  port : Nat
  src : Nat
  addr : Nat
  rid : Nat
  octets : List Byte
deriving DecidableEq, Repr

/-- The end of one socket link (21 R557-R559). -/
structure SlLink where
  /-- SEQ of the next flit sent and the next SEQ expected -/
  txSeq : Nat := 0
  rxSeq : Nat := 0
  /-- replay buffer: flits sent and not acknowledged, oldest first -/
  replay : List (Nat × List Slot) := []
  /-- the last replay request: its SEQ and stamp -/
  asked : Option (Nat × Nat) := none
  /-- flits that wait for room in the replay buffer -/
  held : List (List Slot) := []
  /-- replays of one flit: its SEQ and their number (21 R559) -/
  replays : Option (Nat × Nat) := none
  /-- credits of the peer in slots, those granted less those used: REQ, SNP, RSP, DAT (21 R558) -/
  crReq : Nat := 0
  crSnp : Nat := 0
  crRsp : Nat := 0
  crDat : Nat := 0
  /-- whether the peer has granted credits since the link was trained -/
  told : Bool := false
  /-- messages that wait for credit of their class, oldest first (21 R558) -/
  waiting : List Msg := []
  /-- one-way delay measured at training (21 R561) -/
  delay : Nat := 0
deriving DecidableEq, Repr

/-! ## What leaves the module -/

/-- What the module sends at its lands. -/
inductive Out where
  /-- an SDP frame: CAN port, identifier, octets (19) -/
  | can (port ident : Nat) (octets : List Byte)
  /-- a channel-port frame (14) -/
  | eth (port : Nat) (octets : List Byte)
  /-- a PCIe request: root complex, requester function, tag, kind (0 config read, 1 config write, 2 memory read, 3 memory write, 4 AtomicOp), address, octets -/
  | tlp (pe rid tag kind addr : Nat) (octets : List Byte)
  /-- a Function Level Reset of a function: root complex, requester identifier (12 Table 12.8) -/
  | flr (pe rid : Nat)
  /-- a PCIe completion: root complex, requester, tag, status (0 successful, 1 Unsupported Request, 4 Completer Abort), poisoned, octets -/
  | cpl (pe rid tag status : Nat) (ep : Bool) (octets : List Byte)
  /-- a link flit: link, TYPE, SEQ, ACK, slots (21 Table 21.7) -/
  | flit (link ty seq ack : Nat) (slots : List Slot)
  /-- pulses of BOX_PULSE (18 R493) -/
  | pulse (count : Nat)
  /-- a value read through the JTAG debug port (12 Table 12.13) -/
  | jtag (octets : List Byte)
deriving DecidableEq, Repr

/-! ## Queues (13 R333-R341, 15 R398) -/

/-- A completion entry before its PHASE is known: its 32 octets with FLAGS bit 0 clear, and the operation whose record is ENDED by it. -/
structure CqEntry where
  octets : List Byte
  opid : Option Nat := none
deriving DecidableEq, Repr

/-- A queue block and its rings' positions (13 Tables 13.3-13.5). -/
structure Queue where
  sqBase : Word := 0
  cqBase : Word := 0
  /-- QCFG with EN in bit 63 -/
  cfg : Word := 0
  active : Bool := false
  headErr : Bool := false
  tailErr : Bool := false
  cfgErr : Bool := false
  sqTail : Nat := 0
  sqHead : Nat := 0
  cqTail : Nat := 0
  cqHead : Nat := 0
  phase : Bool := false
  /-- entries read whose completion has not been written (13 R335) -/
  owed : Nat := 0
  /-- completion entries that wait for ring space (13 R337) -/
  waiting : List CqEntry := []
  /-- entries not yet signalled and the stamp of the oldest (13 R340) -/
  unsig : Nat := 0
  unsigAt : Nat := 0
deriving DecidableEq, Repr

/-! ## Channel subsystem (13) -/

/-- Channel control of one enclosure (13 Table 13.9); IOROOT and IOASID are in `State.ioRoots` and `State.ioAsids`. -/
structure Chn where
  drvLo : Word := 0
  drvHi : Word := 0
  sdt : Word := 0
  ok : Bool := false
  fail : Bool := false
  resetEnded : Nat := 0
deriving DecidableEq, Repr

/-- States of a subchannel (13 R331). -/
inductive SubState where
  | idle
  | active
  | halting
  | suspended
deriving DecidableEq, Repr

/-- A loaded description (13 Table 13.13). -/
structure Desc where
  ports : List Nat
  nodes : List Nat
  devaddr : Nat
deriving DecidableEq, Repr

/-- A notice (13 R339, R341): status, stamp, INFO. -/
structure Notice where
  status : Nat
  stamp : Nat
  info : Nat
deriving DecidableEq, Repr

/-- A subchannel (13 R331, R341, R350). -/
structure Sub where
  st : SubState := .idle
  desc : Option Desc := none
  /-- for each path that failed, the stamp at which it is usable again -/
  failedAt : FMap Nat := []
  opid : Option Nat := none
  notice : Option Notice := none
  /-- HALT entries in progress: queue key and TAG (13 Table 13.16) -/
  halts : List (Nat × Nat) := []
deriving DecidableEq, Repr

/-- A data segment: its I/O virtual address and length (13 R352). -/
structure Seg where
  va : Word
  len : Nat
deriving DecidableEq, Repr

/-- A command in progress (13 R351-R353, R369). -/
structure ChCmd where
  /-- KIND, LEN and DROP of its descriptor -/
  kind : Nat
  len : Nat
  drop : Bool
  segs : List Seg
  /-- descriptor that follows it -/
  next : Word
  /-- session it is sent on -/
  port : Nat
  node : Nat
  /-- response timeout (0: CHN_RSP_TMO), and the deadline once its last frame was sent -/
  tmo : Nat
  timer : Option Nat := none
deriving DecidableEq, Repr

/-- A cancel under way (14 R393): the command, its session and the timer. -/
structure ChCancel where
  cmdseq : Nat
  port : Nat
  node : Nat
  deadline : Nat
deriving DecidableEq, Repr

/-- STATE of a journal record (13 Table 13.17); a freed record is no longer listed. -/
inductive RecState where
  | active
  | suspended
  | ending
  | ended
deriving DecidableEq, Repr

/-- A journal record (13 Table 13.17), with the engine's work on the operation. -/
structure JRec where
  stamp : Nat
  opid : Nat
  subch : Nat
  encl : Nat
  st : RecState := .active
  /-- queue key of the START -/
  qkey : Nat
  tag : Nat
  status : Nat := 0
  attempts : Nat := 0
  path : Nat
  failed : Nat := 0
  engine : Nat
  /-- its place in the engine's ring (13 Table 13.1, log 108) -/
  slot : Nat := 0
  ckpt : Word
  cmdseq : Nat := 0
  resid : Nat := 0
  /-- in SUSPENDED, the remaining ticks -/
  deadline : Nat
  cqslot : Option Nat := none
  pathmask : Nat
  cmd : Option ChCmd := none
  /-- the command in progress is to be sent again -/
  redo : Bool := false
  /-- the engine has decided the end: the status (13 R363) -/
  fin : Option Nat := none
  cancel : Option ChCancel := none
  devstat : Nat := 0
  /-- port and CMDSEQ of the last command sent -/
  lastPort : Nat := 0xFF
  lastSeq : Nat := 0
  /-- far endpoints that received a command (14 R394) -/
  nodes : List Nat := []
  /-- the CLEARs that wait for the operation's end: queue key and TAG -/
  clears : List (Nat × Nat) := []
deriving DecidableEq, Repr

/-- A submission entry that was read and waits for its engine (13 Table 13.6). -/
structure SubEntry where
  qkey : Nat
  encl : Nat
  op : Nat
  tag : Nat
  subch : Nat
  program : Word
  tmo : Nat
  pathmask : Nat
deriving DecidableEq, Repr

/-! ## Ports and sessions (14) -/

/-- A frame the SGN9 sends: the fields of Table 14.4 that its TYPE uses. -/
structure TxFrame where
  ty : Nat
  opid : Nat := 0
  cmdseq : Nat := 0
  devaddr : Nat := 0
  count : Nat := 0
  kind : Nat := 0
  devop : Nat := 0
  cflags : Nat := 0
  param : Nat := 0
  payload : List Byte := []
  seq : Nat := 0
  /-- stamp at which its retransmission timer expires, and how often it was sent -/
  at_ : Nat := 0
  n : Nat := 0
  /-- the last frame of a command: its transmission starts the response timer (13 R369) -/
  last : Bool := false
deriving DecidableEq, Repr

/-- Session states (14 Table 14.7). -/
inductive SessState where
  | closed
  | opening
  | open
  | failed
deriving DecidableEq, Repr

/-- A session of a port with a far endpoint (14 R379-R387). -/
structure Sess where
  st : SessState := .closed
  /-- SESS last used -/
  sess : Nat := 0
  mac : Nat := 0
  /-- next SEQ to send and next expected -/
  txSeq : Nat := 0
  rxSeq : Nat := 0
  /-- frames sent and not acknowledged, oldest first; frames to send again; frames waiting for their first credit -/
  unacked : List TxFrame := []
  resend : List TxFrame := []
  queue : List TxFrame := []
  /-- sends of OPEN or PROBE, and the stamp at which the last one's timer expires -/
  sends : Nat := 0
  sentAt : Nat := 0
  probing : Bool := false
  /-- credit limits received and TXC sent, by class -/
  crC : Nat := 0
  crD : Nat := 0
  txcC : Nat := 0
  txcD : Nat := 0
  /-- limits granted, TXC received, and the buffers behind the open grants (true: reserved), by class -/
  grC : Nat := 0
  grD : Nat := 0
  rxcC : Nat := 0
  rxcD : Nat := 0
  bufC : List Bool := []
  bufD : List Bool := []
  /-- the far end's WANT bits -/
  wantC : Bool := false
  wantD : Bool := false
  /-- frames accepted and not acknowledged, and the stamp of the first -/
  toAck : Nat := 0
  toAckAt : Nat := 0
  /-- the last NAK sent: its value and the stamp from which it may be sent again -/
  nak : Option (Nat × Nat) := none
  /-- stamp at which the keepalive time ends; stamp of the last frame sent -/
  heardAt : Nat := 0
  usedAt : Nat := 0
deriving DecidableEq, Repr

/-- The receive buffers of a port that hold frames (14 R385), by whether each is a reserved control, reserved data or shared one. -/
inductive RxBuf where
  | shared
  | resC
  | resD
deriving DecidableEq, Repr

/-- A channel port. -/
structure Port where
  used : List RxBuf := []
  /-- RXBUF in force since the last link up -/
  rxbuf : Nat := 16
  /-- round robin: node last granted -/
  rr : Nat := 0
deriving DecidableEq, Repr

/-! ## Laurel and Holly (15) -/

/-- A descriptor dispatched to an engine: its unit, its queue, its octets and which of its words are tagged HNDL. -/
structure Job where
  unit : Nat
  qkey : Nat
  d : List Byte
  hndl : List Nat := []
  rerun : Bool := false
  /-- a datapath or buffer check failed on it (16 R464) -/
  checked : Bool := false
deriving DecidableEq, Repr

/-- A live key slot (15 R421). -/
structure HKey where
  encl : Nat
  gen : Nat
  alg : Nat
  use : Nat
  key : List Byte
deriving DecidableEq, Repr

/-- A DRBG instance (15 R428, R429): requests since its seed, and the seed's stamp. -/
structure Drbg where
  count : Nat := 0
  seedAt : Nat := 0
deriving DecidableEq, Repr

/-- The engines and Holly's key store. -/
structure Accel where
  /-- descriptors dispatched and not completed, oldest first -/
  jobs : List Job := []
  /-- engines declared failed, by unit number -/
  failed : FMap Bool := []
  /-- live key slots; reuse counts of the slots; slots freed, oldest first; the lowest slot never used -/
  keys : FMap HKey := []
  reuse : FMap Nat := []
  freed : List Nat := []
  fresh : Nat := 0
  /-- generation of each enclosure's handles (12 R317) -/
  gen : FMap Nat := []
  /-- instances by engine × 32 + enclosure, 16 for Yew -/
  drbg : FMap Drbg := []
deriving DecidableEq, Repr

/-! ## Yew (12) -/

/-- An open debug session (12 R320, R321): its level, its enclosure at D1, and the stamp at which its length expires. -/
structure DbgSess where
  level : Nat
  encl : Nat
  endAt : Nat
deriving DecidableEq, Repr

/-- The boot and security controller: fuses, what the boot accepted, and the debug state. -/
structure Yew where
  /-- fuses: Rinistea root hashes and debug hashes by number, debug hashes revoked, lifecycle (1 MANUFACTURE, 2 PRODUCTION, 3 RMA), tiles
  found bad at manufacturing test -/
  rootHash : FMap (List Byte) := []
  dbgHash : FMap (List Byte) := []
  dbgRevoked : List Nat := []
  lifecycle : Nat := 2
  defective : List Nat := []
  /-- records of this socket in the accepted layout, the enclosures' measured images, and the enclosures whose image was refused -/
  recs : List (List Byte) := []
  csaGiB : Nat := 0
  measured : FMap (List Byte) := []
  refused : List Nat := []
  /-- enclosures held in reset for want of a key (15 R431) -/
  held : List Nat := []
  /-- D2: every enclosure stopped; interrupts discarded while in reset are counted (12 Table 12.8 step 1) -/
  stopped : Bool := false
  discarded : FMap Nat := []
  /-- the nonce issued last and its stamp (12 R321) -/
  nonce : Option (List Byte × Nat) := none
  sess : List DbgSess := []
  /-- enclosures with a D1 session since their reset (12 Table 12.12) -/
  d1Since : FMap Bool := []
  /-- the stamp of the last D2 entry and of each enclosure's last reset (12 R327) -/
  d2At : Option Nat := none
  resetAt : FMap Nat := []
  /-- breakpoints set through the debug port (12 Table 12.13): core and address -/
  breaks : List (Nat × Word) := []
deriving DecidableEq, Repr

/-! ## Power (17) -/

/-- An entry attempt (17 R481): the stamp of its first ASK, and the units that have not accepted. -/
structure Attempt where
  at_ : Nat
  waits : List Nat
deriving DecidableEq, Repr

/-- The power controller (17). -/
structure Power where
  /-- input voltage in 10 mV at the last sample; consecutive samples below 34.0 V (in STOPPED, below 30 V), the lowest of them, consecutive samples above
  77.0 V and the highest of them -/
  vin : Nat := 0
  low : Nat := 0
  lowest : Nat := 0
  high : Nat := 0
  highest : Nat := 0
  /-- PWR_OK, STOP_N driven low, and the cause of the last emergency stop (17 Table 17.14) -/
  ok : Bool := false
  stopLow : Bool := false
  cause : Option Nat := none
  /-- the input fell below 30 V for 10 ms in STOPPED (17 R489) -/
  fell : Bool := false
  /-- power limiter engaged, and 1 ms averages in a row below 95 % of the limit; thermal limiter by die likewise -/
  limit : Bool := false
  under : Nat := 0
  therm : FMap Bool := []
  cool : FMap Nat := []
  /-- entry attempts: by core for CS3, by 192 + state for a package state -/
  tries : FMap Attempt := []
  /-- the tick of a package state's entry while it lasts (17 R482), and the deepest state permitted whose condition has held since a stamp (17 R479) -/
  entered : Option Nat := none
  dwell : Option (Nat × Nat) := none
  /-- energy shared to each enclosure, 16 for the rest, in 0.1 mJ (17 R505) -/
  energy : FMap Nat := []
deriving DecidableEq, Repr

/-! ## Box (18) -/

/-- A record of Box's log (18 Table 18.1). -/
structure BoxRec where
  stamp : Nat
  bseq : Nat
  code : Nat
  flags : Nat
  boots : Nat
  energy : Nat
  value : Nat
  value2 : Nat
deriving DecidableEq, Repr

/-- A copy of the register in Box's non-volatile memory (18 R496). -/
structure BoxCopy where
  energy : Nat := 0
  fine : Nat := 0
  boots : Nat := 0
  seq : Nat := 0
  valid : Bool := true
deriving DecidableEq, Repr

/-- What Box holds of one update (18 R495). -/
structure BoxSnap where
  energy : Nat := 0
  stamp : Nat := 0
  boots : Nat := 0
  status : Nat := 0
  volts : Nat := 0
  amps : Nat := 0
deriving DecidableEq, Repr

/-- The metrology die (18). -/
structure Box where
  on : Bool := false
  /-- BOX_ENERGY in 0.001 Wh and the fine accumulator in nWh -/
  energy : Nat := 0
  fine : Nat := 0
  boots : Nat := 0
  copy0 : BoxCopy := {}
  copy1 : BoxCopy := {}
  /-- log records by ring position, and BSEQ of the newest -/
  log : FMap BoxRec := []
  bseq : Nat := 0
  /-- fuses: SEAL and BREAK fuses blown, fused minimum version -/
  seals : Nat := 1
  breaks : Nat := 0
  minver : Nat := 0
  /-- firmware: version, digest, active slot -/
  version : Nat := 0
  digest : List Byte := []
  slot : Nat := 0
  fault : Bool := false
  maint : Bool := false
  /-- a maintenance command in progress: 1 UNSEAL, 2 LOAD, 3 SEAL -/
  cmd : Option Nat := none
  lastStamp : Nat := 0
  reverse : Bool := false
  outV : Bool := false
  outI : Bool := false
  /-- causes of the commit made since the last update (18 Table 18.1 FLAGS), and the BSEQ of its log record (18 R496) -/
  cflags : Nat := 0
  cseq : Option Nat := none
  snap : BoxSnap := {}
deriving DecidableEq, Repr

/-! ## Management (19) -/

/-- A change-log record (19 Table 19.12). -/
structure ClogRec where
  stamp : Nat
  idx : Nat := 0
  sub : Nat := 0
  origin : Nat
  principal : Nat
  result : Nat
  flags : Nat := 0
  len : Nat := 0
  old : Nat := 0
  new : Nat := 0
deriving DecidableEq, Repr

/-- A request being staged on a port (19 R511). -/
structure Staged where
  svc : Nat
  tid : Nat
  idx : Nat
  sub : Nat
  data : List Byte
  at_ : Nat
deriving DecidableEq, Repr

/-- A response kept for repeats (19 R515): the request, the stamp to which a repeat is answered with it, and the response. -/
structure Saved where
  svc : Nat
  tid : Nat
  idx : Nat
  sub : Nat
  data : List Byte
  till : Nat
  octets : List Byte
deriving DecidableEq, Repr

/-- A mailbox (19 Tables 19.8-19.10). -/
structure Mbox where
  /-- the CMD that is being handled, BUSY -/
  cmd : Option Word := none
  overrun : Bool := false
  len : Nat := 0
  status : Nat := 0
  data : List Byte := []
deriving DecidableEq, Repr

/-- The object server (19). -/
structure Sdp where
  staged : FMap Staged := []
  /-- responses saved, newest last -/
  saved : List Saved := []
  /-- mailboxes by enclosure × 16 + mailbox -/
  mbox : FMap Mbox := []
  /-- change log, oldest first; CLOG_TOTAL is an object -/
  clog : List ClogRec := []
  /-- stamp of the last periodic heartbeat, or 0 (19 R512) -/
  hbAt : Nat := 0
deriving DecidableEq, Repr


/-- The state of the block. -/
structure State where
  phase : Phase := .off
  /-- stamp at which the boot stage under way began (23 R580) -/
  stageAt : Nat := 0
  /-- this module's socket number (23 R578) -/
  socket : Nat := 0
  /-- the order stamp (02 R44) -/
  stamp : Nat := 0
  clk : Clk := {}
  /-- logical cores by number (01 R12) and Privet engines -/
  cores : FMap Cpu := []
  prv : FMap Cpu := []
  mem : Mem := {}
  /-- tiles by number, home slices by slice position -/
  tiles : FMap Tile := []
  slices : FMap Slice := []
  mesh : Mesh := {}
  dram : Dram := {}
  ras : Ras := {}
  /-- objects of at most 8 octets, by index × 256 + sub-index (22) -/
  objs : FMap Word := []
  /-- the W1C bits that the SGN9 has set within the stamp tick, by object: a write in that tick does not clear them (00 R16, 19 R524) -/
  raised : FMap Word := []
  /-- longer objects, same key -/
  octets : FMap (List Byte) := []
  /-- I/O translation caches by unit number (02 Table 2.6) -/
  iotlb : FMap IoTlb := []
  /-- stream root and ASID of each enclosure's channel operations (13 Table 13.9, IOROOT and IOASID) -/
  ioRoots : FMap Word := []
  ioAsids : FMap Word := []
  /-- PMU_SNAP of each enclosure, and the value that takes effect at the next period boundary (20 R538) -/
  pmuSnap : FMap Word := []
  pmuSnapNext : FMap Word := []
  /-- di/dt guard engaged, by compute die (17 R470) -/
  guard : FMap Bool := []
  /-- loss flags of the root complexes: unit × 1024 + source core (09 R228) -/
  loss : FMap Bool := []
  /-- local interrupt sources pending: 2 × Cn for the timer, 2 × Cn + 1 for the performance source (21 R553, 20 R533) -/
  localPend : FMap Bool := []
  /-- interrupt sources SRC[n] by enclosure × 1024 + n (21 Table 21.5); THRESH, LOCAL and TIMECMP by core; local sources in service
  by 2 × core + (0 timer, 1 performance) -/
  src : FMap Word := []
  ithresh : FMap Word := []
  ilocal : FMap Word := []
  timecmp : FMap Word := []
  linsvc : FMap Bool := []
  /-- stream entries by enclosure × 32 + i: SROOT, and EN with ASID (21 Table 21.3) -/
  sroot : FMap Word := []
  sctl : FMap Word := []
  bars : List Bar := []
  ptags : List PTag := []
  /-- window stores accepted in the tick of the last one -/
  posted : List Posted := []
  links : FMap SlLink := []
  /-- by peer socket (10 R264) -/
  proxies : FMap Proxy := []
  /-- bandwidth counters of the current window by object key, and the window in force (20 R536) -/
  bw : FMap Nat := []
  bwWindow : Nat := 24
  /-- what the module has sent at its lands -/
  out : List Out := []
  /-- queues by kind × 2^20 + enclosure × 4096 + slot: kind 0 Privet, 1 Laurel, 2 Holly -/
  queues : FMap Queue := []
  chn : FMap Chn := []
  subs : FMap Sub := []
  /-- journal, in acceptance order -/
  journal : List JRec := []
  opidNext : Nat := 1
  /-- submission entries read and not yet acted on -/
  work : List SubEntry := []
  /-- ENDs to send: OPID and NODE (14 R394) -/
  ends : List (Nat × Nat) := []
  /-- sessions by port × 2^32 + NODE -/
  sess : FMap Sess := []
  ports : FMap Port := []
  /-- RUN (14 R392) -/
  runId : Nat := 0
  /-- requests that await their answers -/
  mshr : FMap Mshr := []
  accel : Accel := {}
  yew : Yew := {}
  pwr : Power := {}
  box : Box := {}
  sdp : Sdp := {}
  /-- flits sent and not yet received, in the order of their sending (10 R241, R243) -/
  net : List Flit := []
  /-- the step is running an instruction of a window again, not one presented by a command -/
  replay : Bool := false
  /-- commands waiting, first in first out -/
  pending : List Instr := []
  /-- how many free values have been taken (log 2) -/
  free : Nat := 0
deriving DecidableEq, Repr

/-- Faults of the model. -/
inductive Fault where
  /-- Raised by a command that names a unit the module does not have (00 Table 0.2); safe: nothing of the spec does it. -/
  | noSuchUnit (n : Nat)
deriving DecidableEq, Repr

/-- Refusals of the model. -/
inductive Refusal where
  /-- Raised by an arm of `exec` whose row has no meaning yet; safe. -/
  | notModelled (mnemonic : String)
deriving DecidableEq, Repr

/-- The state before the first power-up: no unit is powered, every register at its reset value (log 9). -/
def State.reset : State := {}

end Sys2Proof.Machine
end

