-- ==== Sys2Proof/Machine/Ops.lean ====
section
/-! DEFINITION. The shared operations: registers, objects, records, memory and exceptions. -/

namespace Sys2Proof.Machine
open Sys2Proof

/-! ## Free values (log 2) -/

/-- Take the next free value. -/
def takeFree (s : State) : Nat × State := (Config.free s.free, { s with free := s.free + 1 })

/-! ## Objects of at most 8 octets (22) -/

/-- The key of an object instance in `State.objs`. -/
def okey (idx sub : Nat) : Nat := idx * 256 + sub

/-- The default of an object that is not 0 (22 Tables 22.3-22.15). -/
def objDefault (k : Nat) : Word :=
  let idx := k / 256
  let sub := k % 256
  if idx = 0x2010 then 1050
  else if idx = 0x2020 then (if sub = 1 then 4 else 160000)
  else if idx = 0x2040 then (if sub = 1 then 0xFF000000 else 0)
  else if idx = 0x3000 then (if sub = 1 then 0x00FF0000 else 0x2000)
  else if 0x3100 ≤ idx ∧ idx ≤ 0x3103 then 0xFFFFFFFFFFFFFFFF
  else if idx = 0x3200 ∨ idx = 0x3300 then 0xFF
  else if idx = 0x3500 then 0xFFFF
  else if idx = 0x4100 then 24
  else if idx = 0x4300 then 0xFFFFFFFFFFFFFFFF
  else if idx = 0x5030 then 0xFF
  else if idx = 0x5050 then BitVec.ofNat 64 sub
  else if idx = 0x6120 then
    (if sub = 1 then 1600000 else if sub = 2 then 4 else if sub = 3 then 1600000000 else if sub = 4 then 48000000000 else 0)
  else if idx = 0x6200 then BitVec.ofNat 64 sub
  else if idx = 0x7000 then
    (if sub = 2 then 0x88B5 else if sub = 3 then 32000 else if sub = 4 then 7 else if sub = 5 then 1600000 else 0)
  else if idx = 0x7010 then 0x401
  else if idx = 0x0000 then (if sub = 1 then 0x5253919210000000 else 0)
  else if idx = 0x0010 then 0xC0D8109040884410
  else if idx = 0x7030 then BitVec.ofNat 64 ((Config.macBase + sub) % 2 ^ 48)
  else if idx = 0x9000 then 24
  else if idx = 0xA020 then 100
  else 0

/-- The value of an object. -/
def obj (s : State) (idx sub : Nat) : Word := mGet (objDefault (okey idx sub)) s.objs (okey idx sub)

/-- The value of an object as a number. -/
def objN (s : State) (idx sub : Nat) : Nat := (obj s idx sub).toNat

/-- Store an object's value. -/
def setObj (idx sub : Nat) (v : Word) (s : State) : State :=
  { s with objs := mPut (objDefault (okey idx sub)) s.objs (okey idx sub) v }

/-- Store a field of an object. -/
def setObjFld (idx sub hi lo v : Nat) (s : State) : State := setObj idx sub (setFld (obj s idx sub) hi lo v) s

/-- The SGN9 sets W1C bits of an object in this tick (00 R16, 19 R524). -/
def raiseBits (idx sub : Nat) (bits : Word) (s : State) : State :=
  { s with raised := mPut 0 s.raised (okey idx sub) (mGet 0 s.raised (okey idx sub) ||| bits) }

/-- Count up an object of `w` bits that saturates. -/
def bumpObj (idx sub w n : Nat) (s : State) : State :=
  setObj idx sub (BitVec.ofNat 64 (min (objN s idx sub + n) (2 ^ w - 1))) s

/-! ## Cores, engines and tiles -/

/-- The reset value of a system register (03 to 20; log 3). -/
def sysDefault (n : Nat) : Word :=
  if n = 0xC11 then 0x13880 else if n = 0xC20 then 1 else if n = 0xC30 then 0x3E8010 else 0

/-- Logical core Cn. -/
def coreOf (s : State) (n : Nat) : Cpu := mGet {} s.cores n

/-- Privet engine PRVn. -/
def prvOf (s : State) (n : Nat) : Cpu := mGet {} s.prv n

/-- The core or engine of a hart. -/
def cpuOf (s : State) : Hart → Cpu
  | .core n => coreOf s n
  | .prv n => prvOf s n

/-- Replace a core or engine. -/
def setCpu (h : Hart) (c : Cpu) (s : State) : State :=
  match h with
  | .core n => { s with cores := mPut {} s.cores n c }
  | .prv n => { s with prv := mPut {} s.prv n c }

/-- Change a core or engine. -/
def modCpu (h : Hart) (f : Cpu → Cpu) (s : State) : State := setCpu h (f (cpuOf s h)) s

/-- Whether the module has the hart (00 Table 0.2). -/
def hartExists : Hart → Bool
  | .core n => decide (n < 192)
  | .prv n => decide (n < 64)

/-- Whether a hart is a Privet engine. -/
def isPrv : Hart → Bool
  | .core _ => false
  | .prv _ => true

/-- The tile that carries Cn: ESP_CORE_TILE, and the old tile during a failover (16 R448, Table 16.8); 0xFF lost or unassigned. -/
def tileOf (s : State) (n : Nat) : Nat := match mFind s.ras.fail n with | some f => f.old | none => objN s 0x5030 n

/-- The unit number of a hart (02 Table 2.6; a core is keyed by its tile). -/
def unitOf (s : State) : Hart → Nat
  | .core n => tileOf s n
  | .prv n => 272 + n

/-- The hart behind a unit number: the core that a tile carries, or an engine. -/
def hartOf (s : State) (unit : Nat) : Option Hart :=
  if 272 ≤ unit ∧ unit < 336 then some (.prv (unit - 272))
  else if unit < 216 then ((List.range 192).find? (fun n => decide (tileOf s n = unit))).map .core
  else none

/-- A tile's CORE gate (16 Table 16.8): 0 OPEN, 1 DRAINING, 2 CLOSED. -/
def coreGate (s : State) (t : Nat) : Nat := fld (obj s 0x5020 t) 3 2

/-- The enclosure of logical core Cn (12 Table 12.5); 0xFF unassigned. -/
def enclOfCore (s : State) (n : Nat) : Nat := objN s 0x3200 n

/-- The stream of an engine's translations: the enclosure whose operation it works on (13 R353). -/
def engineStream (s : State) (n : Nat) : Option Nat := (prvOf s n).stream

/-- The enclosure an access of a hart is made for. -/
def enclOf (s : State) : Hart → Nat
  | .core n => enclOfCore s n
  | .prv n => (engineStream s n).getD 0x10

/-- A tile. -/
def tileAt (s : State) (t : Nat) : Tile := mGet {} s.tiles t

/-- Change a tile. -/
def modTile (t : Nat) (f : Tile → Tile) (s : State) : State :=
  { s with tiles := mPut {} s.tiles t (f (tileAt s t)) }

/-- A home slice by position. -/
def sliceAt (s : State) (p : Nat) : Slice := mGet {} s.slices p

/-- Change a home slice. -/
def modSlice (p : Nat) (f : Slice → Slice) (s : State) : State :=
  { s with slices := mPut {} s.slices p (f (sliceAt s p)) }

/-! ### Registers -/

/-- A general register; g0 reads 0 tagged DATA (03 R60). -/
def gpr (c : Cpu) (r : Reg) : GVal := if r = 0 then ⟨0, .data⟩ else mGet ⟨0, .data⟩ c.g r.toNat

/-- Write a general register; writes to g0 are discarded (03 R60). -/
def setGpr (r : Reg) (x : GVal) (c : Cpu) : Cpu :=
  if r = 0 then c else { c with g := mPut ⟨0, .data⟩ c.g r.toNat x }

/-- A floating-point register. -/
def fpr (c : Cpu) (r : Reg) : Word := mGet 0 c.f r.toNat

/-- Write a floating-point register. -/
def setFpr (r : Reg) (x : Word) (c : Cpu) : Cpu := { c with f := mPut 0 c.f r.toNat x }

/-- A vector register. -/
def vpr (c : Cpu) (r : Reg) : BitVec 256 := mGet 0 c.v r.toNat

/-- Write a vector register. -/
def setVpr (r : Reg) (x : BitVec 256) (c : Cpu) : Cpu := { c with v := mPut 0 c.v r.toNat x }

/-- A system register held by number. -/
def sysReg (c : Cpu) (n : Nat) : Word := mGet (sysDefault n) c.sys n

/-- Store a system register held by number. -/
def setSys (n : Nat) (x : Word) (c : Cpu) : Cpu := { c with sys := mPut (sysDefault n) c.sys n x }

/-- The encoding of a privilege level (03 Table 3.1). -/
def levelCode : Level → Nat
  | .u => 0
  | .s => 1
  | .m => 3

/-- The level an encoding names; 0b10 is never stored. -/
def levelOf (n : Nat) : Level := if n = 0 then .u else if n = 1 then .s else .m

/-- A tag's code (03 Table 3.6a). -/
def tagCode : Tag → Nat
  | .data => 0
  | .dptr => 1
  | .cptr => 2
  | .link => 3
  | .hndl => 4
  | .pois => 7

/-- The tag a code is read as: 5 and 6 deliver POIS (03 R63). -/
def tagOfCode (n : Nat) : Tag :=
  if n = 0 then .data else if n = 1 then .dptr else if n = 2 then .cptr else if n = 3 then .link
  else if n = 4 then .hndl else .pois

/-! ## Error records (16) -/

/-- Whether this socket's stamp is aligned (02 R49). -/
def aligned (s : State) : Bool := flag (obj s 0x1110 1) 1

/-- Length of the hour window (16 R439). -/
def hourTicks : Nat := 5760000000

/-- Classes recorded once per unit, class and hour (16 R439). -/
def hourly (cls : Nat) : Bool := cls = 0x0101 ∨ cls = 0x0201 ∨ cls = 0x0404 ∨ cls = 0x0502

/-- Send a record to the RAS controller with the unit's own number and stamp (16 R435, R437, R439). -/
def report (r : ErrRec) (s : State) : State :=
  let key := r.unit * 65536 + r.cls
  let win := s.stamp / hourTicks + 1
  if hourly r.cls ∧ mGet 0 s.ras.hour key = win then s
  else
    let u := mGet 0 s.ras.useq r.unit
    { s with ras := { s.ras with
        inbox := s.ras.inbox ++ [{ r with stamp := s.stamp, useq := u, unaligned := !(aligned s) }]
        useq := mPut 0 s.ras.useq r.unit ((u + 1) % 2 ^ 32)
        hour := if hourly r.cls then mPut 0 s.ras.hour key win else s.ras.hour } }

/-- The injection stamp of a received packet from its low stamp and wrap bit; with the wrap bit set it is a lower bound (02 R48). -/
def injected (s : State) (low : Nat) (wrap : Bool) : Nat :=
  let v := s.stamp - (s.stamp + 4096 - low % 4096) % 4096
  if wrap then v - 4096 else v

/-- A record about an access of a hart (16 Table 16.2a gives the access kind). -/
def reportAccess (h : Hart) (cls kind addr : Nat) (s : State) : State :=
  report { stamp := 0, useq := 0, unit := unitOf s h, cls := cls, sev := 2, encl := enclOf s h,
           core := (match h with | .core n => n | .prv _ => 0xFF),
           tile := (match h with | .core n => tileOf s n | .prv _ => 0xFF), addr := addr, d0 := kind } s

/-- A record about a device-owned unit. -/
def noteDev (unit cls sev d0 d1 : Nat) (s : State) : State :=
  report { stamp := 0, useq := 0, unit := unit, cls := cls, sev := sev, encl := 0x10, d0 := d0, d1 := d1 } s

/-- A record that concerns neither an enclosure nor a device-owned unit (log 36). -/
def noteNone (unit cls sev d0 d1 : Nat) (s : State) : State :=
  report { stamp := 0, useq := 0, unit := unit, cls := cls, sev := sev, encl := 0xFF, d0 := d0, d1 := d1 } s

/-- Something leaves the module at its lands. -/
def emit (o : Out) (s : State) : State := { s with out := s.out ++ [o] }

/-- Count in the current bandwidth window of an object (20 R536). -/
def bwAdd (idx sub n : Nat) (s : State) : State :=
  { s with bw := mPut 0 s.bw (okey idx sub) (mGet 0 s.bw (okey idx sub) + n) }

/-- The operating point asked for: the highest-numbered of the three requests (17 R474). -/
def oppTarget (c : Cpu) : Nat := max (fld (sysReg c 0xC30) 2 0) (max c.powerLim c.thermalLim)

/-- The operating point moves toward its target: a lower clock at once, a higher one when the voltage has arrived; a rise under way is
completed first (17 R474, R475). -/
def retarget (c : Cpu) : Cpu :=
  match c.moving with
  | some _ => c
  | none => if c.opp ≤ oppTarget c then { c with opp := oppTarget c } else { c with moving := some (oppTarget c) }

/-! ## Memory (01 R30-R34, 11, 12 R309) -/

/-- What a physical address is to the unit that accesses it (01 Tables 1.4, 1.5). -/
inductive Place where
  /-- memory that the accessing enclosure owns -/
  | mem
  /-- unbacked, or memory it does not own (12 Table 12.7) -/
  | unbacked
  /-- a PCIe window: the unit number of its root complex or link -/
  | pcie (unit : Nat)
  /-- device space -/
  | device
deriving DecidableEq, Repr

/-- GiB of the socket's own memory that are mapped (01 R31, 11 R274, R275). -/
def mappedGiB (s : State) : Nat := 15 * s.dram.capGiB - s.dram.csaGiB

/-- The owner byte of a granule of this socket (12 Table 12.5). -/
def granuleOwner (s : State) (g : Nat) : Nat :=
  nbits (objN s (0x3100 + g / 2048) (g / 8 % 256)) (8 * (g % 8) + 7) (8 * (g % 8))

/-- The socket link that reaches a socket while it is admitted (21 Table 21.10); none while unreached. -/
def linkTo (s : State) (sock : Nat) : Option Nat :=
  (List.range 4).find? (fun l => let w := objN s 0xC100 l
    decide (nbits w 2 0 = 3) && decide (nbits w 10 8 = sock))

/-- Whether memory stands behind a physical address, whichever enclosure owns it (01 R31, R32): the channel state area is not mapped (11 R275). -/
def backed (s : State) (pa : Nat) : Bool :=
  let top := pa >>> 48
  decide (top ≤ 4) && (if top = s.socket then decide ((pa % 2 ^ 48) >>> 30 < mappedGiB s) else (linkTo s top).isSome)

/-- Where an access for enclosure `e` (0x10 for device-owned requests) to a physical address goes. -/
def placeOf (s : State) (e pa : Nat) : Place :=
  let top := pa >>> 48
  if pa ≥ 2 ^ 52 then .unbacked
  else if top ≤ 4 then
    if top = s.socket then
      let g := (pa % 2 ^ 48) >>> 30
      if g < 15 * s.dram.capGiB ∧ granuleOwner s g = e then .mem else .unbacked
    else if (linkTo s top).isSome then .mem else .unbacked
  else if top ≤ 7 then .unbacked
  else if top ≤ 12 then
    if top - 8 = s.socket then .pcie (352 + nbits pa 47 46)
    else match linkTo s (top - 8) with
      | some l => .pcie (356 + l)
      | none => .unbacked
  else if top ≤ 14 then .unbacked
  else .device

/-- The line of a physical address. -/
def lineOf (pa : Nat) : Nat := pa / 64

/-- Whether a line's ciphertext was written under its granule's current key (11 R298). -/
def keyCurrent (s : State) (line : Nat) : Bool :=
  mGet 0 s.mem.lineGen line = mGet 0 s.mem.keyGen (line / 2 ^ 24)

/-- One octet of memory as every agent reads it (09 R217); unwritten octets are 0 (11 R297). -/
def memByte (s : State) (pa : Nat) : Byte :=
  if s.mem.noKeys || mGet false s.mem.noKey (pa / 2 ^ 30) then 0
  else
    let raw := mGet 0 s.mem.bytes pa
    if keyCurrent s (lineOf pa) then raw
    else Config.scrambled (mGet 0 s.mem.keyGen (pa / 2 ^ 30)) (lineOf pa) (pa % 64) raw

/-- The stored tag code of the word that contains an address. -/
def memTagCode (s : State) (pa : Nat) : Nat :=
  if s.mem.noKeys || mGet false s.mem.noKey (pa / 2 ^ 30) then 7 else (mGet (0 : BitVec 4) s.mem.tags (pa / 8)).toNat

/-- The tag of the word that contains an address (03 R63). -/
def memTag (s : State) (pa : Nat) : Tag := tagOfCode (memTagCode s pa)

/-- `n` octets of memory. -/
def memBytes (s : State) (pa n : Nat) : List Byte := (List.range n).map (fun i => memByte s (pa + i))

/-- A little-endian number of `n` octets of memory (00 R7). -/
def memNat (s : State) (pa n : Nat) : Nat := leNat (memBytes s pa n)

/-- Write one octet of the byte table. -/
def putByte (pa : Nat) (b : Byte) (s : State) : State :=
  { s with mem := { s.mem with bytes := mPut 0 s.mem.bytes pa b } }

/-- Write octets of the byte table one after another. -/
def putBytes : Nat → List Byte → State → State
  | _, [], s => s
  | pa, b :: bs, s => putBytes (pa + 1) bs (putByte pa b s)

/-- Store a word's tag code. -/
def putTagCode (pa code : Nat) (s : State) : State :=
  { s with mem := { s.mem with tags := mPut 0 s.mem.tags (pa / 8) (BitVec.ofNat 4 code) } }

/-- Store a word's tag. -/
def putTag (pa : Nat) (t : Tag) (s : State) : State := putTagCode pa (tagCode t) s

/-- Bring a line under its granule's current key, keeping what it reads as: a line written in part is read, merged and encrypted whole (11 R283, R295). -/
def rekeyLine (line : Nat) (s : State) : State :=
  if keyCurrent s line then s
  else
    let bs := memBytes s (64 * line) 64
    let s := putBytes (64 * line) bs s
    { s with mem := { s.mem with lineGen := mPut 0 s.mem.lineGen line (mGet 0 s.mem.keyGen (line / 2 ^ 24)) } }

/-- A line's octets and tag codes. -/
def getLine (s : State) (line : Nat) : Line :=
  ⟨BitVec.ofNat 512 (memNat s (64 * line) 64),
   BitVec.ofNat 32 ((List.range 8).foldr (fun i a => memTagCode s (64 * line + 8 * i) + a * 16) 0)⟩

/-- Replace a line's octets and tag codes. -/
def setLine (line : Nat) (l : Line) (s : State) : State :=
  let s := putBytes (64 * line) (leBytes 64 l.data.toNat) (rekeyLine line s)
  (List.range 8).foldl (fun s i => putTagCode (64 * line + 8 * i) (fld l.tags (4 * i + 3) (4 * i)) s) s

/-- The words that `n` octets at an address touch, by their addresses. -/
def wordsOf (pa n : Nat) : List Nat :=
  (List.range ((pa % 8 + n + 7) / 8)).map (fun i => 8 * (pa / 8 + i))

/-- Tags after a store: a full-word store gives its tag; any other gives DATA, but a POIS word stays POIS (03 Table 3.7). -/
def storeTags (pa n : Nat) (t : Option Tag) (s : State) : State :=
  match t with
  | some t => putTag pa t s
  | none => (wordsOf pa n).foldl (fun s w => if memTag s w = .pois then s else putTag w .data s) s

/-- Perform a store of octets within one line, with the tag of a full-word store. -/
def storeBytes (pa : Nat) (bs : List Byte) (t : Option Tag) (s : State) : State :=
  storeTags pa bs.length t (putBytes pa bs (rekeyLine (lineOf pa) s))

/-- A line of data 0 with eight tags of one code. -/
def zeroLine (code : Nat) : Line := ⟨0, BitVec.ofNat 32 (code * 0x11111111)⟩

/-- Octets written by a device-owned unit: whole words become DATA, other words follow a narrow write (11 R283). -/
def dmaWrite : Nat → List Byte → Nat → State → State
  | _, [], _, s => s
  | _, _, 0, s => s
  | pa, bs, fuel + 1, s =>
    let n := min (64 - pa % 64) bs.length
    let now := bs.take n
    let s := putBytes pa now (rekeyLine (lineOf pa) s)
    let s := (wordsOf pa n).foldl (fun s w =>
      if (pa ≤ w ∧ w + 8 ≤ pa + n) ∨ memTag s w ≠ .pois then putTag w .data s else s) s
    dmaWrite (pa + n) (bs.drop n) fuel s

/-- Whether any word that `n` octets at an address touch is POIS. -/
def anyPois (s : State) (pa n : Nat) : Bool := (wordsOf pa n).any (fun w => decide (memTag s w = .pois))

end Sys2Proof.Machine
end

