-- ==== Sys2Proof/Machine/Count.lean ====
section
/-! DEFINITION. The performance counters of a core (20 R531-R533). -/

namespace Sys2Proof.Machine
open Sys2Proof

/-! ## Counting (20) -/

/-- The counter register of PMCi and its selector (20 Table 20.1). -/
def pmcNum (i : Nat) : Nat := 0x448 + i
def pmevtNum (i : Nat) : Nat := 0x450 + i

/-- A core in CS0 (17 Table 17.6): it runs, and no debug session has halted it. -/
def inCs0 (c : Cpu) : Bool := decide (c.run = .running) && !c.halted

/-- Whether PMCi counts an event at the current level (20 R531, R532); in CS1, CS3 and a failover pause no counter counts (20 R530). -/
def pmcCounts (c : Cpu) (ev i : Nat) : Bool :=
  let w := sysReg c (pmevtNum i)
  inCs0 c && flag w 11 && flag w (match c.level with | .u => 8 | .s => 9 | .m => 10) && decide (fld w 7 0 = ev) &&
    !(decide (i % 2 = 1) && flag w 12)

/-- Add to one counter: the new core, and whether it wrapped. -/
def pmcAdd (i k : Nat) (c : Cpu) : Cpu × Bool :=
  let v := (sysReg c (pmcNum i)).toNat + k
  (setSys (pmcNum i) (BitVec.ofNat 64 (v % 2 ^ 48)) c, decide (2 ^ 48 ≤ v))

/-- A wrap of PMCi that is not carried on sets OVF and may raise the performance source (20 R533): the flag says it was raised. -/
def pmcWrapped (i : Nat) (c : Cpu) : Cpu × Bool :=
  (setSys 0x461 (setBit (sysReg c 0x461) i true) c, flag (sysReg c (pmevtNum i)) 13)

/-- Count `k` of an event in PMCi, with the carry into a chained odd counter (20 R532): the core and whether its source is raised. -/
def pmcCount (ev k i : Nat) (r : Cpu × Bool) : Cpu × Bool :=
  if ¬ pmcCounts r.1 ev i then r
  else
    match pmcAdd i k r.1 with
    | (c, false) => (c, r.2)
    | (c, true) =>
      let odd := sysReg c (pmevtNum (i + 1))
      if i % 2 = 0 ∧ flag odd 12 then
        (if ¬ flag odd 11 then (c, r.2)
         else match pmcAdd (i + 1) 1 c with
          | (c, false) => (c, r.2)
          | (c, true) => let w := pmcWrapped (i + 1) c; (w.1, r.2 || w.2))
      else let w := pmcWrapped i c; (w.1, r.2 || w.2)

/-- Raise a core's local interrupt source: 0 timer, 1 performance. -/
def raiseLocal (n k : Nat) (s : State) : State := { s with localPend := mPut false s.localPend (2 * n + k) true }

/-- Count `k` of an event on a core (20 Table 20.5). -/
def countEv (n ev k : Nat) (s : State) : State :=
  let r := (List.range 8).foldl (fun r i => pmcCount ev k i r) (coreOf s n, false)
  let s := setCpu (.core n) r.1 s
  if r.2 then raiseLocal n 1 s else s

/-- Count an event of a hart; engines have no counters. -/
def countH (h : Hart) (ev k : Nat) (s : State) : State :=
  match h with | .core n => countEv n ev k s | .prv _ => s

end Sys2Proof.Machine
end

