-- ==== Sys2Proof/Machine/Mesh.lean ====
section
/-! DEFINITION. The mesh (01 R21-R23, 10 R236-R242, R265, R269): where a flit goes, the buffers it stands in, and its arrival. -/

namespace Sys2Proof.Machine
open Sys2Proof

/-! ## Flits on the mesh (01 R22, R23, 20 Table 20.6) -/

/-- Row of an I/O die's unit k of its kind, IO-W numbering (01 Table 1.3). -/
def unitRow (unit : Nat) : Option Nat :=
  if 256 ≤ unit ∧ unit < 272 then
    let k := (unit - 256) % 8
    some (if k < 4 then 2 * k + 1 else 2 * k + 2)
  else if 272 ≤ unit ∧ unit < 336 then
    let k := (unit - 272) % 32 / 4
    some (if k < 4 then 2 * k + 2 else 2 * k + 1)
  else if 336 ≤ unit ∧ unit < 344 then
    let k := (unit - 336) % 4
    some (if k = 0 then 2 else if k = 1 then 6 else if k = 2 then 9 else 13)
  else if 344 ≤ unit ∧ unit < 352 then
    let k := (unit - 344) % 4
    some (if k = 0 then 4 else if k = 1 then 8 else if k = 2 then 11 else 15)
  else if 352 ≤ unit ∧ unit < 360 then some (if unit % 2 = 0 then 0 else 17)
  else none

/-- Whether an I/O unit of Table 1.3 is on IO-E. -/
def onIoE (unit : Nat) : Bool :=
  if unit < 272 then decide (264 ≤ unit) else if unit < 336 then decide (304 ≤ unit) else if unit < 344 then decide (340 ≤ unit)
  else if unit < 352 then decide (348 ≤ unit) else decide (unit % 4 ≥ 2)

/-- The router where a unit's traffic enters the mesh, and the port by which it leaves to the unit: 4 local, 3 W, 2 E. -/
def unitAt (unit : Nat) : Option (Nat × Nat × Nat) :=
  if unit < 216 then some (unit % 12, unit / 12, 4)
  else (unitRow unit).map (fun r => if onIoE unit then (11, r, 2) else (0, r, 3))

/-- The output ports a flit leaves by, X first and then Y (01 R22): router and port, N 0, S 1, E 2, W 3, local 4. -/
def meshPath (src dst : Nat) : List (Nat × Nat) :=
  match unitAt src, unitAt dst with
  | some (x, y, _), some (u, v, p) =>
    let xs := if x ≤ u then (List.range (u - x)).map (fun i => (12 * y + x + i, 2)) else (List.range (x - u)).map (fun i => (12 * y + x - i, 3))
    let ys := if y ≤ v then (List.range (v - y)).map (fun i => (12 * (y + i) + u, 1)) else (List.range (y - v)).map (fun i => (12 * (y - i) + u, 0))
    xs ++ ys ++ [(12 * v + u, p)]
  | _, _ => []

/-- Source, destination and network of a message (02 Table 2.5). -/
def msgEnds : Msg → Nat × Nat × Nat
  | .req _ q => (q.src, q.dest, 0)
  | .snp _ q => (q.src, q.dest, 1)
  | .rsp _ q => (q.src, q.dest, 2)
  | .dat _ q => (q.src, q.dest, 3)

/-- The EPOCH bit a message carries. -/
def msgEpoch : Msg → Bool
  | .req _ q => q.epoch
  | .snp _ q => q.epoch
  | .rsp _ q => q.epoch
  | .dat _ q => q.epoch

/-- A message with the epoch and low stamp of its injection (10 R238, R265). -/
def stampMsg (epoch : Bool) (low : Nat) : Msg → Msg
  | .req o q => .req o { q with epoch := epoch, wrap := false, lstamp := low }
  | .snp o q => .snp o { q with epoch := epoch, wrap := false, lstamp := low }
  | .rsp o q => .rsp o { q with epoch := epoch, wrap := false, lstamp := low }
  | .dat o q => .dat o { q with epoch := epoch, wrap := false, lstamp := low }

/-! ## Buffers and movement (10 R240, R241) -/

/-- Coordinates of a router. -/
def routerX (r : Nat) : Nat := r % 12
def routerY (r : Nat) : Nat := r / 12

/-- Whether an input port of a router stands at a die boundary: between compute dies at columns 5 and 6 and rows 8 and 9, and toward the
I/O dies at the outer columns (01 Table 1.1). -/
def dieEdge (r p : Nat) : Bool :=
  (p = 3 && (routerX r = 0 || routerX r = 6)) || (p = 2 && (routerX r = 5 || routerX r = 11)) ||
  (p = 0 && routerY r = 9) || (p = 1 && routerY r = 8)

/-- Flits an input port holds for a network (10 R241). -/
def portRoom (net r p : Nat) : Nat := if net = 3 then (if dieEdge r p then 24 else 16) else (if dieEdge r p then 16 else 8)

/-- Flits of a network in an input port's buffer. -/
def portHeld (fs : List Flit) (net r p : Nat) : Nat :=
  (fs.filter (fun f => decide (f.pos = some (r, p)) && decide ((msgEnds f.msg).2.2 = net))).length

/-- The router and input port where a unit's flits enter. -/
def entryPort (unit : Nat) : Option (Nat × Nat) := (unitAt unit).map (fun u => (12 * u.2.1 + u.1, u.2.2))

/-- The output port a flit takes at a router, X first and then Y; none where it leaves the mesh to its unit. -/
def routeOut (r dest : Nat) : Option Nat :=
  match unitAt dest with
  | none => none
  | some (u, v, _) =>
    if routerX r < u then some 2 else if u < routerX r then some 3 else if routerY r < v then some 1 else if v < routerY r then some 0 else none

/-- The router and input port beyond an output port. -/
def portBeyond (r o : Nat) : Nat × Nat :=
  if o = 0 then (r - 12, 1) else if o = 1 then (r + 12, 0) else if o = 2 then (r + 1, 3) else (r - 1, 2)

/-- Where the flits under way would move: the flit's place in the list, its router, input, output and network. Only the head of a buffer
moves. -/
def movers (fs : List Flit) : List (Nat × Nat × Nat × Nat × Nat) :=
  (fs.zipIdx).filterMap (fun x =>
    match x.1.pos with
    | none => none
    | some (r, p) =>
      let e := msgEnds x.1.msg
      let head := !((fs.take x.2).any (fun g => decide (g.pos = some (r, p)) && decide ((msgEnds g.msg).2.2 = e.2.2)))
      match routeOut r e.2.1 with
      | none => none
      | some o => if head ∧ x.1.wait = 0 then some (x.2, r, p, o, e.2.2) else none)

/-- The arbiter of an output port (10 R241): the next input after the one served last. -/
def arbPort (last : Nat) (ps : List Nat) : Option Nat :=
  ((List.range 5).map (fun i => (last + 1 + i) % 5)).find? (fun p => ps.contains p)

/-- Place one flit that waits at its sender, when its entry buffer has room. -/
def injectOne (epoch : Bool) (stamp : Nat) (fs : List Flit) (k : Nat) : List Flit :=
  match fs[k]? with
  | some f =>
    (match f.pos, entryPort (msgEnds f.msg).1 with
     | none, some (r, p) =>
       let net := (msgEnds f.msg).2.2
       let older := (fs.take k).any (fun g => decide (g.pos = none) && decide ((msgEnds g.msg).1 = (msgEnds f.msg).1 ∧ (msgEnds g.msg).2.2 = net))
       if portHeld fs net r p < portRoom net r p ∧ older = false then
         fs.set k { f with msg := stampMsg epoch (stamp % 4096) f.msg, at_ := stamp, pos := some (r, p) }
       else fs
     | _, _ => fs)
  | none => fs

/-- One mesh cycle (10 R240, R241): each output takes one flit by round robin, toward a buffer that had a free slot; a die boundary costs
two cycles more. -/
def meshCycle (s : State) : State :=
  if s.net = [] then s
  else
    let fs := s.net
    let ms := movers fs
    let outs := (ms.map (fun m => (m.2.1, m.2.2.2.1, m.2.2.2.2))).eraseDups
    let won := outs.filterMap (fun o =>
      let key := (o.1 * 5 + o.2.1) * 4 + o.2.2
      let mine := ms.filter (fun m => decide ((m.2.1, m.2.2.2.1, m.2.2.2.2) = o))
      let b := portBeyond o.1 o.2.1
      if portRoom o.2.2 b.1 b.2 ≤ portHeld fs o.2.2 b.1 b.2 then none
      else match arbPort (mGet 4 s.mesh.rr key) (mine.map (fun m => m.2.2.1)) with
        | none => none
        | some p => (mine.find? (fun m => decide (m.2.2.1 = p))).map (fun m => (m.1, key, p, b)))
    let moved := (fs.zipIdx).map (fun x =>
      match won.find? (fun w => decide (w.1 = x.2)) with
      | some w => { x.1 with pos := some w.2.2.2, wait := if dieEdge w.2.2.2.1 w.2.2.2.2 then 2 else 0 }
      | none => { x.1 with wait := x.1.wait - 1 })
    let placed := (List.range moved.length).foldl (injectOne s.mesh.epoch s.stamp) moved
    { s with net := placed, mesh := { s.mesh with rr := won.foldl (fun m w => mPut 4 m w.2.1 w.2.2.1) s.mesh.rr } }

/-- Mesh cycles that end between two successive stamps: four in three ticks (02 Table 2.1). -/
def meshCyclesIn (stamp : Nat) : Nat := 4 * (stamp + 1) / 3 - 4 * stamp / 3

/-- The mesh during one stamp tick. -/
def meshTick (s : State) : State :=
  let s := meshCycle s
  if meshCyclesIn s.stamp = 2 then meshCycle s else s

/-! ## Sending and receiving -/

/-- Send a message: it enters its sender's router, or waits at its sender while that buffer is full. -/
def send (m : Msg) (s : State) : State :=
  let net := (msgEnds m).2.2
  let wait := s.net.any (fun g => decide (g.pos = none) && decide ((msgEnds g.msg).1 = (msgEnds m).1 ∧ (msgEnds g.msg).2.2 = net))
  let pos := match entryPort (msgEnds m).1 with
    | some (r, p) => if portHeld s.net net r p < portRoom net r p ∧ wait = false then some (r, p) else none
    | none => none
  { s with net := s.net ++ [⟨m, s.stamp, pos, 0⟩] }

/-- Send messages. -/
def sends (ms : List Msg) (s : State) : State := ms.foldl (fun s m => send m s) s

/-- The messages under way, in the order of their sending. -/
def msgs (s : State) : List Msg := s.net.map (·.msg)

/-- Count a delivered flit at every port it left; the local path of a tile is no router port (10 R248). -/
def meshCount (m : Msg) (s : State) : State :=
  let e := msgEnds m
  if e.1 = e.2.1 then s
  else (meshPath e.1 e.2.1).foldl (fun s p => bwAdd (0x9100 + p.1) (4 * p.2 + e.2.2) 1 s) s

/-- The message was received: it is no longer on its way. -/
def received (m : Msg) (s : State) : State := meshCount m { s with net := s.net.eraseP (fun f => decide (f.msg = m)) }

/-- A message under way cannot arrive yet: an older one with its sender, destination and network comes first (10 R269, 09 R233). A message
that is not under way comes from outside the model. -/
def overtakes (m : Msg) (s : State) : Bool :=
  (s.net.any (fun f => decide (f.msg = m))) &&
    (s.net.takeWhile (fun f => !decide (f.msg = m))).any (fun f => decide (msgEnds f.msg = msgEnds m))

/-- A message arrives: it leaves the mesh, and has its effect. -/
def arrives (m : Msg) (act : State → State) (s : State) : State := if overtakes m s then s else act (received m s)

/-! ## Socket links as the mesh sees them -/

/-- A link's end. -/
def linkAt (s : State) (l : Nat) : SlLink := mGet {} s.links l

/-- Change a link's end. -/
def modLink (l : Nat) (f : SlLink → SlLink) (s : State) : State := { s with links := mPut {} s.links l (f (linkAt s l)) }

/-- UP, ADMITTED, REFUSED, PEER of SL_STATUS. -/
def linkUp (s : State) (l : Nat) : Bool := flag (obj s 0xC100 l) 0
def linkAdmitted (s : State) (l : Nat) : Bool := flag (obj s 0xC100 l) 1
def linkPeer (s : State) (l : Nat) : Nat := fld (obj s 0xC100 l) 10 8

/-- The admitted links of a link's group, in SL order (21 R555, R560). -/
def groupOf (s : State) (peer : Nat) : List Nat :=
  (List.range 4).filter (fun l => linkUp s l && linkAdmitted s l && decide (linkPeer s l = peer))

/-- GROUP of every link shows the links of its group (21 Table 21.10). -/
def regroup (s : State) : State :=
  (List.range 4).foldl (fun s l =>
    setObjFld 0xC100 l 15 12 (if linkUp s l then (groupOf s (linkPeer s l)).length else 0) s) s

/-- The link of a line's messages within a group (21 R560). -/
def linkOfLine (group : List Nat) (line : Nat) : Option Nat :=
  let pa := line * 64
  group[(nbits pa 13 6 ^^^ nbits pa 21 14) % group.length]?

/-! ## Homes (10 R242, R264, R265) -/

/-- Home slice position of a line (08 R196). -/
def slicePos (line : Nat) : Nat := line / 4 % 216

/-- The socket that homes a line (10 R264). -/
def homeSocket (line : Nat) : Nat := line / 2 ^ 42

/-- Whether another socket homes a line. -/
def remoteLine (s : State) (line : Nat) : Bool := decide (homeSocket line ≠ s.socket)

/-- The router that answers for a slice position under the current epoch, plus 512 with SPR. -/
def sliceTarget (s : State) (p : Nat) : Nat := mGet p (if s.mesh.epoch then s.mesh.table1 else s.mesh.table0) p

/-- The slice position that a router and SPR bit answer for. -/
def posOf (s : State) (dest : Nat) (spr : Bool) : Option Nat :=
  let w := dest + (if spr then 512 else 0)
  if w < 216 ∧ sliceTarget s w = w then some w
  else match (List.range 216).find? (fun p => decide (sliceTarget s p = w)) with
  | some p => some p
  | none => (List.range 216).find? (fun p => decide (mGet p (if s.mesh.epoch then s.mesh.table0 else s.mesh.table1) p = w))

/-- The link unit that carries the messages of a line toward a peer (10 R264, 21 R560). -/
def lineUnit (s : State) (peer line : Nat) : Nat := 356 + (linkOfLine (groupOf s peer) line).getD 0

/-- Where a request of a line goes: its slice, or the link unit toward its socket (10 R242, R264), plus 512 with SPR. -/
def homeTarget (s : State) (line : Nat) : Nat :=
  if remoteLine s line then lineUnit s (homeSocket line) line else sliceTarget s (slicePos line)

/-! ## The data of a line (10 R239, 11 R283) -/

/-- The two DAT flits of a line. -/
def lineFlits (dop dest src txid : Nat) (spr : Bool) (l : Line) (s : State) : List Msg :=
  let flit (hi : Bool) : Msg :=
    .dat dop { dest := dest, src := src, txid := txid, be := BitVec.allOnes 32, half := hi, spr := spr, epoch := s.mesh.epoch, lstamp := s.stamp % 4096,
               data := BitVec.ofNat 256 (fld l.data (if hi then 511 else 255) (if hi then 256 else 0)),
               tags := BitVec.ofNat 16 (fld l.tags (if hi then 31 else 15) (if hi then 16 else 0)) }
  [flit false, flit true]

/-- Merge a half's enabled octets into a line; tags word by word (11 R283). -/
def mergeHalf (f : DatFlit) (l : Line) : Line :=
  let base := if f.half then 32 else 0
  let d := (List.range 32).foldl (fun a i => if f.be.toNat.testBit i then
      a - (nbits a (8 * (base + i) + 7) (8 * (base + i)) <<< (8 * (base + i))) + (fld f.data (8 * i + 7) (8 * i) <<< (8 * (base + i)))
    else a) l.data.toNat
  let t := (List.range 4).foldl (fun a w =>
    let be := nbits f.be.toNat (8 * w + 7) (8 * w)
    let lo := base / 2 + 4 * w
    let old := nbits a (lo + 3) lo
    let new := if be = 0 then old else if be = 255 then fld f.tags (4 * w + 3) (4 * w) else if old = 7 then 7 else 0
    a - (old <<< lo) + (new <<< lo)) l.tags.toNat
  ⟨BitVec.ofNat 512 d, BitVec.ofNat 32 t⟩

end Sys2Proof.Machine
end

