-- ==== Sys2Proof/Machine/Cache.lean ====
section
/-! DEFINITION. Caches, home slices and the snoop filter (08, 10): where copies of a line stand. The octets of a line are held once,
in `Mem`; these operations move its copies. A request of Table 10.8 whose line is quiet at its home is run from start to end at once;
any other goes as messages (log 10). -/

namespace Sys2Proof.Machine
open Sys2Proof

variable {α : Type}

/-! ## Sets of ways -/

/-- The way of a set whose entry satisfies `p`. -/
def psFind (p : α → Bool) (q : PSet α) : Option Nat := (q.ways.find? (fun e => p e.2)).map (·.1)

/-- The entry of a set that satisfies `p`. -/
def psEntry (p : α → Bool) (q : PSet α) : Option α := (q.ways.find? (fun e => p e.2)).map (·.2)

/-- The victim of a set of `2^k` ways (08 R197): the lowest eligible invalid way, otherwise the tree's choice. -/
def psVictim (k : Nat) (elig : Nat → Bool) (q : PSet α) : Nat :=
  match (List.range (2 ^ k)).find? (fun w => elig w && (mFind q.ways w).isNone) with
  | some w => w
  | none => treeVictim elig q.tree k 1 0

/-- A hit or fill of a way updates the tree (08 R197). -/
def psTouch (k w : Nat) (q : PSet α) : PSet α := { q with tree := treeTouch w k 1 q.tree }

/-- Write an entry into a way and update the tree. -/
def psPut (k w : Nat) (x : α) (q : PSet α) : PSet α := psTouch k w { q with ways := mIns q.ways w x }

/-- Change the entries of a set that satisfy `p`; no tree moves. -/
def psMap (p : α → Bool) (f : α → Option α) (q : PSet α) : PSet α :=
  { q with ways := q.ways.filterMap (fun e => if p e.2 then (f e.2).map (fun x => (e.1, x)) else some e) }

/-- A set of a cache. -/
def setOf (m : FMap (PSet α)) (i : Nat) : PSet α := mGet {} m i

/-- Replace a set of a cache. -/
def putSet [DecidableEq α] (i : Nat) (q : PSet α) (m : FMap (PSet α)) : FMap (PSet α) := mPut {} m i q

/-! ## Interleave (11 R273, R274) -/

/-- Channel of a physical address. -/
def chanOf (pa : Nat) : Nat := nbits pa 11 8 ^^^ nbits pa 19 16 ^^^ nbits pa 27 24

/-- Byte address within the channel. -/
def chanAddr (pa : Nat) : Nat := (pa % 2 ^ 48) / 4096 * 256 + pa % 256

/-- The physical address (within the window) of a channel address of a channel. -/
def chanBack (ch c : Nat) : Nat :=
  let hi := c / 256
  (hi * 16 + (ch ^^^ nbits hi 7 4 ^^^ nbits hi 15 12)) * 256 + c % 256

/-- Subchannel of a line. -/
def subchOf (line : Nat) : Nat := nbits (chanAddr (64 * line)) 6 6

/-- The channel's tag line of a data line (11 R276). -/
def tagLineOf (line : Nat) : Nat := chanAddr (64 * line) / 64 / 16

/-- The sixteen data lines of a channel's tag line, in the window of this socket. -/
def tagLineLines (s : State) (ch tl : Nat) : List Nat :=
  (List.range 16).map (fun i => (s.socket * 2 ^ 48 + chanBack ch (64 * (16 * tl + i))) / 64)

/-! ## Tag caches (11 R277) -/

/-- A controller's tag cache set. -/
def tagSet (s : State) (ch tl : Nat) : PSet TagLine := setOf s.dram.tagc (ch * 512 + tl % 512)

/-- Whether the tag cache holds a tag line. -/
def tagHit (s : State) (ch tl : Nat) : Bool := (psFind (fun x : TagLine => decide (x.tl = tl)) (tagSet s ch tl)).isSome

/-- A tag line is used: it is allocated on a miss, its tree touched, and it becomes dirty by a write. -/
def tagUse (ch tl : Nat) (write : Bool) (s : State) : State :=
  let q := tagSet s ch tl
  let i := ch * 512 + tl % 512
  match q.ways.find? (fun e => decide (e.2.tl = tl)) with
  | some (w, x) => { s with dram := { s.dram with tagc := putSet i (psPut 4 w { x with dirty := x.dirty || write } q) s.dram.tagc } }
  | none =>
    let w := psVictim 4 (fun _ => true) q
    { s with dram := { s.dram with tagc := putSet i (psPut 4 w ⟨tl, write⟩ q) s.dram.tagc } }

/-! ## Placement (08 Table 8.1, R196; 10 R253) -/

/-- LLC set of a line. -/
def llcSet (line : Nat) : Nat := line / 4 / 216 % 384
/-- Snoop-filter set of a line. -/
def sfSet (line : Nat) : Nat := (4 * (line / 4 / 216) + line % 4) % 2048
/-- L1I, L1D and L2 sets of a line. -/
def l1iSet (line : Nat) : Nat := line % 256
def l1dSet (line : Nat) : Nat := line % 128
def l2Set (line : Nat) : Nat := line % 1024

/-! ## L1 and L2 of one tile -/

/-- The state of a line in a tile's L2; none is I. -/
def l2State (s : State) (t line : Nat) : Option L2State :=
  (psEntry (fun e => decide (e.line = line)) (setOf (tileAt s t).l2 (l2Set line))).map (·.st)

/-- Whether the L1D of a tile holds a line, and its dirty bit. -/
def l1dState (s : State) (t line : Nat) : Option Bool :=
  (psEntry (fun e => decide (e.line = line)) (setOf (tileAt s t).l1d (l1dSet line))).map (·.dirty)

/-- Set a line's L2 state, or drop it. -/
def l2SetState (t line : Nat) (st : Option L2State) : State → State :=
  modTile t (fun x => { x with
    l2 := putSet (l2Set line) (psMap (fun e => decide (e.line = line)) (fun e => st.map (fun st => { e with st := st })) (setOf x.l2 (l2Set line))) x.l2 })

/-- Drop a line from the L1I. -/
def l1iDrop (t line : Nat) : State → State :=
  modTile t (fun x => { x with
    l1i := putSet (l1iSet line) (psMap (fun e => decide (e.line = line)) (fun _ => none) (setOf x.l1i (l1iSet line))) x.l1i })

/-- Drop a line from the L1D; a load that watches it loses it (06 R149). -/
def l1dDrop (t line : Nat) : State → State :=
  modTile t (fun x => { x with
    l1d := putSet (l1dSet line) (psMap (fun e => decide (e.line = line)) (fun _ => none) (setOf x.l1d (l1dSet line))) x.l1d
    watch := x.watch.filter (fun l => l ≠ line) })

/-- Set an L1D line's dirty bit. -/
def l1dDirty (t line : Nat) (d : Bool) : State → State :=
  modTile t (fun x => { x with
    l1d := putSet (l1dSet line) (psMap (fun e => decide (e.line = line)) (fun e => some { e with dirty := d }) (setOf x.l1d (l1dSet line))) x.l1d })

/-- Forget the copy beneath a dirty L1D line, L2 line or LLC sector. -/
def dropUnder1 (line : Nat) (s : State) : State := { s with mem := { s.mem with under1 := mDel s.mem.under1 line } }
def dropUnder2 (line : Nat) (s : State) : State := { s with mem := { s.mem with under2 := mDel s.mem.under2 line } }
def dropUnder3 (line : Nat) (s : State) : State := { s with mem := { s.mem with under3 := mDel s.mem.under3 line } }

/-- What memory itself holds of a line: the copy beneath every dirty one (08 R204). -/
def dramCopy (s : State) (line : Nat) : Line :=
  match mFind s.mem.under3 line with
  | some l => l
  | none => match mFind s.mem.under2 line with
    | some l => l
    | none => getLine s line

/-- Remember what memory holds before an LLC sector becomes dirty. -/
def keepUnder3 (line : Nat) (s : State) : State :=
  if (mFind s.mem.under3 line).isSome then s
  else { s with mem := { s.mem with under3 := mIns s.mem.under3 line (dramCopy s line) } }

/-! ## LLC -/

/-- The LLC entry of a line's block and its way. -/
def llcFind (s : State) (line : Nat) : Option (Nat × LlcEntry) :=
  (setOf (sliceAt s (slicePos line)).llc (llcSet line)).ways.find? (fun e => !e.2.empty && decide (e.2.block = line / 4))

/-- Whether the line's LLC sector is valid. -/
def llcValid (s : State) (line : Nat) : Bool :=
  match llcFind s line with | some (_, e) => flag e.valid (line % 4) | none => false

/-- Whether the line's LLC sector is dirty. -/
def llcDirty (s : State) (line : Nat) : Bool :=
  match llcFind s line with | some (_, e) => flag e.dirty (line % 4) | none => false

/-- A sector mask. -/
def sectorBit (line : Nat) : BitVec 4 := BitVec.ofNat 4 (2 ^ (line % 4))

/-- Replace the LLC set of a line. -/
def setLlc (line : Nat) (q : PSet LlcEntry) : State → State :=
  modSlice (slicePos line) (fun x => { x with llc := putSet (llcSet line) q x.llc })

/-- Change the LLC entry of a line's block in place; no tree moves. -/
def llcMod (line : Nat) (f : LlcEntry → Option LlcEntry) (s : State) : State :=
  setLlc line (psMap (fun e => !e.empty && decide (e.block = line / 4)) f (setOf (sliceAt s (slicePos line)).llc (llcSet line))) s

/-- Memory is read for a line: its tag line is used (11 R277). -/
def memRead (line : Nat) (s : State) : State := tagUse (chanOf (64 * line)) (tagLineOf line) false s

/-- A line's data goes to memory, with its tags (11 R277, R283). -/
def memWritten (line : Nat) (s : State) : State := tagUse (chanOf (64 * line)) (tagLineOf line) true (dropUnder3 line s)

/-- The dirty sectors of an entry are written to memory (08 R195). -/
def entryWriteBack (e : LlcEntry) (s : State) : State :=
  (List.range 4).foldl (fun s i => if flag e.dirty i then memWritten (4 * e.block + i) s else s) s

/-- A hit of a line's sector updates the LLC tree (08 R197). -/
def llcTouch (line : Nat) (s : State) : State :=
  match llcFind s line with
  | some (w, _) => setLlc line (psTouch 4 w (setOf (sliceAt s (slicePos line)).llc (llcSet line))) s
  | none => s

/-- The data of a request comes from the LLC sector when it is valid, otherwise from memory (10 R252). -/
def homeRead (line : Nat) (s : State) : State := if llcValid s line then llcTouch line s else memRead line s

/-- Allocate the sector of a line (08 R194, R195): in its block's entry, or replacing a whole unlocked entry. -/
def llcAlloc (line : Nat) (dirty : Bool) (s : State) : State :=
  let s := if dirty then keepUnder3 line s else s
  let q := setOf (sliceAt s (slicePos line)).llc (llcSet line)
  match llcFind s line with
  | some (w, e) =>
    setLlc line (psPut 4 w { e with
      valid := e.valid ||| sectorBit line
      dirty := if dirty then e.dirty ||| sectorBit line else e.dirty } q) s
  | none =>
    let w := psVictim 4 (fun w => match mFind q.ways w with | some e => !e.lock | none => true) q
    let s := match mFind q.ways w with | some e => entryWriteBack e s | none => s
    setLlc line (psPut 4 w ⟨line / 4, false, false, sectorBit line, if dirty then sectorBit line else 0⟩ q) s

/-- Dirty data that reaches the home goes to a valid sector in place or is allocated (10 R252). -/
def homeTakeDirty (line : Nat) (s : State) : State :=
  dropUnder1 line (dropUnder2 line (llcAlloc line true s))

/-- A write placed without allocating (10 R262): in the LLC sector when valid, otherwise in memory. -/
def homePlace (line : Nat) (s : State) : State :=
  let s := if llcValid s line then
      llcTouch line (llcMod line (fun e => some { e with dirty := e.dirty ||| sectorBit line }) (keepUnder3 line s))
    else memWritten line s
  dropUnder1 line (dropUnder2 line s)

/-! ## Snoop filter -/

/-- The snoop-filter entry of a line. -/
def sfFind (s : State) (line : Nat) : Option SfEntry :=
  psEntry (fun e => decide (e.line = line)) (setOf (sliceAt s (slicePos line)).sf (sfSet line))

/-- Replace the filter set of a line. -/
def setSf (line : Nat) (q : PSet SfEntry) : State → State :=
  modSlice (slicePos line) (fun x => { x with sf := putSet (sfSet line) q x.sf })

/-- Drop a line's filter entry. -/
def sfDrop (line : Nat) (s : State) : State :=
  setSf line (psMap (fun e => decide (e.line = line)) (fun _ => none) (setOf (sliceAt s (slicePos line)).sf (sfSet line))) s

/-- The tiles an entry names as sharers: each of a marked group in coarse mode (10 R254). -/
def sfSharers (e : SfEntry) : List Nat :=
  if e.coarse then e.sharers.flatMap (fun g => (List.range 8).map (fun i => 8 * g + i)) else e.sharers

/-- Every tile an entry names. -/
def sfHolders (e : SfEntry) : List Nat :=
  (match e.own with | some o => o :: sfSharers e | none => sfSharers e)

/-- Whether a filter entry names a tile. -/
def sfNames (e : SfEntry) (t : Nat) : Bool := (sfHolders e).contains t

/-- Add a sharer; a fourth turns the entry coarse (10 R254). -/
def sfAddSharer (t : Nat) (e : SfEntry) : SfEntry :=
  if e.coarse then { e with sharers := if e.sharers.contains (t / 8) then e.sharers else e.sharers ++ [t / 8] }
  else if e.sharers.contains t then e
  else if e.sharers.length < 3 then { e with sharers := e.sharers ++ [t] }
  else { e with coarse := true, sharers := ((e.sharers ++ [t]).map (· / 8)).eraseDups }

/-- Shadow entries that hold a tracked line, or one taken from the L2, lose it (06 R157). -/
def shadowDrop (t line : Nat) : State → State :=
  modTile t (fun x => { x with shadow := x.shadow.filter (fun e => !(decide (e.line = line) && (e.tracked.isSome || e.fromL2))) })

/-- Take a line from a tile: its L1 and L2 copies and its tracked shadow entry go; dirty L1D data goes with the L2 line (08 R193). -/
def tileDrop (t line : Nat) (s : State) : State :=
  l1iDrop t line (l1dDrop t line (l2SetState t line none (shadowDrop t line s)))

/-- Whether a tile's L2 holds a line dirty. -/
def l2IsDirty (s : State) (t line : Nat) : Bool :=
  match l2State s t line with | some .m => true | some .o => true | _ => false

/-- Back-invalidate every holder an entry names (10 R255); dirty data goes to the LLC. -/
def backInval (e : SfEntry) (s : State) : State :=
  let dirty := (sfHolders e).any (fun t => l2IsDirty s t e.line)
  let s := (sfHolders e).foldl (fun s t => tileDrop t e.line s) s
  if dirty then homeTakeDirty e.line s else s

/-- Whether the home has a transaction under way for a line (10 R250). -/
def lineBusy (s : State) (line : Nat) : Bool :=
  (sliceAt s (slicePos line)).txns.any (fun x => decide (x.line = line ∧ x.req ≠ .rdNt))

/-- The victim of a full filter set (10 R255): the pseudo-LRU entry among those that are not busy. -/
def sfVictim (s : State) (line : Nat) : Nat :=
  let q := setOf (sliceAt s (slicePos line)).sf (sfSet line)
  psVictim 4 (fun w => match mFind q.ways w with | some x => !(lineBusy s x.line) | none => true) q

/-- Store a line's filter entry, replacing the pseudo-LRU entry that is not busy when the set is full (10 R255). -/
def sfStore (e : SfEntry) (s : State) : State :=
  let q := setOf (sliceAt s (slicePos e.line)).sf (sfSet e.line)
  match psFind (fun x => decide (x.line = e.line)) q with
  | some w => setSf e.line (psPut 4 w e q) s
  | none =>
    let w := sfVictim s e.line
    let s := match mFind q.ways w with | some x => backInval x s | none => s
    setSf e.line (psPut 4 w e (setOf (sliceAt s (slicePos e.line)).sf (sfSet e.line))) s

/-- The filter after a holder gives a line up (10 R254, R258). -/
def sfLeave (t line : Nat) (s : State) : State :=
  match sfFind s line with
  | none => s
  | some e =>
    if e.own = some t then
      if e.st = .x ∨ (e.sharers = [] ∧ e.rmt = []) then sfDrop line s else sfStore { e with own := none, st := .s } s
    else if e.coarse then s
    else
      let sh := e.sharers.filter (fun x => x ≠ t)
      if sh = [] ∧ e.own = none ∧ e.rmt = [] then sfDrop line s else sfStore { e with sharers := sh } s

/-! ## Evictions and fills of one tile -/

/-- A line leaves an L2 by replacement: dirty data and clean copies alike are offered to the LLC (08 R193, R194). -/
def l2Evict (t line : Nat) (s : State) : State :=
  let dirty := l2IsDirty s t line
  let s := tileDrop t line s
  let s := if dirty then homeTakeDirty line s else if llcValid s line then s else llcAlloc line false s
  sfLeave t line s

/-- Install a line in a tile's L2, replacing the pseudo-LRU way (08 R197). -/
def l2Fill (t line : Nat) (st : L2State) (s : State) : State :=
  let q := setOf (tileAt s t).l2 (l2Set line)
  match psFind (fun e => decide (e.line = line)) q with
  | some w => modTile t (fun x => { x with l2 := putSet (l2Set line) (psPut 4 w ⟨line, st⟩ (setOf x.l2 (l2Set line))) x.l2 }) s
  | none =>
    let w := psVictim 4 (fun _ => true) q
    let s := match mFind q.ways w with | some e => l2Evict t e.line s | none => s
    modTile t (fun x => { x with l2 := putSet (l2Set line) (psPut 4 w ⟨line, st⟩ (setOf x.l2 (l2Set line))) x.l2 }) s

/-- Touch a line in the L2. -/
def l2Touch (t line : Nat) : State → State :=
  modTile t (fun x =>
    let q := setOf x.l2 (l2Set line)
    match psFind (fun e => decide (e.line = line)) q with
    | some w => { x with l2 := putSet (l2Set line) (psTouch 4 w q) x.l2 }
    | none => x)

/-- Install or touch a line in the L1D; a dirty victim goes into its L2 line. -/
def l1dFill (t line : Nat) (s : State) : State :=
  let q := setOf (tileAt s t).l1d (l1dSet line)
  match psFind (fun e => decide (e.line = line)) q with
  | some w => modTile t (fun x => { x with l1d := putSet (l1dSet line) (psTouch 3 w q) x.l1d }) s
  | none =>
    let w := psVictim 3 (fun _ => true) q
    let gone := (mFind q.ways w).map (·.line)
    let s := match mFind q.ways w with | some e => if e.dirty then dropUnder1 e.line s else s | none => s
    modTile t (fun x => { x with
      l1d := putSet (l1dSet line) (psPut 3 w ⟨line, false⟩ q) x.l1d
      watch := x.watch.filter (fun l => decide (some l ≠ gone)) }) s

/-- Install or touch a line in the L1I. -/
def l1iFill (t line : Nat) : State → State :=
  modTile t (fun x =>
    let q := setOf x.l1i (l1iSet line)
    let q' := match psFind (fun e => decide (e.line = line)) q with
      | some w => psTouch 2 w q
      | none => psPut 2 (psVictim 2 (fun _ => true) q) ⟨line, false⟩ q
    { x with l1i := putSet (l1iSet line) q' x.l1i })

/-! ## Requests of Table 10.8, run at once -/

/-- A lost filter entry is rebuilt before a request of its line is served: every tile is snooped with SnpCleanInval (16 R447). -/
def sfRebuild (line : Nat) (s : State) : State :=
  match sfFind s line with
  | some e => if e.lost then sfDrop line (backInval e s) else s
  | none => s

/-- The state of a line that a tile's L2 or a tracked shadow entry holds. -/
def heldState (s : State) (t line : Nat) : Option L2State :=
  match l2State s t line with
  | some st => some st
  | none => ((tileAt s t).shadow.find? (fun e => decide (e.line = line) && e.tracked.isSome)).bind (·.tracked)

/-- RdShared by a tile: the state it is granted (10 Table 10.8). -/
def acquireShared (t line : Nat) (s : State) : State :=
  let s := sfRebuild line s
  match sfFind s line with
  | none => l2Fill t line .e (sfStore ⟨line, .x, some t, false, [], [], false⟩ (homeRead line s))
  | some e =>
    match e.st, e.own with
    | .s, _ => l2Fill t line .s (sfStore (sfAddSharer t e) (homeRead line s))
    | .o, _ => l2Fill t line .s (sfStore (sfAddSharer t e) (homeTakeDirty line s))
    | .x, some o =>
      if o = t then l2Fill t line .e (homeRead line s)
      else if l2IsDirty s o line then
        l2Fill t line .s (sfStore { sfAddSharer t e with st := .o } (homeTakeDirty line (l1dDirty o line false (l2SetState o line (some .o) s))))
      else l2Fill t line .s (sfStore { sfAddSharer t (sfAddSharer o e) with st := .s, own := none }
        (if (l2State s o line).isSome then l2SetState o line (some .s) s else homeRead line s))
    | .x, none => l2Fill t line .s (sfStore { sfAddSharer t e with st := .o } s)

/-- The tiles other than `t` whose L2 holds a line, among those its filter entry names. -/
def otherHolders (s : State) (t line : Nat) : List Nat :=
  match sfFind s line with
  | none => []
  | some e => (sfHolders e).filter (fun h => h ≠ t && (l2State s h line).isSome)

/-- Requests for ownership (10 Table 10.8). -/
inductive Own where
  | rdUnique
  | upgrade
  | claimZero
deriving DecidableEq, Repr

/-- What a tile asks for when it is to own a line: an upgrade of a line it holds, otherwise a read; DCZ asks for no data (08 R203). -/
def ownRequest (s : State) (t line : Nat) (dcz : Bool) : Own :=
  if dcz then .claimZero else if (l2State s t line).isSome then .upgrade else .rdUnique

/-- RdUnique, Upgrade or ClaimZero by a tile: every other copy goes; answers whether one did (10 Table 10.8, R263). An upgrade and a claim
discard another holder's dirty data: the requester holds its value, or overwrites it. -/
def acquireUnique (k : Own) (t line : Nat) (s : State) : State × Bool :=
  let s := sfRebuild line s
  let others := otherHolders s t line
  let given := others.any (fun h => l2IsDirty s h line)
  let owned : Bool := match sfFind s line with | some e => decide (e.st ≠ .s) | none => false
  let st : L2State := match k with
    | .rdUnique => if given then .m else .e
    | .upgrade => if owned then .m else .e
    | .claimZero => .m
  let s := others.foldl (fun s h => tileDrop h line s) s
  let s := match k with
    | .rdUnique => if given then homeTakeDirty line s else homeRead line s
    | _ => if given then dropUnder1 line s else s
  (l2Fill t line st (sfStore ⟨line, .x, some t, false, [], [], false⟩ s), others ≠ [])

/-- A hit of a core's load in its caches (06 R156, 08 R197, R201). -/
def hitRead (t line : Nat) (en : Bool) (s : State) : State :=
  if (l1dState s t line).isSome then l1dFill t line s
  else
    let s := l2Touch t line s
    if en then l1dFill t line s else s

/-- A hit of a core's fetch in its caches (08 R197, R201). -/
def hitFetch (t line : Nat) (en : Bool) (s : State) : State :=
  if (psFind (fun e : L1Entry => decide (e.line = line)) (setOf (tileAt s t).l1i (l1iSet line))).isSome then l1iFill t line s
  else
    let s := l2Touch t line s
    if en then l1iFill t line s else s

/-- A tracked line that a shadow entry holds is installed in the L2 and the entry freed (06 R156); with allocation disabled it is only
freed (08 R201). -/
def installShadow (t line : Nat) (en : Bool) (s : State) : State :=
  match (tileAt s t).shadow.find? (fun e => decide (e.line = line) && e.tracked.isSome && !e.dead) with
  | some e =>
    let s := modTile t (fun x => { x with shadow := x.shadow.filter (fun f => !(decide (f.line = line) && f.tracked.isSome && !f.dead)) }) s
    (match e.tracked with | some st => if en then l2Fill t line st s else s | none => s)
  | none => s

/-- A load that missed installs its line, and frees its shadow entry (06 R156); with allocation disabled nothing is installed (08 R201). -/
def installRead (t line : Nat) (en : Bool) (s : State) : State :=
  let s := modTile t (fun x => { x with shadow := x.shadow.filter (fun e => !(decide (e.line = line) && !e.dead)) }) s
  if en then l1dFill t line s else s

/-- A core's load of a quiet line through its caches (06 R154-R156); with allocation disabled a miss allocates nothing (08 R201). -/
def coreRead (t line : Nat) (en : Bool) (s : State) : State :=
  if (l1dState s t line).isSome ∨ (l2State s t line).isSome then installRead t line en (hitRead t line en s)
  else installRead t line en (if en then acquireShared t line s else s)

/-- A core's fetch of a quiet line. -/
def coreFetch (t line : Nat) (en : Bool) (s : State) : State :=
  if (l2State s t line).isSome then hitFetch t line en s
  else if en then l1iFill t line (acquireShared t line s) else s

/-- Every copy in an L2 goes; dirty data stays the coherent value (10 Table 10.8, RdUnique part). Answers whether one went, and whether one
was dirty. -/
def removeFromL2s (line : Nat) (s : State) : State × Bool × Bool :=
  match sfFind s line with
  | none => (s, false, false)
  | some e =>
    let held := (sfHolders e).any (fun h => (l2State s h line).isSome)
    let dirty := (sfHolders e).any (fun h => l2IsDirty s h line)
    (sfDrop line ((sfHolders e).foldl (fun s t => tileDrop t line s) s), held, dirty)

/-- Before a write at the home (10 R252, R261, R262): copies go, an owner's dirty data to the LLC unless the whole line is written. -/
def homeClear (line : Nat) (whole : Bool) (s : State) : State :=
  let r := removeFromL2s line s
  if r.2.2 && !whole then homeTakeDirty line r.1 else r.1

/-- A write at the home will stand in the LLC sector or in memory (08 R194, 10 R262). -/
def homePut (line : Nat) (alloc : Bool) (s : State) : State := if alloc then homeTakeDirty line s else homePlace line s

/-- Prepare a write at the home. -/
def homeWrite (line : Nat) (alloc whole : Bool) (s : State) : State := homePut line alloc (homeClear line whole s)

/-- An atomic performed at the home is ordered: the next one of the line within 256 mesh cycles is marked C (10 R263). -/
def noteFar (line : Nat) : State → State :=
  fun s => modSlice (slicePos line) (fun x => { x with farAt := mIns x.farAt line s.stamp }) s

/-- Prepare a write of the line a core owns: the copies beneath it are remembered (08 R198). With allocation disabled a line absent from the
L1D is written in the L2 (08 R201). -/
def ownedDirty (t line : Nat) (en : Bool) (s : State) : State :=
  let cur := getLine s line
  let s := if (mFind s.mem.under2 line).isSome then s
    else { s with mem := { s.mem with under2 := mIns s.mem.under2 line cur } }
  let in1 := en || (l1dState s t line).isSome
  let s := if l1dState s t line = some true ∨ in1 = false then s
    else { s with mem := { s.mem with under1 := mIns s.mem.under1 line cur } }
  let s := l2SetState t line (some .m) (hitRead t line en s)
  if in1 then l1dDirty t line true s else s

/-- Whether a tile owns a line. -/
def owns (s : State) (t line : Nat) : Bool := l2State s t line = some .m ∨ l2State s t line = some .e

/-- A core's store to a quiet line (06 R146, 08 R201): own it, or clear the way at the home when allocation is disabled. Answers the C mark. -/
def coreOwn (t line : Nat) (en dcz whole : Bool) (s : State) : State × Option Bool :=
  let s := l1iDrop t line s
  if owns s t line then (s, none)
  else if en then
    let r := acquireUnique (ownRequest s t line dcz) t line s
    (r.1, some r.2)
  else (homeClear line whole s, none)

/-- A DMA write (08 R194): octet by octet over its lines, allocating in the LLC or not. -/
def dmaPut (alloc : Bool) (pa : Nat) (bs : List Byte) (s : State) : State :=
  let lines := (List.range ((pa % 64 + bs.length + 63) / 64)).map (fun i => pa / 64 + i)
  dmaWrite pa bs (bs.length + 1) (lines.foldl (fun s l =>
    homeWrite l alloc (decide (pa ≤ 64 * l ∧ 64 * l + 64 ≤ pa + bs.length)) s) s)

/-- A DMA write by a unit that allocates in the LLC (08 R194). -/
def dmaStore (pa : Nat) (bs : List Byte) (s : State) : State := dmaPut true pa bs s

/-! ## Whether a request can be run at once (log 10) -/

/-- A tile's eviction of a line awaits Comp (10 R257). -/
def wbPending (s : State) (t line : Nat) : Bool := (tileAt s t).wb.any (fun w => decide (w.line = line))

/-- A tile's tracked shadow entry of a line. -/
def shadowHolds (s : State) (t line : Nat) : Bool := (tileAt s t).shadow.any (fun e => decide (e.line = line) && e.tracked.isSome)

/-- A line is quiet at its home: this socket homes it, no transaction of it is under way, its position is not in transfer, and its holders
are tiles of this socket with the line in their L2 alone. -/
def lineQuiet (s : State) (line : Nat) : Bool :=
  !remoteLine s line && !lineBusy s line && !(sliceAt s (slicePos line)).moving &&
  (match sfFind s line with
   | none => true
   | some e => e.rmt.isEmpty && (decide (e.st = .s) || e.own.isSome) &&
     (sfHolders e).all (fun t => !wbPending s t line && !shadowHolds s t line))

/-- The filter has an entry for a line, a free one, or one that can go at once. -/
def sfRoom (s : State) (line : Nat) : Bool :=
  (sfFind s line).isSome ||
  (match mFind (setOf (sliceAt s (slicePos line)).sf (sfSet line)).ways (sfVictim s line) with
   | none => true
   | some x => lineQuiet s x.line)

/-- The line that an L2 fill would replace. -/
def l2Victim (s : State) (t line : Nat) : Option Nat :=
  if (l2State s t line).isSome then none
  else
    let q := setOf (tileAt s t).l2 (l2Set line)
    (mFind q.ways (psVictim 4 (fun _ => true) q)).map (·.line)

/-- An L2 fill needs no eviction, or one that can be done at once. -/
def l2Room (s : State) (t line : Nat) : Bool := match l2Victim s t line with | none => true | some l => lineQuiet s l

/-- A unit has a request outstanding for a line (10 R251). -/
def asking (s : State) (u line : Nat) : Bool := s.mshr.any (fun m => decide (m.1 / 1024 = u) && decide (m.2.q.addr = line))

/-- A tile's request of a line can be run at once. -/
def atOnce (s : State) (t line : Nat) : Bool :=
  lineQuiet s line && sfRoom s line && l2Room s t line && !asking s t line && !wbPending s t line

end Sys2Proof.Machine
end

