-- ==== Sys2Proof/Machine/Ask.lean ====
section
/-! DEFINITION. Requests that a unit has outstanding (10 R245, R247, R251), evictions that go as messages (10 R258), and the stores of a hart
on their way to memory (06 R146, R150). -/

namespace Sys2Proof.Machine
open Sys2Proof

/-! ## Requests (09 R233, 10 R242, R251) -/

/-- The key of an outstanding request. -/
def mkey (src txid : Nat) : Nat := src * 1024 + txid

/-- The request a unit has outstanding under a TXID. -/
def outstanding (s : State) (src txid : Nat) : Option Mshr := mFind s.mshr (mkey src txid)

/-- A request is outstanding. -/
def noteReq (opc : Nat) (q : ReqFlit) (s : State) : State := { s with mshr := mIns s.mshr (mkey q.src q.txid) ⟨opc, q, none⟩ }

/-- A request has its answer. -/
def doneReq (src txid : Nat) (s : State) : State := { s with mshr := mDel s.mshr (mkey src txid) }

/-- The lowest transaction identifier below 512 that a unit has free; device accesses use those from 512 up (log 91). -/
def freeTxid (s : State) (u : Nat) : Nat := ((List.range 512).find? (fun k => (outstanding s u k).isNone)).getD 511

/-- Memory requests a unit has outstanding: all but write-backs and eviction notices (10 Table 10.7). -/
def requestsOut (s : State) (u : Nat) : Nat := (s.mshr.filter (fun m => decide (m.1 / 1024 = u ∧ m.2.opc ≠ 6 ∧ m.2.opc ≠ 7))).length

/-- A request goes to the home of its line (10 R242, R264). -/
def toHomeReq (opc : Nat) (q : ReqFlit) (s : State) : State :=
  let t := homeTarget s q.addr
  let q' := { q with dest := t % 512, spr := decide (512 ≤ t), epoch := s.mesh.epoch, wrap := false, lstamp := s.stamp % 4096 }
  noteReq opc q' (send (.req opc q') s)

/-- The ordering identifier of a hart's next memory request (09 Table 9.6): a core's rotate through 1 to 63, an engine's name the operation it
works on. -/
def nextOid (s : State) (h : Hart) : Nat :=
  match h with
  | .core n => 1 + (tileAt s (tileOf s n)).oid % 63
  | .prv n => match s.journal.find? (fun r => decide (r.engine = n ∧ r.st = .active)) with
    | some r => r.opid % 64
    | none => 0

/-- Send a memory request of a hart under the lowest free transaction identifier. -/
def sendAsk (h : Hart) (opc line : Nat) (s : State) : State :=
  let u := unitOf s h
  let q : ReqFlit := { dest := 0, src := u, txid := freeTxid s u, oid := nextOid s h, encl := enclOf s h, addr := line,
                       lp := decide ((cpuOf s h).level ≠ .m) }
  let s := match h with | .core _ => modTile u (fun x => { x with oid := x.oid + 1 }) s | .prv _ => s
  toHomeReq opc q s

/-- A hart asks for a line, unless it asks already, its own eviction of the line awaits Comp, or 48 requests are outstanding (10 R245, R251). -/
def ask (h : Hart) (opc line : Nat) (s : State) : State :=
  let u := unitOf s h
  if asking s u line ∨ wbPending s u line ∨ 48 ≤ requestsOut s u then s else sendAsk h opc line s

/-- An eviction goes as a message (10 R258): the line leaves the tile's caches, and its entry waits for Comp. -/
def pushOut (t line : Nat) (s : State) : State :=
  let dirty := l2IsDirty s t line
  let tx := freeTxid s t
  let e := match hartOf s t with | some (.core n) => enclOfCore s n | _ => 0x10
  let s := dropUnder1 line (tileDrop t line s)
  let s := modTile t (fun x => { x with wb := x.wb ++ [{ line := line, dirty := dirty, txid := tx }], oid := x.oid + 1 }) s
  toHomeReq (if dirty then 6 else 7) { dest := 0, src := t, txid := tx, oid := 1 + ((tileAt s t).oid + 62) % 63, encl := e, addr := line } s

/-- Room for a line in a tile's L2: what cannot be evicted at once goes as a message, while fewer than 16 evictions wait (10 R245). -/
def makeRoom (t line : Nat) (s : State) : State :=
  if l2Room s t line then s
  else match l2Victim s t line with
    | some l => if (tileAt s t).wb.length < 16 ∧ ¬ asking s t l then pushOut t l s else s
    | none => s

/-- Whether a hart's caches allocate (08 R200); an engine has no cache of its own. -/
def cacheEn (s : State) : Hart → Bool
  | .core n => flag (sysReg (coreOf s n) 0xC20) 0
  | .prv _ => false

/-- A line that an engine read is with it: the shadow entry that its data came in is freed. -/
def prvTaken (n line : Nat) (s : State) : State :=
  modTile (272 + n) (fun x => { x with shadow := x.shadow.filter (fun e => e.line ≠ line) }) s

/-- A tile's shadow entry holds the tracked line, or its data for a core that allocates nothing (06 R156, 08 R201). -/
def shadowReady (s : State) (t line : Nat) : Bool :=
  (tileAt s t).shadow.any (fun e => decide (e.line = line) && !e.dead && e.tracked.isSome)

/-- The tracked read of a line that the oldest instruction misses (06 R154, R156): its shadow entry, if it is a load's, waits for it. -/
def askTracked (n line : Nat) (load : Bool) (s : State) : State :=
  let t := tileOf s n
  let s := if ¬ load then s
    else if (tileAt s t).shadow.any (fun e => decide (e.line = line)) then s
    else if (tileAt s t).shadow.length < 16 then modTile t (fun x => { x with shadow := x.shadow ++ [{ line := line }] }) s else s
  let u := ask (.core n) 0 line s
  if asking s t line ∨ ¬ asking u t line then u
  else modTile t (fun x => { x with shadow := x.shadow.map (fun e => if e.line = line ∧ ¬ e.dead then { e with asked := true } else e) }) u

/-- A read of a line by a hart's caches, for a fetch, a load or a prefetch: done at once, or asked for; answers whether it is done. -/
def readLine (h : Hart) (fetch : Bool) (line : Nat) (s : State) : State × Bool :=
  match h with
  | .prv n =>
    if shadowReady s (272 + n) line then (prvTaken n line s, true)
    else if lineQuiet s line then (s, true) else (ask h 5 line s, false)
  | .core n =>
    let t := tileOf s n
    let en := cacheEn s h
    let take (s : State) : State := if fetch then coreFetch t line en s else coreRead t line en s
    if (l1dState s t line).isSome ∨ (l2State s t line).isSome then (take s, true)
    else
      let s := if en then makeRoom t line s else s
      if shadowReady s t line ∧ (en = false ∨ l2Room s t line = true) then
        let s := installShadow t line en s
        (if en then take s else s, true)
      else if atOnce s t line then (take s, true)
      else (askTracked n line (!fetch) s, false)

/-- What a core asks to own a line with (10 Table 10.6). -/
def ownOpc : Own → Nat
  | .rdUnique => 1
  | .upgrade => 2
  | .claimZero => 3

/-- Own or prepare the line a hart's store goes to (06 R146, 08 R194, R201): done at once, or asked for. `whole`: every octet is written.
Answers whether it is done, and the C mark of the grant. -/
def ownLine (h : Hart) (line : Nat) (dcz : Bool) (whole : Bool) (s : State) : State × Bool × Option Bool :=
  match h with
  | .core n =>
    let t := tileOf s n
    let en := cacheEn s h
    if owns s t line then let r := coreOwn t line en dcz whole s; (r.1, true, r.2)
    else if en then
      let s := makeRoom t line s
      if atOnce s t line then let r := coreOwn t line en dcz whole s; (r.1, true, r.2)
      else (ask h (ownOpc (ownRequest s t line dcz)) line s, false, none)
    else if lineQuiet s line ∧ ¬ asking s t line then let r := coreOwn t line en dcz whole s; (r.1, true, r.2)
    else (ask h 9 line s, false, none)
  | .prv n =>
    if lineQuiet s line ∧ ¬ asking s (272 + n) line then (homeClear line whole s, true, none) else (ask h 9 line s, false, none)

/-- The line that `ownLine` has made ready is about to be written. -/
def writeLine (h : Hart) (line : Nat) (s : State) : State :=
  match h with
  | .core n => if owns s (tileOf s n) line then ownedDirty (tileOf s n) line (cacheEn s h) s else homePut line false s
  | .prv _ => homePut line true s

/-! ## The non-temporal combining buffer (06 R150, 04 R101) -/

/-- Merge an NT store into its line. A word's tag is that of the last full-word store, as the narrow stores after it leave it (03 Table 3.7). -/
def ntMerge (e : SbEntry) (l : NtLine) : NtLine :=
  { l with
    bytes := (List.range e.bytes.length).foldl (fun b i => mIns b (e.pa % 64 + i) (e.bytes.getD i 0)) l.bytes
    tags := match e.tag with
      | some t => mIns l.tags (e.pa % 64 / 8) t
      | none => (wordsOf (e.pa % 64) e.bytes.length).foldl (fun m w =>
          match mFind m (w / 8) with
          | some t => mIns m (w / 8) (if t = .pois then .pois else .data)
          | none => m) l.tags }

/-- The octets and tags of a line of the combining buffer are written. -/
def ntLinePerform (l : NtLine) (s : State) : State :=
  let s := rekeyLine l.line s
  let s := l.bytes.foldl (fun s p => putByte (64 * l.line + p.1) p.2 s) s
  (List.range 8).foldl (fun s i =>
    let touched := (List.range 8).any (fun j => (mFind l.bytes (8 * i + j)).isSome)
    if ¬ touched then s
    else match mFind l.tags i with
      | some t => putTag (64 * l.line + 8 * i) t s
      | none => if memTag s (64 * l.line + 8 * i) = .pois then s else putTag (64 * l.line + 8 * i) .data s) s

/-- The line of the combining buffer leaves (06 R150, 09 R223): accepted at its home at once, or sent there as a write. Answers whether no
such line is left. -/
def ntLeave (h : Hart) (line : Nat) (s : State) : State × Bool :=
  match (cpuOf s h).nt.find? (fun l => decide (l.line = line)) with
  | none => (s, true)
  | some l =>
    if l.leaving then (s, false)
    else if lineQuiet s line ∧ ¬ asking s (unitOf s h) line then
      (ntLinePerform l (homeWrite line (isPrv h) (decide (l.bytes.length = 64))
        (modCpu h (fun c => { c with nt := c.nt.filter (fun x => x.line ≠ line) }) s)), true)
    else
      let s' := ask h 9 line s
      (if asking s (unitOf s h) line ∨ ¬ asking s' (unitOf s h) line then s'
       else modCpu h (fun c => { c with nt := c.nt.map (fun x => if x.line = line then { x with leaving := true } else x) }) s', false)

/-- An NT store enters the combining buffer (06 R150): a full line leaves, and a seventeenth line makes the oldest leave first. -/
def ntEnter (h : Hart) (e : SbEntry) (s : State) : State × Bool :=
  let q := (cpuOf s h).nt
  match q.find? (fun l => decide (l.line = lineOf e.pa)) with
  | some l =>
    if l.leaving then (s, false)
    else
      let l' := ntMerge e l
      let s := modCpu h (fun c => { c with nt := c.nt.map (fun x => if x.line = l.line then l' else x) }) s
      (if l'.bytes.length = 64 then (ntLeave h l.line s).1 else s, true)
  | none =>
    let r := if 16 ≤ q.length then (match q.head? with | some l => ntLeave h l.line s | none => (s, true)) else (s, true)
    if ¬ r.2 then (r.1, false)
    else
      let l' := ntMerge e ⟨lineOf e.pa, [], [], false⟩
      let s := modCpu h (fun c => { c with nt := c.nt ++ [l'] }) r.1
      (if l'.bytes.length = 64 then (ntLeave h l'.line s).1 else s, true)

/-- Every line of a hart's combining buffer leaves; answers whether all were accepted. -/
def ntDrain (h : Hart) (s : State) : State × Bool :=
  (cpuOf s h).nt.foldl (fun r l => let x := ntLeave h l.line r.1; (x.1, r.2 && x.2)) (s, true)

/-! ## The store buffer (06 R146, 09 R225) -/

/-- The unit a device or window address belongs to (01 Table 1.5, 02 Table 2.6). -/
def deviceUnit (pa : Nat) : Nat :=
  if pa < 0xF000001000000 then 366 else if pa < 0xF000002000000 then 361 else if pa < 0xF000003000000 then 363
  else if 0xF000010000000 ≤ pa ∧ pa < 0xF000020000000 then 352 + nbits pa 27 26 else 366

/-- The unit a device access goes to. -/
def targetUnit (s : State) (e pa : Nat) : Nat :=
  match placeOf s e pa with | .pcie u => u | _ => deviceUnit pa

/-- The transaction identifier of a hart's next device access (log 91). -/
def devTxid (c : Cpu) : Nat := 512 + c.devTx % 512

/-- A device request of a hart: ordering identifier 0, the issuing level in LP (10 Table 10.2, 09 R225). -/
def devReq (h : Hart) (pa n atop : Nat) (data expd : Word) (s : State) : ReqFlit :=
  { dest := targetUnit s (enclOf s h) pa, src := unitOf s h, txid := devTxid (cpuOf s h),
    oid := 0, encl := enclOf s h, addr := lineOf pa, atop := atop, off := pa % 64, len := n - 1,
    lp := decide ((cpuOf s h).level ≠ .m), epoch := s.mesh.epoch, lstamp := s.stamp % 4096,
    data := data, expd := expd }

/-- A device store is sent (09 R225), while fewer than eight device accesses are outstanding (10 R245). -/
def sendDevStore (h : Hart) (e : SbEntry) (s : State) : State × Bool :=
  if 8 ≤ (cpuOf s h).devSent then (s, false)
  else
    let q := devReq h e.pa e.bytes.length 0 (BitVec.ofNat 64 (leNat e.bytes)) 0 s
    (modCpu h (fun c => { c with devSent := c.devSent + 1, devTx := c.devTx + 1, devOut := c.devOut ++ [(q.txid, q.dest, e.pa)] })
      (send (.req 0x11 q) s), true)

/-- One store-buffer entry is written: into memory, into the combining buffer, or toward its device (06 R146, 09 R223, R225). Answers whether
it was. -/
def sbPerform (h : Hart) (e : SbEntry) (s : State) : State × Bool :=
  if e.dev then sendDevStore h e s
  else if e.nt then ntEnter h e s
  else
    let r := ntLeave h (lineOf e.pa) s
    if ¬ r.2 then (r.1, false)
    else
      let o := ownLine h (lineOf e.pa) e.dcz (e.dcz || decide (e.bytes.length = 64)) r.1
      if ¬ o.2.1 then (o.1, false)
      else
        let s := writeLine h (lineOf e.pa) o.1
        (if e.dcz then setLine (lineOf e.pa) (zeroLine 0) s else storeBytes e.pa e.bytes e.tag s, true)

/-- The head of the store buffer is written; it stays while it cannot be. -/
def sbHead (h : Hart) (s : State) : State × Bool :=
  match (cpuOf s h).sb with
  | [] => (s, true)
  | e :: _ =>
    let r := sbPerform h e s
    (if r.2 then modCpu h (fun c => { c with sb := c.sb.tail }) r.1 else r.1, r.2)

/-- The oldest `k` stores are performed or sent, as far as they can be. -/
def sbDrainN (h : Hart) : Nat → State → State × Bool
  | 0, s => (s, true)
  | k + 1, s => let r := sbHead h s; if r.2 then sbDrainN h k r.1 else r

/-- Every older store is performed or sent; answers whether all were. -/
def sbDrain (h : Hart) (s : State) : State × Bool := sbDrainN h ((cpuOf s h).sb.length) s

/-- Room for `k` more stores: when the 96 entries are taken the oldest are written first (06 R138, R146). -/
def sbRoom (h : Hart) (k : Nat) (s : State) : State × Bool := sbDrainN h ((cpuOf s h).sb.length + k - 96) s

/-- A store enters the store buffer. -/
def sbPush (h : Hart) (e : SbEntry) (s : State) : State := modCpu h (fun c => { c with sb := c.sb ++ [e] }) s

end Sys2Proof.Machine
end

