-- ==== Sys2Proof/Machine/Encoding.lean ====
section
/-! DEFINITION. The instruction word of every Nefen command (04 R78-R115, 05 R123-R125): encoder, and decoder of a word. -/

namespace Sys2Proof.Machine
open Sys2Proof

/-- The scope and level fields of a cache operation (04 R115). -/
def scopeBits : Scope → BitVec 4
  | .addr => 0
  | .range => 4
  | .setway lvl => (2 : BitVec 2) ++ lvl

/-- The scope that fn bits 7:4 name; none where they hold a reserved value. -/
def scopeOf (b : BitVec 4) : Option Scope :=
  if b = 0 then some .addr else if b = 4 then some .range
  else if b.extractLsb' 2 2 = 2 then some (.setway (b.extractLsb' 0 2)) else none

/-- The word of a Nefen command; none for every other command. -/
def encode (i : Instr) : Option (BitVec 32) :=
  match i with
  | .add _ rd ra rb => some ((1 : BitVec 6) ++ rd ++ ra ++ rb ++ (0 : BitVec 11))
  | .sub _ rd ra rb => some ((1 : BitVec 6) ++ rd ++ ra ++ rb ++ (1 : BitVec 11))
  | .and _ rd ra rb => some ((1 : BitVec 6) ++ rd ++ ra ++ rb ++ (2 : BitVec 11))
  | .or _ rd ra rb => some ((1 : BitVec 6) ++ rd ++ ra ++ rb ++ (3 : BitVec 11))
  | .xor _ rd ra rb => some ((1 : BitVec 6) ++ rd ++ ra ++ rb ++ (4 : BitVec 11))
  | .andn _ rd ra rb => some ((1 : BitVec 6) ++ rd ++ ra ++ rb ++ (5 : BitVec 11))
  | .shl _ rd ra rb => some ((1 : BitVec 6) ++ rd ++ ra ++ rb ++ (8 : BitVec 11))
  | .shr _ rd ra rb => some ((1 : BitVec 6) ++ rd ++ ra ++ rb ++ (9 : BitVec 11))
  | .sra _ rd ra rb => some ((1 : BitVec 6) ++ rd ++ ra ++ rb ++ (10 : BitVec 11))
  | .ror _ rd ra rb => some ((1 : BitVec 6) ++ rd ++ ra ++ rb ++ (11 : BitVec 11))
  | .slt _ rd ra rb => some ((1 : BitVec 6) ++ rd ++ ra ++ rb ++ (16 : BitVec 11))
  | .sltu _ rd ra rb => some ((1 : BitVec 6) ++ rd ++ ra ++ rb ++ (17 : BitVec 11))
  | .seq _ rd ra rb => some ((1 : BitVec 6) ++ rd ++ ra ++ rb ++ (18 : BitVec 11))
  | .mul _ rd ra rb => some ((1 : BitVec 6) ++ rd ++ ra ++ rb ++ (24 : BitVec 11))
  | .mulh _ rd ra rb => some ((1 : BitVec 6) ++ rd ++ ra ++ rb ++ (25 : BitVec 11))
  | .mulhu _ rd ra rb => some ((1 : BitVec 6) ++ rd ++ ra ++ rb ++ (26 : BitVec 11))
  | .div _ rd ra rb => some ((1 : BitVec 6) ++ rd ++ ra ++ rb ++ (32 : BitVec 11))
  | .divu _ rd ra rb => some ((1 : BitVec 6) ++ rd ++ ra ++ rb ++ (33 : BitVec 11))
  | .rem _ rd ra rb => some ((1 : BitVec 6) ++ rd ++ ra ++ rb ++ (34 : BitVec 11))
  | .remu _ rd ra rb => some ((1 : BitVec 6) ++ rd ++ ra ++ rb ++ (35 : BitVec 11))
  | .clz _ rd ra => some ((1 : BitVec 6) ++ rd ++ ra ++ (0 : BitVec 5) ++ (40 : BitVec 11))
  | .ctz _ rd ra => some ((1 : BitVec 6) ++ rd ++ ra ++ (0 : BitVec 5) ++ (41 : BitVec 11))
  | .popc _ rd ra => some ((1 : BitVec 6) ++ rd ++ ra ++ (0 : BitVec 5) ++ (42 : BitVec 11))
  | .bswap _ rd ra => some ((1 : BitVec 6) ++ rd ++ ra ++ (0 : BitVec 5) ++ (43 : BitVec 11))
  | .mv _ rd ra => some ((1 : BitVec 6) ++ rd ++ ra ++ (0 : BitVec 5) ++ (48 : BitVec 11))
  | .addi _ rd ra imm => some ((2 : BitVec 6) ++ rd ++ ra ++ imm)
  | .andi _ rd ra imm => some ((3 : BitVec 6) ++ rd ++ ra ++ imm)
  | .ori _ rd ra imm => some ((4 : BitVec 6) ++ rd ++ ra ++ imm)
  | .xori _ rd ra imm => some ((5 : BitVec 6) ++ rd ++ ra ++ imm)
  | .slti _ rd ra imm => some ((7 : BitVec 6) ++ rd ++ ra ++ imm)
  | .sltiu _ rd ra imm => some ((8 : BitVec 6) ++ rd ++ ra ++ imm)
  | .shi _ rd ra op amt => some ((6 : BitVec 6) ++ rd ++ ra ++ (0 : BitVec 6) ++ op ++ (0 : BitVec 2) ++ amt)
  | .kstart _ rd imm => some ((9 : BitVec 6) ++ rd ++ (0 : BitVec 2) ++ (0 : BitVec 3) ++ imm)
  | .knext _ rd imm => some ((9 : BitVec 6) ++ rd ++ (1 : BitVec 2) ++ (0 : BitVec 3) ++ imm)
  | .krep _ rd imm => some ((9 : BitVec 6) ++ rd ++ (2 : BitVec 2) ++ (0 : BitVec 3) ++ imm)
  | .apc _ rd imm => some ((10 : BitVec 6) ++ rd ++ imm)
  | .apcD _ rd imm => some ((11 : BitVec 6) ++ rd ++ imm)
  | .apcC _ rd imm => some ((12 : BitVec 6) ++ rd ++ imm)
  | .sel _ rd ra rb rc => some ((14 : BitVec 6) ++ rd ++ ra ++ rb ++ rc ++ (0 : BitVec 6))
  | .cmov _ rd ra rc => some ((14 : BitVec 6) ++ rd ++ ra ++ (0 : BitVec 5) ++ rc ++ (1 : BitVec 6))
  | .cmovz _ rd ra rc => some ((14 : BitVec 6) ++ rd ++ ra ++ (0 : BitVec 5) ++ rc ++ (2 : BitVec 6))
  | .ext _ rd ra len pos => some ((15 : BitVec 6) ++ rd ++ ra ++ (0 : BitVec 2) ++ (0 : BitVec 2) ++ len ++ pos)
  | .extu _ rd ra len pos => some ((15 : BitVec 6) ++ rd ++ ra ++ (1 : BitVec 2) ++ (0 : BitVec 2) ++ len ++ pos)
  | .ins _ rd ra len pos => some ((15 : BitVec 6) ++ rd ++ ra ++ (2 : BitVec 2) ++ (0 : BitVec 2) ++ len ++ pos)
  | .ldB _ rd ra imm => some ((16 : BitVec 6) ++ rd ++ ra ++ imm)
  | .ldBu _ rd ra imm => some ((17 : BitVec 6) ++ rd ++ ra ++ imm)
  | .ldH _ rd ra imm => some ((18 : BitVec 6) ++ rd ++ ra ++ imm)
  | .ldHu _ rd ra imm => some ((19 : BitVec 6) ++ rd ++ ra ++ imm)
  | .ldW _ rd ra imm => some ((20 : BitVec 6) ++ rd ++ ra ++ imm)
  | .ldWu _ rd ra imm => some ((21 : BitVec 6) ++ rd ++ ra ++ imm)
  | .ldD _ rd ra imm => some ((22 : BitVec 6) ++ rd ++ ra ++ imm)
  | .ldfS _ rd ra imm => some ((23 : BitVec 6) ++ rd ++ ra ++ imm)
  | .ldfD _ rd ra imm => some ((24 : BitVec 6) ++ rd ++ ra ++ imm)
  | .vld _ rd ra imm => some ((25 : BitVec 6) ++ rd ++ ra ++ imm)
  | .stB _ rd ra imm => some ((26 : BitVec 6) ++ rd ++ ra ++ imm)
  | .stH _ rd ra imm => some ((27 : BitVec 6) ++ rd ++ ra ++ imm)
  | .stW _ rd ra imm => some ((28 : BitVec 6) ++ rd ++ ra ++ imm)
  | .stD _ rd ra imm => some ((29 : BitVec 6) ++ rd ++ ra ++ imm)
  | .stfS _ rd ra imm => some ((30 : BitVec 6) ++ rd ++ ra ++ imm)
  | .stfD _ rd ra imm => some ((31 : BitVec 6) ++ rd ++ ra ++ imm)
  | .vst _ rd ra imm => some ((32 : BitVec 6) ++ rd ++ ra ++ imm)
  | .ldx _ rd ra rb w sh => some ((33 : BitVec 6) ++ rd ++ ra ++ rb ++ w ++ sh ++ (0 : BitVec 1) ++ (0 : BitVec 5))
  | .stx _ rd ra rb w sh nt => some ((34 : BitVec 6) ++ rd ++ ra ++ rb ++ w ++ sh ++ BitVec.ofBool nt ++ (0 : BitVec 5))
  | .ldtg _ rd ra imm => some ((35 : BitVec 6) ++ rd ++ ra ++ imm)
  | .pf _ hint ra imm => some ((36 : BitVec 6) ++ hint ++ ra ++ imm)
  | .atomicSwap _ rd ra rb d ord => some ((37 : BitVec 6) ++ rd ++ ra ++ rb ++ (0 : BitVec 4) ++ BitVec.ofBool d ++ ord ++ (0 : BitVec 4))
  | .atomicAdd _ rd ra rb d ord => some ((37 : BitVec 6) ++ rd ++ ra ++ rb ++ (1 : BitVec 4) ++ BitVec.ofBool d ++ ord ++ (0 : BitVec 4))
  | .atomicAnd _ rd ra rb d ord => some ((37 : BitVec 6) ++ rd ++ ra ++ rb ++ (2 : BitVec 4) ++ BitVec.ofBool d ++ ord ++ (0 : BitVec 4))
  | .atomicOr _ rd ra rb d ord => some ((37 : BitVec 6) ++ rd ++ ra ++ rb ++ (3 : BitVec 4) ++ BitVec.ofBool d ++ ord ++ (0 : BitVec 4))
  | .atomicXor _ rd ra rb d ord => some ((37 : BitVec 6) ++ rd ++ ra ++ rb ++ (4 : BitVec 4) ++ BitVec.ofBool d ++ ord ++ (0 : BitVec 4))
  | .atomicMin _ rd ra rb d ord => some ((37 : BitVec 6) ++ rd ++ ra ++ rb ++ (5 : BitVec 4) ++ BitVec.ofBool d ++ ord ++ (0 : BitVec 4))
  | .atomicMax _ rd ra rb d ord => some ((37 : BitVec 6) ++ rd ++ ra ++ rb ++ (6 : BitVec 4) ++ BitVec.ofBool d ++ ord ++ (0 : BitVec 4))
  | .atomicMinu _ rd ra rb d ord => some ((37 : BitVec 6) ++ rd ++ ra ++ rb ++ (7 : BitVec 4) ++ BitVec.ofBool d ++ ord ++ (0 : BitVec 4))
  | .atomicMaxu _ rd ra rb d ord => some ((37 : BitVec 6) ++ rd ++ ra ++ rb ++ (8 : BitVec 4) ++ BitVec.ofBool d ++ ord ++ (0 : BitVec 4))
  | .atomicCas _ rd ra rb d ord => some ((37 : BitVec 6) ++ rd ++ ra ++ rb ++ (9 : BitVec 4) ++ BitVec.ofBool d ++ ord ++ (0 : BitVec 4))
  | .j _ off => some ((40 : BitVec 6) ++ off)
  | .call _ off => some ((41 : BitVec 6) ++ off)
  | .beq _ ra rb off => some ((42 : BitVec 6) ++ ra ++ rb ++ off)
  | .bne _ ra rb off => some ((43 : BitVec 6) ++ ra ++ rb ++ off)
  | .blt _ ra rb off => some ((44 : BitVec 6) ++ ra ++ rb ++ off)
  | .bge _ ra rb off => some ((45 : BitVec 6) ++ ra ++ rb ++ off)
  | .bltu _ ra rb off => some ((46 : BitVec 6) ++ ra ++ rb ++ off)
  | .bgeu _ ra rb off => some ((47 : BitVec 6) ++ ra ++ rb ++ off)
  | .jr _ ra => some ((48 : BitVec 6) ++ (0 : BitVec 5) ++ ra ++ (0 : BitVec 5) ++ (0 : BitVec 11))
  | .callr _ ra => some ((48 : BitVec 6) ++ (0 : BitVec 5) ++ ra ++ (0 : BitVec 5) ++ (1 : BitVec 11))
  | .ret _ => some ((48 : BitVec 6) ++ (0 : BitVec 5) ++ (0 : BitVec 5) ++ (0 : BitVec 5) ++ (2 : BitVec 11))
  | .loop _ lvl rc off => some ((49 : BitVec 6) ++ lvl ++ rc ++ off)
  | .mulw _ ra rb => some ((50 : BitVec 6) ++ (0 : BitVec 5) ++ ra ++ rb ++ (0 : BitVec 11))
  | .mulwu _ ra rb => some ((50 : BitVec 6) ++ (0 : BitVec 5) ++ ra ++ rb ++ (1 : BitVec 11))
  | .macw _ ra rb => some ((50 : BitVec 6) ++ (0 : BitVec 5) ++ ra ++ rb ++ (2 : BitVec 11))
  | .macwu _ ra rb => some ((50 : BitVec 6) ++ (0 : BitVec 5) ++ ra ++ rb ++ (3 : BitVec 11))
  | .fadd _ rd ra rb d rm => some ((52 : BitVec 6) ++ rd ++ ra ++ rb ++ (0 : BitVec 6) ++ BitVec.ofBool d ++ rm ++ (0 : BitVec 1))
  | .fsub _ rd ra rb d rm => some ((52 : BitVec 6) ++ rd ++ ra ++ rb ++ (1 : BitVec 6) ++ BitVec.ofBool d ++ rm ++ (0 : BitVec 1))
  | .fmul _ rd ra rb d rm => some ((52 : BitVec 6) ++ rd ++ ra ++ rb ++ (2 : BitVec 6) ++ BitVec.ofBool d ++ rm ++ (0 : BitVec 1))
  | .fdiv _ rd ra rb d rm => some ((52 : BitVec 6) ++ rd ++ ra ++ rb ++ (3 : BitVec 6) ++ BitVec.ofBool d ++ rm ++ (0 : BitVec 1))
  | .fsqrt _ rd ra d rm => some ((52 : BitVec 6) ++ rd ++ ra ++ (0 : BitVec 5) ++ (4 : BitVec 6) ++ BitVec.ofBool d ++ rm ++ (0 : BitVec 1))
  | .fmin _ rd ra rb d => some ((52 : BitVec 6) ++ rd ++ ra ++ rb ++ (8 : BitVec 6) ++ BitVec.ofBool d ++ (0 : BitVec 3) ++ (0 : BitVec 1))
  | .fmax _ rd ra rb d => some ((52 : BitVec 6) ++ rd ++ ra ++ rb ++ (9 : BitVec 6) ++ BitVec.ofBool d ++ (0 : BitVec 3) ++ (0 : BitVec 1))
  | .fcopysign _ rd ra rb d => some ((52 : BitVec 6) ++ rd ++ ra ++ rb ++ (12 : BitVec 6) ++ BitVec.ofBool d ++ (0 : BitVec 3) ++ (0 : BitVec 1))
  | .fneg _ rd ra d => some ((52 : BitVec 6) ++ rd ++ ra ++ (0 : BitVec 5) ++ (13 : BitVec 6) ++ BitVec.ofBool d ++ (0 : BitVec 3) ++ (0 : BitVec 1))
  | .fabs _ rd ra d => some ((52 : BitVec 6) ++ rd ++ ra ++ (0 : BitVec 5) ++ (14 : BitVec 6) ++ BitVec.ofBool d ++ (0 : BitVec 3) ++ (0 : BitVec 1))
  | .fceq _ rd ra rb d => some ((52 : BitVec 6) ++ rd ++ ra ++ rb ++ (16 : BitVec 6) ++ BitVec.ofBool d ++ (0 : BitVec 3) ++ (0 : BitVec 1))
  | .fclt _ rd ra rb d => some ((52 : BitVec 6) ++ rd ++ ra ++ rb ++ (17 : BitVec 6) ++ BitVec.ofBool d ++ (0 : BitVec 3) ++ (0 : BitVec 1))
  | .fcle _ rd ra rb d => some ((52 : BitVec 6) ++ rd ++ ra ++ rb ++ (18 : BitVec 6) ++ BitVec.ofBool d ++ (0 : BitVec 3) ++ (0 : BitVec 1))
  | .fkind _ rd ra d => some ((52 : BitVec 6) ++ rd ++ ra ++ (0 : BitVec 5) ++ (19 : BitVec 6) ++ BitVec.ofBool d ++ (0 : BitVec 3) ++ (0 : BitVec 1))
  | .fcvtF _ rd ra d rm => some ((52 : BitVec 6) ++ rd ++ ra ++ (0 : BitVec 5) ++ (24 : BitVec 6) ++ BitVec.ofBool d ++ rm ++ (0 : BitVec 1))
  | .ftoiW _ rd ra d rm => some ((52 : BitVec 6) ++ rd ++ ra ++ (0 : BitVec 5) ++ (32 : BitVec 6) ++ BitVec.ofBool d ++ rm ++ (0 : BitVec 1))
  | .ftoiWu _ rd ra d rm => some ((52 : BitVec 6) ++ rd ++ ra ++ (0 : BitVec 5) ++ (33 : BitVec 6) ++ BitVec.ofBool d ++ rm ++ (0 : BitVec 1))
  | .ftoiL _ rd ra d rm => some ((52 : BitVec 6) ++ rd ++ ra ++ (0 : BitVec 5) ++ (34 : BitVec 6) ++ BitVec.ofBool d ++ rm ++ (0 : BitVec 1))
  | .ftoiLu _ rd ra d rm => some ((52 : BitVec 6) ++ rd ++ ra ++ (0 : BitVec 5) ++ (35 : BitVec 6) ++ BitVec.ofBool d ++ rm ++ (0 : BitVec 1))
  | .ffromiW _ rd ra d rm => some ((52 : BitVec 6) ++ rd ++ ra ++ (0 : BitVec 5) ++ (40 : BitVec 6) ++ BitVec.ofBool d ++ rm ++ (0 : BitVec 1))
  | .ffromiWu _ rd ra d rm => some ((52 : BitVec 6) ++ rd ++ ra ++ (0 : BitVec 5) ++ (41 : BitVec 6) ++ BitVec.ofBool d ++ rm ++ (0 : BitVec 1))
  | .ffromiL _ rd ra d rm => some ((52 : BitVec 6) ++ rd ++ ra ++ (0 : BitVec 5) ++ (42 : BitVec 6) ++ BitVec.ofBool d ++ rm ++ (0 : BitVec 1))
  | .ffromiLu _ rd ra d rm => some ((52 : BitVec 6) ++ rd ++ ra ++ (0 : BitVec 5) ++ (43 : BitVec 6) ++ BitVec.ofBool d ++ rm ++ (0 : BitVec 1))
  | .fmvTog _ rd ra d => some ((52 : BitVec 6) ++ rd ++ ra ++ (0 : BitVec 5) ++ (48 : BitVec 6) ++ BitVec.ofBool d ++ (0 : BitVec 3) ++ (0 : BitVec 1))
  | .fmvFromg _ rd ra d => some ((52 : BitVec 6) ++ rd ++ ra ++ (0 : BitVec 5) ++ (49 : BitVec 6) ++ BitVec.ofBool d ++ (0 : BitVec 3) ++ (0 : BitVec 1))
  | .fmadd _ rd ra rb rc d rm => some ((53 : BitVec 6) ++ rd ++ ra ++ rb ++ rc ++ (0 : BitVec 2) ++ BitVec.ofBool d ++ rm)
  | .fmsub _ rd ra rb rc d rm => some ((53 : BitVec 6) ++ rd ++ ra ++ rb ++ rc ++ (1 : BitVec 2) ++ BitVec.ofBool d ++ rm)
  | .fnmadd _ rd ra rb rc d rm => some ((53 : BitVec 6) ++ rd ++ ra ++ rb ++ rc ++ (2 : BitVec 2) ++ BitVec.ofBool d ++ rm)
  | .fnmsub _ rd ra rb rc d rm => some ((53 : BitVec 6) ++ rd ++ ra ++ rb ++ rc ++ (3 : BitVec 2) ++ BitVec.ofBool d ++ rm)
  | .vadd _ vd va vb ew => some ((56 : BitVec 6) ++ vd ++ va ++ vb ++ ew ++ (0 : BitVec 8))
  | .vsub _ vd va vb ew => some ((56 : BitVec 6) ++ vd ++ va ++ vb ++ ew ++ (1 : BitVec 8))
  | .vmul _ vd va vb ew => some ((56 : BitVec 6) ++ vd ++ va ++ vb ++ ew ++ (2 : BitVec 8))
  | .vmin _ vd va vb ew => some ((56 : BitVec 6) ++ vd ++ va ++ vb ++ ew ++ (3 : BitVec 8))
  | .vmax _ vd va vb ew => some ((56 : BitVec 6) ++ vd ++ va ++ vb ++ ew ++ (4 : BitVec 8))
  | .vminu _ vd va vb ew => some ((56 : BitVec 6) ++ vd ++ va ++ vb ++ ew ++ (5 : BitVec 8))
  | .vmaxu _ vd va vb ew => some ((56 : BitVec 6) ++ vd ++ va ++ vb ++ ew ++ (6 : BitVec 8))
  | .vand _ vd va vb ew => some ((56 : BitVec 6) ++ vd ++ va ++ vb ++ ew ++ (8 : BitVec 8))
  | .vor _ vd va vb ew => some ((56 : BitVec 6) ++ vd ++ va ++ vb ++ ew ++ (9 : BitVec 8))
  | .vxor _ vd va vb ew => some ((56 : BitVec 6) ++ vd ++ va ++ vb ++ ew ++ (10 : BitVec 8))
  | .vandn _ vd va vb ew => some ((56 : BitVec 6) ++ vd ++ va ++ vb ++ ew ++ (11 : BitVec 8))
  | .vshl _ vd va vb ew => some ((56 : BitVec 6) ++ vd ++ va ++ vb ++ ew ++ (16 : BitVec 8))
  | .vshr _ vd va vb ew => some ((56 : BitVec 6) ++ vd ++ va ++ vb ++ ew ++ (17 : BitVec 8))
  | .vsra _ vd va vb ew => some ((56 : BitVec 6) ++ vd ++ va ++ vb ++ ew ++ (18 : BitVec 8))
  | .vcmpeq _ vd va vb ew => some ((56 : BitVec 6) ++ vd ++ va ++ vb ++ ew ++ (24 : BitVec 8))
  | .vcmplt _ vd va vb ew => some ((56 : BitVec 6) ++ vd ++ va ++ vb ++ ew ++ (25 : BitVec 8))
  | .vcmpltu _ vd va vb ew => some ((56 : BitVec 6) ++ vd ++ va ++ vb ++ ew ++ (26 : BitVec 8))
  | .vperm _ vd va vb => some ((56 : BitVec 6) ++ vd ++ va ++ vb ++ (0 : BitVec 3) ++ (32 : BitVec 8))
  | .vred _ vd va ew => some ((56 : BitVec 6) ++ vd ++ va ++ (0 : BitVec 5) ++ ew ++ (33 : BitVec 8))
  | .vbcast _ vd ra ew => some ((56 : BitVec 6) ++ vd ++ ra ++ (0 : BitVec 5) ++ ew ++ (40 : BitVec 8))
  | .vext _ rd va idx ew => some ((56 : BitVec 6) ++ rd ++ va ++ idx ++ ew ++ (41 : BitVec 8))
  | .vins _ vd ra idx ew => some ((56 : BitVec 6) ++ vd ++ ra ++ idx ++ ew ++ (42 : BitVec 8))
  | .vfadd _ vd va vb d => some ((56 : BitVec 6) ++ vd ++ va ++ vb ++ (2 : BitVec 2) ++ BitVec.ofBool d ++ (48 : BitVec 8))
  | .vfsub _ vd va vb d => some ((56 : BitVec 6) ++ vd ++ va ++ vb ++ (2 : BitVec 2) ++ BitVec.ofBool d ++ (49 : BitVec 8))
  | .vfmul _ vd va vb d => some ((56 : BitVec 6) ++ vd ++ va ++ vb ++ (2 : BitVec 2) ++ BitVec.ofBool d ++ (50 : BitVec 8))
  | .vfmin _ vd va vb d => some ((56 : BitVec 6) ++ vd ++ va ++ vb ++ (2 : BitVec 2) ++ BitVec.ofBool d ++ (51 : BitVec 8))
  | .vfmax _ vd va vb d => some ((56 : BitVec 6) ++ vd ++ va ++ vb ++ (2 : BitVec 2) ++ BitVec.ofBool d ++ (52 : BitVec 8))
  | .vfceq _ vd va vb d => some ((56 : BitVec 6) ++ vd ++ va ++ vb ++ (2 : BitVec 2) ++ BitVec.ofBool d ++ (53 : BitVec 8))
  | .vfclt _ vd va vb d => some ((56 : BitVec 6) ++ vd ++ va ++ vb ++ (2 : BitVec 2) ++ BitVec.ofBool d ++ (54 : BitVec 8))
  | .vfcle _ vd va vb d => some ((56 : BitVec 6) ++ vd ++ va ++ vb ++ (2 : BitVec 2) ++ BitVec.ofBool d ++ (55 : BitVec 8))
  | .vftoi _ vd va d => some ((56 : BitVec 6) ++ vd ++ va ++ (0 : BitVec 5) ++ (2 : BitVec 2) ++ BitVec.ofBool d ++ (56 : BitVec 8))
  | .vffromi _ vd va d => some ((56 : BitVec 6) ++ vd ++ va ++ (0 : BitVec 5) ++ (2 : BitVec 2) ++ BitVec.ofBool d ++ (57 : BitVec 8))
  | .vfneg _ vd va d => some ((56 : BitVec 6) ++ vd ++ va ++ (0 : BitVec 5) ++ (2 : BitVec 2) ++ BitVec.ofBool d ++ (58 : BitVec 8))
  | .vfabs _ vd va d => some ((56 : BitVec 6) ++ vd ++ va ++ (0 : BitVec 5) ++ (2 : BitVec 2) ++ BitVec.ofBool d ++ (59 : BitVec 8))
  | .vfma _ vd va vb vc d => some ((57 : BitVec 6) ++ vd ++ va ++ vb ++ vc ++ (0 : BitVec 3) ++ (2 : BitVec 2) ++ BitVec.ofBool d)
  | .vsel _ vd va vb vm => some ((57 : BitVec 6) ++ vd ++ va ++ vb ++ vm ++ (16 : BitVec 6))
  | .mtsLk _ ra => some ((60 : BitVec 6) ++ (0 : BitVec 5) ++ ra ++ (1 : BitVec 4) ++ (32 : BitVec 12))
  | .mtsFcsr _ ra => some ((60 : BitVec 6) ++ (0 : BitVec 5) ++ ra ++ (1 : BitVec 4) ++ (1 : BitVec 12))
  | .mtsCtxPredkey _ ra => some ((60 : BitVec 6) ++ (0 : BitVec 5) ++ ra ++ (1 : BitVec 4) ++ (1041 : BitVec 12))
  | .mtsCtxTagctl _ ra => some ((60 : BitVec 6) ++ (0 : BitVec 5) ++ ra ++ (1 : BitVec 4) ++ (1040 : BitVec 12))
  | .mtsCtxTiming _ ra => some ((60 : BitVec 6) ++ (0 : BitVec 5) ++ ra ++ (1 : BitVec 4) ++ (1042 : BitVec 12))
  | .mtsCachecfg _ ra => some ((60 : BitVec 6) ++ (0 : BitVec 5) ++ ra ++ (1 : BitVec 4) ++ (3104 : BitVec 12))
  | .mtsPwrctl _ ra => some ((60 : BitVec 6) ++ (0 : BitVec 5) ++ ra ++ (1 : BitVec 4) ++ (3120 : BitVec 12))
  | .mtsPmuSnap _ ra => some ((60 : BitVec 6) ++ (0 : BitVec 5) ++ ra ++ (1 : BitVec 4) ++ (3136 : BitVec 12))
  | .mtsLoopRegister _ k ra => some ((60 : BitVec 6) ++ (0 : BitVec 5) ++ ra ++ (1 : BitVec 4) ++ (1 : BitVec 8) ++ k)
  | .mtsCounter _ k ra => some ((60 : BitVec 6) ++ (0 : BitVec 5) ++ ra ++ (1 : BitVec 4) ++ (17 : BitVec 6) ++ k)
  | .mfs _ rd sys => some ((60 : BitVec 6) ++ rd ++ (0 : BitVec 5) ++ (0 : BitVec 4) ++ sys)
  | .mts _ sys ra => some ((60 : BitVec 6) ++ (0 : BitVec 5) ++ ra ++ (1 : BitVec 4) ++ sys)
  | .tset _ rd ra ty => some ((60 : BitVec 6) ++ rd ++ ra ++ (2 : BitVec 4) ++ (0 : BitVec 9) ++ ty)
  | .tget _ rd ra => some ((60 : BitVec 6) ++ rd ++ ra ++ (3 : BitVec 4) ++ (0 : BitVec 12))
  | .ecall _ => some ((60 : BitVec 6) ++ (0 : BitVec 5) ++ (0 : BitVec 5) ++ (4 : BitVec 4) ++ (0 : BitVec 12))
  | .ebreak _ => some ((60 : BitVec 6) ++ (0 : BitVec 5) ++ (0 : BitVec 5) ++ (5 : BitVec 4) ++ (0 : BitVec 12))
  | .eret _ => some ((60 : BitVec 6) ++ (0 : BitVec 5) ++ (0 : BitVec 5) ++ (6 : BitVec 4) ++ (0 : BitVec 12))
  | .wfi _ => some ((60 : BitVec 6) ++ (0 : BitVec 5) ++ (0 : BitVec 5) ++ (7 : BitVec 4) ++ (0 : BitVec 12))
  | .fence _ => some ((60 : BitVec 6) ++ (0 : BitVec 5) ++ (0 : BitVec 5) ++ (8 : BitVec 4) ++ (0 : BitVec 12))
  | .fenceSl _ => some ((60 : BitVec 6) ++ (0 : BitVec 5) ++ (0 : BitVec 5) ++ (8 : BitVec 4) ++ (1 : BitVec 12))
  | .fenceNt _ => some ((60 : BitVec 6) ++ (0 : BitVec 5) ++ (0 : BitVec 5) ++ (8 : BitVec 4) ++ (2 : BitVec 12))
  | .fenceIo _ => some ((60 : BitVec 6) ++ (0 : BitVec 5) ++ (0 : BitVec 5) ++ (8 : BitVec 4) ++ (3 : BitVec 12))
  | .syncIo _ _ => some ((60 : BitVec 6) ++ (0 : BitVec 5) ++ (0 : BitVec 5) ++ (8 : BitVec 4) ++ (4 : BitVec 12))
  | .isync _ => some ((60 : BitVec 6) ++ (0 : BitVec 5) ++ (0 : BitVec 5) ++ (8 : BitVec 4) ++ (5 : BitVec 12))
  | .tlbw _ ra => some ((60 : BitVec 6) ++ (0 : BitVec 5) ++ ra ++ (9 : BitVec 4) ++ (0 : BitVec 12))
  | .tlbiAll _ b => some ((60 : BitVec 6) ++ (0 : BitVec 5) ++ (0 : BitVec 5) ++ (10 : BitVec 4) ++ (0 : BitVec 3) ++ BitVec.ofBool b ++ (0 : BitVec 5) ++ (0 : BitVec 3))
  | .tlbiAsid _ ra b => some ((60 : BitVec 6) ++ (0 : BitVec 5) ++ ra ++ (10 : BitVec 4) ++ (0 : BitVec 3) ++ BitVec.ofBool b ++ (0 : BitVec 5) ++ (1 : BitVec 3))
  | .tlbiVa _ ra b => some ((60 : BitVec 6) ++ (0 : BitVec 5) ++ ra ++ (10 : BitVec 4) ++ (0 : BitVec 3) ++ BitVec.ofBool b ++ (0 : BitVec 5) ++ (2 : BitVec 3))
  | .tlbiVaAll _ ra b => some ((60 : BitVec 6) ++ (0 : BitVec 5) ++ ra ++ (10 : BitVec 4) ++ (0 : BitVec 3) ++ BitVec.ofBool b ++ (0 : BitVec 5) ++ (3 : BitVec 3))
  | .tlbiNonglobal _ b => some ((60 : BitVec 6) ++ (0 : BitVec 5) ++ (0 : BitVec 5) ++ (10 : BitVec 4) ++ (0 : BitVec 3) ++ BitVec.ofBool b ++ (0 : BitVec 5) ++ (4 : BitVec 3))
  | .walk _ rd ra intent => some ((60 : BitVec 6) ++ rd ++ ra ++ (11 : BitVec 4) ++ (0 : BitVec 10) ++ intent)
  | .tlbr _ rd ra => some ((60 : BitVec 6) ++ rd ++ ra ++ (12 : BitVec 4) ++ (0 : BitVec 12))
  | .dcz _ ra => some ((61 : BitVec 6) ++ (0 : BitVec 5) ++ ra ++ (0 : BitVec 5) ++ (0 : BitVec 3) ++ (0 : BitVec 2) ++ (0 : BitVec 2) ++ (0 : BitVec 4))
  | .clean _ rd ra rb sc => some ((61 : BitVec 6) ++ rd ++ ra ++ rb ++ (1 : BitVec 3) ++ scopeBits sc ++ (0 : BitVec 4))
  | .inval _ rd ra rb sc => some ((61 : BitVec 6) ++ rd ++ ra ++ rb ++ (2 : BitVec 3) ++ scopeBits sc ++ (0 : BitVec 4))
  | .clinv _ rd ra rb sc => some ((61 : BitVec 6) ++ rd ++ ra ++ rb ++ (3 : BitVec 3) ++ scopeBits sc ++ (0 : BitVec 4))
  | .lockld _ rd ra rb sc => some ((61 : BitVec 6) ++ rd ++ ra ++ rb ++ (4 : BitVec 3) ++ scopeBits sc ++ (0 : BitVec 4))
  | .unlock _ ra lvl => some ((61 : BitVec 6) ++ (0 : BitVec 5) ++ ra ++ (0 : BitVec 5) ++ (5 : BitVec 3) ++ (2 : BitVec 2) ++ lvl ++ (0 : BitVec 4))
  | _ => none

/-- Field of a word: `n` bits from bit `lo`. -/
abbrev wf (w : BitVec 32) (lo n : Nat) : BitVec n := w.extractLsb' lo n

/-- Words of major opcode 0x01 (04 Table 4.2). -/
def decodeOp01 (h : Hart) (w : BitVec 32) : Option Instr :=
  if wf w 0 11 = 0 then some (.add h (wf w 21 5) (wf w 16 5) (wf w 11 5))
  else if wf w 0 11 = 1 then some (.sub h (wf w 21 5) (wf w 16 5) (wf w 11 5))
  else if wf w 0 11 = 2 then some (.and h (wf w 21 5) (wf w 16 5) (wf w 11 5))
  else if wf w 0 11 = 3 then some (.or h (wf w 21 5) (wf w 16 5) (wf w 11 5))
  else if wf w 0 11 = 4 then some (.xor h (wf w 21 5) (wf w 16 5) (wf w 11 5))
  else if wf w 0 11 = 5 then some (.andn h (wf w 21 5) (wf w 16 5) (wf w 11 5))
  else if wf w 0 11 = 8 then some (.shl h (wf w 21 5) (wf w 16 5) (wf w 11 5))
  else if wf w 0 11 = 9 then some (.shr h (wf w 21 5) (wf w 16 5) (wf w 11 5))
  else if wf w 0 11 = 10 then some (.sra h (wf w 21 5) (wf w 16 5) (wf w 11 5))
  else if wf w 0 11 = 11 then some (.ror h (wf w 21 5) (wf w 16 5) (wf w 11 5))
  else if wf w 0 11 = 16 then some (.slt h (wf w 21 5) (wf w 16 5) (wf w 11 5))
  else if wf w 0 11 = 17 then some (.sltu h (wf w 21 5) (wf w 16 5) (wf w 11 5))
  else if wf w 0 11 = 18 then some (.seq h (wf w 21 5) (wf w 16 5) (wf w 11 5))
  else if wf w 0 11 = 24 then some (.mul h (wf w 21 5) (wf w 16 5) (wf w 11 5))
  else if wf w 0 11 = 25 then some (.mulh h (wf w 21 5) (wf w 16 5) (wf w 11 5))
  else if wf w 0 11 = 26 then some (.mulhu h (wf w 21 5) (wf w 16 5) (wf w 11 5))
  else if wf w 0 11 = 32 then some (.div h (wf w 21 5) (wf w 16 5) (wf w 11 5))
  else if wf w 0 11 = 33 then some (.divu h (wf w 21 5) (wf w 16 5) (wf w 11 5))
  else if wf w 0 11 = 34 then some (.rem h (wf w 21 5) (wf w 16 5) (wf w 11 5))
  else if wf w 0 11 = 35 then some (.remu h (wf w 21 5) (wf w 16 5) (wf w 11 5))
  else if wf w 11 5 = 0 ∧ wf w 0 11 = 40 then some (.clz h (wf w 21 5) (wf w 16 5))
  else if wf w 11 5 = 0 ∧ wf w 0 11 = 41 then some (.ctz h (wf w 21 5) (wf w 16 5))
  else if wf w 11 5 = 0 ∧ wf w 0 11 = 42 then some (.popc h (wf w 21 5) (wf w 16 5))
  else if wf w 11 5 = 0 ∧ wf w 0 11 = 43 then some (.bswap h (wf w 21 5) (wf w 16 5))
  else if wf w 11 5 = 0 ∧ wf w 0 11 = 48 then some (.mv h (wf w 21 5) (wf w 16 5))
  else none

/-- Words of major opcode 0x02 (04 Table 4.2). -/
def decodeOp02 (h : Hart) (w : BitVec 32) : Option Instr :=
  some (.addi h (wf w 21 5) (wf w 16 5) (wf w 0 16))

/-- Words of major opcode 0x03 (04 Table 4.2). -/
def decodeOp03 (h : Hart) (w : BitVec 32) : Option Instr :=
  some (.andi h (wf w 21 5) (wf w 16 5) (wf w 0 16))

/-- Words of major opcode 0x04 (04 Table 4.2). -/
def decodeOp04 (h : Hart) (w : BitVec 32) : Option Instr :=
  some (.ori h (wf w 21 5) (wf w 16 5) (wf w 0 16))

/-- Words of major opcode 0x05 (04 Table 4.2). -/
def decodeOp05 (h : Hart) (w : BitVec 32) : Option Instr :=
  some (.xori h (wf w 21 5) (wf w 16 5) (wf w 0 16))

/-- Words of major opcode 0x07 (04 Table 4.2). -/
def decodeOp07 (h : Hart) (w : BitVec 32) : Option Instr :=
  some (.slti h (wf w 21 5) (wf w 16 5) (wf w 0 16))

/-- Words of major opcode 0x08 (04 Table 4.2). -/
def decodeOp08 (h : Hart) (w : BitVec 32) : Option Instr :=
  some (.sltiu h (wf w 21 5) (wf w 16 5) (wf w 0 16))

/-- Words of major opcode 0x06 (04 Table 4.2). -/
def decodeOp06 (h : Hart) (w : BitVec 32) : Option Instr :=
  if wf w 10 6 = 0 ∧ wf w 6 2 = 0 then some (.shi h (wf w 21 5) (wf w 16 5) (wf w 8 2) (wf w 0 6))
  else none

/-- Words of major opcode 0x09 (04 Table 4.2). -/
def decodeOp09 (h : Hart) (w : BitVec 32) : Option Instr :=
  if wf w 19 2 = 0 ∧ wf w 16 3 = 0 then some (.kstart h (wf w 21 5) (wf w 0 16))
  else if wf w 19 2 = 1 ∧ wf w 16 3 = 0 then some (.knext h (wf w 21 5) (wf w 0 16))
  else if wf w 19 2 = 2 ∧ wf w 16 3 = 0 then some (.krep h (wf w 21 5) (wf w 0 16))
  else none

/-- Words of major opcode 0x0A (04 Table 4.2). -/
def decodeOp0A (h : Hart) (w : BitVec 32) : Option Instr :=
  some (.apc h (wf w 21 5) (wf w 0 21))

/-- Words of major opcode 0x0B (04 Table 4.2). -/
def decodeOp0B (h : Hart) (w : BitVec 32) : Option Instr :=
  some (.apcD h (wf w 21 5) (wf w 0 21))

/-- Words of major opcode 0x0C (04 Table 4.2). -/
def decodeOp0C (h : Hart) (w : BitVec 32) : Option Instr :=
  some (.apcC h (wf w 21 5) (wf w 0 21))

/-- Words of major opcode 0x0E (04 Table 4.2). -/
def decodeOp0E (h : Hart) (w : BitVec 32) : Option Instr :=
  if wf w 0 6 = 0 then some (.sel h (wf w 21 5) (wf w 16 5) (wf w 11 5) (wf w 6 5))
  else if wf w 11 5 = 0 ∧ wf w 0 6 = 1 then some (.cmov h (wf w 21 5) (wf w 16 5) (wf w 6 5))
  else if wf w 11 5 = 0 ∧ wf w 0 6 = 2 then some (.cmovz h (wf w 21 5) (wf w 16 5) (wf w 6 5))
  else none

/-- Words of major opcode 0x0F (04 Table 4.2). -/
def decodeOp0F (h : Hart) (w : BitVec 32) : Option Instr :=
  if wf w 14 2 = 0 ∧ wf w 12 2 = 0 then some (.ext h (wf w 21 5) (wf w 16 5) (wf w 6 6) (wf w 0 6))
  else if wf w 14 2 = 1 ∧ wf w 12 2 = 0 then some (.extu h (wf w 21 5) (wf w 16 5) (wf w 6 6) (wf w 0 6))
  else if wf w 14 2 = 2 ∧ wf w 12 2 = 0 then some (.ins h (wf w 21 5) (wf w 16 5) (wf w 6 6) (wf w 0 6))
  else none

/-- Words of major opcode 0x10 (04 Table 4.2). -/
def decodeOp10 (h : Hart) (w : BitVec 32) : Option Instr :=
  some (.ldB h (wf w 21 5) (wf w 16 5) (wf w 0 16))

/-- Words of major opcode 0x11 (04 Table 4.2). -/
def decodeOp11 (h : Hart) (w : BitVec 32) : Option Instr :=
  some (.ldBu h (wf w 21 5) (wf w 16 5) (wf w 0 16))

/-- Words of major opcode 0x12 (04 Table 4.2). -/
def decodeOp12 (h : Hart) (w : BitVec 32) : Option Instr :=
  some (.ldH h (wf w 21 5) (wf w 16 5) (wf w 0 16))

/-- Words of major opcode 0x13 (04 Table 4.2). -/
def decodeOp13 (h : Hart) (w : BitVec 32) : Option Instr :=
  some (.ldHu h (wf w 21 5) (wf w 16 5) (wf w 0 16))

/-- Words of major opcode 0x14 (04 Table 4.2). -/
def decodeOp14 (h : Hart) (w : BitVec 32) : Option Instr :=
  some (.ldW h (wf w 21 5) (wf w 16 5) (wf w 0 16))

/-- Words of major opcode 0x15 (04 Table 4.2). -/
def decodeOp15 (h : Hart) (w : BitVec 32) : Option Instr :=
  some (.ldWu h (wf w 21 5) (wf w 16 5) (wf w 0 16))

/-- Words of major opcode 0x16 (04 Table 4.2). -/
def decodeOp16 (h : Hart) (w : BitVec 32) : Option Instr :=
  some (.ldD h (wf w 21 5) (wf w 16 5) (wf w 0 16))

/-- Words of major opcode 0x17 (04 Table 4.2). -/
def decodeOp17 (h : Hart) (w : BitVec 32) : Option Instr :=
  some (.ldfS h (wf w 21 5) (wf w 16 5) (wf w 0 16))

/-- Words of major opcode 0x18 (04 Table 4.2). -/
def decodeOp18 (h : Hart) (w : BitVec 32) : Option Instr :=
  some (.ldfD h (wf w 21 5) (wf w 16 5) (wf w 0 16))

/-- Words of major opcode 0x19 (04 Table 4.2). -/
def decodeOp19 (h : Hart) (w : BitVec 32) : Option Instr :=
  some (.vld h (wf w 21 5) (wf w 16 5) (wf w 0 16))

/-- Words of major opcode 0x1A (04 Table 4.2). -/
def decodeOp1A (h : Hart) (w : BitVec 32) : Option Instr :=
  some (.stB h (wf w 21 5) (wf w 16 5) (wf w 0 16))

/-- Words of major opcode 0x1B (04 Table 4.2). -/
def decodeOp1B (h : Hart) (w : BitVec 32) : Option Instr :=
  some (.stH h (wf w 21 5) (wf w 16 5) (wf w 0 16))

/-- Words of major opcode 0x1C (04 Table 4.2). -/
def decodeOp1C (h : Hart) (w : BitVec 32) : Option Instr :=
  some (.stW h (wf w 21 5) (wf w 16 5) (wf w 0 16))

/-- Words of major opcode 0x1D (04 Table 4.2). -/
def decodeOp1D (h : Hart) (w : BitVec 32) : Option Instr :=
  some (.stD h (wf w 21 5) (wf w 16 5) (wf w 0 16))

/-- Words of major opcode 0x1E (04 Table 4.2). -/
def decodeOp1E (h : Hart) (w : BitVec 32) : Option Instr :=
  some (.stfS h (wf w 21 5) (wf w 16 5) (wf w 0 16))

/-- Words of major opcode 0x1F (04 Table 4.2). -/
def decodeOp1F (h : Hart) (w : BitVec 32) : Option Instr :=
  some (.stfD h (wf w 21 5) (wf w 16 5) (wf w 0 16))

/-- Words of major opcode 0x20 (04 Table 4.2). -/
def decodeOp20 (h : Hart) (w : BitVec 32) : Option Instr :=
  some (.vst h (wf w 21 5) (wf w 16 5) (wf w 0 16))

/-- Words of major opcode 0x21 (04 Table 4.2). -/
def decodeOp21 (h : Hart) (w : BitVec 32) : Option Instr :=
  if wf w 5 1 = 0 ∧ wf w 0 5 = 0 then some (.ldx h (wf w 21 5) (wf w 16 5) (wf w 11 5) (wf w 8 3) (wf w 6 2))
  else none

/-- Words of major opcode 0x22 (04 Table 4.2). -/
def decodeOp22 (h : Hart) (w : BitVec 32) : Option Instr :=
  if wf w 0 5 = 0 then some (.stx h (wf w 21 5) (wf w 16 5) (wf w 11 5) (wf w 8 3) (wf w 6 2) (decide (wf w 5 1 = 1)))
  else none

/-- Words of major opcode 0x23 (04 Table 4.2). -/
def decodeOp23 (h : Hart) (w : BitVec 32) : Option Instr :=
  some (.ldtg h (wf w 21 5) (wf w 16 5) (wf w 0 16))

/-- Words of major opcode 0x24 (04 Table 4.2). -/
def decodeOp24 (h : Hart) (w : BitVec 32) : Option Instr :=
  some (.pf h (wf w 21 5) (wf w 16 5) (wf w 0 16))

/-- Words of major opcode 0x25 (04 Table 4.2). -/
def decodeOp25 (h : Hart) (w : BitVec 32) : Option Instr :=
  if wf w 7 4 = 0 ∧ wf w 0 4 = 0 then some (.atomicSwap h (wf w 21 5) (wf w 16 5) (wf w 11 5) (decide (wf w 6 1 = 1)) (wf w 4 2))
  else if wf w 7 4 = 1 ∧ wf w 0 4 = 0 then some (.atomicAdd h (wf w 21 5) (wf w 16 5) (wf w 11 5) (decide (wf w 6 1 = 1)) (wf w 4 2))
  else if wf w 7 4 = 2 ∧ wf w 0 4 = 0 then some (.atomicAnd h (wf w 21 5) (wf w 16 5) (wf w 11 5) (decide (wf w 6 1 = 1)) (wf w 4 2))
  else if wf w 7 4 = 3 ∧ wf w 0 4 = 0 then some (.atomicOr h (wf w 21 5) (wf w 16 5) (wf w 11 5) (decide (wf w 6 1 = 1)) (wf w 4 2))
  else if wf w 7 4 = 4 ∧ wf w 0 4 = 0 then some (.atomicXor h (wf w 21 5) (wf w 16 5) (wf w 11 5) (decide (wf w 6 1 = 1)) (wf w 4 2))
  else if wf w 7 4 = 5 ∧ wf w 0 4 = 0 then some (.atomicMin h (wf w 21 5) (wf w 16 5) (wf w 11 5) (decide (wf w 6 1 = 1)) (wf w 4 2))
  else if wf w 7 4 = 6 ∧ wf w 0 4 = 0 then some (.atomicMax h (wf w 21 5) (wf w 16 5) (wf w 11 5) (decide (wf w 6 1 = 1)) (wf w 4 2))
  else if wf w 7 4 = 7 ∧ wf w 0 4 = 0 then some (.atomicMinu h (wf w 21 5) (wf w 16 5) (wf w 11 5) (decide (wf w 6 1 = 1)) (wf w 4 2))
  else if wf w 7 4 = 8 ∧ wf w 0 4 = 0 then some (.atomicMaxu h (wf w 21 5) (wf w 16 5) (wf w 11 5) (decide (wf w 6 1 = 1)) (wf w 4 2))
  else if wf w 7 4 = 9 ∧ wf w 0 4 = 0 then some (.atomicCas h (wf w 21 5) (wf w 16 5) (wf w 11 5) (decide (wf w 6 1 = 1)) (wf w 4 2))
  else none

/-- Words of major opcode 0x28 (04 Table 4.2). -/
def decodeOp28 (h : Hart) (w : BitVec 32) : Option Instr :=
  some (.j h (wf w 0 26))

/-- Words of major opcode 0x29 (04 Table 4.2). -/
def decodeOp29 (h : Hart) (w : BitVec 32) : Option Instr :=
  some (.call h (wf w 0 26))

/-- Words of major opcode 0x2A (04 Table 4.2). -/
def decodeOp2A (h : Hart) (w : BitVec 32) : Option Instr :=
  some (.beq h (wf w 21 5) (wf w 16 5) (wf w 0 16))

/-- Words of major opcode 0x2B (04 Table 4.2). -/
def decodeOp2B (h : Hart) (w : BitVec 32) : Option Instr :=
  some (.bne h (wf w 21 5) (wf w 16 5) (wf w 0 16))

/-- Words of major opcode 0x2C (04 Table 4.2). -/
def decodeOp2C (h : Hart) (w : BitVec 32) : Option Instr :=
  some (.blt h (wf w 21 5) (wf w 16 5) (wf w 0 16))

/-- Words of major opcode 0x2D (04 Table 4.2). -/
def decodeOp2D (h : Hart) (w : BitVec 32) : Option Instr :=
  some (.bge h (wf w 21 5) (wf w 16 5) (wf w 0 16))

/-- Words of major opcode 0x2E (04 Table 4.2). -/
def decodeOp2E (h : Hart) (w : BitVec 32) : Option Instr :=
  some (.bltu h (wf w 21 5) (wf w 16 5) (wf w 0 16))

/-- Words of major opcode 0x2F (04 Table 4.2). -/
def decodeOp2F (h : Hart) (w : BitVec 32) : Option Instr :=
  some (.bgeu h (wf w 21 5) (wf w 16 5) (wf w 0 16))

/-- Words of major opcode 0x30 (04 Table 4.2). -/
def decodeOp30 (h : Hart) (w : BitVec 32) : Option Instr :=
  if wf w 21 5 = 0 ∧ wf w 11 5 = 0 ∧ wf w 0 11 = 0 then some (.jr h (wf w 16 5))
  else if wf w 21 5 = 0 ∧ wf w 11 5 = 0 ∧ wf w 0 11 = 1 then some (.callr h (wf w 16 5))
  else if wf w 21 5 = 0 ∧ wf w 16 5 = 0 ∧ wf w 11 5 = 0 ∧ wf w 0 11 = 2 then some (.ret h)
  else none

/-- Words of major opcode 0x31 (04 Table 4.2). -/
def decodeOp31 (h : Hart) (w : BitVec 32) : Option Instr :=
  some (.loop h (wf w 24 2) (wf w 19 5) (wf w 0 19))

/-- Words of major opcode 0x32 (04 Table 4.2). -/
def decodeOp32 (h : Hart) (w : BitVec 32) : Option Instr :=
  if wf w 21 5 = 0 ∧ wf w 0 11 = 0 then some (.mulw h (wf w 16 5) (wf w 11 5))
  else if wf w 21 5 = 0 ∧ wf w 0 11 = 1 then some (.mulwu h (wf w 16 5) (wf w 11 5))
  else if wf w 21 5 = 0 ∧ wf w 0 11 = 2 then some (.macw h (wf w 16 5) (wf w 11 5))
  else if wf w 21 5 = 0 ∧ wf w 0 11 = 3 then some (.macwu h (wf w 16 5) (wf w 11 5))
  else none

/-- Words of major opcode 0x34 (04 Table 4.2). -/
def decodeOp34 (h : Hart) (w : BitVec 32) : Option Instr :=
  if wf w 5 6 = 0 ∧ wf w 0 1 = 0 then some (.fadd h (wf w 21 5) (wf w 16 5) (wf w 11 5) (decide (wf w 4 1 = 1)) (wf w 1 3))
  else if wf w 5 6 = 1 ∧ wf w 0 1 = 0 then some (.fsub h (wf w 21 5) (wf w 16 5) (wf w 11 5) (decide (wf w 4 1 = 1)) (wf w 1 3))
  else if wf w 5 6 = 2 ∧ wf w 0 1 = 0 then some (.fmul h (wf w 21 5) (wf w 16 5) (wf w 11 5) (decide (wf w 4 1 = 1)) (wf w 1 3))
  else if wf w 5 6 = 3 ∧ wf w 0 1 = 0 then some (.fdiv h (wf w 21 5) (wf w 16 5) (wf w 11 5) (decide (wf w 4 1 = 1)) (wf w 1 3))
  else if wf w 11 5 = 0 ∧ wf w 5 6 = 4 ∧ wf w 0 1 = 0 then some (.fsqrt h (wf w 21 5) (wf w 16 5) (decide (wf w 4 1 = 1)) (wf w 1 3))
  else if wf w 5 6 = 8 ∧ wf w 1 3 = 0 ∧ wf w 0 1 = 0 then some (.fmin h (wf w 21 5) (wf w 16 5) (wf w 11 5) (decide (wf w 4 1 = 1)))
  else if wf w 5 6 = 9 ∧ wf w 1 3 = 0 ∧ wf w 0 1 = 0 then some (.fmax h (wf w 21 5) (wf w 16 5) (wf w 11 5) (decide (wf w 4 1 = 1)))
  else if wf w 5 6 = 12 ∧ wf w 1 3 = 0 ∧ wf w 0 1 = 0 then some (.fcopysign h (wf w 21 5) (wf w 16 5) (wf w 11 5) (decide (wf w 4 1 = 1)))
  else if wf w 11 5 = 0 ∧ wf w 5 6 = 13 ∧ wf w 1 3 = 0 ∧ wf w 0 1 = 0 then some (.fneg h (wf w 21 5) (wf w 16 5) (decide (wf w 4 1 = 1)))
  else if wf w 11 5 = 0 ∧ wf w 5 6 = 14 ∧ wf w 1 3 = 0 ∧ wf w 0 1 = 0 then some (.fabs h (wf w 21 5) (wf w 16 5) (decide (wf w 4 1 = 1)))
  else if wf w 5 6 = 16 ∧ wf w 1 3 = 0 ∧ wf w 0 1 = 0 then some (.fceq h (wf w 21 5) (wf w 16 5) (wf w 11 5) (decide (wf w 4 1 = 1)))
  else if wf w 5 6 = 17 ∧ wf w 1 3 = 0 ∧ wf w 0 1 = 0 then some (.fclt h (wf w 21 5) (wf w 16 5) (wf w 11 5) (decide (wf w 4 1 = 1)))
  else if wf w 5 6 = 18 ∧ wf w 1 3 = 0 ∧ wf w 0 1 = 0 then some (.fcle h (wf w 21 5) (wf w 16 5) (wf w 11 5) (decide (wf w 4 1 = 1)))
  else if wf w 11 5 = 0 ∧ wf w 5 6 = 19 ∧ wf w 1 3 = 0 ∧ wf w 0 1 = 0 then some (.fkind h (wf w 21 5) (wf w 16 5) (decide (wf w 4 1 = 1)))
  else if wf w 11 5 = 0 ∧ wf w 5 6 = 24 ∧ wf w 0 1 = 0 then some (.fcvtF h (wf w 21 5) (wf w 16 5) (decide (wf w 4 1 = 1)) (wf w 1 3))
  else if wf w 11 5 = 0 ∧ wf w 5 6 = 32 ∧ wf w 0 1 = 0 then some (.ftoiW h (wf w 21 5) (wf w 16 5) (decide (wf w 4 1 = 1)) (wf w 1 3))
  else if wf w 11 5 = 0 ∧ wf w 5 6 = 33 ∧ wf w 0 1 = 0 then some (.ftoiWu h (wf w 21 5) (wf w 16 5) (decide (wf w 4 1 = 1)) (wf w 1 3))
  else if wf w 11 5 = 0 ∧ wf w 5 6 = 34 ∧ wf w 0 1 = 0 then some (.ftoiL h (wf w 21 5) (wf w 16 5) (decide (wf w 4 1 = 1)) (wf w 1 3))
  else if wf w 11 5 = 0 ∧ wf w 5 6 = 35 ∧ wf w 0 1 = 0 then some (.ftoiLu h (wf w 21 5) (wf w 16 5) (decide (wf w 4 1 = 1)) (wf w 1 3))
  else if wf w 11 5 = 0 ∧ wf w 5 6 = 40 ∧ wf w 0 1 = 0 then some (.ffromiW h (wf w 21 5) (wf w 16 5) (decide (wf w 4 1 = 1)) (wf w 1 3))
  else if wf w 11 5 = 0 ∧ wf w 5 6 = 41 ∧ wf w 0 1 = 0 then some (.ffromiWu h (wf w 21 5) (wf w 16 5) (decide (wf w 4 1 = 1)) (wf w 1 3))
  else if wf w 11 5 = 0 ∧ wf w 5 6 = 42 ∧ wf w 0 1 = 0 then some (.ffromiL h (wf w 21 5) (wf w 16 5) (decide (wf w 4 1 = 1)) (wf w 1 3))
  else if wf w 11 5 = 0 ∧ wf w 5 6 = 43 ∧ wf w 0 1 = 0 then some (.ffromiLu h (wf w 21 5) (wf w 16 5) (decide (wf w 4 1 = 1)) (wf w 1 3))
  else if wf w 11 5 = 0 ∧ wf w 5 6 = 48 ∧ wf w 1 3 = 0 ∧ wf w 0 1 = 0 then some (.fmvTog h (wf w 21 5) (wf w 16 5) (decide (wf w 4 1 = 1)))
  else if wf w 11 5 = 0 ∧ wf w 5 6 = 49 ∧ wf w 1 3 = 0 ∧ wf w 0 1 = 0 then some (.fmvFromg h (wf w 21 5) (wf w 16 5) (decide (wf w 4 1 = 1)))
  else none

/-- Words of major opcode 0x35 (04 Table 4.2). -/
def decodeOp35 (h : Hart) (w : BitVec 32) : Option Instr :=
  if wf w 4 2 = 0 then some (.fmadd h (wf w 21 5) (wf w 16 5) (wf w 11 5) (wf w 6 5) (decide (wf w 3 1 = 1)) (wf w 0 3))
  else if wf w 4 2 = 1 then some (.fmsub h (wf w 21 5) (wf w 16 5) (wf w 11 5) (wf w 6 5) (decide (wf w 3 1 = 1)) (wf w 0 3))
  else if wf w 4 2 = 2 then some (.fnmadd h (wf w 21 5) (wf w 16 5) (wf w 11 5) (wf w 6 5) (decide (wf w 3 1 = 1)) (wf w 0 3))
  else if wf w 4 2 = 3 then some (.fnmsub h (wf w 21 5) (wf w 16 5) (wf w 11 5) (wf w 6 5) (decide (wf w 3 1 = 1)) (wf w 0 3))
  else none

/-- Words of major opcode 0x38 (04 Table 4.2). -/
def decodeOp38 (h : Hart) (w : BitVec 32) : Option Instr :=
  if wf w 0 8 = 0 then some (.vadd h (wf w 21 5) (wf w 16 5) (wf w 11 5) (wf w 8 3))
  else if wf w 0 8 = 1 then some (.vsub h (wf w 21 5) (wf w 16 5) (wf w 11 5) (wf w 8 3))
  else if wf w 0 8 = 2 then some (.vmul h (wf w 21 5) (wf w 16 5) (wf w 11 5) (wf w 8 3))
  else if wf w 0 8 = 3 then some (.vmin h (wf w 21 5) (wf w 16 5) (wf w 11 5) (wf w 8 3))
  else if wf w 0 8 = 4 then some (.vmax h (wf w 21 5) (wf w 16 5) (wf w 11 5) (wf w 8 3))
  else if wf w 0 8 = 5 then some (.vminu h (wf w 21 5) (wf w 16 5) (wf w 11 5) (wf w 8 3))
  else if wf w 0 8 = 6 then some (.vmaxu h (wf w 21 5) (wf w 16 5) (wf w 11 5) (wf w 8 3))
  else if wf w 0 8 = 8 then some (.vand h (wf w 21 5) (wf w 16 5) (wf w 11 5) (wf w 8 3))
  else if wf w 0 8 = 9 then some (.vor h (wf w 21 5) (wf w 16 5) (wf w 11 5) (wf w 8 3))
  else if wf w 0 8 = 10 then some (.vxor h (wf w 21 5) (wf w 16 5) (wf w 11 5) (wf w 8 3))
  else if wf w 0 8 = 11 then some (.vandn h (wf w 21 5) (wf w 16 5) (wf w 11 5) (wf w 8 3))
  else if wf w 0 8 = 16 then some (.vshl h (wf w 21 5) (wf w 16 5) (wf w 11 5) (wf w 8 3))
  else if wf w 0 8 = 17 then some (.vshr h (wf w 21 5) (wf w 16 5) (wf w 11 5) (wf w 8 3))
  else if wf w 0 8 = 18 then some (.vsra h (wf w 21 5) (wf w 16 5) (wf w 11 5) (wf w 8 3))
  else if wf w 0 8 = 24 then some (.vcmpeq h (wf w 21 5) (wf w 16 5) (wf w 11 5) (wf w 8 3))
  else if wf w 0 8 = 25 then some (.vcmplt h (wf w 21 5) (wf w 16 5) (wf w 11 5) (wf w 8 3))
  else if wf w 0 8 = 26 then some (.vcmpltu h (wf w 21 5) (wf w 16 5) (wf w 11 5) (wf w 8 3))
  else if wf w 8 3 = 0 ∧ wf w 0 8 = 32 then some (.vperm h (wf w 21 5) (wf w 16 5) (wf w 11 5))
  else if wf w 11 5 = 0 ∧ wf w 0 8 = 33 then some (.vred h (wf w 21 5) (wf w 16 5) (wf w 8 3))
  else if wf w 11 5 = 0 ∧ wf w 0 8 = 40 then some (.vbcast h (wf w 21 5) (wf w 16 5) (wf w 8 3))
  else if wf w 0 8 = 41 then some (.vext h (wf w 21 5) (wf w 16 5) (wf w 11 5) (wf w 8 3))
  else if wf w 0 8 = 42 then some (.vins h (wf w 21 5) (wf w 16 5) (wf w 11 5) (wf w 8 3))
  else if wf w 9 2 = 2 ∧ wf w 0 8 = 48 then some (.vfadd h (wf w 21 5) (wf w 16 5) (wf w 11 5) (decide (wf w 8 1 = 1)))
  else if wf w 9 2 = 2 ∧ wf w 0 8 = 49 then some (.vfsub h (wf w 21 5) (wf w 16 5) (wf w 11 5) (decide (wf w 8 1 = 1)))
  else if wf w 9 2 = 2 ∧ wf w 0 8 = 50 then some (.vfmul h (wf w 21 5) (wf w 16 5) (wf w 11 5) (decide (wf w 8 1 = 1)))
  else if wf w 9 2 = 2 ∧ wf w 0 8 = 51 then some (.vfmin h (wf w 21 5) (wf w 16 5) (wf w 11 5) (decide (wf w 8 1 = 1)))
  else if wf w 9 2 = 2 ∧ wf w 0 8 = 52 then some (.vfmax h (wf w 21 5) (wf w 16 5) (wf w 11 5) (decide (wf w 8 1 = 1)))
  else if wf w 9 2 = 2 ∧ wf w 0 8 = 53 then some (.vfceq h (wf w 21 5) (wf w 16 5) (wf w 11 5) (decide (wf w 8 1 = 1)))
  else if wf w 9 2 = 2 ∧ wf w 0 8 = 54 then some (.vfclt h (wf w 21 5) (wf w 16 5) (wf w 11 5) (decide (wf w 8 1 = 1)))
  else if wf w 9 2 = 2 ∧ wf w 0 8 = 55 then some (.vfcle h (wf w 21 5) (wf w 16 5) (wf w 11 5) (decide (wf w 8 1 = 1)))
  else if wf w 11 5 = 0 ∧ wf w 9 2 = 2 ∧ wf w 0 8 = 56 then some (.vftoi h (wf w 21 5) (wf w 16 5) (decide (wf w 8 1 = 1)))
  else if wf w 11 5 = 0 ∧ wf w 9 2 = 2 ∧ wf w 0 8 = 57 then some (.vffromi h (wf w 21 5) (wf w 16 5) (decide (wf w 8 1 = 1)))
  else if wf w 11 5 = 0 ∧ wf w 9 2 = 2 ∧ wf w 0 8 = 58 then some (.vfneg h (wf w 21 5) (wf w 16 5) (decide (wf w 8 1 = 1)))
  else if wf w 11 5 = 0 ∧ wf w 9 2 = 2 ∧ wf w 0 8 = 59 then some (.vfabs h (wf w 21 5) (wf w 16 5) (decide (wf w 8 1 = 1)))
  else none

/-- Words of major opcode 0x39 (04 Table 4.2). -/
def decodeOp39 (h : Hart) (w : BitVec 32) : Option Instr :=
  if wf w 3 3 = 0 ∧ wf w 1 2 = 2 then some (.vfma h (wf w 21 5) (wf w 16 5) (wf w 11 5) (wf w 6 5) (decide (wf w 0 1 = 1)))
  else if wf w 0 6 = 16 then some (.vsel h (wf w 21 5) (wf w 16 5) (wf w 11 5) (wf w 6 5))
  else none

/-- Words of major opcode 0x3C (04 Table 4.2). -/
def decodeOp3C (h : Hart) (w : BitVec 32) : Option Instr :=
  if wf w 21 5 = 0 ∧ wf w 12 4 = 1 ∧ wf w 0 12 = 32 then some (.mtsLk h (wf w 16 5))
  else if wf w 21 5 = 0 ∧ wf w 12 4 = 1 ∧ wf w 0 12 = 1 then some (.mtsFcsr h (wf w 16 5))
  else if wf w 21 5 = 0 ∧ wf w 12 4 = 1 ∧ wf w 0 12 = 1041 then some (.mtsCtxPredkey h (wf w 16 5))
  else if wf w 21 5 = 0 ∧ wf w 12 4 = 1 ∧ wf w 0 12 = 1040 then some (.mtsCtxTagctl h (wf w 16 5))
  else if wf w 21 5 = 0 ∧ wf w 12 4 = 1 ∧ wf w 0 12 = 1042 then some (.mtsCtxTiming h (wf w 16 5))
  else if wf w 21 5 = 0 ∧ wf w 12 4 = 1 ∧ wf w 0 12 = 3104 then some (.mtsCachecfg h (wf w 16 5))
  else if wf w 21 5 = 0 ∧ wf w 12 4 = 1 ∧ wf w 0 12 = 3120 then some (.mtsPwrctl h (wf w 16 5))
  else if wf w 21 5 = 0 ∧ wf w 12 4 = 1 ∧ wf w 0 12 = 3136 then some (.mtsPmuSnap h (wf w 16 5))
  else if wf w 21 5 = 0 ∧ wf w 12 4 = 1 ∧ wf w 4 8 = 1 ∧ (wf w 0 4).toNat ≤ 8 then some (.mtsLoopRegister h (wf w 0 4) (wf w 16 5))
  else if wf w 21 5 = 0 ∧ wf w 12 4 = 1 ∧ wf w 6 6 = 17 ∧ ((wf w 0 6).toNat ≤ 5 ∨ (8 ≤ (wf w 0 6).toNat ∧ (wf w 0 6).toNat ≤ 23) ∨ (wf w 0 6).toNat = 32 ∨ (wf w 0 6).toNat = 33) then
    some (.mtsCounter h (wf w 0 6) (wf w 16 5))
  else if wf w 16 5 = 0 ∧ wf w 12 4 = 0 then some (.mfs h (wf w 21 5) (wf w 0 12))
  else if wf w 12 4 = 2 ∧ wf w 3 9 = 0 then some (.tset h (wf w 21 5) (wf w 16 5) (wf w 0 3))
  else if wf w 12 4 = 3 ∧ wf w 0 12 = 0 then some (.tget h (wf w 21 5) (wf w 16 5))
  else if wf w 21 5 = 0 ∧ wf w 16 5 = 0 ∧ wf w 12 4 = 4 ∧ wf w 0 12 = 0 then some (.ecall h)
  else if wf w 21 5 = 0 ∧ wf w 16 5 = 0 ∧ wf w 12 4 = 5 ∧ wf w 0 12 = 0 then some (.ebreak h)
  else if wf w 21 5 = 0 ∧ wf w 16 5 = 0 ∧ wf w 12 4 = 6 ∧ wf w 0 12 = 0 then some (.eret h)
  else if wf w 21 5 = 0 ∧ wf w 16 5 = 0 ∧ wf w 12 4 = 7 ∧ wf w 0 12 = 0 then some (.wfi h)
  else if wf w 21 5 = 0 ∧ wf w 16 5 = 0 ∧ wf w 12 4 = 8 ∧ wf w 0 12 = 0 then some (.fence h)
  else if wf w 21 5 = 0 ∧ wf w 16 5 = 0 ∧ wf w 12 4 = 8 ∧ wf w 0 12 = 1 then some (.fenceSl h)
  else if wf w 21 5 = 0 ∧ wf w 16 5 = 0 ∧ wf w 12 4 = 8 ∧ wf w 0 12 = 2 then some (.fenceNt h)
  else if wf w 21 5 = 0 ∧ wf w 16 5 = 0 ∧ wf w 12 4 = 8 ∧ wf w 0 12 = 3 then some (.fenceIo h)
  else if wf w 21 5 = 0 ∧ wf w 16 5 = 0 ∧ wf w 12 4 = 8 ∧ wf w 0 12 = 4 then some (.syncIo h [])
  else if wf w 21 5 = 0 ∧ wf w 16 5 = 0 ∧ wf w 12 4 = 8 ∧ wf w 0 12 = 5 then some (.isync h)
  else if wf w 21 5 = 0 ∧ wf w 12 4 = 9 ∧ wf w 0 12 = 0 then some (.tlbw h (wf w 16 5))
  else if wf w 21 5 = 0 ∧ wf w 16 5 = 0 ∧ wf w 12 4 = 10 ∧ wf w 9 3 = 0 ∧ wf w 3 5 = 0 ∧ wf w 0 3 = 0 then some (.tlbiAll h (decide (wf w 8 1 = 1)))
  else if wf w 21 5 = 0 ∧ wf w 12 4 = 10 ∧ wf w 9 3 = 0 ∧ wf w 3 5 = 0 ∧ wf w 0 3 = 1 then some (.tlbiAsid h (wf w 16 5) (decide (wf w 8 1 = 1)))
  else if wf w 21 5 = 0 ∧ wf w 12 4 = 10 ∧ wf w 9 3 = 0 ∧ wf w 3 5 = 0 ∧ wf w 0 3 = 2 then some (.tlbiVa h (wf w 16 5) (decide (wf w 8 1 = 1)))
  else if wf w 21 5 = 0 ∧ wf w 12 4 = 10 ∧ wf w 9 3 = 0 ∧ wf w 3 5 = 0 ∧ wf w 0 3 = 3 then some (.tlbiVaAll h (wf w 16 5) (decide (wf w 8 1 = 1)))
  else if wf w 21 5 = 0 ∧ wf w 16 5 = 0 ∧ wf w 12 4 = 10 ∧ wf w 9 3 = 0 ∧ wf w 3 5 = 0 ∧ wf w 0 3 = 4 then some (.tlbiNonglobal h (decide (wf w 8 1 = 1)))
  else if wf w 12 4 = 11 ∧ wf w 2 10 = 0 then some (.walk h (wf w 21 5) (wf w 16 5) (wf w 0 2))
  else if wf w 12 4 = 12 ∧ wf w 0 12 = 0 then some (.tlbr h (wf w 21 5) (wf w 16 5))
  else if wf w 21 5 = 0 ∧ wf w 12 4 = 1 then some (.mts h (wf w 0 12) (wf w 16 5))
  else none

/-- Words of major opcode 0x3D (04 Table 4.2). -/
def decodeOp3D (h : Hart) (w : BitVec 32) : Option Instr :=
  if wf w 21 5 = 0 ∧ wf w 11 5 = 0 ∧ wf w 8 3 = 0 ∧ wf w 6 2 = 0 ∧ wf w 4 2 = 0 ∧ wf w 0 4 = 0 then some (.dcz h (wf w 16 5))
  else if wf w 8 3 = 1 ∧ wf w 0 4 = 0 then (scopeOf (wf w 4 4)).map (fun sc => .clean h (wf w 21 5) (wf w 16 5) (wf w 11 5) sc)
  else if wf w 8 3 = 2 ∧ wf w 0 4 = 0 then (scopeOf (wf w 4 4)).map (fun sc => .inval h (wf w 21 5) (wf w 16 5) (wf w 11 5) sc)
  else if wf w 8 3 = 3 ∧ wf w 0 4 = 0 then (scopeOf (wf w 4 4)).map (fun sc => .clinv h (wf w 21 5) (wf w 16 5) (wf w 11 5) sc)
  else if wf w 8 3 = 4 ∧ wf w 0 4 = 0 then (scopeOf (wf w 4 4)).map (fun sc => .lockld h (wf w 21 5) (wf w 16 5) (wf w 11 5) sc)
  else if wf w 21 5 = 0 ∧ wf w 11 5 = 0 ∧ wf w 8 3 = 5 ∧ wf w 6 2 = 2 ∧ wf w 0 4 = 0 then some (.unlock h (wf w 16 5) (wf w 4 2))
  else none

/-- The Nefen command a word spells for a hart; none where its opcode, function code or a field marked 0 does not fit (04 R79). -/
def decodeWord (h : Hart) (w : BitVec 32) : Option Instr :=
  match (wf w 26 6).toNat with
  | 0x01 => decodeOp01 h w
  | 0x02 => decodeOp02 h w
  | 0x03 => decodeOp03 h w
  | 0x04 => decodeOp04 h w
  | 0x05 => decodeOp05 h w
  | 0x07 => decodeOp07 h w
  | 0x08 => decodeOp08 h w
  | 0x06 => decodeOp06 h w
  | 0x09 => decodeOp09 h w
  | 0x0A => decodeOp0A h w
  | 0x0B => decodeOp0B h w
  | 0x0C => decodeOp0C h w
  | 0x0E => decodeOp0E h w
  | 0x0F => decodeOp0F h w
  | 0x10 => decodeOp10 h w
  | 0x11 => decodeOp11 h w
  | 0x12 => decodeOp12 h w
  | 0x13 => decodeOp13 h w
  | 0x14 => decodeOp14 h w
  | 0x15 => decodeOp15 h w
  | 0x16 => decodeOp16 h w
  | 0x17 => decodeOp17 h w
  | 0x18 => decodeOp18 h w
  | 0x19 => decodeOp19 h w
  | 0x1A => decodeOp1A h w
  | 0x1B => decodeOp1B h w
  | 0x1C => decodeOp1C h w
  | 0x1D => decodeOp1D h w
  | 0x1E => decodeOp1E h w
  | 0x1F => decodeOp1F h w
  | 0x20 => decodeOp20 h w
  | 0x21 => decodeOp21 h w
  | 0x22 => decodeOp22 h w
  | 0x23 => decodeOp23 h w
  | 0x24 => decodeOp24 h w
  | 0x25 => decodeOp25 h w
  | 0x28 => decodeOp28 h w
  | 0x29 => decodeOp29 h w
  | 0x2A => decodeOp2A h w
  | 0x2B => decodeOp2B h w
  | 0x2C => decodeOp2C h w
  | 0x2D => decodeOp2D h w
  | 0x2E => decodeOp2E h w
  | 0x2F => decodeOp2F h w
  | 0x30 => decodeOp30 h w
  | 0x31 => decodeOp31 h w
  | 0x32 => decodeOp32 h w
  | 0x34 => decodeOp34 h w
  | 0x35 => decodeOp35 h w
  | 0x38 => decodeOp38 h w
  | 0x39 => decodeOp39 h w
  | 0x3C => decodeOp3C h w
  | 0x3D => decodeOp3D h w
  | _ => none

end Sys2Proof.Machine
end

