-- ==== Sys2Proof/Machine/Words.lean ====
section
/-! DEFINITION. What the word of an instruction says of it to a core's front end, and how many instructions rename can hold (06 R138). -/

namespace Sys2Proof.Machine
open Sys2Proof

/-! ## What a word is (04 Table 4.2) -/

/-- The word of a command. -/
def wordOf (i : Instr) : BitVec 32 := (encode i).getD 0

/-- Major opcode and register fields. -/
def opcOf (w : BitVec 32) : Nat := fld w 31 26
def rdOf (w : BitVec 32) : Reg := w.extractLsb' 21 5
def raOf (w : BitVec 32) : Reg := w.extractLsb' 16 5
def rbOf (w : BitVec 32) : Reg := w.extractLsb' 11 5

/-- A load into g, f or v; an ordinary or DCZ store; an instruction of the floating-point and vector ports. -/
def isLoad (w : BitVec 32) : Bool := decide (0x10 ≤ opcOf w ∧ opcOf w ≤ 0x19) || decide (opcOf w = 0x21)
def isStore (w : BitVec 32) : Bool := decide (0x1A ≤ opcOf w ∧ opcOf w ≤ 0x20) || decide (opcOf w = 0x22)
def isFv (w : BitVec 32) : Bool := decide (0x34 ≤ opcOf w ∧ opcOf w ≤ 0x39)

/-- Width of a load or store in octets (04 Table 4.6, R97). -/
def widthOf (w : BitVec 32) : Nat :=
  match opcOf w with
  | 0x10 => 1 | 0x11 => 1 | 0x12 => 2 | 0x13 => 2 | 0x14 => 4 | 0x15 => 4 | 0x16 => 8 | 0x17 => 4 | 0x18 => 8 | 0x19 => 32
  | 0x1A => 1 | 0x1B => 2 | 0x1C => 4 | 0x1D => 8 | 0x1E => 4 | 0x1F => 8 | 0x20 => 32
  | _ => 1 <<< (fld w 10 8 / 2)

/-- Branches: direct jumps and calls, conditional branches, JR and CALLR, RET (04 R87, R88). -/
inductive Branch where
  | direct (call : Bool)
  | cond
  | indirect (call : Bool)
  | ret
deriving DecidableEq, Repr

/-- What branch a word is. -/
def branchOf (w : BitVec 32) : Option Branch :=
  let o := opcOf w
  if o = 0x28 ∨ o = 0x29 then some (.direct (decide (o = 0x29)))
  else if 0x2A ≤ o ∧ o ≤ 0x2F then some .cond
  else if o = 0x30 then (if fld w 10 0 = 2 then some .ret else some (.indirect (decide (fld w 10 0 = 1))))
  else none

/-- The target a direct branch's word gives (04 R87). -/
def directTarget (pc : Word) (w : BitVec 32) : Word :=
  if opcOf w < 0x2A then pc + ((w.extractLsb' 0 26).signExtend 64 <<< 2) else pc + ((w.extractLsb' 0 16).signExtend 64 <<< 2)

/-- Bits 1:0 of an indirect target are taken as zero (04 R88). -/
def alignTarget (w : Word) : Word := w &&& ~~~(3 : Word)

/-! ## What rename can hold (06 Table 6.2) -/

/-- How many of the window's instructions rename has taken in (06 R138, Table 6.2): reorder buffer, physical registers beyond the
architectural ones, stations, load queue and store buffer. -/
def renamed (sbUsed : Nat) (ws : List WinEntry) : Nat :=
  let ok (k : Nat) : Bool :=
    let xs := ws.take k
    let n (p : BitVec 32 → Bool) : Nat := (xs.filter (fun e => p (wordOf e.i))).length
    let waits (p : BitVec 32 → Bool) : Nat := (xs.filter (fun e => p (wordOf e.i) && e.early.isNone && !e.resolved)).length
    let mem (w : BitVec 32) : Bool := isLoad w || isStore w || decide (0x23 ≤ opcOf w ∧ opcOf w ≤ 0x25) || decide (opcOf w = 0x3D)
    decide (k ≤ 383) && decide (n isLoad ≤ 160) && decide (sbUsed + n isStore ≤ 96) &&
    decide (n (fun w => !isFv w && !isStore w && (branchOf w).isNone) ≤ 320) && decide (n isFv ≤ 224) &&
    decide (waits mem ≤ 64) && decide (waits isFv ≤ 64) && decide (waits (fun w => !mem w && !isFv w) ≤ 96)
  ((List.range (ws.length + 1)).filter ok).foldl max 0

end Sys2Proof.Machine
end

