-- ==== Sys2Proof/Machine/Except.lean ====
section
/-! DEFINITION. Exceptions and flushes (03 R67-R71, R77, 06 R145, R158). -/

namespace Sys2Proof.Machine
open Sys2Proof

/-! ## Exceptions (03 R67-R71) -/

/-- A synchronous or asynchronous event to be taken: class code, SUB, offending tag and TVAL (03 Tables 3.6b, 3.9). -/
structure Exc where
  code : Nat
  sub : Nat := 0
  tag : Nat := 0
  tval : Word := 0
deriving DecidableEq, Repr

/-- The number of a system register of level X, given its S number (03 Table 3.3). -/
def lvlReg (x : Level) (n : Nat) : Nat := if x = .m then n + 0x800 else n

/-- CAUSE's value (03 Table 3.6b). -/
def causeWord (e : Exc) : Word :=
  BitVec.ofNat 64 ((if e.code = 0x0E ∨ e.code = 0x0F ∨ e.code = 0x10 then 2 ^ 31 else 0) + e.tag * 2 ^ 16 + e.sub * 2 ^ 8 + e.code)

/-- The target level of an exception (03 R69); an interrupt carries its own. -/
def excTarget (c : Cpu) (e : Exc) : Level :=
  if c.level ≠ .m ∧ flag (sysReg c 0xC10) e.code ∧ e.code ≠ 0x01 ∧ e.code ≠ 0x0F ∧ e.code ≠ 0x10 then .s else .m

/-- Refill classes use the refill save set (03 R69). -/
def isRefill (code : Nat) : Bool := code = 0x04 ∨ code = 0x05 ∨ code = 0x06

/-- What an exception entry makes of a core: the new core, or the event that could not be saved (03 R70). -/
def enterExc (x : Level) (e : Exc) (epc : Word) (c : Cpu) : Cpu × Option Exc :=
  let est := sysReg c (lvlReg x 0x400)
  let lv := levelCode c.level
  let ie := fld est 1 1
  let finish (c : Cpu) (code : Nat) (est : Word) : Cpu :=
    { setSys (lvlReg x 0x400) (setBit est 1 false) c with
      level := x, pc := sysReg c (lvlReg x 0x404) + BitVec.ofNat 64 (64 * code), rstack := [] }
  if isRefill e.code ∧ ¬ flag est 8 then
    let c := setSys (lvlReg x 0x406) epc (setSys (lvlReg x 0x407) (causeWord e) (setSys (lvlReg x 0x408) e.tval c))
    (finish c e.code (setFld (setFld (setBit est 8 true) 10 9 lv) 11 11 ie), none)
  else
    let e' := if isRefill e.code then { e with code := 0x07, sub := 0x01 } else e
    if flag est 7 then (c, some e')
    else
      let c := setSys (lvlReg x 0x401) epc (setSys (lvlReg x 0x402) (causeWord e') (setSys (lvlReg x 0x403) e'.tval c))
      (finish c e'.code (setFld (setFld (setBit est 7 true) 5 4 lv) 3 3 ie), none)

/-- Fault stop (03 R70): the core retires nothing further and the event is recorded. -/
def faultStop (n : Nat) (e : Exc) (epc : Word) (s : State) : State :=
  let s := modCpu (.core n) (fun c => { c with run := .faultStop }) s
  report { stamp := 0, useq := 0, unit := tileOf s n, cls := 0x0104, sev := 3, encl := enclOfCore s n, core := n,
           tile := tileOf s n, addr := e.tval.toNat, d0 := e.code, d1 := epc.toNat } s

/-! ## Flushes (06 R145, R156, R158) -/

/-- Shadow entries of flushed loads go: one whose read is in flight is dead until the answer comes; one that holds a tracked line is
installed when an asynchronous event flushes it (06 R156, R158). -/
def flushShadows (n : Nat) (install : Bool) (s : State) : State :=
  let t := tileOf s n
  if (tileAt s t).shadow = [] then s
  else
    let es := (tileAt s t).shadow
    let here := es.filter (fun e => e.tracked.isSome && !e.dead && install && cacheEn s (.core n))
    let stay := (es.filter (fun e => e.dead || asking s t e.line)).map (fun e => { e with dead := true })
    let s := modTile t (fun x => { x with shadow := stay }) s
    here.foldl (fun s e => match e.tracked with
      | some st => l1dFill t e.line (l2Fill t e.line st (makeRoom t e.line s))
      | none => s) s

/-- Renamed instructions that are flushed waste their slots (20 R535). -/
def countWaste (n k : Nat) (s : State) : State :=
  if k = 0 then s else countEv n 0x02 k (modCpu (.core n) (fun c => setSys 0x443 (sysReg c 0x443 + BitVec.ofNat 64 k) c) s)

/-- Every instruction fetched and not retired is discarded, with what its loads did ahead of retirement (06 R145, R158). -/
def flushAll (n : Nat) (install : Bool) (s : State) : State :=
  if (coreOf s n).win = [] ∧ (tileAt s (tileOf s n)).shadow = [] ∧ (tileAt s (tileOf s n)).watch = [] then s
  else
    let s := countWaste n (renamed (coreOf s n).sb.length (coreOf s n).win) (flushShadows n install s)
    modCpu (.core n) (fun c => { c with win := [] }) (modTile (tileOf s n) (fun x => { x with watch := [] }) s)

/-- A core that a debug session steps halts again; a breakpoint that was passed is live again (12 Table 12.13). -/
def stepped (c : Cpu) : Cpu := { c with halted := c.halted || c.stepping, stepping := false, passed := false }

/-- An asynchronous class (03 Table 3.9). -/
def isAsync (code : Nat) : Bool := code = 0x0E ∨ code = 0x0F ∨ code = 0x10

/-- Refill exceptions that a core takes are counted, at the level of the access that missed (20 Table 20.5; log 53). -/
def countRefill (n code : Nat) (s : State) : State :=
  if code = 4 then countEv n 0x28 1 s else if code = 5 ∨ code = 6 then countEv n 0x29 1 s else s

/-- Take an event on a core at target level `x` (03 R69): the instructions behind are flushed (06 R145), NT lines leave (06 R150). -/
def takeAt (n : Nat) (x : Level) (e : Exc) (epc : Word) (s : State) : State :=
  let s := (ntDrain (.core n) (flushAll n (isAsync e.code) s)).1
  match enterExc x e epc (coreOf s n) with
  | (_, none) =>
    let s := countRefill n e.code s
    setCpu (.core n) (stepped (enterExc x e epc (coreOf s n)).1) s
  | (_, some e') => faultStop n e' epc s

/-- A Privet engine that runs: powered, not stopped and not failed (13 R361). -/
def prvRuns (s : State) (n : Nat) : Bool :=
  let c := prvOf s n
  decide (n < 64) && !c.failed && !(c.run = .unpowered || c.run = .gated || c.run = .lost || c.run = .faultStop)

/-- How many CHN_ENG_MAP entries name an engine. -/
def mapCount (s : State) (n : Nat) : Nat := ((List.range 64).filter (fun i => objN s 0x6200 i = n)).length

/-- The engine that takes a map entry of a failed engine (16 R463). -/
def takingEngine (s : State) (n : Nat) : Option Nat :=
  let pick (l : List Nat) : Option Nat := (l.filter (prvRuns s)).foldl (fun (b : Option Nat) k =>
    match b with
    | none => some k
    | some j => if mapCount s k < mapCount s j then some k else some j) none
  let die (k : Nat) : List Nat := (List.range 32).map (fun i => 32 * k + i)
  match pick (die (n / 32)) with
  | some k => some k
  | none => pick (die (1 - n / 32))

/-- The enclosures whose operations an engine carries (12 R310). -/
def engineWork (s : State) (n : Nat) : List Nat :=
  ((s.journal.filter (fun r => decide (r.engine = n ∧ r.st ≠ .ended))).map (·.encl)).eraseDups

/-- A Privet engine is declared failed (13 R361, 16 R463): 0 exception, 1 heartbeat, 2 TLBI, 3 check, 4 forced. -/
def engineFail (n reason : Nat) (s : State) : State :=
  let work := engineWork s n
  let s := modCpu (.prv n) (fun c => { c with failed := true, run := .gated }) s
  let taker := takingEngine s n
  let s := report { stamp := 0, useq := 0, unit := 272 + n, cls := 0x0501, sev := 1, encl := 0x10, d0 := reason, d1 := taker.getD 0xFF,
                    rings := work } s
  let s := (List.range 64).foldl (fun s i =>
    if objN s 0x6200 i = n then (match takingEngine s n with | some k => setObj 0x6200 i (BitVec.ofNat 64 k) s | none => s) else s) s
  if taker.isSome then s
  else { s with journal := s.journal.map (fun r =>
    if (r.st = .active ∨ r.st = .suspended) ∧ r.fin.isNone then { r with fin := some 6 } else r) }

/-- Stop a Privet engine at the faulting instruction (03 R77). -/
def stopEngine (n code : Nat) (s : State) : State :=
  let pc := (prvOf s n).pc
  engineFail n 0 (report { stamp := 0, useq := 0, unit := 272 + n, cls := 0x0107, sev := 1, encl := 0x10, d0 := code, d1 := pc.toNat,
                           rings := engineWork s n } s)

/-- Take a synchronous exception of a hart at its current instruction (03 R68, R69, R77). -/
def takeSync (h : Hart) (e : Exc) (s : State) : State :=
  match h with
  | .core n => let c := coreOf s n
               takeAt n (excTarget c e) e c.pc s
  | .prv n => stopEngine n e.code s

end Sys2Proof.Machine
end

