-- ==== Sys2Proof/Machine/Tlb.lean ====
section
/-! DEFINITION. Address translation (07): core TLBs, the table walk and the I/O translation caches. -/

namespace Sys2Proof.Machine
open Sys2Proof

/-! ## Core TLBs -/

/-- An access as the permission check sees it (07 Table 7.1). -/
inductive Access where
  | load
  | store
  | atomic
  | fetch
deriving DecidableEq, Repr

/-- Page number of a virtual address, bits 56:12. -/
def vpnOf (va : Word) : Nat := fld va 56 12

/-- Canonical: bits 63:57 all equal bit 56 (07 R164). -/
def canonical (va : Word) : Bool := fld va 63 56 = 0 ∨ fld va 63 56 = 255

/-- The page lies in the entry's block (07 R171). -/
def inBlock (e : TlbEntry) (vpn : Nat) : Bool := vpn >>> (4 * e.cont) = e.vpn >>> (4 * e.cont)

/-- An entry matches an address under an ASID (07 R174). -/
def tlbMatches (asid : Nat) (va : Word) (e : TlbEntry) : Bool := inBlock e (vpnOf va) && (e.g || decide (e.asid = asid))

/-- The L2 TLB set of a page held with a contiguity (07 R174). -/
def l2tlbSet (vpn cont : Nat) : Nat := vpn >>> (4 * cont) % 512

/-- The current ASID (07 Table 7.6). -/
def curAsid (c : Cpu) : Nat := fld (sysReg c 0x421) 11 0

/-- The matching entry of the wired slots, with its slot. -/
def wiredFind (c : Cpu) (va : Word) : Option (Nat × TlbEntry) :=
  c.wired.find? (fun e => tlbMatches (curAsid c) va e.2)

/-- The matching entry of the L2 TLB, smallest contiguity first (07 R174), with its set. -/
def l2tlbFind (c : Cpu) (va : Word) : Option (Nat × TlbEntry) :=
  (List.range 4).findSome? (fun k =>
    let i := l2tlbSet (vpnOf va) k
    (psEntry (fun e => decide (e.cont = k) && tlbMatches (curAsid c) va e) (setOf c.l2tlb i)).map (fun e => (i, e)))

/-- The matching entry of the L1 TLB that an access searches: the ITLB for a fetch, the DTLB for any other (07 Table 7.7). -/
def l1tlbFind (c : Cpu) (a : Access) (va : Word) : Option TlbEntry :=
  if a = .fetch then psEntry (tlbMatches (curAsid c) va) c.itlb else (c.dtlb.find? (fun e => tlbMatches (curAsid c) va e.2)).map (·.2)

/-- The entry that translates an access: in its L1 TLB, in a wired slot or in the L2 TLB (07 R174, R176). -/
def tlbFind (c : Cpu) (a : Access) (va : Word) : Option TlbEntry :=
  match l1tlbFind c a va with
  | some e => some e
  | none => match (wiredFind c va).map (·.2) with
    | some e => some e
    | none => (l2tlbFind c va).map (·.2)

/-- The physical address an entry gives (07 R171). -/
def entryPa (e : TlbEntry) (va : Word) : Nat :=
  (e.ppn >>> (4 * e.cont) <<< (4 * e.cont)) * 4096 + va.toNat % (4096 <<< (4 * e.cont))

/-- Permission of an access at U or S (07 Table 7.1, R167). -/
def permitted (l : Level) (a : Access) (e : TlbEntry) : Bool :=
  match a with
  | .load => e.r && (e.u || l ≠ .u)
  | .store => e.w && e.d && (e.u || l ≠ .u)
  | .atomic => e.r && e.w && e.d && (e.u || l ≠ .u)
  | .fetch => e.x && (if l = .u then e.u else !e.u)

/-- The refill class of an access (07 R176). -/
def refillCode : Access → Nat
  | .fetch => 0x04
  | .load => 0x05
  | .store => 0x06
  | .atomic => 0x06

/-- The first stage of translation: a refill exception when no entry translates a canonical address (07 R164, R176). -/
def refillCheck (c : Cpu) (a : Access) (va : Word) : Option Exc :=
  if c.level = .m ∨ ¬ canonical va then none
  else if (tlbFind c a va).isSome then none else some { code := refillCode a, tval := va }

/-- The second stage: page protection (07 R164-R167). -/
def protCheck (c : Cpu) (a : Access) (va : Word) : Option Exc :=
  let bad : Option Exc := some { code := 0x07, tval := va }
  if c.level = .m then (if va.toNat ≥ 2 ^ 52 then bad else none)
  else if ¬ canonical va then bad
  else match tlbFind c a va with
    | none => none
    | some e => if permitted c.level a e then none else bad

/-- The physical address of an access of a kind that passed both stages. -/
def physAt (c : Cpu) (a : Access) (va : Word) : Nat :=
  if c.level = .m then va.toNat else match tlbFind c a va with | some e => entryPa e va | none => 0

/-- The physical address of a data access that passed both stages. -/
def physOf (c : Cpu) (va : Word) : Nat := physAt c .load va

/-! ### Replacement -/

/-- A hit or fill of the DTLB (07 R173): three groups of 32 with a tree each, and the order of the groups. -/
def dtlbTouch (va : Word) (e : TlbEntry) (c : Cpu) : Cpu :=
  let touch (w : Nat) (c : Cpu) : Cpu :=
    { c with
      dtrees := mPut 0 c.dtrees (w / 32) (treeTouch (w % 32) 5 1 (mGet 0 c.dtrees (w / 32)))
      dorder := (w / 32) :: c.dorder.filter (fun g => g ≠ w / 32) }
  match c.dtlb.find? (fun x => tlbMatches (curAsid c) va x.2) with
  | some (w, _) => touch w c
  | none =>
    let w := match (List.range 96).find? (fun w => (mFind c.dtlb w).isNone) with
      | some w => w
      | none => let g := c.dorder.getLastD 2
                32 * g + treeVictim (fun _ => true) (mGet 0 c.dtrees g) 5 1 0
    touch w { c with dtlb := mIns c.dtlb w e }

/-- A hit or fill of the ITLB (07 R173). -/
def itlbTouch (va : Word) (e : TlbEntry) (c : Cpu) : Cpu :=
  match psFind (tlbMatches (curAsid c) va) c.itlb with
  | some w => { c with itlb := psTouch 6 w c.itlb }
  | none => { c with itlb := psPut 6 (psVictim 6 (fun _ => true) c.itlb) e c.itlb }

/-- Touch the L2 TLB entry that translates an address. -/
def l2tlbTouch (va : Word) (c : Cpu) : Cpu :=
  match l2tlbFind c va with
  | none => c
  | some (i, e) => match psFind (fun x => decide (x = e)) (setOf c.l2tlb i) with
    | some w => { c with l2tlb := putSet i (psTouch 3 w (setOf c.l2tlb i)) c.l2tlb }
    | none => c

/-- What a retired access does to the TLBs (06 R159, 07 R173): a hit in its L1 TLB touches it; otherwise a hit in the L2 TLB touches that and
fills the L1. A wired slot's hit touches nothing. -/
def tlbUse (a : Access) (va : Word) (c : Cpu) : Cpu :=
  let touch (e : TlbEntry) (c : Cpu) : Cpu := if a = .fetch then itlbTouch va e c else dtlbTouch va e c
  if c.level = .m then c
  else match l1tlbFind c a va with
    | some e => touch e c
    | none =>
      if (wiredFind c va).isSome then c
      else match l2tlbFind c va with
        | some (_, e) => touch e (l2tlbTouch va c)
        | none => c

/-- The TLBs as they were before an instruction that does not retire (06 R159). -/
def keepTlbs (old c : Cpu) : Cpu :=
  { c with itlb := old.itlb, dtlb := old.dtlb, dtrees := old.dtrees, dorder := old.dorder, l2tlb := old.l2tlb }

/-- Remove entries from every structure of a core's TLBs. -/
def tlbRemove (p : TlbEntry → Bool) (c : Cpu) : Cpu :=
  { c with
    itlb := psMap p (fun _ => none) c.itlb
    dtlb := c.dtlb.filter (fun e => !(p e.2))
    l2tlb := c.l2tlb.map (fun q => (q.1, psMap p (fun _ => none) q.2))
    wired := c.wired.filter (fun e => !(p e.2)) }

/-- Which entries a TLBI form removes (07 Table 7.14). -/
def tlbiHits (form : Nat) (va : Word) (opAsid curAsid : Nat) (e : TlbEntry) : Bool :=
  if form = 0 then true
  else if form = 1 then !e.g && decide (e.asid = opAsid)
  else if form = 2 then inBlock e (vpnOf va) && (e.g || decide (e.asid = curAsid))
  else if form = 3 then inBlock e (vpnOf va)
  else !e.g

/-! ### Entry formats (07 Tables 7.8, 7.9) -/

/-- The entry that ENTRY_HI and ENTRY_LO describe; the low 4c bits of VPN and PPN are ignored (07 R178). -/
def entryOf (hi lo : Word) : TlbEntry :=
  let k := 4 * fld lo 11 10
  { vpn := fld hi 56 12 >>> k <<< k, asid := fld hi 11 0, ppn := fld lo 51 12 >>> k <<< k, cont := fld lo 11 10, d := flag lo 8, g := flag lo 6,
    u := flag lo 5, x := flag lo 4, w := flag lo 3, r := flag lo 2 }

/-- ENTRY_HI from its fields. -/
def entryHi (wlvl wst vpn asid : Nat) : Word := BitVec.ofNat 64 (wlvl * 2 ^ 62 + wst * 2 ^ 57 + vpn * 4096 + asid)

/-- ENTRY_LO of an entry, with its wired slot if it has one. -/
def entryLo (e : TlbEntry) (slot : Option Nat) : Word :=
  BitVec.ofNat 64 (2 ^ 63 + (match slot with | some k => 2 ^ 62 + k * 2 ^ 58 | none => 0) + e.ppn * 4096 + e.cont * 1024 +
    e.d.toNat * 256 + e.g.toNat * 64 + e.u.toNat * 32 + e.x.toNat * 16 + e.w.toNat * 8 + e.r.toNat * 4)

/-- A field of ENTRY_LO holds a reserved value (07 Table 7.9, R178). -/
def loReserved (lo : Word) : Bool :=
  fld lo 57 52 ≠ 0 ∨ flag lo 9 ∨ flag lo 7 ∨ fld lo 1 0 ≠ 0 ∨ (flag lo 3 ∧ ¬ flag lo 2)

/-! ## The walk (07 R169, R170, R181, R183) -/

/-- How a walk ends. -/
inductive WalkEnd where
  | ok (leafPa : Nat) (leaf : Word)
  | status (wst lvl : Nat)
  | busError (pa : Nat)
  | attrFault (pa : Nat)
deriving DecidableEq, Repr

/-- Index of a walk level (07 Table 7.2). -/
def walkIndex (wide : Bool) (va : Word) (lvl : Nat) : Nat :=
  if lvl = 3 then (if wide then fld va 56 39 else fld va 47 39) else fld va (12 + 9 * lvl + 8) (12 + 9 * lvl)

/-- The check of one entry (07 R170): its status, if it ends the walk. -/
def entryStatus (lvl : Nat) (w : Word) : Option Nat :=
  if ¬ flag w 0 then some 1
  else if flag w 63 then some 2
  else if lvl = 0 then (if flag w 1 ∨ flag w 11 ∨ (flag w 3 ∧ ¬ flag w 2) then some 2 else none)
  else (if ¬ flag w 1 ∨ fld w 11 2 ≠ 0 then some 2 else none)

/-- The place check of an entry's address (07 R181). -/
def entryPlace (s : State) (encl pa : Nat) : Option WalkEnd :=
  match placeOf s encl pa with
  | .mem => if memTag s pa = .pois then some (.busError pa) else none
  | .unbacked => some (.busError pa)
  | .pcie _ => some (.attrFault pa)
  | .device => some (.attrFault pa)

/-- Walk from a table base down. `cached` is the I/O caches' copy of a pointer entry; cores keep none (07 R180, R189). -/
def walkFrom (s : State) (encl : Nat) (cached : Nat → Option Word) (wide : Bool) (va : Word) : Nat → Nat → WalkEnd
  | lvl, base =>
    let pa := base + 8 * walkIndex wide va lvl
    let entry (k : Word → WalkEnd) : WalkEnd :=
      match (if lvl = 0 then none else cached pa) with
      | some w => k w
      | none => match entryPlace s encl pa with
        | some e => e
        | none => k (BitVec.ofNat 64 (memNat s pa 8))
    match lvl with
    | 0 => entry (fun w => match entryStatus 0 w with
        | some st => .status st 0
        | none => .ok pa w)
    | k + 1 => entry (fun w => match entryStatus (k + 1) w with
        | some st => .status st (k + 1)
        | none => walkFrom s encl cached wide va k (fld w 51 12 * 4096))

/-- The walk of a root (07 R169, Table 7.5). -/
def walkRoot (s : State) (encl : Nat) (cached : Nat → Option Word) (root va : Word) : WalkEnd :=
  let wide := flag root 1
  if ¬ canonical va ∨ (¬ wide ∧ fld va 56 47 ≠ 0 ∧ fld va 56 47 ≠ 1023) then .status 3 3
  else walkFrom s encl cached wide va 3 (if wide then fld root 51 21 * 2 ^ 21 else fld root 51 12 * 4096)

/-- The leaf after marking (07 R183): A, and D for a store through a writable leaf. -/
def markedLeaf (store : Bool) (leaf : Word) : Word :=
  let leaf := setBit leaf 7 true
  if store ∧ flag leaf 3 then setBit leaf 8 true else leaf

/-- The entries a walk reads or takes from a cache, root first, each with its level (07 R169, R180, R189). -/
def walkReads (s : State) (encl : Nat) (cached : Nat → Option Word) (wide : Bool) (va : Word) : Nat → Nat → List (Nat × IoPtr)
  | lvl, base =>
    let pa := base + 8 * walkIndex wide va lvl
    let here : List (Nat × IoPtr) :=
      match (if lvl = 0 then none else cached pa), entryPlace s encl pa with
      | some w, _ => [(lvl, ⟨pa, w⟩)]
      | none, none => [(lvl, ⟨pa, BitVec.ofNat 64 (memNat s pa 8)⟩)]
      | none, some _ => if placeOf s encl pa = .mem then [(lvl, ⟨pa, 0⟩)] else []
    match lvl with
    | 0 => here
    | k + 1 => match here with
      | [(_, p)] => if (entryStatus (k + 1) p.val).isSome then here else here ++ walkReads s encl cached wide va k (fld p.val 51 12 * 4096)
      | _ => here

/-- The entries that the walk of a root reads (07 R169). -/
def walkRootReads (s : State) (encl : Nat) (cached : Nat → Option Word) (root va : Word) : List (Nat × IoPtr) :=
  let wide := flag root 1
  if ¬ canonical va ∨ (¬ wide ∧ fld va 56 47 ≠ 0 ∧ fld va 56 47 ≠ 1023) then []
  else walkReads s encl cached wide va 3 (if wide then fld root 51 21 * 2 ^ 21 else fld root 51 12 * 4096)

/-- Mark a leaf in memory at its home (07 R183), where the compare with the value that the walk read holds. -/
def markLeaf (pa : Nat) (leaf : Word) (s : State) : State :=
  if BitVec.ofNat 64 (memNat s pa 8) = leaf then s
  else storeBytes pa (leBytes 8 leaf.toNat) none (homeWrite (lineOf pa) false false s)

/-- The entry that a leaf gives (07 Tables 7.4, 7.9). -/
def leafEntry (vpn asid : Nat) (leaf : Word) : TlbEntry :=
  { vpn := vpn, asid := asid, ppn := fld leaf 51 12, cont := fld leaf 10 9, d := flag leaf 8, g := flag leaf 6,
    u := flag leaf 5, x := flag leaf 4, w := flag leaf 3, r := flag leaf 2 }

/-! ## I/O translation caches (07 R189-R191) -/

/-- Stream root and ASID of an enclosure's channel operations or of a PCIe stream (13 Table 13.9, 21 Table 21.5). -/
structure StreamRoot where
  root : Word
  asid : Nat
deriving DecidableEq, Repr

/-- An I/O translation cache. -/
def ioTlbOf (s : State) (unit : Nat) : IoTlb := mGet {} s.iotlb unit

/-- Replace an I/O translation cache. -/
def setIoTlb (unit : Nat) (t : IoTlb) (s : State) : State := { s with iotlb := mPut {} s.iotlb unit t }

/-- The sizes of a unit's cache as powers of two: entries and cached table entries (07 R189). -/
def ioSizes (unit : Nat) : Nat × Nat := if unit < 352 then (8, 5) else (11, 7)

/-- Cache a pointer entry. -/
def ioPtrPut (k : Nat) (p : IoPtr) (q : PSet IoPtr) : PSet IoPtr :=
  match psFind (fun x => decide (x.pa = p.pa)) q with
  | some w => psTouch k w q
  | none => psPut k (psVictim k (fun _ => true) q) p q

/-- The enclosure whose stream a root complex's or engine's walk serves meets an unbacked entry: an error record (01 R32, 16 Table 16.2a). -/
def walkUnbacked (unit encl pa : Nat) (s : State) : State :=
  report { stamp := 0, useq := 0, unit := unit, cls := 0x0305, sev := 2, encl := encl, addr := pa, d0 := 6 } s

/-- Walk a stream's table for an access, through the unit's cached pointer entries (07 R189, R190): each pointer entry read is cached,
whatever the walk ends with; a leaf is marked and its entry cached. -/
def ioWalkTable (unit stream encl : Nat) (r : StreamRoot) (va : Word) (store : Bool) (s : State) : Option Nat × State :=
  let t := ioTlbOf s unit
  let hit (e : IoEntry) : Bool := decide (e.stream = stream ∧ (e.e.g ∨ e.asid = r.asid)) && inBlock e.e (vpnOf va)
  let ad := flag r.root 2
  let sz := ioSizes unit
  let cached (pa : Nat) : Option Word := (psEntry (fun x => decide (x.pa = pa)) t.ptrs).map (·.val)
  let ptrs := (walkRootReads s encl cached r.root va).foldl (fun q p =>
    if p.1 = 0 ∨ (entryStatus p.1 p.2.val).isSome then q else ioPtrPut sz.2 p.2 q) t.ptrs
  match walkRoot s encl cached r.root va with
  | .ok pa leaf =>
    let leaf' := if ad then markedLeaf store leaf else leaf
    let e := leafEntry (vpnOf va) r.asid leaf'
    let ents := psMap hit (fun _ => none) t.ents
    let ents := psPut sz.1 (psVictim sz.1 (fun _ => true) ents) ⟨stream, r.asid, e⟩ ents
    let s := setIoTlb unit ⟨ents, ptrs⟩ (if ad then markLeaf pa leaf' s else s)
    if permitted .s (if store then .store else .load) e then (some (entryPa e va), s) else (none, s)
  | .busError pa =>
    let s := setIoTlb unit { t with ptrs := ptrs } s
    (none, if placeOf s encl pa = .unbacked then walkUnbacked unit encl pa s else s)
  | _ => (none, setIoTlb unit { t with ptrs := ptrs } s)

/-- Translate a DMA or table-walked access of a stream (07 R190): the physical address, or none for a translation failure. -/
def ioTranslate (unit stream encl : Nat) (r : StreamRoot) (va : Word) (store : Bool) (s : State) : Option Nat × State :=
  let t := ioTlbOf s unit
  let hit (e : IoEntry) : Bool := decide (e.stream = stream ∧ (e.e.g ∨ e.asid = r.asid)) && inBlock e.e (vpnOf va)
  let sz := ioSizes unit
  if ¬ canonical va then (none, s)
  else match psFind hit t.ents, psEntry hit t.ents with
    | some w, some x =>
      if store ∧ x.e.w ∧ ¬ x.e.d ∧ flag r.root 2 then ioWalkTable unit stream encl r va store s
      else
        let s := setIoTlb unit { t with ents := psTouch sz.1 w t.ents } s
        if permitted .s (if store then .store else .load) x.e then (some (entryPa x.e va), s) else (none, s)
    | _, _ => ioWalkTable unit stream encl r va store s

/-- What a TLBI does to an I/O translation cache (07 R186): the enclosure's matching entries and every cached table entry. -/
def ioTlbi (unit : Nat) (streams : Nat → Bool) (form : Nat) (va : Word) (opAsid curAsid : Nat) (s : State) : State :=
  let t := ioTlbOf s unit
  setIoTlb unit { ents := psMap (fun e => streams e.stream && tlbiHits form va opAsid curAsid e.e) (fun _ => none) t.ents,
                  ptrs := { t.ptrs with ways := [] } } s

end Sys2Proof.Machine
end

