-- ==== Sys2Proof/WellFormed.lean ====
section
/-! DEFINITION. Well-formed commands: no reserved field value (04 R79), the level and profile of each instruction (04 Tables 4.2, 4.9-4.11). -/

namespace Sys2Proof

/-- A register field that must name g1 to g30 (07 R178-R180). -/
def pairReg (r : Reg) : Bool := decide (r ≠ 0) && decide (r ≠ 31)

/-- An instruction's rm field (05 Table 5.2). -/
def rmOk (rm : BitVec 3) : Bool := decide (rm ≠ 5) && decide (rm ≠ 6)

/-- An integer element type (04 R107). -/
def ewInt (ew : BitVec 3) : Bool := decide (ew.toNat < 4)

/-- An element index below the element count (04 R107). -/
def idxOk (ew : BitVec 3) (idx : Reg) : Bool := decide (idx.toNat < 32 / 2 ^ ew.toNat)

/-- System registers whose MTS is a row of its own. -/
def mtsOwnRow (n : Nat) : Bool :=
  n = 0x020 ∨ n = 0x001 ∨ n = 0x410 ∨ n = 0x411 ∨ n = 0x412 ∨ n = 0xC20 ∨ n = 0xC30 ∨ n = 0xC40 ∨
  (0x010 ≤ n ∧ n ≤ 0x018) ∨ (0x440 ≤ n ∧ n ≤ 0x445) ∨ (0x448 ≤ n ∧ n ≤ 0x457) ∨ n = 0x460 ∨ n = 0x461

/-- A scope and registers of CLEAN, INVAL and CLINV (04 R115, Table 4.11). -/
def cmoOk (rd rb : Reg) (sc : Scope) : Bool :=
  match sc with
  | .addr => decide (rd = 0) && decide (rb = 0)
  | .range => true
  | .setway lvl => decide (rd = 0) && decide (rb = 0) && decide (lvl ≠ 3)

/-- Whether a command holds no reserved value. -/
def wellFormed (i : Instr) : Bool :=
  match i with
  | .ext _ _ _ len pos => decide (pos.toNat + len.toNat + 1 ≤ 64)
  | .extu _ _ _ len pos => decide (pos.toNat + len.toNat + 1 ≤ 64)
  | .ins _ _ _ len pos => decide (pos.toNat + len.toNat + 1 ≤ 64)
  | .ldx _ _ _ _ w _ => decide (w ≠ 7)
  | .stx _ _ _ _ w _ _ => decide (w.toNat % 2 = 0)
  | .pf _ hint _ _ => decide (hint.toNat ≤ 3)
  | .loop _ lvl _ off => decide (lvl ≠ 3) && decide (off ≠ 0)
  | .fadd _ _ _ _ _ rm => rmOk rm
  | .fsub _ _ _ _ _ rm => rmOk rm
  | .fmul _ _ _ _ _ rm => rmOk rm
  | .fdiv _ _ _ _ _ rm => rmOk rm
  | .fsqrt _ _ _ _ rm => rmOk rm
  | .fcvtF _ _ _ d rm => rmOk rm && (!d || decide (rm = 0))
  | .ftoiW _ _ _ _ rm => rmOk rm
  | .ftoiWu _ _ _ _ rm => rmOk rm
  | .ftoiL _ _ _ _ rm => rmOk rm
  | .ftoiLu _ _ _ _ rm => rmOk rm
  | .ffromiW _ _ _ _ rm => rmOk rm
  | .ffromiWu _ _ _ _ rm => rmOk rm
  | .ffromiL _ _ _ _ rm => rmOk rm
  | .ffromiLu _ _ _ _ rm => rmOk rm
  | .fmadd _ _ _ _ _ _ rm => rmOk rm
  | .fmsub _ _ _ _ _ _ rm => rmOk rm
  | .fnmadd _ _ _ _ _ _ rm => rmOk rm
  | .fnmsub _ _ _ _ _ _ rm => rmOk rm
  | .vadd _ _ _ _ ew => ewInt ew
  | .vsub _ _ _ _ ew => ewInt ew
  | .vmul _ _ _ _ ew => ewInt ew
  | .vmin _ _ _ _ ew => ewInt ew
  | .vmax _ _ _ _ ew => ewInt ew
  | .vminu _ _ _ _ ew => ewInt ew
  | .vmaxu _ _ _ _ ew => ewInt ew
  | .vand _ _ _ _ ew => ewInt ew
  | .vor _ _ _ _ ew => ewInt ew
  | .vxor _ _ _ _ ew => ewInt ew
  | .vandn _ _ _ _ ew => ewInt ew
  | .vshl _ _ _ _ ew => ewInt ew
  | .vshr _ _ _ _ ew => ewInt ew
  | .vsra _ _ _ _ ew => ewInt ew
  | .vcmpeq _ _ _ _ ew => ewInt ew
  | .vcmplt _ _ _ _ ew => ewInt ew
  | .vcmpltu _ _ _ _ ew => ewInt ew
  | .vred _ _ _ ew => ewInt ew
  | .vbcast _ _ _ ew => ewInt ew
  | .vext _ _ _ idx ew => ewInt ew && idxOk ew idx
  | .vins _ _ _ idx ew => ewInt ew && idxOk ew idx
  | .mts _ sys _ => !(mtsOwnRow sys.toNat)
  | .mtsLoopRegister _ k _ => decide (k.toNat ≤ 8)
  | .mtsCounter _ k _ => decide (k.toNat ≤ 5) || (decide (8 ≤ k.toNat) && decide (k.toNat ≤ 23)) || decide (k.toNat = 32) || decide (k.toNat = 33)
  | .tset _ _ _ ty => decide (ty.toNat ≤ 3)
  | .tlbw _ ra => pairReg ra
  | .walk _ rd _ intent => pairReg rd && decide (intent ≠ 3)
  | .tlbr _ rd _ => pairReg rd
  | .clean _ rd _ rb sc => cmoOk rd rb sc
  | .inval _ rd _ rb sc => cmoOk rd rb sc
  | .clinv _ rd _ rb sc => cmoOk rd rb sc
  | .lockld _ rd _ rb sc => cmoOk rd rb sc && (match sc with | .setway _ => false | _ => true)
  | .unlock _ _ lvl => decide (lvl = 2)
  | _ => true

/-- The privilege order of the lowest level an instruction needs: 0 U, 1 S, 3 M (04 Tables 4.9-4.11). -/
def minLevelCode (i : Instr) : Nat :=
  match i with
  | .tset _ _ _ ty => if ty = 3 then 3 else if ty = 0 then 0 else 1
  | .eret _ => 1
  | .wfi _ => 1
  | .tlbw _ _ => 1
  | .tlbiAll _ _ => 1
  | .tlbiAsid _ _ _ => 1
  | .tlbiVa _ _ _ => 1
  | .tlbiVaAll _ _ _ => 1
  | .tlbiNonglobal _ _ => 1
  | .walk _ _ _ _ => 1
  | .tlbr _ _ _ => 1
  | .clean _ _ _ _ sc => (match sc with | .setway _ => 3 | _ => 0)
  | .inval _ _ _ _ sc => (match sc with | .setway _ => 3 | _ => 1)
  | .clinv _ _ _ _ sc => (match sc with | .setway _ => 3 | _ => 0)
  | .lockld _ _ _ _ _ => 3
  | .unlock _ _ _ => 3
  | _ => 0

/-- Instructions the Nefen-C profile leaves out (03 Table 3.14, 04 Tables 4.2, 4.9, 4.11). -/
def absentOnPrv (i : Instr) : Bool :=
  match i with
  | .ldfS _ _ _ _ => true
  | .ldfD _ _ _ _ => true
  | .vld _ _ _ _ => true
  | .stfS _ _ _ _ => true
  | .stfD _ _ _ _ => true
  | .vst _ _ _ _ => true
  | .fadd _ _ _ _ _ _ => true
  | .fsub _ _ _ _ _ _ => true
  | .fmul _ _ _ _ _ _ => true
  | .fdiv _ _ _ _ _ _ => true
  | .fsqrt _ _ _ _ _ => true
  | .fmin _ _ _ _ _ => true
  | .fmax _ _ _ _ _ => true
  | .fcopysign _ _ _ _ _ => true
  | .fneg _ _ _ _ => true
  | .fabs _ _ _ _ => true
  | .fceq _ _ _ _ _ => true
  | .fclt _ _ _ _ _ => true
  | .fcle _ _ _ _ _ => true
  | .fkind _ _ _ _ => true
  | .fcvtF _ _ _ _ _ => true
  | .ftoiW _ _ _ _ _ => true
  | .ftoiWu _ _ _ _ _ => true
  | .ftoiL _ _ _ _ _ => true
  | .ftoiLu _ _ _ _ _ => true
  | .ffromiW _ _ _ _ _ => true
  | .ffromiWu _ _ _ _ _ => true
  | .ffromiL _ _ _ _ _ => true
  | .ffromiLu _ _ _ _ _ => true
  | .fmvTog _ _ _ _ => true
  | .fmvFromg _ _ _ _ => true
  | .fmadd _ _ _ _ _ _ _ => true
  | .fmsub _ _ _ _ _ _ _ => true
  | .fnmadd _ _ _ _ _ _ _ => true
  | .fnmsub _ _ _ _ _ _ _ => true
  | .vadd _ _ _ _ _ => true
  | .vsub _ _ _ _ _ => true
  | .vmul _ _ _ _ _ => true
  | .vmin _ _ _ _ _ => true
  | .vmax _ _ _ _ _ => true
  | .vminu _ _ _ _ _ => true
  | .vmaxu _ _ _ _ _ => true
  | .vand _ _ _ _ _ => true
  | .vor _ _ _ _ _ => true
  | .vxor _ _ _ _ _ => true
  | .vandn _ _ _ _ _ => true
  | .vshl _ _ _ _ _ => true
  | .vshr _ _ _ _ _ => true
  | .vsra _ _ _ _ _ => true
  | .vcmpeq _ _ _ _ _ => true
  | .vcmplt _ _ _ _ _ => true
  | .vcmpltu _ _ _ _ _ => true
  | .vperm _ _ _ _ => true
  | .vred _ _ _ _ => true
  | .vbcast _ _ _ _ => true
  | .vext _ _ _ _ _ => true
  | .vins _ _ _ _ _ => true
  | .vfadd _ _ _ _ _ => true
  | .vfsub _ _ _ _ _ => true
  | .vfmul _ _ _ _ _ => true
  | .vfmin _ _ _ _ _ => true
  | .vfmax _ _ _ _ _ => true
  | .vfceq _ _ _ _ _ => true
  | .vfclt _ _ _ _ _ => true
  | .vfcle _ _ _ _ _ => true
  | .vftoi _ _ _ _ => true
  | .vffromi _ _ _ _ => true
  | .vfneg _ _ _ _ => true
  | .vfabs _ _ _ _ => true
  | .vfma _ _ _ _ _ _ => true
  | .vsel _ _ _ _ _ => true
  | .ecall _ => true
  | .ebreak _ => true
  | .eret _ => true
  | .wfi _ => true
  | .tlbw _ _ => true
  | .tlbiAll _ _ => true
  | .tlbiAsid _ _ _ => true
  | .tlbiVa _ _ _ => true
  | .tlbiVaAll _ _ _ => true
  | .tlbiNonglobal _ _ => true
  | .walk _ _ _ _ => true
  | .tlbr _ _ _ => true
  | .clean _ _ _ _ sc => (match sc with | .setway _ => true | _ => false)
  | .inval _ _ _ _ sc => (match sc with | .setway _ => true | _ => false)
  | .clinv _ _ _ _ sc => (match sc with | .setway _ => true | _ => false)
  | _ => false

end Sys2Proof
end

