-- ==== Sys2Proof/Machine/Front.lean ====
section
/-! DEFINITION. The front end of a core (06): branch prediction, the instruction window and loads executed ahead of retirement (log 92). -/

namespace Sys2Proof.Machine
open Sys2Proof

/-! ## Predictors (06 R138, R140, R151) -/

/-- The hash of a table for a branch or load address under the core's key and level. -/
def predIdx (c : Cpu) (table : Nat) (pc : Word) (hist : List Bool) : Nat :=
  Config.predHash table pc hist (sysReg c 0x411) (levelCode c.level)

/-- The keystream of the core's key and level. -/
def predStream (c : Cpu) : Word := Config.predStream (sysReg c 0x411) (levelCode c.level)

/-- The histories of the six direction tables, in branches (06 Table 6.2). -/
def histLens : List Nat := [20, 40, 80, 160, 320, 640]

/-- The target buffer's prediction for a branch address: 1,024 sets of 8. -/
def btbFind (c : Cpu) (pc : Word) : Option Word :=
  let k := predIdx c 0 pc []
  (psEntry (fun e => decide (e.tag = k / 1024)) (setOf c.pred.btb (k % 1024))).map (fun e => e.enc ^^^ predStream c)

/-- The indirect predictor's target. -/
def indFind (c : Cpu) (pc : Word) : Option Word :=
  let k := predIdx c 7 pc c.pred.hist
  match mFind c.pred.ind (k % 2048) with
  | some e => if e.tag = k / 2048 then some (e.enc ^^^ predStream c) else none
  | none => none

/-- The direction table of longest history that holds a branch: its number and counter. -/
def dirFind (c : Cpu) (pc : Word) (hist : List Bool) : Option (Nat × Nat) :=
  [5, 4, 3, 2, 1, 0].findSome? (fun t =>
    let k := predIdx c (1 + t) pc (hist.take (histLens.getD t 0))
    match mFind c.pred.dir (2048 * t + k % 2048) with
    | some e => if e.tag = k / 2048 then some (t, e.ctr) else none
    | none => none)

/-- The direction predicted; not taken where no table holds the branch. -/
def dirTaken (c : Cpu) (pc : Word) : Bool := match dirFind c pc c.pred.hist with | some (_, k) => decide (4 ≤ k) | none => false

/-- Loop evaluation at the retirement of the instruction at `a`, levels `i` and up (04 R91). -/
def loopEval (a : Word) : Nat → Nat → Cpu → Cpu
  | 0, _, c => { c with pc := a + 4 }
  | k + 1, i, c =>
    if mGet 0 c.le i = a ∧ mGet 0 c.lc i ≠ 0 then
      if mGet 0 c.lc i = 1 then loopEval a k (i + 1) { c with lc := mPut 0 c.lc i 0 }
      else { c with lc := mPut 0 c.lc i (mGet 0 c.lc i - 1), pc := mGet 0 c.ls i }
    else loopEval a k (i + 1) c

/-- Where control goes from an address that no branch stands at, by the loop registers as they are (04 R91). -/
def fallTo (a : Word) (c : Cpu) : Word := (loopEval a 3 0 c).pc

/-- Fetch of a branch (06 R140, R153): the address predicted to follow, whether it costs a bubble, and the core with its return stack and
history as fetch leaves them. -/
def predict (pc : Word) (w : BitVec 32) (c : Cpu) : Word × Bool × Cpu :=
  let seq := fallTo pc c
  let push (c : Cpu) : Cpu := { c with rstack := ((pc + 4) :: c.rstack).take 32 }
  match branchOf w with
  | none => (seq, false, c)
  | some (.direct call) =>
    let c' := if call then push c else c
    (match btbFind c pc with | some t => (t, false, c') | none => (directTarget pc w, true, c'))
  | some .cond =>
    let taken := dirTaken c pc
    let c' := { c with pred := { c.pred with hist := (taken :: c.pred.hist).take 640 } }
    if taken then (match btbFind c pc with | some t => (t, false, c') | none => (directTarget pc w, true, c')) else (seq, false, c')
  | some (.indirect call) =>
    let c' := if call then push c else c
    (match btbFind c pc, indFind c pc with | some _, some t => (t, false, c') | _, _ => (seq, false, c'))
  | some .ret =>
    match c.rstack with
    | p :: rest => (alignTarget p, (btbFind c pc).isNone, { c with rstack := rest })
    | [] => (match btbFind c pc with | some t => (t, false, c) | none => (seq, false, c))

/-- A target is stored in the target buffer. -/
def btbTrain (pc target : Word) (c : Cpu) : Cpu :=
  let k := predIdx c 0 pc []
  let q := setOf c.pred.btb (k % 1024)
  let e : TargetEntry := ⟨k / 1024, target ^^^ predStream c⟩
  let w := (psFind (fun x : TargetEntry => decide (x.tag = k / 1024)) q).getD (psVictim 3 (fun _ => true) q)
  { c with pred := { c.pred with btb := mIns c.pred.btb (k % 1024) (psPut 3 w e q) } }

/-- A target is stored in the indirect predictor. -/
def indTrain (pc target : Word) (hist : List Bool) (c : Cpu) : Cpu :=
  let k := predIdx c 7 pc hist
  { c with pred := { c.pred with ind := mIns c.pred.ind (k % 2048) ⟨k / 2048, target ^^^ predStream c⟩ } }

/-- A direction is learned: the providing counter moves; a wrong direction takes an entry of the table of next longer history. -/
def dirTrain (pc : Word) (hist : List Bool) (taken : Bool) (c : Cpu) : Cpu :=
  let put (t ctr : Nat) (c : Cpu) : Cpu :=
    let k := predIdx c (1 + t) pc (hist.take (histLens.getD t 0))
    { c with pred := { c.pred with dir := mIns c.pred.dir (2048 * t + k % 2048) ⟨k / 2048, ctr⟩ } }
  let fresh := if taken then 4 else 3
  match dirFind c pc hist with
  | none => put 0 fresh c
  | some (t, k) =>
    let c := put t (if taken then min 7 (k + 1) else k - 1) c
    if decide (4 ≤ k) ≠ taken ∧ t < 5 then put (t + 1) fresh c else c

/-- A branch resolves in EX (06 R141, R151): the predictors learn its target and direction, and after a misprediction the history is
restored to its value after the branch. -/
def train (e : WinEntry) (b : Branch) (target : Word) (taken missed : Bool) (c : Cpu) : Cpu :=
  let c := if taken then btbTrain e.pc target c else c
  match b with
  | .cond =>
    let c := dirTrain e.pc e.hist taken c
    if missed then { c with pred := { c.pred with hist := (taken :: e.hist).take 640 } } else c
  | .indirect _ => indTrain e.pc target e.hist c
  | _ => c

/-! ## The window (06 R138, R161) -/

/-- An instruction as fetch delivers it at an address. -/
def fetched (i : Instr) (pc : Word) (c : Cpu) : WinEntry × Bool × Cpu :=
  let p := predict pc (wordOf i) c
  ({ i := i, pc := pc, pred := p.1, hist := c.pred.hist }, p.2.1, p.2.2)

/-- The registers an instruction in flight writes, as far as a younger one's operands wait on them: the field rd, or lk. -/
def writesReg (w : BitVec 32) (r : Reg) : Bool :=
  decide (rdOf w = r) && !isStore w && (branchOf w).isNone && decide (opcOf w ≠ 0x24 ∧ opcOf w ≠ 0x31) ||
  (decide (0x3C = opcOf w) && decide (rdOf w + 1 = r))
def writesLk (w : BitVec 32) : Bool :=
  (match branchOf w with | some (.direct b) => b | some (.indirect b) => b | _ => false) || decide (opcOf w = 0x3C)

/-- An instruction behind which a load may execute early: all but atomics, cache operations and system instructions (06 R144, 09 R224). -/
def passable (w : BitVec 32) : Bool := decide (opcOf w < 0x40) && decide (opcOf w ≠ 0x25 ∧ opcOf w ≠ 0x3C ∧ opcOf w ≠ 0x3D)

/-- The fetch queue holds 4 blocks of 32 bytes behind what rename has taken in. -/
def winRoom (c : Cpu) : Bool := decide (c.win.length < renamed c.sb.length c.win + 32)

/-- Where fetch stands: behind the youngest instruction of the window, or behind the one that is waited for. -/
def fetchPc (c : Cpu) : Word := match c.win.getLast? with | some e => e.pred | none => fallTo c.pc c

/-- The instruction waited for is a load or an atomic: nothing keeps younger loads from executing (06 R149). -/
def waitsForLoad (c : Cpu) : Bool :=
  match c.wait with
  | .devLoad _ _ _ _ _ => true
  | .devAtomic _ _ _ _ _ => true
  | .farAtomic _ _ _ _ _ _ => true
  | .none => true
  | _ => false

/-- The destination of the access a core waits for is a register. -/
def waitWrites (c : Cpu) (r : Reg) : Bool :=
  match c.wait with
  | .devLoad _ _ _ _ d => decide (d.rd = r)
  | .devAtomic _ _ _ _ d => decide (d.rd = r)
  | .farAtomic _ _ _ _ _ d => decide (d.rd = r)
  | _ => false

/-- Whether nothing in flight writes a register. -/
def regReady (c : Cpu) (r : Reg) : Bool := decide (r = 0) || (!waitWrites c r && c.win.all (fun e => !writesReg (wordOf e.i) r))

/-- The address of a load or store in the window, once its operands are ready and carry no tag that its address check would refuse. -/
def earlyVa (c : Cpu) (w : BitVec 32) : Option Word :=
  let idx := decide (opcOf w = 0x21 ∨ opcOf w = 0x22)
  let base := gpr c (raOf w)
  let x := gpr c (rbOf w)
  if ¬ regReady c (raOf w) ∨ base.t = .pois ∨ base.t = .hndl ∨ (idx = true ∧ (¬ regReady c (rbOf w) ∨ x.t = .pois ∨ x.t = .hndl)) then none
  else some (if idx then base.v + (x.v <<< fld w 7 6) else base.v + (w.extractLsb' 0 16).signExtend 64)

/-- The physical address of an early load: translated by the TLBs with no refill or fault (06 R159), in this enclosure's memory, within a
line. -/
def earlyPa (n : Nat) (w : BitVec 32) (s : State) : Option Nat :=
  let c := coreOf s n
  match earlyVa c w with
  | none => none
  | some va =>
    if (refillCheck c .load va).isSome ∨ (protCheck c .load va).isSome ∨ 64 < va.toNat % 64 + widthOf w then none
    else
      let pa := physOf c va
      if placeOf s (enclOfCore s n) pa = .mem then some pa else none

/-- Octets overlap. -/
def overlapping (a n b m : Nat) : Bool := decide (a < b + m) && decide (b < a + n)

/-- Older stores in the window let a load execute: none is known to overlap it, and while an address is unknown its load-wait bit is clear
(06 R148). -/
def storesLet (n : Nat) (pc : Word) (pa k : Nat) (s : State) : Bool :=
  let c := coreOf s n
  c.win.all (fun e =>
    let w := wordOf e.i
    if ¬ isStore w then true
    else match earlyPa n w s with
      | some b => !overlapping pa k b (widthOf w)
      | none => !(c.loadWait.contains (predIdx c 8 pc [] % 1024)))

/-- A load executes ahead of retirement (06 R147-R149, R154, R155): forwarded by the store buffer, read from the L1D and watched, or through a
shadow entry, for which the line comes from the L2 or a non-tracking read goes out. -/
def executeEarly (n : Nat) (pc : Word) (w : BitVec 32) (s : State) : State × Option Early :=
  let c := coreOf s n
  let t := tileOf s n
  let k := widthOf w
  match (if isLoad w ∧ waitsForLoad c ∧ c.win.all (fun e => passable (wordOf e.i)) then earlyPa n w s else none) with
  | none => (s, none)
  | some pa =>
    let line := lineOf pa
    let hits := c.sb.filter (fun e => !e.dev && overlapping pa k e.pa e.bytes.length)
    if ¬ storesLet n pc pa k s ∨ c.nt.any (fun l => decide (l.line = line)) then (s, none)
    else match hits.getLast? with
      | some e => (s, if e.pa ≤ pa ∧ pa + k ≤ e.pa + e.bytes.length ∧ ¬ e.nt then some ⟨pa, k, .stores⟩ else none)
      | none =>
        let es := (tileAt s t).shadow
        if (l1dState s t line).isSome then
          (modTile t (fun x => { x with watch := if x.watch.contains line then x.watch else x.watch ++ [line] }) s, some ⟨pa, k, .l1d⟩)
        else if es.any (fun e => decide (e.line = line) && !e.dead) then (s, some ⟨pa, k, .shadow⟩)
        else if 16 ≤ es.length ∨ es.any (fun e => decide (e.line = line)) then (s, none)
        else if (l2State s t line).isSome then
          (modTile t (fun x => { x with shadow := x.shadow ++ [{ line := line, filled := true, fromL2 := true }] }) s, some ⟨pa, k, .shadow⟩)
        else if asking s t line ∨ wbPending s t line ∨ 48 ≤ requestsOut s t then (s, none)
        else
          (sendAsk (.core n) 4 line (modTile t (fun x => { x with shadow := x.shadow ++ [{ line := line }] }) s), some ⟨pa, k, .shadow⟩)

/-- The outcome of a branch whose operands are ready: its target, and whether it is taken. -/
def branchOutcome (c : Cpu) (pc : Word) (w : BitVec 32) : Option (Word × Bool) :=
  match branchOf w with
  | some (.direct _) => some (directTarget pc w, true)
  | some .cond =>
    let a := gpr c (rdOf w)
    let b := gpr c (raOf w)
    if ¬ regReady c (rdOf w) ∨ ¬ regReady c (raOf w) ∨ a.t = .pois ∨ b.t = .pois ∨ a.t = .hndl ∨ b.t = .hndl then none
    else
      let o := opcOf w
      some (directTarget pc w,
        if o = 0x2A then decide (a.v = b.v) else if o = 0x2B then decide (a.v ≠ b.v) else if o = 0x2C then a.v.slt b.v
        else if o = 0x2D then !(a.v.slt b.v) else if o = 0x2E then a.v.ult b.v else !(a.v.ult b.v))
  | some (.indirect _) =>
    let a := gpr c (raOf w)
    if ¬ regReady c (raOf w) ∨ (a.t ≠ .cptr ∧ a.t ≠ .link) then none else some (alignTarget a.v, true)
  | some .ret => if c.win.any (fun e => writesLk (wordOf e.i)) ∨ c.lk.t ≠ .link then none else some (alignTarget c.lk.v, true)
  | none => none

/-- A branch in the window resolves in EX when its operands are ready (06 R141, R151): it trains the predictors, and fetch goes on at the
correct address. -/
def resolveEarly (e : WinEntry) (c : Cpu) : WinEntry × Cpu :=
  let w := wordOf e.i
  match branchOf w, branchOutcome c e.pc w with
  | some b, some (target, taken) =>
    let next := if taken then target else fallTo e.pc c
    let missed := decide (e.pred ≠ next)
    ({ e with resolved := true, missed := missed, pred := next }, train e b target taken missed c)
  | _, _ => (e, c)

/-- An instruction presented to a core whose oldest instruction is not done is fetched behind it (06 R138, R139): it enters the window while
there is room, and a load or branch among the renamed ones whose operands are ready executes. -/
def present (n : Nat) (i : Instr) (s : State) : State :=
  let c := coreOf s n
  if ¬ winRoom c then s
  else
    let f := fetched i (fetchPc c) c
    let s := setCpu (.core n) f.2.2 s
    let s := if f.2.1 then countEv n 0x13 1 s else s
    let c := coreOf s n
    if renamed c.sb.length c.win < c.win.length then modCpu (.core n) (fun c => { c with win := c.win ++ [f.1] }) s
    else
      let r := resolveEarly f.1 c
      let s := setCpu (.core n) r.2 s
      let x := executeEarly n f.1.pc (wordOf i) s
      modCpu (.core n) (fun c => { c with win := c.win ++ [{ r.1 with early := x.2 }] }) x.1

/-! ## Flushes by an instruction (06 R145) -/

/-- Every instruction behind the oldest is flushed. -/
def flushYounger (h : Hart) (s : State) : State :=
  match h with
  | .prv _ => s
  | .core n => flushAll n false s

/-- The load at a place of the window read what an older store was to write (06 R148): it and every younger instruction are flushed, it
executes again, and its load-wait bit is set. -/
def readTooEarly (n j : Nat) (s : State) : State :=
  let c := coreOf s n
  match c.win[j]? with
  | none => s
  | some e =>
    let b := predIdx c 8 e.pc [] % 1024
    let s := countWaste n (renamed c.sb.length c.win - j) (countEv n 0x23 1 s)
    modCpu (.core n) (fun c => { c with
      loadWait := if c.loadWait.contains b then c.loadWait else c.loadWait ++ [b]
      win := c.win.take j ++ [{ e with early := none }] }) s

/-- A store's octets become known to what is behind it: a load that read them too early executes again, and its load-wait bit is set (06
R148); instructions fetched from the line are flushed, and the L1I copy goes (06 R161). -/
def noticeStore (h : Hart) (pa k : Nat) (s : State) : State :=
  match h with
  | .prv _ => s
  | .core n =>
    let c := coreOf s n
    if c.win = [] then s
    else if c.win.any (fun e => decide (lineOf (physAt c .fetch e.pc) = lineOf pa)) then
      l1iDrop (tileOf s n) (lineOf pa) (countEv n 0x3B 1 (flushYounger h s))
    else match c.win.findIdx? (fun e => match e.early with | some x => overlapping x.pa x.n pa k | none => false) with
      | none => s
      | some j => readTooEarly n j s

end Sys2Proof.Machine
end

