-- ==== Sys2Proof/Machine/Run.lean ====
section
/-! DEFINITION. How a hart runs one instruction: the checks before it, its effect, and its retirement (03, 04 R91, 06). -/

namespace Sys2Proof.Machine
open Sys2Proof

/-! ## Retirement -/

/-- How an instruction ends. -/
inductive Done where
  /-- control falls through: loop evaluation follows (04 R91) -/
  | seq
  /-- control falls through, and a loop register takes its value once loop evaluation is done (04 R93): its number from 0x010, and the value -/
  | loopReg (k : Nat) (v : Word)
  /-- a transfer of control -/
  | jump (pc : Word)
  /-- the core waits for the instruction's answer, or the instruction raised its event itself -/
  | stay
  /-- the instruction cannot complete yet: it is run again in a later tick -/
  | hold
  /-- a synchronous exception -/
  | exc (e : Exc)
  /-- an engine's failed I/O translation (03 R77) -/
  | ioFail
deriving DecidableEq, Repr

/-- Products of an engine age by one instruction; one that has seen four is written (03 R75, 04 R95). -/
def ageProducts (c : Cpu) : Cpu :=
  let q := c.mulq.map (fun p => { p with age := p.age + 1 })
  match q.find? (fun p => decide (p.age = 5)) with
  | some p => { c with ph := p.hi, pl := p.lo, mulq := q.filter (fun p => decide (p.age < 5)) }
  | none => { c with mulq := q }

/-- A retry that succeeded is counted in the hour window (16 R445). -/
def retryDone (stamp : Nat) (c : Cpu) : Cpu :=
  if c.retries = 0 then c
  else
    let w := stamp / hourTicks + 1
    { c with retries := 0, hourWin := w, hourRetries := if c.hourWin = w then c.hourRetries + 1 else 1 }

/-- The retirement of an instruction that did not raise an exception. -/
def retireCpu (stamp : Nat) (next : Option Word) (c : Cpu) : Cpu :=
  let c := match next with
    | some pc => { c with pc := pc }
    | none => loopEval c.pc 3 0 c
  stepped (retryDone stamp c)

/-- INSTRET and SLOT_RET advance together (20 R535). -/
def countRetired (c : Cpu) : Cpu := setSys 0x441 (sysReg c 0x441 + 1) (setSys 0x442 (sysReg c 0x442 + 1) c)

/-- Retire on a hart; only an engine's products are delayed. -/
def retire (h : Hart) (next : Option Word) (s : State) : State :=
  match h with
  | .core n => countEv n 0x01 1 (modCpu h (fun c => countRetired (retireCpu s.stamp next c)) s)
  | .prv _ => modCpu h (fun c => retireCpu s.stamp next (ageProducts c)) s

/-- The fetch of an instruction that retires, to the TLBs, under the address space it was fetched in (06 R159). -/
def fetchTouch (old c : Cpu) : Cpu :=
  if old.level = .m then c else keepTlbs (tlbUse .fetch old.pc (keepTlbs c old)) c

/-- An instruction behind which nothing may have been fetched (04 R113, R114, R118; 06 R145): ISYNC, and an MTS to a loop register or to a
number above U. -/
def fetchesAfresh (w : BitVec 32) : Bool :=
  decide (opcOf w = 0x3C) &&
    ((decide (fld w 15 12 = 1) && decide (0x010 ≤ fld w 11 0 ∧ fld w 11 0 ≤ 0x018 ∨ 0x400 ≤ fld w 11 0)) || decide (fld w 15 12 = 8 ∧ fld w 11 0 = 5))

/-- The oldest instruction of a core has gone to its next address (06 R141, R145, R151): a branch resolves and trains the predictors, a wrong
prediction is counted, and what was fetched on a wrong path is flushed. -/
def resolve (n : Nat) (e : WinEntry) (taken : Bool) (s : State) : State :=
  let next := (coreOf s n).pc
  let wrong := decide (e.pred ≠ next)
  match branchOf (wordOf e.i) with
  | some b =>
    let missed := e.missed || wrong
    let s := if e.resolved && !wrong then s else modCpu (.core n) (train e b next taken missed) s
    let s := if missed then countEv n 0x11 1 (if b = .ret then countEv n 0x12 1 s else s) else s
    if wrong then flushAll n false s else s
  | none => if wrong || fetchesAfresh (wordOf e.i) then flushAll n false s else s

/-- The oldest instruction retires: `e` as it was fetched, `old` the hart before its effect. -/
def retired (h : Hart) (e : WinEntry) (old : Cpu) (next : Option Word) (s : State) : State :=
  match h with
  | .core n => resolve n e next.isSome (retire h next (modCpu h (fetchTouch old) s))
  | .prv _ => retire h next s

/-- A loop register takes a value. -/
def setLoopReg (k : Nat) (v : Word) (c : Cpu) : Cpu :=
  if k % 3 = 0 then { c with ls := mPut 0 c.ls (k / 3) v }
  else if k % 3 = 1 then { c with le := mPut 0 c.le (k / 3) v }
  else { c with lc := mPut 0 c.lc (k / 3) v }

/-- Act once every older store has left the store buffer (06 R144); until then the instruction is held. -/
def afterStores (h : Hart) (act : State → State × Done) (s : State) : State × Done :=
  let r := sbDrain h s
  if r.2 then act r.1 else (r.1, .hold)

/-! ## Events before an instruction -/

/-- The asynchronous event a core takes at its next boundary (03 R71, R72), with its target level. -/
def pendingEvent (c : Cpu) : Option (Level × Exc) :=
  match c.mcheck with
  | q :: _ => some (.m, { code := 0x0F, tval := BitVec.ofNat 64 q })
  | [] => match c.iobar with
    | some a => let e : Exc := { code := 0x0E, tval := a }
                some (excTarget c e, e)
    | none =>
      if c.irqM ∧ (c.level ≠ .m ∨ flag (sysReg c 0xC00) 1) then some (.m, { code := 0x10 })
      else if c.irqS ∧ (c.level = .u ∨ (c.level = .s ∧ flag (sysReg c 0x400) 1)) then some (.s, { code := 0x10 })
      else none

/-- Take the pending event of a core (03 R71); a taken machine check or barrier error is no longer pending. -/
def takeEvent (n : Nat) (s : State) : State :=
  match pendingEvent (coreOf s n) with
  | none => s
  | some (x, e) =>
    let s := takeAt n x e (coreOf s n).pc s
    modCpu (.core n) (fun c => if e.code = 0x0F then { c with mcheck := c.mcheck.tail }
      else if e.code = 0x0E then { c with iobar := none } else c) s

/-- The event pending on a hart; an engine has none (03 Table 3.14). -/
def hartEvent (h : Hart) (s : State) : Bool :=
  match h with | .core n => (pendingEvent (coreOf s n)).isSome | .prv _ => false

/-- A hart that may execute its next instruction. -/
def canRun (h : Hart) (s : State) : Bool :=
  let c := cpuOf s h
  decide (s.phase = .running) && decide (c.run = .running) && !c.halted && decide (c.wait = .none)

/-! ## Fetch (03 Table 3.9, 06 R159, R161) -/

/-- What a fetch outside local memory, on an engine, comes to: the physical address, or no translation (03 Table 3.14, 07 R190). -/
def prvFetchPa (n : Nat) (s : State) : Option Nat × State :=
  match engineStream s n with
  | none => (none, s)
  | some e => ioTranslate (272 + n) e e ⟨mGet 0 s.ioRoots e, (mGet 0 s.ioAsids e).toNat % 4096⟩ (prvOf s n).pc false s

/-- How a fetch fails. -/
inductive FetchBad where
  | exc (e : Exc)
  /-- an engine's failed I/O translation -/
  | ioFail
deriving DecidableEq, Repr

/-- What keeps a fetch from delivering its instruction, and the record that leaves. -/
def fetchCheck (h : Hart) (s : State) : Option FetchBad × State :=
  let c := cpuOf s h
  let mc : FetchBad := .exc { code := 0x01, tval := c.pc }
  let at_ (e pa : Nat) (s : State) : Option FetchBad × State :=
    match placeOf s e pa with
    | .mem => if memTag s pa = .pois then (some mc, s) else (none, s)
    | .unbacked => (some mc, reportAccess h 0x0305 2 pa s)
    | _ => (some mc, reportAccess h 0x0604 2 pa s)
  match h with
  | .core n =>
    match refillCheck c .fetch c.pc with
    | some e => (some (.exc e), s)
    | none => match protCheck c .fetch c.pc with
      | some e => (some (.exc e), s)
      | none => at_ (enclOfCore s n) (physAt c .fetch c.pc) s
  | .prv n =>
    if c.pc.toNat < 0x40000 then
      (if mGet (0 : BitVec 4) s.mem.locTags ((n * 0x40000 + c.pc.toNat) / 8) = 7 then some mc else none, s)
    else match prvFetchPa n s with
      | (none, s) => (some .ioFail, s)
      | (some pa, s) => at_ (enclOf s h) pa s

/-- Whether a store of the buffer that is still to be written lies in a line. -/
def storesTo (c : Cpu) (line : Nat) : Bool := c.sb.any (fun e => !e.dev && decide (lineOf e.pa = line))

/-- Older stores to a line, and those before them, are written; answers whether they were. -/
def drainLine (h : Hart) (line : Nat) (s : State) : State × Bool :=
  let sb := (cpuOf s h).sb
  sbDrainN h (sb.length - (sb.reverse.findIdx (fun e => !e.dev && decide (lineOf e.pa = line)))) s

/-- The fetch of the instruction at PC from its line, once the core's own stores to the line are written (06 R161): its effect on the caches,
and whether the instruction is delivered. -/
def fetchLine (h : Hart) (s : State) : State × Bool :=
  match h with
  | .core n =>
    let c := coreOf s n
    let line := lineOf (physAt c .fetch c.pc)
    let r := if storesTo c line then drainLine h line s else (s, true)
    if ¬ r.2 then (r.1, false)
    else
      let t := tileOf s n
      let s := r.1
      let miss := (l2State s t line).isNone && !asking s t line
      let f := readLine h true line s
      (if miss then countEv n 0x21 1 f.1 else f.1, f.2)
  | .prv n =>
    if (prvOf s n).pc.toNat < 0x40000 then (s, true)
    else match (prvFetchPa n s).1 with
      | some pa => readLine h true (lineOf pa) s
      | none => (s, true)

/-- What a fetch does to the caches. -/
def fetchUse (h : Hart) (s : State) : State := (fetchLine h s).1

/-! ## Legality (04 R79) -/

/-- The instruction may execute at the hart's level and profile (04 R79, Table 3.14). -/
def legal (h : Hart) (c : Cpu) (i : Instr) : Bool :=
  wellFormed i && decide (minLevelCode i ≤ levelCode c.level) && !(isPrv h && absentOnPrv i)

/-- The illegal-instruction exception of an instruction: TVAL holds its word. -/
def illegalExc (i : Instr) : Exc := { code := 0x02, tval := ((encode i).getD 0).setWidth 64 }

/-! ## A load that executed ahead of its turn (06 R149, R156, R157) -/

/-- What a shadow entry delivered differs from the line in octets or tags that a load used. -/
def shadowDiffers (e : Shadow) (x : Early) (s : State) : Bool :=
  (List.range x.n).any (fun i => decide (e.data.extractLsb' (8 * (x.pa % 64 + i)) 8 ≠ memByte s (x.pa + i))) ||
  (wordsOf x.pa x.n).any (fun w => decide (tagOfCode (fld e.tags (4 * (w % 64 / 8) + 3) (4 * (w % 64 / 8))) ≠ memTag s w))

/-- The load and every younger instruction are flushed, and the load executes again. -/
def reexecute (n ev : Nat) (s : State) : State := flushAll n false (countWaste n 1 (countEv n ev 1 s))

/-- The oldest instruction executed early: the line it watched must still be there, and what its shadow entry gave must be the tracked
line's. Answers whether it can go on. -/
def earlyCheck (h : Hart) (e : WinEntry) (s : State) : State × Bool :=
  match h, e.early with
  | .core n, some x =>
    let t := tileOf s n
    let line := lineOf x.pa
    (match x.from_ with
     | .stores => (s, true)
     | .l1d =>
       if (tileAt s t).watch.contains line then
         (if (coreOf s n).win.any (fun f => match f.early with | some y => decide (lineOf y.pa = line) | none => false) then s
          else modTile t (fun a => { a with watch := a.watch.filter (fun l => l ≠ line) }) s, true)
       else (reexecute n 0x24 s, true)
     | .shadow =>
       match (tileAt s t).shadow.find? (fun a => decide (a.line = line) && !a.dead) with
       | none => (reexecute n 0x24 s, true)
       | some a =>
         if a.fromL2 then (s, true)
         else
           let r := readLine h false line s
           if ¬ r.2 then r
           else if a.filled && shadowDiffers a x r.1 then (reexecute n 0x22 r.1, true) else r)
  | _, _ => (s, true)

/-! ## One instruction -/

/-- The oldest instruction is held at the head of the window. -/
def holdBack (h : Hart) (e : WinEntry) (s : State) : State :=
  modCpu h (fun c => { c with win := { e with heldAt := some s.stamp } :: c.win }) s

/-- An engine's I/O translation failed: its operation ends (03 R77, 13 R360). -/
def ioFails (n : Nat) (s : State) : State :=
  let e := engineStream s n
  let s := modCpu (.prv n) (fun c => { c with opFail := true }) s
  match s.journal.find? (fun r => decide (r.engine = n ∧ r.st = .active) && decide (e = some r.encl) && r.fin.isNone) with
  | some r => { s with journal := s.journal.map (fun q => if q.opid = r.opid then { q with fin := some 3 } else q) }
  | none => s

/-- What follows an instruction's effect. -/
def finish (h : Hart) (e : WinEntry) (old : Cpu) (s : State) : Done → State
  | .seq => retired h e old none s
  | .loopReg k v => modCpu h (setLoopReg k v) (retired h e old none s)
  | .jump pc => retired h e old (some pc) s
  | .stay => s
  | .hold => holdBack h e s
  | .exc x => takeSync h x s
  | .ioFail => match h with | .prv n => ioFails n s | .core _ => s

/-- A core stands at a breakpoint that it has not passed (12 Table 12.13). -/
def breakHit (h : Hart) (s : State) : Bool :=
  match h with
  | .core n => s.yew.breaks.contains (n, (coreOf s n).pc) && !(coreOf s n).passed
  | .prv _ => false

/-- The oldest instruction, out of the window: it is delivered, checked and executed. -/
def oldest (h : Hart) (e : WinEntry) (i : Instr) (body : State → State × Done) (s : State) : State :=
  let f := fetchLine h s
  if ¬ f.2 then holdBack h e f.1
  else if ¬ legal h (cpuOf f.1 h) i then takeSync h (illegalExc i) f.1
  else
    let y := earlyCheck h e f.1
    if ¬ y.2 then holdBack h e y.1
    else
      let r := body y.1
      finish h e (cpuOf y.1 h) r.1 r.2

/-- The fetch of the instruction at PC fails. -/
def fetchFails (h : Hart) (b : FetchBad) (s : State) : State :=
  match b with
  | .exc e => takeSync h e s
  | .ioFail => match h with | .prv n => ioFails n s | .core _ => s

/-- The instruction at PC is fetched: its prediction, with what that does to the core. -/
def fetchNext (h : Hart) (i : Instr) (s : State) : WinEntry × State :=
  match h with
  | .core n =>
    let f := fetched i (coreOf s n).pc (coreOf s n)
    let s := setCpu h f.2.2 s
    (f.1, if f.2.1 then countEv n 0x13 1 s else s)
  | .prv n => ({ i := i, pc := (prvOf s n).pc, pred := 0 }, s)

/-- The fetch of the instruction at PC has passed its checks, and its prediction is made. -/
def toFetch (h : Hart) (i : Instr) (s : State) : State := (fetchNext h i (fetchCheck h s).2).2

/-- The instruction at PC has been fetched: the state its effect starts from. -/
def started (h : Hart) (i : Instr) (s : State) : State := fetchUse h (toFetch h i s)

/-- No store of its own keeps a hart's fetch from its line, and the line is with the hart at once. -/
def fetchDelivers (h : Hart) (s : State) : Bool :=
  !(storesTo (cpuOf s h) (lineOf (physAt (cpuOf s h) .fetch (cpuOf s h).pc))) && (fetchLine h s).2

/-- Nothing stands before the instruction: the hart runs with nothing in its window, no event waits, and the instruction is fetched at once
and is legal. -/
def ready (h : Hart) (i : Instr) (s : State) : Bool :=
  hartExists h && canRun h s && decide ((cpuOf s h).win = []) && !s.replay && !(breakHit h s) && !(hartEvent h s) &&
  decide ((fetchCheck h s).1 = none) && fetchDelivers h (toFetch h i s) && legal h (cpuOf s h) i

/-- Run the instruction at the head of a hart's window again: unless it is held, an event may come first (03 R71). -/
def runHead (h : Hart) (i : Instr) (body : State → State × Done) (s : State) : State :=
  match (cpuOf s h).win with
  | [] => s
  | e :: rest =>
    if ¬ canRun h s then s
    else if e.heldAt.isNone ∧ breakHit h s = true then modCpu h (fun c => { c with halted := true }) s
    else if e.heldAt.isNone ∧ hartEvent h s = true then (match h with | .core n => takeEvent n s | .prv _ => s)
    else
      let s := modCpu h (fun c => { c with win := rest }) s
      if e.pc ≠ (cpuOf s h).pc then (match h with | .core n => flushAll n false s | .prv _ => s)
      else match fetchCheck h s with
        | (some b, s) => fetchFails h b s
        | (none, s) => oldest h e i body s

/-- Run one instruction of a hart. It joins the window of a core whose oldest instruction is not done; a hart that may not execute it,
because it is gated or stopped, is unchanged (log 11). -/
def run (h : Hart) (i : Instr) (body : State → State × Done) (s : State) : Host.Outcome State Fault Refusal :=
  if ¬ hartExists h then .fault (.noSuchUnit (match h with | .core n => n | .prv n => n))
  else if s.replay then .next (runHead h i body { s with replay := false })
  else if (cpuOf s h).win ≠ [] ∨ (cpuOf s h).wait ≠ .none then
    .next (match h with
      | .core n => if s.phase = .running ∧ (coreOf s n).run = .running ∧ (coreOf s n).halted = false then present n i s else s
      | .prv _ => s)
  else if ¬ canRun h s then .next s
  else if breakHit h s then .next (modCpu h (fun c => { c with halted := true }) s)
  else if hartEvent h s then .next (match h with | .core n => takeEvent n s | .prv _ => s)
  else match fetchCheck h s with
    | (some b, s) => .next (fetchFails h b s)
    | (none, s) =>
      let f := fetchNext h i s
      .next (oldest h f.1 i body f.2)

end Sys2Proof.Machine
end

