-- ==== Sys2Proof/Machine/Operands.lean ====
section
/-! DEFINITION. Operands: the tag checks on what an instruction reads and the tags of what it writes (03 R64, R65). -/

namespace Sys2Proof.Machine
open Sys2Proof

/-- Poison consumed in a register operand (03 Table 3.9, priority 6). -/
def poisExc : Exc := { code := 0x0D, tag := 7 }

/-- A tag check that failed: SUB, the offending tag, and TVAL the operand's value, or 0 for a handle (03 Tables 3.8, 3.9). -/
def tagExc (sub : Nat) (x : GVal) : Exc :=
  { code := 0x03, sub := sub, tag := tagCode x.t, tval := if x.t = .hndl then 0 else x.v }

/-- What an operation other than a full-word move, select or store raises for its operands (03 Table 3.7). -/
def srcExc (c : Cpu) (xs : List GVal) : Option Exc :=
  if xs.any (fun x => decide (x.t = .pois)) then some poisExc
  else if c.level = .m then none
  else match xs.find? (fun x => decide (x.t = .hndl)) with
    | some x => some (tagExc 0x05 x)
    | none => none

/-- Enforcement level of a hart: 0 off, 1 control-flow, 2 full (03 R65, Table 3.5; an engine is fixed at full). -/
def tagLevel (h : Hart) (c : Cpu) : Nat :=
  match h with
  | .prv _ => 2
  | .core _ => let w := sysReg c 0x410
    match c.level with | .u => fld w 1 0 | .s => fld w 5 4 | .m => fld w 9 8

/-- Result tag of ADD, AND, OR, XOR (03 Table 3.7): one DPTR and one DATA give DPTR. -/
def ptrTag (a b : Tag) : Tag := if (a = .dptr ∧ b = .data) ∨ (a = .data ∧ b = .dptr) then .dptr else .data

/-- Result tag of SUB: DPTR only with the DPTR as minuend. -/
def subTag (a b : Tag) : Tag := if a = .dptr ∧ b = .data then .dptr else .data

/-- Every other operation gives DATA. -/
def dataTag (_ _ : Tag) : Tag := .data

/-- Write a general register of a hart and fall through. -/
def writeG (h : Hart) (rd : Reg) (x : GVal) (s : State) : State × Done := (modCpu h (setGpr rd x) s, .seq)

/-- An operation on two register operands. -/
def binop (h : Hart) (rd : Reg) (x y : GVal) (f : Word → Word → Word) (t : Tag → Tag → Tag) (s : State) : State × Done :=
  match srcExc (cpuOf s h) [x, y] with
  | some e => (s, .exc e)
  | none => writeG h rd ⟨f x.v y.v, t x.t y.t⟩ s

/-- Register form of an integer operation. -/
def intRR (h : Hart) (rd ra rb : Reg) (f : Word → Word → Word) (t : Tag → Tag → Tag) (s : State) : State × Done :=
  binop h rd (gpr (cpuOf s h) ra) (gpr (cpuOf s h) rb) f t s

/-- Immediate form: the immediate enters as a DATA operand (04 R80). -/
def intRI (h : Hart) (rd ra : Reg) (imm : Word) (f : Word → Word → Word) (t : Tag → Tag → Tag) (s : State) : State × Done :=
  binop h rd (gpr (cpuOf s h) ra) ⟨imm, .data⟩ f t s

/-- Unary form. -/
def intR (h : Hart) (rd ra : Reg) (f : Word → Word) (s : State) : State × Done :=
  intRI h rd ra 0 (fun a _ => f a) dataTag s

/-- The address of the instruction. -/
def pcOf (s : State) (h : Hart) : Word := (cpuOf s h).pc

end Sys2Proof.Machine
end

