-- ==== Sys2Proof/Machine/LoadStore.lean ====
section
/-! DEFINITION. Loads, stores, prefetch and LDTG (04 R96-R102, 06 R144-R158, 09 R225-R231). -/

namespace Sys2Proof.Machine
open Sys2Proof

/-! ## Addresses -/

/-- Physical numbers from here up name Privet local memory: base + engine × 0x40000 + address (03 Table 3.14). -/
def locBase : Nat := 2 ^ 60

/-- The halves of an access: one within a line, two across a line boundary, lower first (09 R230). -/
def halves (va : Word) (n : Nat) : List (Word × Nat) :=
  let k := 64 - va.toNat % 64
  if n ≤ k then [(va, n)] else [(va, k), (va + BitVec.ofNat 64 k, n - k)]

/-- The stream of an engine's translations: the root its enclosure set (13 Table 13.9); objects are kept per enclosure. -/
def prvRoot (s : State) (e : Nat) : StreamRoot := ⟨mGet 0 s.ioRoots e, (mGet 0 s.ioAsids e).toNat % 4096⟩

/-- Translate the halves of an access: every refill ranks before every protection fault, and the first half before the second (03 R67, 09 R231). -/
def xlate (h : Hart) (a : Access) (hs : List (Word × Nat)) (s : State) : Except Done (List Nat) × State :=
  match h with
  | .core n =>
    let c := coreOf s n
    match hs.findSome? (fun p => refillCheck c a p.1) with
    | some e => (.error (.exc e), s)
    | none => match hs.findSome? (fun p => protCheck c a p.1) with
      | some e => (.error (.exc e), s)
      | none => (.ok (hs.map (fun p => physOf c p.1)), s)
  | .prv n =>
    let st := engineStream s n
    hs.foldl (fun r p =>
      match r.1 with
      | .error d => (.error d, r.2)
      | .ok pas =>
        if p.1.toNat < 0x40000 then (.ok (pas ++ [locBase + n * 0x40000 + p.1.toNat]), r.2)
        else match st with
          | none => (.error .ioFail, r.2)
          | some e => match ioTranslate (272 + n) e e (prvRoot r.2 e) p.1 (a ≠ .load) r.2 with
            | (some pa, s) => (.ok (pas ++ [pa]), s)
            | (none, s) => (.error .ioFail, s)) (.ok [], s)

/-- What the TLBs keep of a retired access (06 R159). -/
def useTlbs (h : Hart) (a : Access) (hs : List (Word × Nat)) (s : State) : State :=
  match h with
  | .core _ => hs.foldl (fun s p => modCpu h (tlbUse a p.1) s) s
  | .prv _ => s

/-- Where a half goes, as the accessing unit checks it (12 Table 12.7). -/
def placeH (h : Hart) (s : State) (pa : Nat) : Place := if locBase ≤ pa then .mem else placeOf s (enclOf s h) pa

/-- The halves' places are all memory or unbacked. -/
def toDevice (h : Hart) (s : State) (pas : List Nat) : Bool :=
  pas.any (fun pa => match placeH h s pa with | .pcie _ => true | .device => true | _ => false)

/-- Base and index checks of an address (03 Table 3.8, 04 R97), with the narrow data operands of a store. Where several fail, a poisoned
operand comes first (03 R67), then SUB 0x04, 0x03 and 0x05 in this order (log 94). -/
def addrExc (h : Hart) (c : Cpu) (base : GVal) (idx : List GVal) (data : List GVal) : Option Exc :=
  if (base :: idx ++ data).any (fun x => decide (x.t = .pois)) then some poisExc
  else match (base :: idx).find? (fun x => decide (x.t = .hndl)) with
    | some x => some (tagExc 0x04 x)
    | none =>
      if tagLevel h c = 2 ∧ base.t ≠ .dptr then some (tagExc 0x03 base)
      else if c.level = .m then none
      else match data.find? (fun x => decide (x.t = .hndl)) with
        | some x => some (tagExc 0x05 x)
        | none => none

/-! ## What a hart reads -/

/-- One octet of memory or of local memory. -/
def anyByte (s : State) (pa : Nat) : Byte := if locBase ≤ pa then mGet 0 s.mem.loc (pa - locBase) else memByte s pa

/-- The tag of a word of memory or of local memory. -/
def anyTag (s : State) (pa : Nat) : Tag :=
  if locBase ≤ pa then tagOfCode (mGet (0 : BitVec 4) s.mem.locTags ((pa - locBase) / 8)).toNat else memTag s pa

/-- One octet as the storing hart sees it: the youngest older store to it is forwarded (06 R147). -/
def viewByte (sb : List SbEntry) (s : State) (pa : Nat) : Byte :=
  sb.foldl (fun b e => if ¬ e.dev ∧ e.pa ≤ pa ∧ pa < e.pa + e.bytes.length then e.bytes.getD (pa - e.pa) 0 else b) (anyByte s pa)

/-- A word's tag as the storing hart sees it (06 Table 6.4). -/
def viewTag (sb : List SbEntry) (s : State) (w : Nat) : Tag :=
  sb.foldl (fun t e =>
    if e.dev ∨ w + 8 ≤ e.pa ∨ e.pa + e.bytes.length ≤ w then t
    else if e.dcz then .data
    else match e.tag with
      | some t' => t'
      | none => if t = .pois then .pois else .data) (anyTag s w)

/-- The octets of the halves of a load; an unbacked half reads 0 (01 R32). -/
def readHalves (h : Hart) (s : State) (ps : List (Nat × Nat)) : List Byte :=
  ps.flatMap (fun p => (List.range p.2).map (fun i =>
    if placeH h s p.1 = .unbacked then 0 else viewByte (cpuOf s h).sb s (p.1 + i)))

/-- The tags of the words the halves read; an unbacked half reads POIS. -/
def readTags (h : Hart) (s : State) (ps : List (Nat × Nat)) : List Tag :=
  ps.flatMap (fun p => (wordsOf p.1 p.2).map (fun w =>
    if placeH h s p.1 = .unbacked then .pois else viewTag (cpuOf s h).sb s w))

/-- Records that reading the halves leaves: unbacked halves, and words whose stored code is 5 or 6 (01 R32, 03 R63). -/
def readRecords (h : Hart) (kind : Nat) (ps : List (Nat × Nat)) (s : State) : State :=
  ps.foldl (fun s p =>
    if placeH h s p.1 = .unbacked then reportAccess h 0x0305 kind p.1 s
    else if locBase ≤ p.1 then s
    else (wordsOf p.1 p.2).foldl (fun s w =>
      let k := memTagCode s w
      if k = 5 ∨ k = 6 then reportAccess h 0x0306 k w s else s) s) s

/-- The store-buffer entries that a half of a load overlaps. -/
def olderStores (c : Cpu) (p : Nat × Nat) : List SbEntry := c.sb.filter (fun e => !e.dev && overlapping p.1 p.2 e.pa e.bytes.length)

/-- The store buffer lets a half of a load go on (06 Table 6.4): no older store overlaps it, or the youngest that does covers it and is an
aligned full-word store, or one of another kind whose line hits in the L1D. -/
def forwards (h : Hart) (s : State) (p : Nat × Nat) : Bool :=
  match h with
  | .prv _ => true
  | .core n => match (olderStores (coreOf s n) p).getLast? with
    | none => true
    | some e => decide (e.pa ≤ p.1 ∧ p.1 + p.2 ≤ e.pa + e.bytes.length) &&
        ((e.tag.isSome && !e.nt) || (l1dState s (tileOf s n) (lineOf p.1)).isSome)

/-- Otherwise the load waits until the overlapping stores have been written (06 Table 6.4). -/
def writeOlder (h : Hart) (p : Nat × Nat) (s : State) : State × Bool :=
  if forwards h s p then (s, true)
  else
    let sb := (cpuOf s h).sb
    sbDrainN h (sb.length - sb.reverse.findIdx (fun e => !e.dev && overlapping p.1 p.2 e.pa e.bytes.length)) s

/-- An action on each half that lies in memory, until one cannot be done; answers whether all were. -/
def eachHalf (h : Hart) (act : Nat × Nat → State → State × Bool) (ps : List (Nat × Nat)) (s : State) : State × Bool :=
  ps.foldl (fun r p =>
    if r.2 = false ∨ locBase ≤ p.1 ∨ placeH h r.1 p.1 ≠ .mem then r else act p r.1) (s, true)

/-- What stands before a load reads: the stores it cannot forward from are written, and the lines of the combining buffer that it hits
leave (06 R147, R150). -/
def loadReady (h : Hart) (ps : List (Nat × Nat)) (s : State) : State × Bool :=
  let r := eachHalf h (writeOlder h) ps s
  if r.2 then eachHalf h (fun p => ntLeave h (lineOf p.1)) ps r.1 else r

/-- A load reads the line of one half through its core's caches (06 R154-R156): its misses are counted when it has it (20 Table 20.5). -/
def readHalfLine (h : Hart) (p : Nat × Nat) (s : State) : State × Bool :=
  match h with
  | .prv _ => readLine h false (lineOf p.1) s
  | .core n =>
    let t := tileOf s n
    let miss1 := (l1dState s t (lineOf p.1)).isNone
    let miss2 := miss1 && (l2State s t (lineOf p.1)).isNone
    let r := readLine h false (lineOf p.1) s
    if ¬ r.2 then r
    else (if miss1 then countEv n 0x20 1 (if miss2 then countEv n 0x21 1 r.1 else r.1) else r.1, true)

/-- What a load does to the caches of its core, line by line; answers whether it has its lines. -/
def readLines (h : Hart) (ps : List (Nat × Nat)) (s : State) : State × Bool := eachHalf h (readHalfLine h) ps s

/-! ## Loads -/

/-- A core or engine sends a device access and waits (06 R144, 09 R225, R226): every older store has left the store buffer, and fewer than
eight accesses are outstanding (10 R245). -/
def sendDev (h : Hart) (opc pa n atop : Nat) (data expd : Word) (wait : Nat → Nat → Nat → Wait) (s : State) : State × Done :=
  let r := sbDrain h s
  if ¬ r.2 ∨ 8 ≤ (cpuOf r.1 h).devSent then (r.1, .hold)
  else
    let s := r.1
    let q := devReq h pa n atop data expd s
    let deadline := s.stamp + fld (sysReg (cpuOf s h) 0xC11) 20 0
    (modCpu h (fun c => { c with wait := wait q.dest deadline q.txid, devTx := c.devTx + 1 }) (send (.req opc q) s), .stay)

/-- A device load is sent. -/
def sendDevLoad (h : Hart) (pa n : Nat) (dst : LoadDst) (s : State) : State × Done :=
  sendDev h 0x10 pa n 0 0 0 (fun unit deadline tx => .devLoad pa unit deadline tx dst) s

/-- An access that a hart waited for has its answer: the instruction retires, and the TLBs are touched (06 R159). -/
def retireWaited (h : Hart) (touches : List (Access × Word)) (s : State) : State :=
  match h with
  | .core _ => retire h none (modCpu h (fun c => touches.foldl (fun c a => tlbUse a.1 a.2 c) (fetchTouch c c)) s)
  | .prv _ => retire h none s

/-- What a load delivers. -/
inductive Loaded where
  /-- octets as a number, and the delivered tag of an aligned 64-bit load (DATA otherwise) -/
  | val (v : Nat) (t : Tag)
  | done (d : Done)
deriving DecidableEq, Repr

/-- The common part of every load: checks, translation and the octets read. `full` marks an aligned 64-bit load into g. -/
def loadCore (h : Hart) (va : Word) (n : Nat) (full devOk : Bool) (dst : LoadDst) (s : State) : State × Loaded :=
  let hs := halves va n
  match xlate h .load hs s with
  | (.error d, s) => (s, .done d)
  | (.ok pas, s) =>
    let ps := pas.zip (hs.map (·.2))
    if toDevice h s pas then
      if ¬ devOk ∨ va.toNat % n ≠ 0 then (s, .done (.exc { code := 0x08, tval := va }))
      else let r := sendDevLoad h (pas.headD 0) n dst s
           (r.1, .done r.2)
    else
      let g := loadReady h ps s
      let l := readLines h ps g.1
      if ¬ g.2 then (g.1, .done .hold)
      else if ¬ l.2 then (l.1, .done .hold)
      else
        let s := g.1
        let tags := readTags h s ps
        let rec' := readRecords h 0 ps s
        if ¬ full ∧ (cpuOf s h).level ≠ .m ∧ tags.any (fun t => decide (t = .hndl)) then
          (rec', .done (.exc { code := 0x03, sub := 0x05, tag := 4 }))
        else if ¬ full ∧ tags.any (fun t => decide (t = .pois)) then (rec', .done (.exc { code := 0x0D, tag := 7, tval := va }))
        else (useTlbs h .load hs (readRecords h 0 ps l.1), .val (leNat (readHalves h s ps)) (if full then tags.headD .data else .data))

/-- A load into a general register. -/
def loadG (h : Hart) (rd : Reg) (base : GVal) (idx : List GVal) (va : Word) (n : Nat) (sx : Bool) (s : State) : State × Done :=
  match addrExc h (cpuOf s h) base idx [] with
  | some e => (s, .exc e)
  | none =>
    match loadCore h va n (decide (n = 8) && decide (va.toNat % 8 = 0)) true ⟨rd, n, sx, va⟩ s with
    | (s, .done d) => (s, d)
    | (s, .val v t) => writeG h rd ⟨if sx then sext (8 * n) v else BitVec.ofNat 64 v, t⟩ s

/-- A load into f or v. -/
def loadFV (h : Hart) (base : GVal) (va : Word) (n : Nat) (put : Nat → Cpu → Cpu) (s : State) : State × Done :=
  match addrExc h (cpuOf s h) base [] [] with
  | some e => (s, .exc e)
  | none =>
    match loadCore h va n false false ⟨0, n, false, va⟩ s with
    | (s, .done d) => (s, d)
    | (s, .val v _) => (modCpu h (put v) s, .seq)

/-! ## Stores -/

/-- One half of a store toward memory: into local memory at issue (09 R235), discarded when unbacked (01 R32), else into the store buffer. -/
def storeHalf (h : Hart) (nt : Bool) (t : Option Tag) (pc va : Word) (pa : Nat) (bs : List Byte) (s : State) : State :=
  if locBase ≤ pa then
    let i := pa - locBase
    let s := (List.range bs.length).foldl (fun s k =>
      { s with mem := { s.mem with loc := mPut 0 s.mem.loc (i + k) (bs.getD k 0) } }) s
    (wordsOf i bs.length).foldl (fun s w =>
      let old := mGet (0 : BitVec 4) s.mem.locTags (w / 8)
      let new : BitVec 4 := match t with
        | some t => BitVec.ofNat 4 (tagCode t)
        | none => if old = 7 then 7 else 0
      { s with mem := { s.mem with locTags := mPut 0 s.mem.locTags (w / 8) new } }) s
  else if placeH h s pa = .unbacked then reportAccess h 0x0305 1 pa s
  else noticeStore h pa bs.length (sbPush h ⟨pa, bs, t, false, nt, false, va, pc⟩ s)

/-- The common part of every store. `src` is a g source whose tag a full-word store keeps; `fvOnly` marks f and v sources. -/
def storeCore (h : Hart) (va : Word) (bs : List Byte) (src : Option GVal) (nt devOk : Bool) (s : State) : State × Done :=
  let n := bs.length
  let hs := halves va n
  let full := decide (n = 8) && decide (va.toNat % 8 = 0) && src.isSome
  match xlate h .store hs s with
  | (.error d, s) => (s, d)
  | (.ok pas, s) =>
    let pc := pcOf s h
    let room := sbRoom h pas.length s
    if toDevice h s pas then
      if ¬ devOk ∨ va.toNat % n ≠ 0 then (s, .exc { code := 0x08, tval := va })
      else match srcExc (cpuOf s h) src.toList with
        | some e => (s, .exc e)
        | none =>
          if ¬ room.2 then (room.1, .hold)
          else (sbPush h ⟨pas.headD 0, bs, none, false, false, true, va, pc⟩ (useTlbs h .store hs room.1), .seq)
    else if ¬ room.2 then (room.1, .hold)
    else
      let t := if full then src.map (·.t) else none
      let s := useTlbs h .store hs room.1
      match pas, hs with
      | [pa], _ => (storeHalf h nt t pc va pa bs s, .seq)
      | [pa, pb], [(_, k), (vb, _)] => (storeHalf h nt none pc vb pb (bs.drop k) (storeHalf h nt none pc va pa (bs.take k) s), .seq)
      | _, _ => (s, .seq)

/-- A store of the low octets of a general register. -/
def storeG (h : Hart) (src base : GVal) (idx : List GVal) (va : Word) (n : Nat) (nt : Bool) (s : State) : State × Done :=
  let full := decide (n = 8) && decide (va.toNat % 8 = 0)
  match addrExc h (cpuOf s h) base idx (if full then [] else [src]) with
  | some e => (s, .exc e)
  | none => storeCore h va (leBytes n src.v.toNat) (some src) nt true s

/-- A store from f or v. -/
def storeFV (h : Hart) (base : GVal) (va : Word) (bs : List Byte) (s : State) : State × Done :=
  match addrExc h (cpuOf s h) base [] [] with
  | some e => (s, .exc e)
  | none => storeCore h va bs none false false s

/-! ## Forms -/

/-- ra + imm16 (04 R96). -/
def eaImm (h : Hart) (ra : Reg) (imm : BitVec 16) (s : State) : Word := (gpr (cpuOf s h) ra).v + imm.signExtend 64

/-- Load, I format. -/
def loadI (h : Hart) (rd ra : Reg) (imm : BitVec 16) (n : Nat) (sx : Bool) (s : State) : State × Done :=
  loadG h rd (gpr (cpuOf s h) ra) [] (eaImm h ra imm s) n sx s

/-- Store, I format. -/
def storeI (h : Hart) (rd ra : Reg) (imm : BitVec 16) (n : Nat) (s : State) : State × Done :=
  storeG h (gpr (cpuOf s h) rd) (gpr (cpuOf s h) ra) [] (eaImm h ra imm s) n false s

/-- Width and sign extension of an LDX code (04 R97). -/
def ldxWidth (w : BitVec 3) : Nat × Bool :=
  if w = 0 then (1, true) else if w = 1 then (1, false) else if w = 2 then (2, true) else if w = 3 then (2, false)
  else if w = 4 then (4, true) else if w = 5 then (4, false) else (8, false)

/-- Width of an STX code (04 R97). -/
def stxWidth (w : BitVec 3) : Nat := if w = 0 then 1 else if w = 2 then 2 else if w = 4 then 4 else 8

/-- ra + (rb << s) (04 R97). -/
def eaIdx (h : Hart) (ra rb : Reg) (sh : BitVec 2) (s : State) : Word :=
  (gpr (cpuOf s h) ra).v + ((gpr (cpuOf s h) rb).v <<< sh.toNat)

/-- LDTG: the tag code of the word that contains the address (04 R100). -/
def loadTag (h : Hart) (rd ra : Reg) (imm : BitVec 16) (s : State) : State × Done :=
  let base := gpr (cpuOf s h) ra
  match addrExc h (cpuOf s h) base [] [] with
  | some e => (s, .exc e)
  | none =>
    let va := eaImm h ra imm s
    let hs := [(va, 1)]
    match xlate h .load hs s with
    | (.error d, s) => (s, d)
    | (.ok pas, s) =>
      if toDevice h s pas then (s, .exc { code := 0x08, tval := va })
      else
        let word := pas.map (fun pa => (pa / 8 * 8, 8))
        let ps := pas.zip [1]
        let g := loadReady h word s
        let l := readLines h word g.1
        if ¬ g.2 then (g.1, .hold)
        else if ¬ l.2 then (l.1, .hold)
        else
          let t := (readTags h g.1 ps).headD .data
          writeG h rd ⟨BitVec.ofNat 64 (tagCode t), .data⟩ (useTlbs h .load hs (readRecords h 0 ps l.1))

/-- The lines of a prefetch (04 R102): read into the L1D or the L2, or owned; what is not at hand is asked for and comes later. -/
def prefetchLine (n : Nat) (hint : Reg) (line : Nat) (s : State) : State :=
  let h : Hart := .core n
  let t := tileOf s n
  let en := cacheEn s h
  if hint = 0 then
    (if (l1dState s t line).isSome ∨ (l2State s t line).isSome then coreRead t line en s
     else if ¬ en then s
     else
       let s := makeRoom t line s
       if atOnce s t line then coreRead t line en s else ask h 0 line s)
  else if ¬ en then s
  else if hint = 1 then
    (if (l2State s t line).isSome then s
     else
       let s := makeRoom t line s
       if atOnce s t line then (acquireShared t line s) else ask h 0 line s)
  else if hint = 3 then
    (if owns s t line then l1dFill t line s
     else
       let s := makeRoom t line s
       let k := ownRequest s t line false
       if atOnce s t line then l1dFill t line (acquireUnique k t line s).1 else ask h (ownOpc k) line s)
  else s

/-- PF (04 R102): dropped when it would fault or fails a check; its permission is that of a load, for ownership too (log 99). -/
def prefetch (h : Hart) (hint ra : Reg) (imm : BitVec 16) (s : State) : State × Done :=
  let va := eaImm h ra imm s
  if (addrExc h (cpuOf s h) (gpr (cpuOf s h) ra) [] []).isSome then (s, .seq)
  else match h with
    | .prv _ => (s, .seq)
    | .core n =>
      match xlate h .load [(va, 1)] s with
      | (.ok [pa], s) =>
        if placeH h s pa ≠ .mem then (s, .seq) else (prefetchLine n hint (lineOf pa) (modCpu h (tlbUse .load va) s), .seq)
      | (_, s) => (s, .seq)

/-! ## Meanings -/

/-- LDB (04 Table 4.6). -/
def execLdB (h : Hart) (rd ra : Reg) (imm : BitVec 16) (s : State) : Host.Outcome State Fault Refusal :=
  run h (.ldB h rd ra imm) (loadI h rd ra imm 1 true) s

/-- LDBU (04 Table 4.6). -/
def execLdBu (h : Hart) (rd ra : Reg) (imm : BitVec 16) (s : State) : Host.Outcome State Fault Refusal :=
  run h (.ldBu h rd ra imm) (loadI h rd ra imm 1 false) s

/-- LDH (04 Table 4.6). -/
def execLdH (h : Hart) (rd ra : Reg) (imm : BitVec 16) (s : State) : Host.Outcome State Fault Refusal :=
  run h (.ldH h rd ra imm) (loadI h rd ra imm 2 true) s

/-- LDHU (04 Table 4.6). -/
def execLdHu (h : Hart) (rd ra : Reg) (imm : BitVec 16) (s : State) : Host.Outcome State Fault Refusal :=
  run h (.ldHu h rd ra imm) (loadI h rd ra imm 2 false) s

/-- LDW (04 Table 4.6). -/
def execLdW (h : Hart) (rd ra : Reg) (imm : BitVec 16) (s : State) : Host.Outcome State Fault Refusal :=
  run h (.ldW h rd ra imm) (loadI h rd ra imm 4 true) s

/-- LDWU (04 Table 4.6). -/
def execLdWu (h : Hart) (rd ra : Reg) (imm : BitVec 16) (s : State) : Host.Outcome State Fault Refusal :=
  run h (.ldWu h rd ra imm) (loadI h rd ra imm 4 false) s

/-- LDD (04 Table 4.6). -/
def execLdD (h : Hart) (rd ra : Reg) (imm : BitVec 16) (s : State) : Host.Outcome State Fault Refusal :=
  run h (.ldD h rd ra imm) (loadI h rd ra imm 8 false) s

/-- LDFS (04 Table 4.6, 05 R121). -/
def execLdfS (h : Hart) (rd ra : Reg) (imm : BitVec 16) (s : State) : Host.Outcome State Fault Refusal :=
  run h (.ldfS h rd ra imm) (fun s => loadFV h (gpr (cpuOf s h) ra) (eaImm h ra imm s) 4 (fun v => setFpr rd (BitVec.ofNat 64 v)) s) s

/-- LDFD (04 Table 4.6, 05 R121). -/
def execLdfD (h : Hart) (rd ra : Reg) (imm : BitVec 16) (s : State) : Host.Outcome State Fault Refusal :=
  run h (.ldfD h rd ra imm) (fun s => loadFV h (gpr (cpuOf s h) ra) (eaImm h ra imm s) 8 (fun v => setFpr rd (BitVec.ofNat 64 v)) s) s

/-- VLD (04 Table 4.6, 05 R121). -/
def execVld (h : Hart) (rd ra : Reg) (imm : BitVec 16) (s : State) : Host.Outcome State Fault Refusal :=
  run h (.vld h rd ra imm) (fun s => loadFV h (gpr (cpuOf s h) ra) (eaImm h ra imm s) 32 (fun v => setVpr rd (BitVec.ofNat 256 v)) s) s

/-- STB (04 Table 4.6). -/
def execStB (h : Hart) (rd ra : Reg) (imm : BitVec 16) (s : State) : Host.Outcome State Fault Refusal :=
  run h (.stB h rd ra imm) (storeI h rd ra imm 1) s

/-- STH (04 Table 4.6). -/
def execStH (h : Hart) (rd ra : Reg) (imm : BitVec 16) (s : State) : Host.Outcome State Fault Refusal :=
  run h (.stH h rd ra imm) (storeI h rd ra imm 2) s

/-- STW (04 Table 4.6). -/
def execStW (h : Hart) (rd ra : Reg) (imm : BitVec 16) (s : State) : Host.Outcome State Fault Refusal :=
  run h (.stW h rd ra imm) (storeI h rd ra imm 4) s

/-- STD (04 Table 4.6). -/
def execStD (h : Hart) (rd ra : Reg) (imm : BitVec 16) (s : State) : Host.Outcome State Fault Refusal :=
  run h (.stD h rd ra imm) (storeI h rd ra imm 8) s

/-- STFS (04 Table 4.6). -/
def execStfS (h : Hart) (rd ra : Reg) (imm : BitVec 16) (s : State) : Host.Outcome State Fault Refusal :=
  run h (.stfS h rd ra imm) (fun s => storeFV h (gpr (cpuOf s h) ra) (eaImm h ra imm s) (leBytes 4 (fpr (cpuOf s h) rd).toNat) s) s

/-- STFD (04 Table 4.6). -/
def execStfD (h : Hart) (rd ra : Reg) (imm : BitVec 16) (s : State) : Host.Outcome State Fault Refusal :=
  run h (.stfD h rd ra imm) (fun s => storeFV h (gpr (cpuOf s h) ra) (eaImm h ra imm s) (leBytes 8 (fpr (cpuOf s h) rd).toNat) s) s

/-- VST (04 Table 4.6). -/
def execVst (h : Hart) (rd ra : Reg) (imm : BitVec 16) (s : State) : Host.Outcome State Fault Refusal :=
  run h (.vst h rd ra imm) (fun s => storeFV h (gpr (cpuOf s h) ra) (eaImm h ra imm s) (leBytes 32 (vpr (cpuOf s h) rd).toNat) s) s

/-- LDX (04 R97). -/
def execLdx (h : Hart) (rd ra rb : Reg) (w : BitVec 3) (sh : BitVec 2) (s : State) : Host.Outcome State Fault Refusal :=
  run h (.ldx h rd ra rb w sh) (fun s => loadG h rd (gpr (cpuOf s h) ra) [gpr (cpuOf s h) rb] (eaIdx h ra rb sh s)
    (ldxWidth w).1 (ldxWidth w).2 s) s

/-- STX (04 R97, R101). -/
def execStx (h : Hart) (rd ra rb : Reg) (w : BitVec 3) (sh : BitVec 2) (nt : Bool) (s : State) : Host.Outcome State Fault Refusal :=
  run h (.stx h rd ra rb w sh nt) (fun s => storeG h (gpr (cpuOf s h) rd) (gpr (cpuOf s h) ra) [gpr (cpuOf s h) rb] (eaIdx h ra rb sh s)
    (stxWidth w) nt s) s

/-- LDTG (04 R100). -/
def execLdtg (h : Hart) (rd ra : Reg) (imm : BitVec 16) (s : State) : Host.Outcome State Fault Refusal :=
  run h (.ldtg h rd ra imm) (loadTag h rd ra imm) s

/-- PF (04 R102). -/
def execPf (h : Hart) (hint ra : Reg) (imm : BitVec 16) (s : State) : Host.Outcome State Fault Refusal :=
  run h (.pf h hint ra imm) (prefetch h hint ra imm) s

end Sys2Proof.Machine
end

