-- ==== Sys2Proof/Machine/Perf.lean ====
section
/-! DEFINITION. Performance monitoring (20): flit counts of the mesh, counter wraps, bandwidth windows and snapshots. -/

namespace Sys2Proof.Machine
open Sys2Proof

/-! ## Counter wraps (20 R532, R533) -/

/-- PMCi of a core in CS0 wraps on one more event. -/
def counterOverflow (n i : Nat) (s : State) : State :=
  let c := coreOf s n
  let w := sysReg c (pmevtNum i)
  let on := flag w 11 ∧ ((i % 2 = 1 ∧ flag w 12) ∨ flag w (match c.level with | .u => 8 | .s => 9 | .m => 10))
  if 192 ≤ n ∨ 8 ≤ i ∨ ¬ inCs0 c ∨ ¬ on then s
  else
    let c := setSys (pmcNum i) (BitVec.ofNat 64 (2 ^ 48 - 1)) c
    let r := if i % 2 = 1 ∧ flag w 12 then pmcWrapped i (setSys (pmcNum i) 0 c) else pmcCount (fld w 7 0) 1 i (c, false)
    let s := setCpu (.core n) r.1 s
    if r.2 then raiseLocal n 1 s else s

/-! ## Bandwidth windows (20 R536) -/

/-- Whether an object index holds a window's count (20 Table 20.6). -/
def isBwIndex (idx : Nat) : Bool := decide (0x9100 ≤ idx) && decide (idx < 0x9500)

/-- The end of a window: every counter latches into its object and restarts, and a written w takes effect. -/
def windowEnd (s : State) : State :=
  if s.stamp % 2 ^ s.bwWindow ≠ 0 then s
  else
    let w := if 10 ≤ objN s 0x9000 1 ∧ objN s 0x9000 1 ≤ 34 then objN s 0x9000 1 else s.bwWindow
    let cleared := { s with objs := s.objs.filter (fun e => !isBwIndex (e.1 / 256)) }
    let s' := s.bw.foldl (fun (t : State) e =>
      setObj (e.1 / 256) (e.1 % 256) (BitVec.ofNat 64 (if e.1 / 256 < 0x9200 then e.2 % 2 ^ 32 else e.2)) t) cleared
    { s' with bw := [], bwWindow := w }

/-! ## Snapshots (20 R538, R539) -/

/-- The logical cores of an enclosure in increasing number; a core's rank is its position (20 R539). -/
def coresOf (s : State) (e : Nat) : List Nat := (List.range 192).filter (fun n => decide (enclOfCore s n = e))

/-- A snapshot record (20 Table 20.9). -/
def snapRecord (s : State) (n p : Nat) : List Byte :=
  let c := coreOf s n
  let off := match c.run with | .cs3 => 1 | .failover => 1 | .lost => 1 | _ => 0
  let w8 (v : Word) := leBytes 8 v.toNat
  w8 (BitVec.ofNat 64 s.stamp) ++ leBytes 4 p ++ leBytes 1 n ++ leBytes 1 (off + (if sysReg c 0x461 = 0 then 0 else 2)) ++ leBytes 2 0 ++
  w8 (sysReg c 0x440) ++ w8 (sysReg c 0x441) ++
  w8 (sysReg c 0x442) ++ w8 (sysReg c 0x443) ++ w8 (sysReg c 0x444) ++ w8 (sysReg c 0x445) ++
  (List.range 8).flatMap (fun i => leBytes 6 (sysReg c (pmcNum i)).toNat) ++ leBytes 8 0 ++ leBytes 4 p ++ leBytes 4 0

/-- PMU_SNAP of an enclosure. -/
def snapOf (s : State) (e : Nat) : Word := mGet 0x0180000000000000 s.pmuSnap e

/-- Write octets into memory as a unit that does not allocate in the LLC does (08 R194, 10 R262). -/
def unitStore (pa : Nat) (bs : List Byte) (s : State) : State := dmaPut false pa bs s

/-- The latch of one enclosure: a written PMU_SNAP takes effect at the boundary, then every core's record is written (20 R538, R539). -/
def snapshotLatch (e : Nat) (s : State) : State :=
  if s.stamp % 2 ^ fld (snapOf s e) 57 52 ≠ 0 then s
  else
    let s := match mFind s.pmuSnapNext e with
      | some w => { s with pmuSnap := mPut 0x0180000000000000 s.pmuSnap e w, pmuSnapNext := mDel s.pmuSnapNext e }
      | none => s
    let w := snapOf s e
    let p := s.stamp / 2 ^ fld w 57 52
    if ¬ flag w 63 ∨ s.stamp % 2 ^ fld w 57 52 ≠ 0 then s
    else
      let cs := coresOf s e
      let base := fld w 51 12 * 4096 + p % 2 ^ fld w 3 0 * 128 * cs.length
      (cs.zipIdx).foldl (fun t (c : Nat × Nat) =>
        let pa := base + 128 * c.2
        if placeOf s e pa = .mem ∧ placeOf s e (pa + 127) = .mem then unitStore pa (snapRecord s c.1 p) t else t) s

/-! ## Meanings -/

/-- COUNTER_OVERFLOW (20 R533). -/
def execCounterOverflow (n i : Nat) (s : State) : Host.Outcome State Fault Refusal := .next (counterOverflow n i s)

/-- BANDWIDTH_WINDOW_END (20 R536). -/
def execBandwidthWindowEnd (s : State) : Host.Outcome State Fault Refusal := .next (windowEnd s)

/-- SNAPSHOT_LATCH of an enclosure's cores (20 R539). -/
def execSnapshotLatch (e : Nat) (s : State) : Host.Outcome State Fault Refusal := .next (snapshotLatch e s)

end Sys2Proof.Machine
end

