-- ==== Sys2Proof/Machine/Intc.lean ====
section
/-! DEFINITION. The interrupt controller (21 R551-R554, 12 R310, 03 R59, R72) and the common part of device accesses (01 R33, R34). -/

namespace Sys2Proof.Machine
open Sys2Proof

/-! ## Sources -/

/-- A running core in the sense of 12 R310: started, neither in fault stop nor lost. -/
def startedCore (s : State) (n : Nat) : Bool :=
  match (coreOf s n).run with
  | .running => true
  | .wfi => true
  | .cs3 => true
  | .failover => true
  | _ => false

/-- The lowest-numbered running core of an enclosure, 0xFF while none runs. -/
def firstRunning (s : State) (e : Nat) : Nat := ((coresOf s e).find? (startedCore s)).getD 0xFF

/-- SRC[n] of an enclosure as it reads (21 Table 21.5): source 0 has fixed fields. -/
def srcWord (s : State) (e n : Nat) : Word :=
  let w := mGet 0 s.src (e * 1024 + n)
  if n = 0 then setFld (setFld (setFld w 63 63 1) 60 56 31) 7 0 (firstRunning s e) else w

/-- Store a source's word. -/
def putSrc (e n : Nat) (w : Word) (s : State) : State := { s with src := mPut 0 s.src (e * 1024 + n) w }

/-- The LOCAL byte of a core's local source: 0 timer, 1 performance (21 Table 21.4). -/
def localCfg (s : State) (n k : Nat) : Nat := let w := mGet 0 s.ilocal n
  if k = 0 then fld w 15 8 else fld w 7 0

/-- Whether a local source is pending: the timer while STAMP has reached TIMECMP, the performance source once raised (21 R552). -/
def localPending (s : State) (n k : Nat) : Bool :=
  if k = 0 then decide ((mGet 0 s.timecmp n).toNat ≤ s.stamp) else mGet false s.localPend (2 * n + 1)

/-- Sources that could be delivered to a core at a level, with their priorities (21 R553); the level is true for M. -/
def readySources (s : State) (n : Nat) (m : Bool) : List (Nat × Nat) :=
  let e := enclOfCore s n
  let th := mGet 0 s.ithresh n
  let t := if m then fld th 11 8 else fld th 3 0
  let globals := (0 :: (s.src.filter (fun p => decide (p.1 / 1024 = e ∧ p.1 % 1024 ≠ 0))).map (fun p => p.1 % 1024)).filterMap (fun k =>
    let w := srcWord s e k
    if flag w 63 ∧ flag w 62 ∧ ¬ flag w 61 ∧ flag w 60 = m ∧ fld w 7 0 = n ∧ t < fld w 59 56 then some (fld w 59 56, k) else none)
  let locals := [1, 0].filterMap (fun k =>
    let c := localCfg s n k
    if c.testBit 7 ∧ localPending s n k ∧ ¬ mGet false s.linsvc (2 * n + k) ∧ c.testBit 4 = m ∧ t < c % 16
    then some (c % 16, 1025 - k) else none)
  if e ≥ 16 then locals else globals ++ locals

/-- The source a CLAIM returns: highest priority, then lowest number (21 R553). -/
def bestSource (s : State) (n : Nat) (m : Bool) : Option Nat :=
  (readySources s n m).foldl (fun (b : Option (Nat × Nat)) x =>
    match b with
    | none => some x
    | some y => if y.1 < x.1 ∨ (y.1 = x.1 ∧ x.2 < y.2) then some x else some y) none |>.map (·.2)

/-- Whether an interrupt is pending for a core at a level (21 R553). -/
def intPending (s : State) (n : Nat) (m : Bool) : Bool := (bestSource s n m).isSome

/-- What the controller no longer holds pending is no longer delivered. -/
def settle (n : Nat) (s : State) : State :=
  modCpu (.core n) (fun c => { c with irqM := c.irqM && intPending s n true, irqS := c.irqS && intPending s n false }) s

/-- Settle every core of an enclosure. -/
def settleAll (e : Nat) (s : State) : State := (coresOf s e).foldl (fun s n => settle n s) s

/-- Set a source of an enclosure pending, whatever EN is (21 R552). -/
def setPend (e n : Nat) (s : State) : State :=
  if e < 16 ∧ n < 1024 then putSrc e n (setBit (mGet 0 s.src (e * 1024 + n)) 62 true) s else s

/-- A queue's signal: sources 1 to 1,023 alone (21 Table 21.5). -/
def signalQueue (e irq : Nat) (s : State) : State := if irq = 0 then s else setPend e irq s

/-- CLAIM of a core at a level (21 R553): the number, 0x7FF for none; PEND clears, but the timer's, and INSVC is set. -/
def claimSource (n : Nat) (m : Bool) (s : State) : Nat × State :=
  match bestSource s n m with
  | none => (0x7FF, s)
  | some k =>
    let s :=
      if k = 1024 then { s with localPend := mPut false s.localPend (2 * n + 1) false, linsvc := mPut false s.linsvc (2 * n + 1) true }
      else if k = 1025 then { s with linsvc := mPut false s.linsvc (2 * n) true }
      else let e := enclOfCore s n
           putSrc e k (setBit (setBit (mGet 0 s.src (e * 1024 + k)) 62 false) 61 true) s
    (k, settle n s)

/-- COMPLETE of a source by a core at a level (21 R553). -/
def completeSource (n k : Nat) (m : Bool) (s : State) : State :=
  let e := enclOfCore s n
  if k < 1024 then
    let w := srcWord s e k
    if e < 16 ∧ flag w 61 ∧ flag w 60 = m then putSrc e k (setBit (mGet 0 s.src (e * 1024 + k)) 61 false) s else s
  else if k ≤ 1025 then
    if (localCfg s n (1025 - k)).testBit 4 = m then { s with linsvc := mPut false s.linsvc (2 * n + (1025 - k)) false } else s
  else s

/-- The address the layout gives an enclosure's cores to start at (03 R59). -/
def entryAddr (s : State) (e : Nat) : Word := obj s 0x3010 e

/-- A gated core starts at its enclosure's entry address (03 R59). -/
def startCore (n : Nat) (s : State) : State :=
  modCpu (.core n) (fun c => { c with run := .running, pc := entryAddr s (enclOfCore s n) }) s

/-- Delivery of a pending interrupt to the core that carries Cn (03 R59, R72, 04 R112): a gated core starts on an M-level one, a core in
WFI wakes and the WFI retires; a core in CS3, failover, fault stop or lost has it held. -/
def deliver (n : Nat) (m : Bool) (s : State) : State :=
  if ¬ intPending s n m ∨ s.yew.stopped ∨ s.yew.held.contains (enclOfCore s n) ∨ s.yew.refused.contains (enclOfCore s n) then s
  else
    let mark (s : State) : State := modCpu (.core n) (fun c => if m then { c with irqM := true } else { c with irqS := true }) s
    match (coreOf s n).run with
    | .gated => if m then mark (startCore n s) else s
    | .running => mark s
    | .wfi =>
      let s := { s with pwr := { s.pwr with tries := mDel s.pwr.tries n } }
      retireWaited (.core n) [] (modCpu (.core n) (fun c => { c with run := .running }) (mark s))
    | _ => s

/-! ## Device accesses -/

/-- The physical address of a device request. -/
def reqPa (q : ReqFlit) : Nat := q.addr * 64 + q.off

/-- The core number a record names for a requesting unit. -/
def coreNum (s : State) (unit : Nat) : Nat := match hartOf s unit with | some (.core n) => n | _ => 0xFF

/-- A refusal under 01 R34, recorded by the unit that received the access (log 37). -/
def refuseDev (unit kind : Nat) (q : ReqFlit) (s : State) : State :=
  report { stamp := 0, useq := 0, unit := unit, net := 0, cls := 0x0604, sev := 2, encl := q.encl, core := coreNum s q.src,
           tile := if q.src < 216 then q.src else 0xFF, addr := reqPa q, d0 := kind, pktStamp := injected s q.lstamp q.wrap, inexact := q.wrap } s

/-- The DevData that answers a device load: the octets in their place in the line (10 R239, Table 10.6). -/
def devData (unit : Nat) (q : ReqFlit) (v : Nat) (s : State) : Msg :=
  let o := q.off % 32
  .dat 7 { dest := q.src, src := unit, txid := q.txid, be := BitVec.ofNat 32 ((2 ^ (q.len + 1) - 1) <<< o),
           half := decide (32 ≤ q.off), epoch := s.mesh.epoch, lstamp := s.stamp % 4096,
           data := BitVec.ofNat 256 ((v % 2 ^ (8 * (q.len + 1))) <<< (8 * o)) }

/-- A data-less answer to a request. -/
def rspTo (opc unit info : Nat) (q : ReqFlit) (s : State) : Msg :=
  .rsp opc { dest := q.src, src := unit, txid := q.txid, info := info, epoch := s.mesh.epoch, lstamp := s.stamp % 4096 }

/-- A refused device load reads 0 (01 R34). -/
def refuseLoad (unit : Nat) (q : ReqFlit) (s : State) : State := send (devData unit q 0 s) (refuseDev unit 0x00 q s)

/-- A refused device store is discarded and accepted (01 R34). -/
def refuseStore (unit : Nat) (q : ReqFlit) (s : State) : State := send (rspTo 0x06 unit 0 q s) (refuseDev unit 0x01 q s)

/-- A refused atomic to device space: rd receives 0 (04 R104). -/
def refuseAtomic (unit : Nat) (q : ReqFlit) (s : State) : State :=
  send (match devData unit q 0 s with | .dat _ d => .dat 0xD d | m => m) (refuseDev unit 0x03 q s)

/-- A naturally aligned 64-bit access. -/
def word64 (q : ReqFlit) : Bool := decide (q.len = 7) && decide (q.off % 8 = 0)

/-! ## The controller's window (21 Table 21.4) -/

/-- What an offset of the window names. -/
inductive IntReg where
  | src (n : Nat)
  | claim (core : Nat) (m : Bool)
  | complete (core : Nat) (m : Bool)
  | thresh (core : Nat)
  | local_ (core : Nat)
  | timecmp (core : Nat)
  | setpend
  | stream (i : Nat) (hi : Bool)
deriving DecidableEq, Repr

/-- The register at an offset of an enclosure's window. -/
def intReg (s : State) (e off : Nat) : Option IntReg :=
  if off < 0x2000 then some (.src (off / 8))
  else if 0x10000 ≤ off ∧ off < 0x20000 then
    match (coresOf s e)[(off - 0x10000) / 0x40]? with
    | none => none
    | some n =>
      let r := off % 0x40
      if r = 0x00 then some (.claim n false) else if r = 0x08 then some (.claim n true)
      else if r = 0x10 then some (.complete n false) else if r = 0x18 then some (.complete n true)
      else if r = 0x20 then some (.thresh n) else if r = 0x28 then some (.local_ n) else if r = 0x30 then some (.timecmp n) else none
  else if off = 0x20000 then some .setpend
  else if 0x80000 ≤ off ∧ off < 0x80200 then some (.stream ((off - 0x80000) / 16) (decide (off % 16 = 8)))
  else none

/-- Whether a register is reached with LP = 1. -/
def intLp : IntReg → Bool
  | .src _ => false
  | .claim _ m => !m
  | .complete _ m => !m
  | .thresh _ => true
  | .local_ _ => false
  | .timecmp _ => true
  | .setpend => true
  | .stream _ _ => false

/-- The register an access reaches: the issuing enclosure's own window, one word, and the level (21 R551, 01 R34). -/
def intTarget (s : State) (q : ReqFlit) : Option IntReg :=
  let off := reqPa q - 0xF000002000000
  if q.encl < 16 ∧ off / 2 ^ 20 = q.encl ∧ word64 q then
    match intReg s q.encl (off % 2 ^ 20) with
    | some r => if q.lp ∧ ¬ intLp r then none else some r
    | none => none
  else none

/-- A load of a register: its value; write-only registers read 0 (00 Table 0.3, 21 Table 21.4). -/
def intRead (e : Nat) (r : IntReg) (s : State) : Nat × State :=
  match r with
  | .src n => ((srcWord s e n).toNat, s)
  | .claim n m => claimSource n m s
  | .complete _ _ => (0, s)
  | .thresh n => ((mGet 0 s.ithresh n).toNat, s)
  | .local_ n => ((mGet 0 s.ilocal n).toNat, s)
  | .timecmp n => ((mGet 0 s.timecmp n).toNat, s)
  | .setpend => (0, s)
  | .stream i hi => ((if hi then mGet 0 s.sroot (e * 32 + i) else mGet 0 s.sctl (e * 32 + i)).toNat, s)

/-- A field of a layout record (12 Table 12.4a). -/
def lrNat (r : List Byte) (off n : Nat) : Nat := leNat ((r.drop off).take n)

/-- The enclosure of a record. -/
def lrEncl (r : List Byte) : Nat := lrNat r 0 1

/-- This socket's record of an enclosure. -/
def recOfEncl (s : State) (e : Nat) : Option (List Byte) := s.yew.recs.find? (fun r => decide (lrEncl r = e))

/-- The 32 STREAMS entries of an enclosure's record; 0xFFFF is unused (12 Table 12.4a). -/
def layoutStreams (s : State) (e : Nat) : List Nat :=
  match recOfEncl s e with | some r => (List.range 32).map (fun i => lrNat r (0xC0 + 2 * i) 2) | none => []

/-- The root complex and requester of a stream entry: those of the layout's STREAMS entry of the same position (21 R546, R547). -/
def streamOf (s : State) (e i : Nat) : Option (Nat × Nat) :=
  (((layoutStreams s e)[i]?).filter (fun w => decide (w ≠ 0xFFFF))).map (fun w => (nbits w 13 12, w % 4096))

/-- The stream entry of a requester of an enclosure. -/
def streamPos (s : State) (e pe rid : Nat) : Nat :=
  (layoutStreams s e).findIdx (fun w => decide (w ≠ 0xFFFF ∧ nbits w 13 12 = pe ∧ w % 4096 = rid))

/-- The stream number that an I/O translation cache tags: an engine's streams are its enclosures, a root complex's are 64 + entry. -/
def streamTag (e i : Nat) : Nat := 64 + e * 32 + i

/-- Remove a stream's entries from a root complex's translation cache (07 R191, 21 R547). -/
def dropStream (unit tag : Nat) (s : State) : State :=
  let t := mGet {} s.iotlb unit
  { s with iotlb := mPut {} s.iotlb unit { t with ents := psMap (fun x => decide (x.stream = tag)) (fun _ => none) t.ents } }

/-- A write of a stream entry's control word (21 R547): EN from 0 to 1 removes the stream's cached translations; while EN is 1 ASID stays. -/
def writeStreamCtl (e i : Nat) (v : Word) (s : State) : State :=
  let k := e * 32 + i
  let old := mGet 0 s.sctl k
  let asid := if flag old 63 then fld old 11 0 else fld v 11 0
  let new := BitVec.ofNat 64 ((flag v 63).toNat * 2 ^ 63 + asid)
  let s := { s with sctl := mPut 0 s.sctl k new }
  if flag v 63 ∧ ¬ flag old 63 then
    match streamOf s e i with
    | some (pe, _) => dropStream (352 + pe) (streamTag e i) s
    | none => s
  else s

/-- A store to a register; a store to a read-only register has no effect (00 Table 0.3). `lp` is the access's level. -/
def intWrite (e : Nat) (r : IntReg) (lp : Bool) (v : Word) (s : State) : State :=
  match r with
  | .src n =>
    if n = 0 then s
    else
      let old := mGet 0 s.src (e * 1024 + n)
      let core := if enclOfCore s (fld v 7 0) = e ∧ fld v 7 0 < 192 then fld v 7 0 else fld old 7 0
      let w := setFld (setFld (setFld old 63 63 (fld v 63 63)) 60 56 (fld v 60 56)) 7 0 core
      (settleAll e (putSrc e n w s))
  | .claim _ _ => s
  | .complete n m => (completeSource n (fld v 10 0) m s)
  | .thresh n =>
    let old := mGet 0 s.ithresh n
    let w := setFld (setFld 0 3 0 (fld v 3 0)) 11 8 (if lp then fld old 11 8 else fld v 11 8)
    (settle n { s with ithresh := mPut 0 s.ithresh n w })
  | .local_ n => (settle n { s with ilocal := mPut 0 s.ilocal n (v &&& 0x9F9F) })
  | .timecmp n => (settle n { s with timecmp := mPut 0 s.timecmp n v })
  | .setpend => (setPend e (fld v 9 0) s)
  | .stream i hi =>
    if hi then (if flag (mGet 0 s.sctl (e * 32 + i)) 63 then s
      else { s with sroot := mPut 0 s.sroot (e * 32 + i) (v &&& 0xFFFFFFFFFF006) })
    else (writeStreamCtl e i v s)

/-- A device load at the interrupt controller. -/
def intLoad (q : ReqFlit) (s : State) : State :=
  match intTarget s q with
  | none => refuseLoad 363 q s
  | some r => let a := intRead q.encl r s
    send (devData 363 q a.1 a.2) a.2

/-- A device store at the interrupt controller: accepted when it has taken effect (09 R225). -/
def intStore (q : ReqFlit) (s : State) : State :=
  match intTarget s q with
  | none => refuseStore 363 q s
  | some r => let s := intWrite q.encl r q.lp q.data s
    send (rspTo 0x06 363 0 q s) s

/-! ## Meanings -/

/-- INTERRUPT_DELIVERY (03 R72, 21 R553). -/
def execInterruptDelivery (n : Nat) (m : Bool) (s : State) : Host.Outcome State Fault Refusal := .next (deliver n m s)

/-- SETPEND: a device store to the SETPEND register of an enclosure's window (21 R552). -/
def execSetpend (q : ReqFlit) (s : State) : Host.Outcome State Fault Refusal :=
  .next (match intTarget s q with | some .setpend => arrives (.req 0x11 q) (intStore q) s | _ => s)

/-- CLAIM: a device load of a CLAIM register (21 R553). -/
def execClaim (q : ReqFlit) (s : State) : Host.Outcome State Fault Refusal :=
  .next (match intTarget s q with | some (.claim _ _) => arrives (.req 0x10 q) (intLoad q) s | _ => s)

/-- COMPLETE: a device store to a COMPLETE register (21 R553). -/
def execComplete (q : ReqFlit) (s : State) : Host.Outcome State Fault Refusal :=
  .next (match intTarget s q with | some (.complete _ _) => arrives (.req 0x11 q) (intStore q) s | _ => s)

/-- STREAM_ENABLE: a device store to a stream entry's control word (21 R547). -/
def execStreamEnable (q : ReqFlit) (s : State) : Host.Outcome State Fault Refusal :=
  .next (match intTarget s q with | some (.stream _ false) => arrives (.req 0x11 q) (intStore q) s | _ => s)

end Sys2Proof.Machine
end

