-- ==== Sys2Proof/Machine/Queue.lean ====
section
/-! DEFINITION. Queue blocks, submission and completion rings (13 R332-R341, 15 R397, R398) and the DMA of device units. -/

namespace Sys2Proof.Machine
open Sys2Proof

/-! ## DMA of a device unit -/

/-- Why a read of data or of a descriptor failed. -/
inductive DmaErr where
  /-- a translation failure, or a granule the enclosure does not own -/
  | trans
  /-- a POIS word, at an address -/
  | pois (va : Word)
  | hndl
deriving DecidableEq, Repr

/-- Nothing stands behind a physical address (01 R31, R32); an address above bit 51 is a failure of ownership instead (01 R30). -/
def unbackedAt (s : State) (e pa : Nat) : Bool := decide (placeOf s e pa = .unbacked) && decide (pa < 2 ^ 52) && !backed s pa

/-- What reading physical octets of an enclosure's memory meets first, word by word: an unbacked address is an uncorrectable read (01 R32). -/
def physFault (s : State) (e pa n : Nat) : Option DmaErr :=
  (wordsOf pa n).findSome? (fun w =>
    if placeOf s e w ≠ .mem then (if unbackedAt s e w then some (.pois (BitVec.ofNat 64 (max w pa))) else some .trans)
    else if memTag s w = .pois then some (.pois (BitVec.ofNat 64 (max w pa)))
    else if memTag s w = .hndl then some .hndl else none)

/-- A unit's record of an unbacked address (01 R32). -/
def noteUnbacked (unit kind e pa : Nat) (s : State) : State :=
  report { stamp := 0, useq := 0, unit := unit, cls := 0x0305, sev := 2, encl := e, addr := pa, d0 := kind } s

/-- Read physical octets for an enclosure; an unbacked address that ends the read leaves a record of the unit. -/
def physRead (unit kind e pa n : Nat) (s : State) : Except DmaErr (List Byte) × State :=
  match physFault s e pa n with
  | some (.pois a) => (.error (.pois a), if unbackedAt s e a.toNat then noteUnbacked unit kind e a.toNat s else s)
  | some x => (.error x, s)
  | none => (.ok (memBytes s pa n), s)

/-- Read octets of an enclosure as values, handles and all (13 R338, 15 R402): none where a word is POIS or not to be had. -/
def valueRead (e pa n : Nat) (s : State) : Option (List Byte) × State :=
  match physRead 366 0x07 e pa n s with
  | (.error .hndl, s) => (if (wordsOf pa n).any (fun w => decide (placeOf s e w ≠ .mem) || decide (memTag s w = .pois)) then none else some (memBytes s pa n), s)
  | (.error _, s) => (none, s)
  | (.ok d, s) => (some d, s)

/-- The pieces of a span that lie within one 4 KiB page. -/
def pagePieces : Nat → Word → Nat → List (Word × Nat)
  | 0, _, _ => []
  | fuel + 1, va, n =>
    if n = 0 then []
    else
      let k := min n (4096 - va.toNat % 4096)
      (va, k) :: pagePieces fuel (va + BitVec.ofNat 64 k) (n - k)

/-- Translate a span of an enclosure's Privet stream, page by page (07 R190, 12 Table 12.7). -/
def spanXlate (n e : Nat) (store : Bool) (va : Word) (len : Nat) (s : State) : Option (List (Nat × Nat × Word)) × State :=
  (pagePieces (len / 4096 + 2) va len).foldl (fun r p =>
    match r.1 with
    | none => r
    | some ps =>
      match ioTranslate (272 + n) e e ⟨mGet 0 r.2.ioRoots e, (mGet 0 r.2.ioAsids e).toNat % 4096⟩ p.1 store r.2 with
      | (none, s) => (none, s)
      | (some pa, s) =>
        (match placeOf s e pa with
         | .mem => (some (ps ++ [(pa, p.2, p.1)]), s)
         | .unbacked => if unbackedAt s e pa then (some (ps ++ [(pa, p.2, p.1)]), s) else (none, s)
         | _ => (none, s))) (some [], s)

/-- Read a span of an enclosure's Privet stream; a fault names the I/O virtual address of its word. -/
def spanRead (n e : Nat) (va : Word) (len : Nat) (s : State) : Except DmaErr (List Byte) × State :=
  match spanXlate n e false va len s with
  | (none, s) => (.error .trans, s)
  | (some ps, s) =>
    ps.foldl (fun r p =>
      match r.1 with
      | .error x => (.error x, r.2)
      | .ok bs =>
        match physRead (272 + n) 0x07 e p.1 p.2.1 r.2 with
        | (.ok b, s) => (.ok (bs ++ b), s)
        | (.error (.pois a), s) => (.error (.pois (p.2.2 + (a - BitVec.ofNat 64 p.1))), s)
        | (.error x, s) => (.error x, s)) (.ok [], s)

/-- Write a span of an enclosure's Privet stream (13 R358): false on a translation failure. -/
def spanWrite (n e : Nat) (va : Word) (bs : List Byte) (s : State) : Bool × State :=
  match spanXlate n e true va bs.length s with
  | (none, s) => (false, s)
  | (some ps, s) =>
    let r := ps.foldl (fun (r : List Byte × State) p =>
      let now := r.1.take p.2.1
      (r.1.drop p.2.1,
       if placeOf r.2 e p.1 = .mem then dmaStore p.1 now r.2
       else noteUnbacked (272 + n) 0x08 e p.1 r.2)) (bs, s)
    (true, r.2)

/-! ## Queues -/

/-- The key of a queue: kind 0 Privet, 1 Laurel, 2 Holly. -/
def qkeyOf (kind e slot : Nat) : Nat := kind * 2 ^ 20 + e * 4096 + slot
def qkKind (k : Nat) : Nat := k / 2 ^ 20
def qkEncl (k : Nat) : Nat := k / 4096 % 256
def qkSlot (k : Nat) : Nat := k % 4096

/-- A queue. -/
def queueAt (s : State) (k : Nat) : Queue := mGet {} s.queues k

/-- Change a queue. -/
def modQueue (k : Nat) (f : Queue → Queue) (s : State) : State := { s with queues := mPut {} s.queues k (f (queueAt s k)) }

/-- The channel control of an enclosure. -/
def chnOf (s : State) (e : Nat) : Chn := mGet {} s.chn e

/-- Change an enclosure's channel control. -/
def modChn (e : Nat) (f : Chn → Chn) (s : State) : State := { s with chn := mPut {} s.chn e (f (chnOf s e)) }

/-- Whether an enclosure negotiated a feature (13 R343). -/
def feature (s : State) (e i : Nat) : Bool := (chnOf s e).ok && flag (chnOf s e).drvLo i

/-- Ring sizes of a queue (13 Table 13.4). -/
def sqLen (q : Queue) : Nat := 2 ^ (fld q.cfg 3 0 + 4)
def cqLen (q : Queue) : Nat := 2 ^ (fld q.cfg 11 8 + 4)

/-- Octets of a submission entry (13 R338, 15 R398). -/
def entrySize (k : Nat) : Nat := if qkKind k = 2 then 128 else 64

/-- Slots that an enclosure owns of a kind (12 Table 12.5 PROT_QSLOT). -/
def slotsOf (s : State) (e kind : Nat) : Nat := fld (obj s 0x3600 e) (16 * kind + 15) (16 * kind)

/-! ### Completion entries (13 R337, R339, R340) -/

/-- Whether the completion ring has a free slot. -/
def cqRoom (q : Queue) : Bool := decide ((q.cqTail + 1) % cqLen q ≠ q.cqHead % cqLen q)

/-- Signal a queue's source, at once or coalesced (13 R340, 15 R398). -/
def cqSignal (k : Nat) (s : State) : State :=
  let q := queueAt s k
  let n := fld q.cfg 55 48
  let t := fld q.cfg 47 32
  let coal := (decide (qkKind k ≠ 0) || feature s (qkEncl k) 6) && (decide (n ≠ 0) || decide (t ≠ 0))
  let fire (s : State) : State := signalQueue (qkEncl k) (fld q.cfg 31 16) (modQueue k (fun q => { q with unsig := 0 }) s)
  if ¬ coal then fire s
  else
    let s := modQueue k (fun q => { q with unsig := q.unsig + 1, unsigAt := if q.unsig = 0 then s.stamp else q.unsigAt }) s
    if n ≤ (queueAt s k).unsig then fire s else s

/-- Set an operation's record ENDED: its ENDs are due and the engine's count rises (13 R363, 14 R394, 20 Table 20.7). -/
def recEnded (opid slot : Nat) (s : State) : State :=
  match s.journal.find? (fun r => decide (r.opid = opid)) with
  | none => s
  | some r =>
    let s := { s with
      journal := s.journal.map (fun x => if x.opid = opid then { x with st := .ended, cqslot := some slot } else x)
      ends := s.ends ++ (r.nodes.eraseDups.map (fun n => (opid, n))) }
    bumpObj 0x9800 r.engine 64 1 s

/-- Write one completion entry into its ring slot with PHASE. -/
def cqWrite (k : Nat) (x : CqEntry) (s : State) : State :=
  let q := queueAt s k
  let octets := x.octets.modify (if qkKind k = 0 then 15 else 11) (fun b => if q.phase then b ||| 1 else b)
  let s := dmaStore (fld q.cqBase 51 6 * 64 + 32 * q.cqTail) octets s
  let next := (q.cqTail + 1) % cqLen q
  let s := modQueue k (fun q => { q with cqTail := next, phase := if next = 0 then !q.phase else q.phase }) s
  let s := match x.opid with | some o => recEnded o q.cqTail s | none => s
  cqSignal k s

/-- ACTIVE falls once a disabled queue owes nothing (13 R335). -/
def queueRest (k : Nat) (s : State) : State :=
  modQueue k (fun q => if q.active ∧ ¬ flag q.cfg 63 ∧ q.owed = 0 ∧ q.waiting = [] then { q with active := false } else q) s

/-- Write waiting completion entries while there is room. -/
def cqFlushN (k : Nat) : Nat → State → State
  | 0, s => s
  | n + 1, s =>
    match (queueAt s k).waiting with
    | [] => s
    | x :: rest =>
      if cqRoom (queueAt s k) then
        cqFlushN k n (cqWrite k x (modQueue k (fun q => { q with waiting := rest, owed := q.owed - 1 }) s))
      else s

/-- Write waiting completion entries while there is room. -/
def cqFlush (k : Nat) (s : State) : State := queueRest k (cqFlushN k (queueAt s k).waiting.length s)

/-- A completion entry comes: it is written, or waits for room behind those before it (13 R337). -/
def cqPush (k : Nat) (x : CqEntry) (s : State) : State :=
  if (queueAt s k).active then cqFlush k (modQueue k (fun q => { q with waiting := q.waiting ++ [x] }) s) else s

/-- The 32 octets of a channel completion entry (13 Table 13.7). -/
def compOctets (stamp subch kind tag status redriven info devstat port attempts op : Nat) : List Byte :=
  leBytes 8 stamp ++ leBytes 4 (subch + kind * 2 ^ 24) ++ leBytes 2 tag ++ leBytes 1 status ++ leBytes 1 (2 * redriven) ++
  leBytes 8 info ++ leBytes 4 devstat ++ leBytes 1 port ++ leBytes 1 attempts ++ leBytes 1 op ++ leBytes 1 0

/-- A COMP that answers a submission entry without an operation. -/
def compFor (k tag subch op status info : Nat) (s : State) : State :=
  cqPush k ⟨compOctets s.stamp subch 0 tag status 0 info 0 0xFF 0 op, none⟩ s

/-! ### Notices (13 R341) -/

/-- A subchannel. -/
def subAt (s : State) (n : Nat) : Sub := mGet {} s.subs n

/-- Change a subchannel. -/
def modSub (n : Nat) (f : Sub → Sub) (s : State) : State := { s with subs := mPut {} s.subs n (f (subAt s n)) }

/-- An operation's record. -/
def recOf (s : State) (opid : Nat) : Option JRec := s.journal.find? (fun r => decide (r.opid = opid))

/-- Change an operation's record. -/
def modRec (opid : Nat) (f : JRec → JRec) (s : State) : State :=
  { s with journal := s.journal.map (fun r => if r.opid = opid then f r else r) }

/-- The completion entry of a notice. -/
def noticeEntry (s : State) (r : JRec) (n : Notice) : CqEntry :=
  let rep := feature s r.encl 8
  ⟨compOctets n.stamp r.subch 1 0 n.status (if rep ∧ r.attempts ≠ 0 then 1 else 0) n.info 0 r.lastPort (if rep then r.attempts else 0) 0, none⟩

/-- Write a subchannel's waiting notice into its operation's queue when there is room. -/
def noticeFlush (subch : Nat) (s : State) : State :=
  match (subAt s subch).notice, (subAt s subch).opid.bind (recOf s) with
  | some n, some r =>
    let q := queueAt s r.qkey
    if q.active ∧ q.waiting = [] ∧ cqRoom q then
      cqWrite r.qkey (noticeEntry s r n) (modSub subch (fun b => { b with notice := none }) s)
    else s
  | _, _ => s

/-- A notice arises: a later PROGRESS merges into a waiting one; HELD and DATA_CHECK replace it (13 R341). -/
def putNotice (subch status info : Nat) (s : State) : State :=
  let new : Notice :=
    match (subAt s subch).notice with
    | some n => if status = 0x11 ∧ n.status = 0x11 then ⟨0x11, s.stamp, info / 2 ^ 32 * 2 ^ 32 + (n.info % 2 ^ 32 + 1) % 2 ^ 32⟩ else ⟨status, s.stamp, info⟩
    | none => ⟨status, s.stamp, info⟩
  noticeFlush subch (modSub subch (fun b => { b with notice := some new }) s)

/-- Space appears in a completion ring: what waits for it is written (13 R337). -/
def ringSpace (k : Nat) (s : State) : State :=
  let s := cqFlush k s
  (s.subs.filter (fun b => b.2.notice.isSome)).foldl (fun s b =>
    match b.2.opid.bind (recOf s) with
    | some r => if r.qkey = k then noticeFlush b.1 s else s
    | none => s) s

/-! ### Enable and disable (13 R334, R335) -/

/-- A ring starts at a multiple of its own size and lies within one granule of the enclosure. -/
def ringOk (s : State) (e base size : Nat) : Bool :=
  decide (base % size = 0) && decide (base / 2 ^ 30 = (base + size - 1) / 2 ^ 30) && decide (placeOf s e base = .mem)

/-- QCFG's defined fields. -/
def qcfgMask : Word := 0x80FFFFFFFFFF0F0F

/-- A write of EN = 1. -/
def queueEnable (k : Nat) (v : Word) (s : State) : State :=
  let q := queueAt s k
  if flag q.cfg 63 then s
  else
    let cfg := setBit (v &&& qcfgMask) 63 false
    let q' := { q with cfg := cfg }
    let e := qkEncl k
    let ok := (decide (qkKind k ≠ 0) || (chnOf s e).ok) && decide (fld cfg 11 8 ≤ 12) && decide (fld cfg 3 0 ≤ 12) &&
      ringOk s e (fld q.sqBase 51 6 * 64) (sqLen q' * entrySize k) && ringOk s e (fld q.cqBase 51 6 * 64) (cqLen q' * 32) && !q.active
    modQueue k (fun q =>
      if ok then
        { q with
          cfg := setBit cfg 63 true
          active := true
          sqHead := 0
          sqTail := 0
          cqHead := 0
          cqTail := 0
          phase := true
          owed := 0
          waiting := []
          unsig := 0 }
      else { q with cfg := cfg, cfgErr := true }) s

/-- A write of EN = 0: no further entry is read. -/
def queueDisable (k : Nat) (v : Word) (s : State) : State :=
  let q := queueAt s k
  if flag q.cfg 63 then queueRest k (modQueue k (fun q => { q with cfg := setBit q.cfg 63 false }) s)
  else modQueue k (fun q => { q with cfg := v &&& qcfgMask }) s

/-- COAL_T has passed for the oldest unsignalled entry (13 R340). -/
def coalesceTimeout (k : Nat) (s : State) : State :=
  let q := queueAt s k
  let t := fld q.cfg 47 32
  if q.unsig ≠ 0 ∧ t ≠ 0 ∧ q.unsigAt + 64 * t ≤ s.stamp then
    signalQueue (qkEncl k) (fld q.cfg 31 16) (modQueue k (fun q => { q with unsig := 0 }) s)
  else s

/-! ### The doorbell window (13 Tables 13.2, 13.3, 13.9, 15 R397) -/

/-- What an offset of the window names. -/
inductive DbReg where
  | queue (k off : Nat)
  | chn (off : Nat)
deriving DecidableEq, Repr

/-- The register at an offset of an enclosure's window; slots it does not own and reserved ranges are none. -/
def dbReg (s : State) (e off : Nat) : Option DbReg :=
  let q (kind base : Nat) : Option DbReg :=
    let slot := (off - base) / 0x40
    if slot < slotsOf s e kind then some (.queue (qkeyOf kind e slot) (off % 0x40)) else none
  if off < 0x8000 then q 0 0
  else if 0x40000 ≤ off ∧ off < 0x60000 then q 1 0x40000
  else if 0x60000 ≤ off ∧ off < 0x80000 then q 2 0x60000
  else if 0x80000 ≤ off ∧ off < 0x80080 then some (.chn (off - 0x80000))
  else none

/-- The register an access of the issuing enclosure reaches (13 R332). -/
def dbTarget (s : State) (q : ReqFlit) : Option DbReg :=
  let off := reqPa q - 0xF000000000000
  if q.encl < 16 ∧ ¬ s.yew.held.contains q.encl ∧ ¬ s.yew.stopped ∧ 0xF000000000000 ≤ reqPa q ∧ off / 2 ^ 20 = q.encl ∧ word64 q then dbReg s q.encl (off % 2 ^ 20) else none

/-- QSTAT (13 Table 13.5). -/
def qstat (q : Queue) : Nat :=
  q.active.toNat * 2 ^ 63 + q.sqHead * 2 ^ 32 + q.headErr.toNat * 2 ^ 18 + q.tailErr.toNat * 2 ^ 17 + q.cfgErr.toNat * 2 ^ 16 + q.cqTail

/-- A load of a queue block or of the channel control block; write-only registers read 0 (00 Table 0.3). -/
def dbRead (s : State) (e : Nat) (r : DbReg) : Nat :=
  match r with
  | .queue k off =>
    let q := queueAt s k
    if off = 0x10 then q.sqBase.toNat else if off = 0x18 then q.cqBase.toNat else if off = 0x20 then q.cfg.toNat
    else if off = 0x28 then qstat q else 0
  | .chn off =>
    let c := chnOf s e
    if off = 0x00 then 0x37F
    else if off = 0x10 then c.drvLo.toNat else if off = 0x18 then c.drvHi.toNat
    else if off = 0x28 then c.resetEnded * 2 ^ 32 + c.fail.toNat * 4 + c.ok.toNat
    else if off = 0x30 then c.sdt.toNat
    else if off = 0x38 then (mGet 0 s.ioRoots e).toNat else if off = 0x40 then (mGet 0 s.ioAsids e).toNat else 0

end Sys2Proof.Machine
end

