-- ==== Sys2Proof/Machine/Qct.lean ====
section
/-! DEFINITION. Channel ports and QCT sessions (14): frames sent, credits, retransmission. -/

namespace Sys2Proof.Machine
open Sys2Proof

/-! ## Ports -/

/-- PORT_CFG.MODE of a port. -/
def portMode (s : State) (p : Nat) : Nat := fld (obj s 0x7010 p) 3 0

/-- A mode of a bond group (14 Table 14.1). -/
def bondMode (m : Nat) : Bool := m = 5 ∨ m = 6 ∨ m = 7

/-- Whether a port's link counts as up for path selection (14 R374). -/
def portLink (s : State) (p : Nat) : Bool :=
  decide (p < 144) && flag (obj s 0x7020 p) 8 && !(decide (p % 4 ≠ 0) && bondMode (portMode s (p / 4 * 4)))

/-- QCT_NODE names an endpoint (14 R380). -/
def nodeOk (s : State) : Bool := decide (objN s 0x7000 1 ≠ 0) && decide (objN s 0x7000 1 ≠ 0xFFFFFFFF)

/-- QCT_RTO, QCT_RETRY_MAX and QCT_KEEPALIVE. -/
def qctRto (s : State) : Nat := objN s 0x7000 3
def qctMax (s : State) : Nat := objN s 0x7000 4
def qctKeep (s : State) : Nat := objN s 0x7000 5

/-- A session by port and node. -/
def skey (port node : Nat) : Nat := port * 2 ^ 32 + node
def sessAt (s : State) (k : Nat) : Sess := mGet {} s.sess k
def modSess (k : Nat) (f : Sess → Sess) (s : State) : State := { s with sess := mPut {} s.sess k (f (sessAt s k)) }

/-- A port. -/
def portAt (s : State) (p : Nat) : Port := mGet {} s.ports p
def modPort (p : Nat) (f : Port → Port) (s : State) : State := { s with ports := mPut {} s.ports p (f (portAt s p)) }

/-- A port's sessions in OPENING or OPEN, by key. -/
def portSessions (s : State) (p : Nat) : List Nat :=
  (s.sess.filter (fun e => decide (e.1 / 2 ^ 32 = p ∧ (e.2.st = .opening ∨ e.2.st = .open)))).map (·.1)

/-! ## Frames (14 R377) -/

/-- A number's octets, most significant first (00 R7). -/
def beBytes (n v : Nat) : List Byte := (leBytes n v).reverse

/-- Whether a TYPE is sequenced, and whether it is of the data class (14 Table 14.6). -/
def sequenced (ty : Nat) : Bool := decide (3 ≤ ty) && decide (ty ≤ 7)
def dataClass (ty : Nat) : Bool := decide (ty = 4)

/-- Whether the next frame of a class may be sent (14 R386). -/
def hasCredit (q : Sess) (d : Bool) : Bool :=
  if d then decide ((q.crD + 2 ^ 16 - (q.txcD + 1) % 2 ^ 16) % 2 ^ 16 ≤ 32767)
  else decide ((q.crC + 2 ^ 16 - (q.txcC + 1) % 2 ^ 16) % 2 ^ 16 ≤ 32767)

/-- The WANT bit of a class: frames wait for its credit (14 R387). -/
def wants (q : Sess) (d : Bool) : Bool := (q.resend ++ q.queue).any (fun f => dataClass f.ty == d) && !hasCredit q d

/-- The octets of a frame on the wire (14 R377, Table 14.4). -/
def frameOctets (s : State) (port node : Nat) (q : Sess) (f : TxFrame) (txc : Nat) : List Byte :=
  let cfg := obj s 0x7010 port
  let dst := if f.ty = 1 then 0xFFFFFFFFFFFF else q.mac
  let ackv := decide (f.ty ≠ 1)
  let flags := ackv.toNat * 128 + (wants q false).toNat * 64 + (wants q true).toNat * 32
  let lim (v : Nat) := if f.ty = 1 then 0 else v
  let head := beBytes 6 dst ++ beBytes 6 (objN s 0x7030 port) ++
    (if flag cfg 15 then beBytes 2 0x8100 ++ beBytes 2 (fld cfg 14 12 * 2 ^ 13 + fld cfg 27 16) else []) ++ beBytes 2 (objN s 0x7000 2)
  let qct := beBytes 1 (0x10 + f.ty) ++ beBytes 1 flags ++ beBytes 2 f.payload.length ++ beBytes 4 (objN s 0x7000 1) ++ beBytes 4 node ++
    beBytes 2 q.sess ++ beBytes 2 (lim q.grC) ++ beBytes 2 (lim q.grD) ++ beBytes 2 txc ++ beBytes 4 f.seq ++
    beBytes 4 (if ackv then q.rxSeq else 0) ++ beBytes 8 f.opid ++ beBytes 4 f.cmdseq ++ beBytes 4 f.devaddr ++ beBytes 4 f.count ++
    beBytes 1 f.kind ++ beBytes 1 f.devop ++ beBytes 1 f.cflags ++ beBytes 1 0 ++ beBytes 4 0 ++ beBytes 8 f.param
  let body := head ++ qct ++ f.payload
  body ++ (Config.standard "IEEE 802.3 FCS" [body]).take 4

/-- A frame leaves; whatever it is, it carries the acknowledgement (14 R382). -/
def transmit (port node : Nat) (f : TxFrame) (txc : Nat) (s : State) : State :=
  let k := skey port node
  let o := frameOctets s port node (sessAt s k) f txc
  modSess k (fun q => { q with usedAt := s.stamp, toAck := if f.ty = 1 then q.toAck else 0 })
    (bwAdd 0x9301 port (if flag (obj s 0x7010 port) 15 then 86 + f.payload.length else 82 + f.payload.length) (emit (.eth port o) s))

/-- An unsequenced frame of a TYPE. -/
def sendPlain (port node ty : Nat) (s : State) : State := transmit port node { ty := ty } 0 s

/-- The last frame of a command was sent for the first time: its response timer starts (13 R369). -/
def startTimer (f : TxFrame) (s : State) : State :=
  if f.last ∧ f.n = 0 then
    modRec f.opid (fun r => if r.cmdseq = f.cmdseq then
      { r with cmd := r.cmd.map (fun c => if c.timer.isNone then { c with timer := some (s.stamp + (if c.tmo = 0 then objN s 0x6120 1 else c.tmo)) } else c) } else r) s
  else s

/-- Send the next waiting frame if its class has credit. -/
def sendOne (port node : Nat) (s : State) : Option State :=
  let k := skey port node
  let q := sessAt s k
  let go (f : TxFrame) (again : Bool) : Option State :=
    if ¬ hasCredit q (dataClass f.ty) then none
    else
      let txc := ((if dataClass f.ty then q.txcD else q.txcC) + 1) % 2 ^ 16
      let f' := { f with seq := if again then f.seq else q.txSeq, at_ := s.stamp + qctRto s, n := f.n + 1 }
      let s := modSess k (fun q => { q with
        txcC := if dataClass f.ty then q.txcC else txc
        txcD := if dataClass f.ty then txc else q.txcD
        txSeq := if again then q.txSeq else (q.txSeq + 1) % 2 ^ 32
        resend := if again then q.resend.tail else q.resend
        queue := if again then q.queue else q.queue.tail
        unacked := q.unacked ++ [f'] }) s
      let s := if again then bumpObj 0x9510 port 32 1 s else s
      some (startTimer f (transmit port node f' txc s))
  match q.st, q.resend, q.queue with
  | .open, f :: _, _ => go f true
  | .open, [], f :: _ => go f false
  | _, _, _ => none

/-- Send waiting frames while they have credit. -/
def sendAllN (port node : Nat) : Nat → State → State
  | 0, s => s
  | n + 1, s => match sendOne port node s with
    | some s => sendAllN port node n s
    | none => s

/-- Send waiting frames while they have credit. -/
def sendAll (port node : Nat) (s : State) : State :=
  let q := sessAt s (skey port node)
  sendAllN port node (q.resend.length + q.queue.length) s

/-- Resend every unacknowledged frame in order, each under a fresh credit (14 R383). -/
def goBack (port node : Nat) (s : State) : State :=
  sendAll port node (modSess (skey port node) (fun q => { q with resend := q.unacked ++ q.resend, unacked := [] }) s)

/-! ## Sessions (14 R379) -/

/-- A session is idle: no unfinished command and no unacknowledged frame. -/
def sessIdle (s : State) (k : Nat) : Bool :=
  let q := sessAt s k
  q.unacked.isEmpty && q.resend.isEmpty && q.queue.isEmpty &&
    !(s.journal.any (fun r => match r.cmd with | some c => decide (skey c.port c.node = k) | none => false))

/-- The session of a port that has been idle longest. -/
def idlest (s : State) (port : Nat) : Option Nat :=
  ((portSessions s port).filter (sessIdle s)).foldl (fun (b : Option Nat) k =>
    match b with
    | none => some k
    | some j => if (sessAt s k).usedAt < (sessAt s j).usedAt then some k else some j) none

/-- Send OPEN (14 Table 14.7): the initial sequence number is the SGN9's own choice (log 2). -/
def openSession (port node : Nat) (s : State) : State :=
  let k := skey port node
  let f := takeFree s
  let n := ((sessAt s k).sess + 1) % 2 ^ 16
  let seq := f.1 % 2 ^ 32
  let s := modSess k (fun _ => { st := .opening, sess := if n = 0 then 1 else n, txSeq := seq, sends := 1, sentAt := s.stamp + qctRto s, heardAt := s.stamp + qctKeep s }) f.2
  transmit port node { ty := 1, seq := seq, opid := s.runId } 0 s

/-- A command needs the session: the new state, and false when the far endpoint is unreachable (14 R379, R380). -/
def needSession (port node : Nat) (s : State) : Bool × State :=
  let k := skey port node
  if ¬ nodeOk s ∨ ¬ portLink s port then (false, s)
  else match (sessAt s k).st with
    | .open => (true, s)
    | .opening => (true, s)
    | _ =>
      if (portSessions s port).length < 256 then (true, openSession port node s)
      else match idlest s port with
        | none => (false, s)
        | some j =>
          let s := sendPlain port (j % 2 ^ 32) 0xB s
          (true, openSession port node (modSess j (fun q => { sess := q.sess }) s))

/-- Put a frame behind those that wait, and send what has credit. -/
def queueFrame (port node : Nat) (f : TxFrame) (s : State) : State :=
  sendAll port node (modSess (skey port node) (fun q => { q with queue := q.queue ++ [f] }) s)

/-! ## Receive buffers and credits (14 R384-R386) -/

/-- Shared buffers of a port that are neither in use nor behind a grant. -/
def sharedFree (s : State) (port : Nat) : Nat :=
  let granted := ((portSessions s port).map (fun k => let q := sessAt s k
    (q.bufC ++ q.bufD).countP (fun r => !r))).foldl (· + ·) 0
  (portAt s port).rxbuf - 2 - (portAt s port).used.count .shared - granted

/-- Whether the reserved buffer of a class is free. -/
def reservedFree (s : State) (port : Nat) (d : Bool) : Bool :=
  !((portAt s port).used.contains (if d then .resD else .resC)) &&
  (portSessions s port).all (fun k => let q := sessAt s k
    !((if d then q.bufD else q.bufC).contains true))

/-- Sessions that show WANT, as node × 2 + class, in round-robin order after the last grant. -/
def wanting (s : State) (port : Nat) : List Nat :=
  let all := (portSessions s port).flatMap (fun k => let q := sessAt s k
    (if q.st = .open ∧ q.wantC then [k % 2 ^ 32 * 2] else []) ++ (if q.st = .open ∧ q.wantD then [k % 2 ^ 32 * 2 + 1] else []))
  all.filter (fun x => decide ((portAt s port).rr < x)) ++ all.filter (fun x => decide (x ≤ (portAt s port).rr))

/-- Grant one buffer to a session and class, and tell it. -/
def grantTo (port x : Nat) (res : Bool) (s : State) : State :=
  let d := decide (x % 2 = 1)
  let s := modSess (skey port (x / 2)) (fun q =>
    if d then { q with grD := (q.grD + 1) % 2 ^ 16, bufD := q.bufD ++ [res] } else { q with grC := (q.grC + 1) % 2 ^ 16, bufC := q.bufC ++ [res] }) s
  sendPlain port (x / 2) 8 (modPort port (fun p => { p with rr := x }) s)

/-- Grant what is free: shared buffers round robin, a reserved one to a session without credit in its class (14 R386). -/
def grantN (port : Nat) : Nat → State → State
  | 0, s => s
  | n + 1, s =>
    let ws := wanting s port
    if 0 < sharedFree s port then
      match ws with
      | x :: _ => grantN port n (grantTo port x false s)
      | [] => s
    else
      match ws.find? (fun x => let d := decide (x % 2 = 1)
          let q := sessAt s (skey port (x / 2))
          reservedFree s port d && (if d then q.bufD else q.bufC).isEmpty) with
      | some x => grantN port n (grantTo port x true s)
      | none => s

/-- Grant what is free at a port. -/
def grantPort (port : Nat) (s : State) : State := grantN port ((portAt s port).rxbuf + 2) s

/-- Count a discarded frame: 0 FCS, 1 address, tag or EtherType, 2 header or session, 3 beyond credit (20 Table 20.7). -/
def discardCount (port i : Nat) (s : State) : State :=
  let hi := 63 - 16 * i
  setObjFld 0x9500 port hi (hi - 15) (min 0xFFFF (fld (obj s 0x9500 port) hi (hi - 15) + 1)) s

/-- The check of a received frame (14 R378): why it is discarded. -/
def frameCheck (s : State) (port : Nat) (f : QctFrame) : Option Nat :=
  let cfg := obj s 0x7010 port
  let q := sessAt s (skey port f.src)
  if ¬ f.fcsOk then some 0
  else if (f.dmac ≠ objN s 0x7030 port ∧ f.ty ≠ 2) ∨ (if flag cfg 15 then decide (f.vid ≠ some (fld cfg 27 16)) else f.vid.isSome) = true ∨
      f.etype ≠ objN s 0x7000 2 then some 1
  else if f.ver ≠ 1 ∨ f.ty = 0 ∨ 0xB < f.ty ∨ ¬ f.lenOk ∨ f.dst ≠ objN s 0x7000 1 ∨ ¬ (q.st = .opening ∨ q.st = .open) ∨ q.sess ≠ f.sess ∨
      (q.st = .open ∧ f.smac ≠ q.mac) ∨ f.ty = 1 ∨ f.ty = 3 ∨ f.ty = 6 ∨ f.ty = 7 ∨ f.ty = 0xA then some 2
  else none

/-- Frames that an ACK covers leave the sender (14 R383). -/
def ackFrames (ack : Nat) (fs : List TxFrame) : List TxFrame :=
  fs.filter (fun f => decide ((f.seq + 2 ^ 32 - ack) % 2 ^ 32 < 2 ^ 31))

/-- What every frame of TYPE 0x3 to 0xB carries: acknowledgement, credit limits and WANT bits. -/
def takeHeader (port : Nat) (f : QctFrame) (s : State) : State :=
  let k := skey port f.src
  modSess k (fun q => { q with
    unacked := if f.ackv then ackFrames f.ack q.unacked else q.unacked
    resend := if f.ackv then ackFrames f.ack q.resend else q.resend
    crC := f.crlimC
    crD := f.crlimD
    wantC := f.wantC
    wantD := f.wantD
    heardAt := s.stamp + qctKeep s
    probing := false }) s

/-- How a sequenced frame stands. -/
inductive SeqEnd where
  | accepted
  | dropped
deriving DecidableEq, Repr

/-- A sequenced frame takes its buffer and is judged by SEQ (14 R382, R386). -/
def takeSequenced (port : Nat) (f : QctFrame) (s : State) : SeqEnd × State :=
  let k := skey port f.src
  let q := sessAt s k
  let d := dataClass f.ty
  let bufs := if d then q.bufD else q.bufC
  let n := (f.txc + 2 ^ 16 - (if d then q.rxcD else q.rxcC)) % 2 ^ 16
  if n = 0 ∨ bufs.length < n then (.dropped, discardCount port 3 s)
  else
    let res := bufs.getD (n - 1) false
    let s := modSess k (fun q => if d then { q with rxcD := f.txc % 2 ^ 16, bufD := q.bufD.drop n } else { q with rxcC := f.txc % 2 ^ 16, bufC := q.bufC.drop n }) s
    if f.seq = q.rxSeq then
      let s := modPort port (fun p => { p with used := p.used ++ [if res then (if d then .resD else .resC) else .shared] }) s
      let s := modSess k (fun q => { q with rxSeq := (q.rxSeq + 1) % 2 ^ 32, toAck := q.toAck + 1, toAckAt := if q.toAck = 0 then s.stamp else q.toAckAt }) s
      (.accepted, if 16 ≤ (sessAt s k).toAck then sendPlain port f.src 8 s else s)
    else if (q.rxSeq + 2 ^ 32 - f.seq) % 2 ^ 32 < 2 ^ 31 then (.dropped, sendPlain port f.src 8 s)
    else
      let again := match q.nak with | some (v, t) => decide (v = q.rxSeq ∧ s.stamp < t) | none => false
      (.dropped, if again then s else sendPlain port f.src 9 (modSess k (fun q => { q with nak := some (q.rxSeq, s.stamp + qctRto s) }) s))

/-- Receive a frame up to its TYPE: the checks, the header and what follows from both. -/
def receive (port : Nat) (f : QctFrame) (s : State) : Option State :=
  let s := bwAdd 0x9300 port ((if f.vid.isSome then 86 else 82) + f.payload.length) s
  match frameCheck s port f with
  | some _ => none
  | none => some (grantPort port (sendAll port f.src (takeHeader port f s)))

/-- A frame that a check discards is counted. -/
def discard (port : Nat) (f : QctFrame) (s : State) : State :=
  let s := bwAdd 0x9300 port ((if f.vid.isSome then 86 else 82) + f.payload.length) s
  match frameCheck s port f with
  | some i => discardCount port i s
  | none => s

end Sys2Proof.Machine
end

