-- ==== Sys2Proof/Machine/Channel.lean ====
section
/-! DEFINITION. The channel subsystem (13): subchannels, paths, channel programs, the journal, redrive and completion. -/

namespace Sys2Proof.Machine
open Sys2Proof

/-! ## Subchannels and paths (13 R347-R350) -/

/-- SUBCH_BASE and SUBCH_COUNT of an enclosure (12 Table 12.5). -/
def subBase (s : State) (e : Nat) : Nat := fld (obj s 0x3400 e) 31 0
def subCount (s : State) (e : Nat) : Nat := fld (obj s 0x3400 e) 63 32

/-- The engine of a subchannel (13 R361). -/
def subEngine (s : State) (subch : Nat) : Nat := objN s 0x6200 (subch % 64)

/-- A field of a descriptor, entry or description. -/
def dfld (d : List Byte) (off n : Nat) : Nat := leNat ((d.drop off).take n)

/-- The port and node of an operation's current path. -/
def recPort (s : State) (r : JRec) : Nat := match (subAt s r.subch).desc with | some d => d.ports.getD r.path 0xFF | none => 0xFF
def recNode (s : State) (r : JRec) : Nat := match (subAt s r.subch).desc with | some d => d.nodes.getD r.path 0 | none => 0

/-- The usable paths of a subchannel under a PATHMASK and a failed-path mask (13 R348). -/
def usablePaths (s : State) (subch mask failed : Nat) : List Nat :=
  match (subAt s subch).desc with
  | none => []
  | some d => (List.range d.ports.length).filter (fun i =>
      portLink s (d.ports.getD i 0xFF) && (decide (mask = 0) || mask.testBit i) && !failed.testBit i &&
        decide (mGet 0 (subAt s subch).failedAt i ≤ s.stamp))

/-- Operations in flight on a port. -/
def inFlight (s : State) (port : Nat) : Nat := (s.journal.filter (fun r => decide (r.st = .active) && decide (recPort s r = port))).length

/-- The path an engine chooses (13 R349): own I/O die, fewest operations in flight, lowest number. -/
def choosePath (s : State) (engine subch mask failed : Nat) : Option Nat :=
  let port (i : Nat) : Nat := match (subAt s subch).desc with | some d => d.ports.getD i 0xFF | none => 0xFF
  let key (i : Nat) : Nat := (if port i / 72 = engine / 32 then 0 else 2 ^ 40) + inFlight s (port i) * 16 + i
  (usablePaths s subch mask failed).foldl (fun (b : Option Nat) i =>
    match b with
    | none => some i
    | some j => if key i < key j then some i else some j) none

/-- A description read by CLEAR (13 Table 13.13); none when it is rejected. -/
def descOf (s : State) (e : Nat) (d : List Byte) : Option Desc :=
  let n := dfld d 0 1
  let ports := (List.range 8).map (fun i => dfld d (4 + 2 * i) 2)
  if dfld d 1 1 ≠ 1 ∨ n = 0 ∨ 8 < n ∨ dfld d 2 2 ≠ 0 ∨ dfld d 0x38 8 ≠ 0 ∨ (ports.drop n).any (fun p => decide (p ≠ 0)) ∨
      (ports.take n).any (fun p => decide (144 ≤ p) || decide (objN s 0x3300 p ≠ e)) then none
  else some ⟨ports.take n, (List.range n).map (fun i => dfld d (0x14 + 4 * i) 4), dfld d 0x34 4⟩

/-- Load a subchannel's description (13 R347): whether it was accepted. -/
def loadDesc (e subch : Nat) (s : State) : Bool × State :=
  if s.dram.csaGiB = 0 then (false, modSub subch (fun b => { b with desc := none }) s)
  else
    let pa := fld (chnOf s e).sdt 51 6 * 64 + 64 * (subch - subBase s e)
    match physRead (272 + subEngine s subch) 0x07 e pa 64 s with
    | (.error _, s) => (false, modSub subch (fun b => { b with desc := none }) s)
    | (.ok d, s) =>
      match descOf s e d with
      | none => (false, modSub subch (fun b => { b with desc := none }) s)
      | some x => (true, modSub subch (fun b => { b with desc := some x, failedAt := [] }) s)

/-- A CLEAR's own effect once no operation is left: the description and its COMP (13 Table 13.16). -/
def clearDone (k tag subch : Nat) (s : State) : State :=
  let r := loadDesc (qkEncl k) subch s
  compFor k tag subch 0x22 (if r.1 then 0x00 else 0x0E) 0 r.2

/-! ## The channel state area (13 Tables 13.1, 13.17) -/

/-- STATE of a journal record. -/
def recCode : RecState → Nat
  | .active => 1
  | .suspended => 2
  | .ending => 3
  | .ended => 4

/-- A journal record's 64 octets (13 Table 13.17). -/
def journalOctets (r : JRec) : List Byte :=
  leBytes 8 r.stamp ++ leBytes 8 r.opid ++ leBytes 4 r.subch ++ leBytes 1 r.encl ++ leBytes 1 (recCode r.st) ++ leBytes 2 (qkSlot r.qkey) ++
  leBytes 2 r.tag ++ leBytes 1 r.status ++ leBytes 1 r.attempts ++ leBytes 1 r.path ++ leBytes 1 r.failed ++ leBytes 2 r.engine ++
  leBytes 8 r.ckpt.toNat ++ leBytes 4 r.cmdseq ++ leBytes 4 r.resid ++ leBytes 8 r.deadline ++ leBytes 4 (r.cqslot.getD 0xFFFFFFFF) ++ leBytes 4 0

/-- The channel state area (11 R275). -/
def csaBase (s : State) : Nat := s.socket * 2 ^ 48 + mappedGiB s * 2 ^ 30

/-- Where a record stands in the journal (13 Table 13.1). -/
def journalPa (s : State) (engine slot : Nat) : Nat := csaBase s + 0x4000000 + 64 * (4096 * engine + slot)

/-- The octets of a place of the journal, as the device units that reach it read them: those of its record, or a FREE one's. -/
def journalAt (s : State) (engine slot : Nat) : List Byte :=
  match s.journal.find? (fun r => decide (r.engine = engine ∧ r.slot = slot)) with
  | some r => journalOctets r
  | none => List.replicate 64 0

/-! ## Ending an operation (13 R363, R367) -/

/-- The COMP of a START (13 Tables 13.7, 13.8). -/
def startComp (s : State) (r : JRec) : CqEntry :=
  let rep := feature s r.encl 8
  ⟨compOctets s.stamp r.subch 0 r.tag r.status (if rep ∧ r.attempts ≠ 0 then 1 else 0) (r.lastSeq * 2 ^ 32 + r.resid)
    (if r.status = 1 then r.devstat else 0) r.lastPort (if rep then r.attempts else 0) 0x11, some r.opid⟩

/-- An ENDING operation whose cancel is complete writes its COMP; the subchannel is IDLE, then HALT and CLEAR complete (13 R340). -/
def finishEnding (opid : Nat) (s : State) : State :=
  match recOf s opid with
  | none => s
  | some r =>
    let b := subAt s r.subch
    if r.st = .ending ∧ r.cancel.isNone ∧ b.opid = some opid then
      let s := match b.notice with
        | some n => cqPush r.qkey (noticeEntry s r n) (modQueue r.qkey (fun q => { q with owed := q.owed + 1 }) s)
        | none => s
      let s := cqPush r.qkey (startComp s r) s
      let s := b.halts.foldl (fun s h => compFor h.1 h.2 r.subch 0x21 0x0A 0 s) s
      let s := modSub r.subch (fun b => { b with st := .idle, opid := none, halts := [], notice := none }) s
      r.clears.foldl (fun s h => clearDone h.1 h.2 r.subch s) s
    else s

/-- The engine decides an operation's end. -/
def endOp (opid status : Nat) (s : State) : State :=
  modRec opid (fun r => if (r.st = .active ∨ r.st = .suspended) ∧ r.fin.isNone then { r with fin := some status } else r) s

/-! ## Commands in progress (14 R393) -/

/-- Whether a session's queue still holds the CMD of a command. -/
def cmdUnsent (q : Sess) (opid cmdseq : Nat) : Bool := q.queue.any (fun f => decide (f.ty = 3 ∧ f.opid = opid ∧ f.cmdseq = cmdseq))

/-- A command's frames that were never sent leave the session's queue. -/
def dropFrames (port node opid cmdseq : Nat) (s : State) : State :=
  modSess (skey port node) (fun q => { q with queue := q.queue.filter (fun f => !decide (f.opid = opid ∧ f.cmdseq = cmdseq ∧ (f.ty = 3 ∨ f.ty = 4))) }) s

/-- Cancel the command in progress at the far end when it has sent anything. -/
def cancelCmd (opid : Nat) (s : State) : State :=
  match recOf s opid with
  | none => s
  | some r =>
    match r.cmd with
    | none => s
    | some c =>
      let q := sessAt s (skey c.port c.node)
      let told := decide (q.st = .open) && !cmdUnsent q opid r.cmdseq
      let s := dropFrames c.port c.node opid r.cmdseq s
      let tmo := if c.tmo = 0 then objN s 0x6120 1 else c.tmo
      let s := modRec opid (fun r => { r with
        cmd := none
        redo := false
        cancel := if told then some ⟨r.cmdseq, c.port, c.node, s.stamp + tmo⟩ else r.cancel }) s
      if told then queueFrame c.port c.node { ty := 6, opid := opid, cmdseq := r.cmdseq } s else s

/-- An operation's cancel is complete. -/
def cancelDone (opid : Nat) (s : State) : State := finishEnding opid (modRec opid (fun r => { r with cancel := none }) s)

/-- The operation ends with a status, its command in progress cancelled. -/
def endCancel (opid status : Nat) (s : State) : State := endOp opid status (cancelCmd opid s)

/-! ## Suspending and ending (13 R354, R356, R357, R359, R363) -/

/-- An engine turns to an operation of an enclosure: its I/O translations are of that enclosure's stream (03 Table 3.14, 07 R189). -/
def engineWorks (n e : Nat) (s : State) : State := modCpu (.prv n) (fun c => { c with stream := some e }) s

/-- An operation of an engine is over or rests: the engine works on the oldest it still runs. -/
def engineRests (n : Nat) (s : State) : State :=
  modCpu (.prv n) (fun c => { c with
    stream := (s.journal.find? (fun r => decide (r.engine = n ∧ r.st = .active) && r.fin.isNone)).map (·.encl)
    opFail := false }) s

/-- The operation is SUSPENDED at its checkpoint; HALTs complete OK. -/
def suspend (opid : Nat) (s : State) : State :=
  match recOf s opid with
  | none => s
  | some r =>
    let hs := (subAt s r.subch).halts
    let s := modRec opid (fun r => { r with st := .suspended, deadline := r.deadline - s.stamp }) s
    let s := modSub r.subch (fun b => { b with st := .suspended, halts := [] }) s
    engineRests r.engine (hs.foldl (fun s h => compFor h.1 h.2 r.subch 0x21 0x00 0 s) s)

/-- The swap to ENDING with the status decided (13 R363); the command in progress of an operation that a failed translation of its engine ends
is cancelled (13 R360). -/
def swapEnding (opid : Nat) (s : State) : State :=
  match recOf s opid with
  | none => s
  | some r =>
    match r.fin with
    | some x =>
      if r.st = .active ∨ r.st = .suspended then
        finishEnding opid (engineRests r.engine (modRec opid (fun r => { r with st := .ending, status := x }) (cancelCmd opid s)))
      else finishEnding opid s
    | none => s

/-- In HALTING with no command in progress the operation suspends (13 R356). -/
def haltCheck (opid : Nat) (s : State) : State :=
  match recOf s opid with
  | none => s
  | some r => if (subAt s r.subch).st = .halting ∧ r.st = .active ∧ r.cmd.isNone ∧ r.fin.isNone then suspend opid s else s

/-- A POIS word met in a descriptor or in data (13 R359). -/
def dataCheck (opid : Nat) (va : Word) (s : State) : State :=
  match recOf s opid with
  | none => s
  | some r => putNotice r.subch 0x04 va.toNat (suspend opid (cancelCmd opid s))

/-! ## Redrive (13 R350, R364) -/

/-- Redrive a record (13 R364). -/
def redrive (opid : Nat) (s : State) : State :=
  match recOf s opid with
  | none => s
  | some r =>
    if r.st = .ending then finishEnding opid s
    else if r.st ≠ .active ∨ r.fin.isSome then s
    else
      let s := modRec opid (fun r => { r with attempts := r.attempts + 1 }) s
      if objN s 0x6120 2 < r.attempts + 1 then endOp opid 6 s
      else match choosePath s r.engine r.subch r.pathmask r.failed with
        | none => endOp opid 6 s
        | some p => modRec opid (fun r => { r with path := p }) s

/-- The command in progress is to be sent anew. -/
def again (opid : Nat) (s : State) : State :=
  match recOf s opid with
  | none => s
  | some r =>
    match r.cmd with
    | none => s
    | some c => modRec opid (fun r => { r with redo := true, cmd := some { c with timer := none } }) (dropFrames c.port c.node opid r.cmdseq s)

/-- The current path fails for an operation (13 R350). -/
def pathFail (opid : Nat) (s : State) : State :=
  match recOf s opid with
  | none => s
  | some r =>
    if r.st = .active ∨ r.st = .suspended then
      let s := again opid s
      let s := modRec opid (fun x => { x with failed := x.failed ||| 2 ^ r.path }) s
      let s := modSub r.subch (fun b => { b with failedAt := mPut 0 b.failedAt r.path (s.stamp + objN s 0x6120 3) }) s
      redrive opid s
    else s

/-- A session fails (14 Table 14.7). -/
def sessFail (port node : Nat) (s : State) : State :=
  let k := skey port node
  if (sessAt s k).st = .opening ∨ (sessAt s k).st = .open then
    let s := modSess k (fun q => { st := .failed, sess := q.sess, mac := q.mac }) s
    let s := (s.journal.filter (fun r => !r.redo && (match r.cmd with | some c => decide (skey c.port c.node = k) | none => false))).foldl
      (fun s r => pathFail r.opid s) s
    let s := (s.journal.filter (fun r => match r.cancel with | some c => decide (skey c.port c.node = k) | none => false)).foldl
      (fun s r => cancelDone r.opid s) s
    grantPort port s
  else s

/-- The link of a port goes down (14 R376, 13 R350). -/
def linkGone (p : Nat) (s : State) : State :=
  let w := obj s 0x7020 p
  let s := if flag w 8 then raiseBits 0x7020 p 0x200 (setObj 0x7020 p (setFld (setBit (setBit w 8 false) 9 true) 3 0 0) s) else s
  let s := (portSessions s p).foldl (fun s k => sessFail p (k % 2 ^ 32) s) s
  (s.journal.filter (fun r => decide (r.st ≠ .ended) && decide (recPort s r = p) && !r.failed.testBit r.path)).foldl (fun s r => pathFail r.opid s) s

/-! ## Operations of submission entries (13 Table 13.16) -/

/-- The lowest place of an engine's journal ring that holds no record (13 Table 13.1, log 108). -/
def freeRecord (s : State) (n : Nat) : Nat :=
  ((List.range 4096).find? (fun k => !(s.journal.any (fun r => decide (r.engine = n ∧ r.slot = k))))).getD 4095

/-- START (13 R355, R362). -/
def opStart (w : SubEntry) (s : State) : State :=
  let b := subAt s w.subch
  let eng := subEngine s w.subch
  if b.opid.isSome then compFor w.qkey w.tag w.subch w.op 0x09 0 s
  else match (if prvRuns s eng then choosePath s eng w.subch w.pathmask 0 else none) with
    | none => compFor w.qkey w.tag w.subch w.op 0x0C 0 s
    | some p =>
      let id := s.opidNext
      let r : JRec :=
        { stamp := s.stamp, slot := freeRecord s eng, opid := id, subch := w.subch, encl := w.encl, qkey := w.qkey, tag := w.tag, path := p, engine := eng,
          ckpt := w.program, deadline := s.stamp + (if w.tmo = 0 then objN s 0x6120 4 else w.tmo), pathmask := w.pathmask }
      modSub w.subch (fun b => { b with st := .active, opid := some id, halts := [], notice := none })
        { s with journal := s.journal ++ [r], opidNext := (id + 1) % 2 ^ 64 }

/-- The operation of a subchannel, after a decided end has been swapped in. -/
def settled (subch : Nat) (s : State) : State :=
  match (subAt s subch).opid with
  | some id => swapEnding id s
  | none => s

/-- RESUME. -/
def opResume (w : SubEntry) (s : State) : State :=
  let s := settled w.subch s
  let b := subAt s w.subch
  match b.opid.bind (recOf s) with
  | none => compFor w.qkey w.tag w.subch w.op 0x0A 0 s
  | some r =>
    if r.st ≠ .suspended then compFor w.qkey w.tag w.subch w.op 0x0B 0 s
    else
      let s := modRec r.opid (fun r => { r with st := .active, deadline := r.deadline + s.stamp }) s
      let s := modSub w.subch (fun b => { b with st := .active }) s
      let s := compFor w.qkey w.tag w.subch w.op 0x00 0 s
      if r.failed.testBit r.path then redrive r.opid s else s

/-- HALT. -/
def opHalt (w : SubEntry) (s : State) : State :=
  let s := settled w.subch s
  let b := subAt s w.subch
  match b.opid.bind (recOf s) with
  | none => compFor w.qkey w.tag w.subch w.op 0x0A 0 s
  | some r =>
    if r.st = .suspended then compFor w.qkey w.tag w.subch w.op 0x00 0 s
    else haltCheck r.opid (modSub w.subch (fun b => { b with st := .halting, halts := b.halts ++ [(w.qkey, w.tag)] }) s)

/-- CLEAR. -/
def opClear (w : SubEntry) (s : State) : State :=
  let s := settled w.subch s
  match (subAt s w.subch).opid.bind (recOf s) with
  | none => clearDone w.qkey w.tag w.subch s
  | some r =>
    let s := modRec r.opid (fun r => { r with clears := r.clears ++ [(w.qkey, w.tag)] }) s
    swapEnding r.opid (endCancel r.opid 0x07 s)

/-- TEST: INFO of Table 13.8. -/
def opTest (w : SubEntry) (s : State) : State :=
  let s := settled w.subch s
  let b := subAt s w.subch
  let r := b.opid.bind (recOf s)
  let bits (l : List Nat) : Nat := l.foldl (fun a i => a + 2 ^ i) 0
  let failed := (List.range 8).filter (fun i => decide (s.stamp < mGet 0 b.failedAt i))
  let usable := usablePaths s w.subch ((r.map (·.pathmask)).getD 0) ((r.map (·.failed)).getD 0)
  let st := match b.st with | .idle => 0 | .active => 1 | .halting => 2 | .suspended => 3
  compFor w.qkey w.tag w.subch w.op 0x00
    (((r.map (·.cmdseq)).getD 0) * 2 ^ 32 + bits failed * 2 ^ 16 + bits usable * 2 ^ 8 + (if b.desc.isSome then 4 else 0) + st) s

/-- Take the oldest waiting entry of a subchannel when it names the operation. -/
def takeWork (subch op : Nat) (f : SubEntry → State → State) (s : State) : State :=
  match s.work.find? (fun w => decide (w.subch = subch)) with
  | some w => if w.op = op then f w { s with work := s.work.erase w } else s
  | none => s

/-! ## Channel programs (13 R351, R352) -/

/-- What reading a descriptor gives: its address past a JUMP and its octets, a status to end with, or a POIS word. -/
inductive DescRead where
  | ok (a : Word) (d : List Byte)
  | bad (status : Nat)
  | pois (va : Word)
deriving DecidableEq, Repr

/-- Whether every octet of a range is 0. -/
def zeros (d : List Byte) (off n : Nat) : Bool := decide (dfld d off n = 0)

/-- One descriptor's octets. -/
def descAt (n e : Nat) (va : Word) (s : State) : DescRead × State :=
  match spanRead n e va 32 s with
  | (.ok d, s) => (.ok va d, s)
  | (.error .trans, s) => (.bad 0x03, s)
  | (.error .hndl, s) => (.bad 0x02, s)
  | (.error (.pois a), s) => (.pois a, s)

/-- The descriptor at an address, past a JUMP. -/
def readDesc (n e : Nat) (va : Word) (s : State) : DescRead × State :=
  match descAt n e va s with
  | (.ok _ d, s) =>
    if dfld d 0 1 ≠ 0x08 then (.ok va d, s)
    else if ¬ (zeros d 1 7 ∧ zeros d 0x10 16 ∧ dfld d 8 8 % 32 = 0) then (.bad 0x02, s)
    else match descAt n e (BitVec.ofNat 64 (dfld d 8 8)) s with
      | (.ok a d, s) => if dfld d 0 1 = 0x08 then (.bad 0x02, s) else (.ok a d, s)
      | r => r
  | r => r

/-- A valid STOP. -/
def stopOk (d : List Byte) : Bool := decide (dfld d 0 1 = 0x0F) && zeros d 1 31

/-- A valid command descriptor under an enclosure's features (13 R352, Tables 13.14, 13.15a). -/
def cmdOk (s : State) (e : Nat) (d : List Byte) : Bool :=
  let k := dfld d 0 1
  let fl := dfld d 2 2
  let tmo := dfld d 0x18 4
  let nseg := dfld d 0x1C 1
  (decide (k = 1) || decide (k = 2) || decide (k = 3)) && zeros d 0x1D 3 && decide (fl < 32) && decide (fl % 4 ≠ 3) &&
    (!fl.testBit 2 || decide (k = 2)) && (!fl.testBit 3 || feature s e 2) && (!fl.testBit 4 || feature s e 3) &&
    (decide (tmo = 0) || (feature s e 4 && decide (tmo ≤ 1000000))) &&
    (if k = 3 then zeros d 4 12 && decide (nseg = 0)
     else decide (1 ≤ dfld d 4 4) && decide (nseg ≤ 15) && (decide (nseg = 0) || feature s e 1))

/-- A valid SEG. -/
def segOk (d : List Byte) : Bool := decide (dfld d 0 1 = 0x04) && zeros d 1 3 && decide (1 ≤ dfld d 4 4) && zeros d 0x10 16

/-- Read the SEG descriptors of a command: the segments and the address behind them, or why not. -/
def readSegs (n e : Nat) : Nat → Word → List Seg → State → Except DescRead (List Seg × Word) × State
  | 0, va, acc, s => (.ok (acc, va), s)
  | k + 1, va, acc, s =>
    match readDesc n e va s with
    | (.ok a d, s) =>
      if segOk d then readSegs n e k (a + 32) (acc ++ [⟨BitVec.ofNat 64 (dfld d 8 8), dfld d 4 4⟩]) s else (.error (.bad 0x02), s)
    | (r, s) => (.error r, s)

/-- The octets of a WRITE's segments. -/
def readData (n e : Nat) (segs : List Seg) (s : State) : Except DmaErr (List Byte) × State :=
  segs.foldl (fun r g =>
    match r.1 with
    | .error x => (.error x, r.2)
    | .ok bs =>
      match spanRead n e g.va g.len r.2 with
      | (.ok b, s) => (.ok (bs ++ b), s)
      | (.error x, s) => (.error x, s)) (.ok [], s)

/-- The DATA frames of a WRITE (14 R390). -/
def dataFrames (opid cmdseq devaddr : Nat) : Nat → Nat → List Byte → List TxFrame
  | 0, _, _ => []
  | fuel + 1, off, bs =>
    if bs = [] then []
    else
      { ty := 4, opid := opid, cmdseq := cmdseq, devaddr := devaddr, count := off, payload := bs.take 8192, last := (bs.drop 8192).isEmpty } ::
        dataFrames opid cmdseq devaddr fuel (off + 8192) (bs.drop 8192)

/-- The far end cannot be reached, or the operation ends: what a failed read makes of an operation. -/
def readFail (opid : Nat) (r : DescRead) (s : State) : State :=
  match r with
  | .bad x => endCancel opid x s
  | .pois va => dataCheck opid va s
  | .ok _ _ => s

/-- Send one command of an operation over its path (14 R390). -/
def sendCommand (r : JRec) (a : Word) (d : List Byte) (segs : List Seg) (next : Word) (bs : List Byte) (s : State) : State :=
  let k := dfld d 0 1
  let port := recPort s r
  let node := recNode s r
  let dev := match (subAt s r.subch).desc with | some x => x.devaddr | none => 0
  let fl := dfld d 2 2
  match needSession port node s with
  | (false, s) => pathFail r.opid s
  | (true, s) =>
    let c : ChCmd :=
      { kind := k, len := fl % 4, drop := fl.testBit 2, segs := segs, next := next, port := port, node := node, tmo := 1600 * dfld d 0x18 4 }
    let s := modRec r.opid (fun x => { x with
      cmd := some c
      redo := false
      ckpt := a
      lastPort := port
      lastSeq := r.cmdseq
      nodes := if node ∈ x.nodes then x.nodes else x.nodes ++ [node] }) s
    let s := if fl.testBit 4 ∧ ¬ r.redo then putNotice r.subch 0x11 (r.cmdseq * 2 ^ 32 + 1) s else s
    let total := (segs.map (·.len)).foldl (· + ·) 0
    let cmd : TxFrame :=
      { ty := 3, opid := r.opid, cmdseq := r.cmdseq, devaddr := dev, count := total, kind := k, devop := dfld d 1 1, cflags := fl % 8,
        param := dfld d 0x10 8, last := decide (k ≠ 1) }
    let s := queueFrame port node cmd s
    (dataFrames r.opid r.cmdseq dev (bs.length / 8192 + 1) 0 bs).foldl (fun s f => queueFrame port node f s) s

/-- An operation is among the 256 its engine executes at a time (13 R361). -/
def executing (s : State) (r : JRec) : Bool :=
  decide (((s.journal.filter (fun x => decide (x.engine = r.engine ∧ x.st = .active))).takeWhile (fun x => decide (x.opid ≠ r.opid))).length < 256)

/-- The engine reads the next command of an operation and sends it (13 R351-R360, 14 R390). -/
def commandSend (opid : Nat) (s : State) : State :=
  match recOf s opid with
  | none => s
  | some r =>
    let b := subAt s r.subch
    if ¬ (r.st = .active ∧ r.fin.isNone ∧ r.cancel.isNone ∧ (r.cmd.isNone ∨ r.redo) ∧ (b.st = .active ∨ r.redo) ∧ executing s r ∧ prvRuns s r.engine) then s
    else match readDesc r.engine r.encl r.ckpt (engineWorks r.engine r.encl s) with
      | (.bad x, s) => endCancel opid x s
      | (.pois va, s) => dataCheck opid va s
      | (.ok a d, s) =>
        if stopOk d then endCancel opid 0x00 s
        else if ¬ cmdOk s r.encl d then endCancel opid 0x02 s
        else if (dfld d 2 2).testBit 3 then
          putNotice r.subch 0x10 a.toNat (suspend opid (modRec opid (fun x => { x with ckpt := a }) (cancelCmd opid s)))
        else
          match readSegs r.engine r.encl (dfld d 0x1C 1) (a + 32) [] s with
          | (.error x, s) => readFail opid x (modRec opid (fun x => { x with ckpt := a }) s)
          | (.ok (more, next), s) =>
            let segs := if dfld d 0 1 = 3 then [] else ⟨BitVec.ofNat 64 (dfld d 8 8), dfld d 4 4⟩ :: more
            if (if feature s r.encl 9 then 16777215 else 65536) < (segs.map (·.len)).foldl (· + ·) 0 then endCancel opid 0x02 s
            else if dfld d 0 1 ≠ 1 then sendCommand r a d segs next [] s
            else match readData r.engine r.encl segs s with
              | (.error (.pois va), s) => dataCheck opid va (modRec opid (fun x => { x with ckpt := a }) s)
              | (.error _, s) => endCancel opid 0x03 s
              | (.ok bs, s) => sendCommand r a d segs next bs s

/-! ## Frames from the far end (14 R391, R393) -/

/-- A late frame is counted and recorded (13 R368). -/
def lateFrame (port : Nat) (f : QctFrame) (s : State) : State :=
  let die (k : Nat) : Option Nat := ((List.range 32).map (fun i => 32 * k + i)).find? (prvRuns s)
  let who : Option Nat := match recOf s f.opid with
    | some r => some (if (prvOf s r.engine).failed then subEngine s r.subch else r.engine)
    | none => match die (port / 72) with | some n => some n | none => die (1 - port / 72)
  match who with
  | none => s
  | some n =>
    let s := setObjFld 0x6100 n 47 32 (min 0xFFFF (fld (obj s 0x6100 n) 47 32 + 1)) s
    report { stamp := 0, useq := 0, unit := 272 + n, cls := 0x0502, sev := 0, late := true,
             encl := (match recOf s f.opid with | some r => r.encl | none => 0x10), d0 := f.opid, d1 := f.cmdseq } s

/-- The operation whose command in progress a frame belongs to. -/
def frameRec (s : State) (f : QctFrame) : Option (JRec × ChCmd) :=
  match recOf s f.opid with
  | none => none
  | some r => match r.cmd with
    | some c => if r.st = .active ∧ r.fin.isNone ∧ r.cmdseq = f.cmdseq ∧ ¬ (prvOf s r.engine).failed then some (r, c) else none
    | none => none

/-- Write a READ's octets at an offset of its segments: false on a translation failure. -/
def writeSegs (n e : Nat) : List Seg → Nat → List Byte → State → Bool × State
  | [], _, _, s => (true, s)
  | g :: gs, off, bs, s =>
    if bs = [] then (true, s)
    else if g.len ≤ off then writeSegs n e gs (off - g.len) bs s
    else
      match spanWrite n e (g.va + BitVec.ofNat 64 off) (bs.take (g.len - off)) s with
      | (false, s) => (false, s)
      | (true, s) => writeSegs n e gs 0 (bs.drop (g.len - off)) s

/-- A DATA frame (14 R391). -/
def dataArrives (port : Nat) (f : QctFrame) (s : State) : State :=
  match frameRec s f with
  | none => lateFrame port f s
  | some (r, c) =>
    if c.kind ≠ 2 then lateFrame port f s
    else if c.drop then s
    else match writeSegs r.engine r.encl c.segs f.count f.payload s with
      | (true, s) => s
      | (false, s) => endCancel r.opid 0x03 s

/-- A command is finished: the checkpoint moves to what follows it (13 R353, R363). -/
def commandDone (r : JRec) (c : ChCmd) (diff : Nat) (s : State) : State :=
  let s := dropFrames c.port c.node r.opid r.cmdseq s
  let s := modRec r.opid (fun x => { x with cmd := none, redo := false, cmdseq := (x.cmdseq + 1) % 2 ^ 32, ckpt := c.next, resid := if c.kind = 3 then x.resid else diff }) s
  match readDesc r.engine r.encl c.next s with
  | (.ok a d, s) =>
    let s := modRec r.opid (fun x => { x with ckpt := a }) s
    if stopOk d then endOp r.opid 0x00 s else haltCheck r.opid s
  | (x, s) => if (subAt s r.subch).st = .halting then haltCheck r.opid s else readFail r.opid x s

/-- An RSP frame (14 R391, Table 14.9; 13 R353). -/
def rspArrives (port : Nat) (f : QctFrame) (s : State) : State :=
  let cancelled : Option JRec := (recOf s f.opid).filter (fun r => match r.cancel with
    | some c => decide (c.cmdseq = f.cmdseq ∧ c.port = port ∧ c.node = f.src) | none => false)
  match cancelled with
  | some r => cancelDone r.opid s
  | none =>
    match frameRec s f with
    | none => lateFrame port f s
    | some (r, c) =>
      let total := (c.segs.map (·.len)).foldl (· + ·) 0
      let diff := (total + 2 ^ 32 - f.count) % 2 ^ 32
      let stop (status dev : Nat) (s : State) : State :=
        endOp r.opid status (modRec r.opid (fun x => { x with
          cmd := none
          redo := false
          devstat := dev
          resid := if status = 0x0F ∧ c.kind ≠ 3 then diff else x.resid }) (dropFrames c.port c.node r.opid r.cmdseq s))
      if f.kind ≠ 0 then stop 0x01 f.devstat s
      else if (c.len = 0 ∧ f.count ≠ total) ∨ (c.len = 1 ∧ total < f.count) then stop 0x0F 0 s
      else commandDone r c diff s

/-! ## Engines (13 R365) -/

/-- An engine takes over one record of a failed engine. -/
def takeOver (n : Nat) (r : JRec) (s : State) : State :=
  let s := modRec r.opid (fun x => { x with engine := n, slot := freeRecord s n }) s
  if r.st = .active ∧ r.fin.isNone ∧ (subAt s r.subch).st = .halting then suspend r.opid (cancelCmd r.opid s)
  else if r.st = .active then redrive r.opid (again r.opid s)
  else redrive r.opid s

/-- An engine takes over every record of failed engines whose subchannels it now owns, in acceptance order. -/
def takeAll (n : Nat) (s : State) : State :=
  if ¬ prvRuns s n then s
  else (s.journal.filter (fun r => decide (r.engine ≠ n ∧ r.st ≠ .ended) && (prvOf s r.engine).failed && decide (subEngine s r.subch = n))).foldl
    (fun s r => takeOver n r s) s

/-! ## Reading submission entries (13 R336, R338) -/

/-- Journal records of an engine, with the STARTs already read for it. -/
def engineRecords (s : State) (n : Nat) : Nat :=
  (s.journal.filter (fun r => decide (r.engine = n))).length +
  (s.work.filter (fun w => decide (w.op = 0x11) && decide (subEngine s w.subch = n))).length

/-- A submission entry that R338 refuses. -/
def entryBad (s : State) (e : Nat) (d : List Byte) : Bool :=
  let op := dfld d 0 1
  let start := decide (op = 0x11)
  let sub := dfld d 4 4
  let prog := dfld d 8 8
  let tmo := dfld d 0x10 8
  let mask := dfld d 0x18 1
  !(start || decide (op = 0x12) || decide (op = 0x21) || decide (op = 0x22) || decide (op = 0x31)) ||
  !zeros d 1 1 || !zeros d 0x19 39 || decide (2 ^ 18 ≤ sub) ||
  (!start && (decide (prog ≠ 0) || decide (tmo ≠ 0) || decide (mask ≠ 0))) ||
  (start && (decide (prog % 32 ≠ 0) || (decide (tmo ≠ 0) && (!feature s e 4 || decide (tmo < 1600) || decide (2 ^ 40 < tmo))) ||
    (decide (mask ≠ 0) && !feature s e 5))) ||
  (decide (op = 0x12) && !feature s e 2) ||
  decide (sub % 2 ^ 18 < subBase s e) || decide (subBase s e + subCount s e ≤ sub % 2 ^ 18)

/-- Read one submission entry of a Privet queue; none while it is to wait. -/
def readEntry (k : Nat) (s : State) : Option State :=
  let q := queueAt s k
  let e := qkEncl k
  if ¬ flag q.cfg 63 ∨ q.sqHead = q.sqTail then none
  else
    let took (s : State) : State := modQueue k (fun q => { q with sqHead := (q.sqHead + 1) % sqLen q, owed := q.owed + 1 }) s
    let pa := fld q.sqBase 51 6 * 64 + 64 * q.sqHead
    match valueRead e pa 64 s with
    | (none, s) => some (compFor k 0 0 0 0x04 0 (took s))
    | (some d, s) =>
      let op := dfld d 0 1
      let tag := dfld d 2 2
      let sub := dfld d 4 4 % 2 ^ 18
      if op = 0x11 ∧ 4096 ≤ engineRecords s (subEngine s sub) then none
      else if entryBad s e d then some (compFor k tag sub op 0x0D 0 (took s))
      else
        let w : SubEntry :=
          { qkey := k, encl := e, op := op, tag := tag, subch := sub, program := BitVec.ofNat 64 (dfld d 8 8), tmo := dfld d 0x10 8, pathmask := dfld d 0x18 1 }
        let s := took s
        some { s with work := s.work ++ [w] }

/-- Read entries up to the tail. -/
def readEntries (k : Nat) : Nat → State → State
  | 0, s => s
  | n + 1, s => match readEntry k s with
    | some s => readEntries k n s
    | none => s

/-- Read every entry of a Privet queue that may be read. -/
def readQueue (k : Nat) (s : State) : State := readEntries k (sqLen (queueAt s k)) s

/-- Privet queues that wait with unread entries go on (13 R336). -/
def readWaiting (s : State) : State :=
  (s.queues.filter (fun q => decide (qkKind q.1 = 0) && flag q.2.cfg 63 && decide (q.2.sqHead ≠ q.2.sqTail))).foldl (fun s q => readQueue q.1 s) s

/-! ## Channel control (13 R344-R346) -/

/-- Every entry of an enclosure's Privet stream leaves the engines' translation caches (13 R345). -/
def dropPrivetStream (e : Nat) (s : State) : State :=
  (List.range 64).foldl (fun s n =>
    let t := ioTlbOf s (272 + n)
    setIoTlb (272 + n) { t with ents := psMap (fun x => decide (x.stream = e)) (fun _ => none) t.ents } s) s

/-- Every subchannel of an enclosure's range is IDLE with an empty description. -/
def idleSubs (e : Nat) (s : State) : State :=
  { s with subs := s.subs.filter (fun b => !decide (subBase s e ≤ b.1 ∧ b.1 < subBase s e + subCount s e)) }

/-- A FEATURES_OK request (13 R344). -/
def featuresReq (e : Nat) (s : State) : State :=
  let c := chnOf s e
  if c.ok then s
  else if flag c.drvLo 0 ∧ c.drvLo &&& ~~~(0x37F : Word) = 0 ∧ c.drvHi = 0 ∧
      (s.queues.all (fun q => !(decide (qkEncl q.1 = e) && q.2.active))) = true then
    dropPrivetStream e (idleSubs e (modChn e (fun c => { c with ok := true }) s))
  else modChn e (fun c => { c with fail := true }) s

/-- End one operation with RESET (13 R346 step 2); one in ENDING keeps its status and its entry is not written. -/
def resetOp (r : JRec) (s : State) : State :=
  let s := if r.st = .ending then s else cancelCmd r.opid s
  let status := if r.st = .ending then r.status else 8
  engineRests r.engine (recEnded r.opid 0xFFFFFFFF (modRec r.opid (fun x => { x with status := status, cancel := none, clears := [] }) s))

/-- The steps of a channel reset (13 R346). -/
def channelReset (e : Nat) (s : State) : State :=
  let stop (q : Queue) : Queue := { q with cfg := setBit q.cfg 63 false, active := false, owed := 0, waiting := [], unsig := 0 }
  let qs := (s.queues.filter (fun q => decide (qkKind q.1 = 0 ∧ qkEncl q.1 = e))).map (·.1)
  let s := qs.foldl (fun s k => modQueue k stop s) { s with work := s.work.filter (fun w => decide (w.encl ≠ e ∨ 2 ^ 20 ≤ w.qkey)) }
  let live := s.journal.filter (fun r => decide (r.encl = e ∧ r.st ≠ .ended))
  let n := (live.filter (fun r => decide (r.st ≠ .ending))).length
  let s := live.foldl (fun s r => resetOp r s) s
  idleSubs e (modChn e (fun c => { c with ok := false, resetEnded := n }) s)

/-- A store to CHN_CTL. -/
def chnCtl (e : Nat) (v : Word) (s : State) : State :=
  if flag v 1 then
    let s := channelReset e s
    if flag v 0 then modChn e (fun c => { c with fail := true }) s else s
  else if flag v 0 then featuresReq e s
  else s

/-! ## The doorbell unit's stores for Privet queues -/

/-- A store to SQ_TAIL of a Privet queue (13 R336). -/
def sqTail (k : Nat) (v : Word) (s : State) : State :=
  let q := queueAt s k
  if ¬ flag q.cfg 63 then s
  else if sqLen q ≤ v.toNat % 2 ^ 16 then modQueue k (fun q => { q with tailErr := true }) s
  else modQueue k (fun q => { q with sqTail := v.toNat % 2 ^ 16 }) s

/-- A store to CQ_HEAD (13 R336, Table 13.5): a value that passes CQ_TAIL has no effect. -/
def cqHead (k : Nat) (v : Word) (s : State) : State :=
  let q := queueAt s k
  let h := v.toNat % 2 ^ 16
  if ¬ q.active then s
  else if cqLen q ≤ h ∨ (q.cqTail + cqLen q - q.cqHead) % cqLen q < (h + cqLen q - q.cqHead) % cqLen q then
    modQueue k (fun q => { q with headErr := true }) s
  else ringSpace k (modQueue k (fun q => { q with cqHead := h }) s)

end Sys2Proof.Machine
end

