-- ==== Sys2Proof/Machine/Accel.lean ====
section
/-! DEFINITION. Laurel and Holly engines (15): dispatch, compression, cryptography, keys and random numbers. -/

namespace Sys2Proof.Machine
open Sys2Proof

/-! ## Engines and dispatch (15 R400, R404) -/

/-- The first unit of a kind: LAU0 or HOL0. -/
def unitBase (kind : Nat) : Nat := if kind = 1 then 336 else 344

/-- Whether an engine is running. -/
def accelRuns (s : State) (unit : Nat) : Bool := !(mGet false s.accel.failed unit)

/-- The descriptors of an engine. -/
def jobsOf (s : State) (unit : Nat) : List Job := s.accel.jobs.filter (fun j => decide (j.unit = unit))

/-- How many descriptors an engine of a kind holds: a Laurel engine one at work and 4 waiting, a Holly engine 32. -/
def capacity (kind : Nat) : Nat := if kind = 1 then 5 else 32

/-- The engine a descriptor is dispatched to: fewest in progress, lowest number. -/
def pickEngine (s : State) (kind : Nat) : Option Nat :=
  (((List.range 8).map (fun i => unitBase kind + i)).filter (fun u => accelRuns s u && decide ((jobsOf s u).length < capacity kind))).foldl
    (fun (b : Option Nat) u =>
      match b with
      | none => some u
      | some v => if (jobsOf s u).length < (jobsOf s v).length then some u else some v) none

/-- Whether any engine of a kind runs. -/
def anyEngine (s : State) (kind : Nat) : Bool := (List.range 8).any (fun i => accelRuns s (unitBase kind + i))

/-! ## Completion entries (15 Tables 15.6, 15.12b) -/

/-- A completion entry with its STAMP, TAG, STATUS, FLAGS and ENGINE, and 16 octets of its own. -/
def accelEntry (s : State) (j : Job) (tag status flags : Nat) (rest : List Byte) : CqEntry :=
  ⟨leBytes 8 s.stamp ++ leBytes 2 tag ++ leBytes 1 status ++ leBytes 1 (flags + (if j.rerun then 8 else 0)) ++ leBytes 1 (j.unit % 8) ++ leBytes 3 0 ++ rest, none⟩

/-- The tag of a descriptor. -/
def jobTag (j : Job) : Nat := dfld j.d 4 2

/-- A descriptor ends: it leaves its engine and its entry is written. -/
def jobEnd (j : Job) (x : CqEntry) (s : State) : State := cqPush j.qkey x { s with accel := { s.accel with jobs := s.accel.jobs.erase j } }

/-- A Laurel completion: OP stands in bits 7:4 of FLAGS. -/
def lauEnd (j : Job) (status flags used made crc adler : Nat) (s : State) : State :=
  jobEnd j (accelEntry s j (jobTag j) status (flags + 16 * (dfld j.d 0 1 % 16)) (leBytes 4 used ++ leBytes 4 made ++ leBytes 4 crc ++ leBytes 4 adler)) s

/-- A Holly completion. -/
def holEnd (j : Job) (status out aux : Nat) (s : State) : State :=
  jobEnd j (accelEntry s j (jobTag j) status 0 (leBytes 4 out ++ leBytes 4 aux ++ leBytes 8 0)) s

/-- A descriptor ends with a status and nothing written. -/
def jobFail (j : Job) (status : Nat) (s : State) : State :=
  if j.unit < 344 then lauEnd j status 0 0 0 0 0 s else holEnd j status 0 0 s

/-! ## Reading queues (15 R398, R400, R402) -/

/-- Operations of a kind that have a row. -/
def knownOp (kind op : Nat) : Bool :=
  if kind = 1 then decide (op = 1 ∨ op = 2)
  else [0x01, 0x02, 0x03, 0x04, 0x05, 0x08, 0x09, 0x0A, 0x10, 0x11, 0x12, 0x13, 0x14, 0x18, 0x19, 0x1A, 0x1B, 0x1C, 0x1D, 0x20].contains op

/-- Read and dispatch one descriptor of a Laurel or Holly queue; none while it is to wait. -/
def accelRead (k : Nat) (s : State) : Option State :=
  let q := queueAt s k
  let kind := qkKind k
  let e := qkEncl k
  let size := entrySize k
  if ¬ flag q.cfg 63 ∨ q.sqHead = q.sqTail then none
  else
    let took (s : State) : State := modQueue k (fun q => { q with sqHead := (q.sqHead + 1) % sqLen q, owed := q.owed + 1 }) s
    let pa := fld q.sqBase 51 6 * 64 + size * q.sqHead
    let eng := pickEngine s kind
    if eng.isNone ∧ anyEngine s kind then none
    else
      let u := eng.getD (unitBase kind)
      match valueRead e pa size s with
      | (none, s) =>
        let j : Job := { unit := u, qkey := k, d := [] }
        some (jobFail j 0x08 (took s))
      | (some d, s) =>
        let hs := (List.range (size / 8)).filter (fun i => decide (memTag s (pa + 8 * i) = .hndl))
        let j : Job := { unit := u, qkey := k, d := d, hndl := hs }
        if (dfld d 2 2).testBit 3 ∧ (q.waiting ≠ [] ∨ s.accel.jobs.any (fun x => decide (x.qkey = k)) = true) then none
        else if ¬ anyEngine s kind then some (jobFail j 0x11 (took s))
        else if ¬ knownOp kind (dfld d 0 1) ∨ hs.any (fun i => !(decide (kind = 2) && (decide (i = 1) || decide (i = 12)))) = true then
          some (jobFail j 0x0A (took s))
        else
          let s := took s
          some { s with accel := { s.accel with jobs := s.accel.jobs ++ [j] } }

/-- Read descriptors of a queue while they may be dispatched. -/
def accelReads (k : Nat) : Nat → State → State
  | 0, s => s
  | n + 1, s => match accelRead k s with
    | some s => accelReads k n s
    | none => s

/-- Every Laurel and Holly queue with unread entries goes on. -/
def accelGoOn (s : State) : State :=
  (s.queues.filter (fun q => decide (qkKind q.1 ≠ 0) && flag q.2.cfg 63 && decide (q.2.sqHead ≠ q.2.sqTail))).foldl
    (fun s q => accelReads q.1 (sqLen q.2) s) s

/-- Run a descriptor of an engine: a Laurel engine's oldest, a Holly engine's oldest of the operation. -/
def runJob (unit op : Nat) (f : Job → State → State) (s : State) : State :=
  let js := jobsOf s unit
  let j := if unit < 344 then js.head?.filter (fun j => decide (dfld j.d 0 1 = op)) else js.find? (fun j => decide (dfld j.d 0 1 = op))
  match j with
  | some j => accelGoOn (f j s)
  | none => s

/-! ## Memory of an engine (15 R399, R402, R403) -/

/-- The enclosure of a descriptor. -/
def jobEncl (j : Job) : Nat := qkEncl j.qkey

/-- Read octets for a descriptor: the octets, or the status it ends with. -/
def jobRead (j : Job) (pa n : Nat) (s : State) : Except Nat (List Byte) × State :=
  if n = 0 then (.ok [], s)
  else if 2 ^ 52 ≤ pa + n - 1 then (.error 0x09, s)
  else match physRead j.unit 0x09 (jobEncl j) pa n s with
    | (.ok b, s) => (.ok b, s)
    | (.error (.pois _), s) => (.error 0x08, s)
    | (.error _, s) => (.error 0x09, s)

/-- Whether a span lies in granules the enclosure owns. -/
def jobOwns (s : State) (j : Job) (pa n : Nat) : Bool :=
  decide (n = 0) || (decide (pa + n ≤ 2 ^ 52) && (List.range (n / 2 ^ 30 + 2)).all (fun i => decide (placeOf s (jobEncl j) (min (pa + i * 2 ^ 30) (pa + n - 1)) = .mem)))

/-- The first place of a span that the enclosure does not own. -/
def notOwned (s : State) (j : Job) (p : Nat × Nat) : Option Nat :=
  if jobOwns s j p.1 p.2 then none
  else ((List.range (p.2 / 2 ^ 30 + 2)).map (fun i => min (p.1 + i * 2 ^ 30) (p.1 + p.2 - 1))).find? (fun a => decide (placeOf s (jobEncl j) a ≠ .mem))

/-- The record of a write that PROTECTION stops at an address behind which nothing stands (01 R32, 16 Table 16.2a). -/
def noteDenied (j : Job) (spans : List (Nat × Nat)) (s : State) : State :=
  match spans.findSome? (notOwned s j) with
  | some a => if unbackedAt s (jobEncl j) a then noteUnbacked j.unit 0x0A (jobEncl j) a s else s
  | none => s

/-- Write octets for a descriptor. -/
def jobWrite (pa : Nat) (bs : List Byte) (s : State) : State := if bs = [] then s else dmaStore pa bs s

/-- What R403 leaves of an output that may have been written in part: the octets that the engine had written are zero, the others as before;
how many of them it had written is not stated (log 2). -/
def jobWipe (j : Job) (spans : List (Nat × Nat)) (s : State) : State :=
  let f := takeFree s
  ((spans.filter (fun p => jobOwns s j p.1 p.2)).foldl (fun (r : Nat × State) p =>
    (r.1 - p.2, jobWrite p.1 (List.replicate (min r.1 p.2) 0) r.2)) (f.1, f.2)).2

/-- Whether two spans overlap. -/
def overlap (a b : Nat × Nat) : Bool := decide (a.2 ≠ 0) && decide (b.2 ≠ 0) && decide (a.1 < b.1 + b.2) && decide (b.1 < a.1 + a.2)

/-- Count source octets consumed and output octets produced of an engine (20 Table 20.7). -/
def accelCount (unit used made : Nat) (s : State) : State := bumpObj 0x9811 (unit - 336) 64 made (bumpObj 0x9810 (unit - 336) 64 used s)

/-! ## Checksums (15 R412, R413: RFC 1950, RFC 1952) -/

/-- One octet into a CRC-32. -/
def crcByte (c : Nat) (b : Byte) : Nat :=
  (List.range 8).foldl (fun c _ => if c % 2 = 1 then (c / 2) ^^^ 0xEDB88320 else c / 2) (c ^^^ b.toNat)

/-- CRC-32 of more octets after a running value. -/
def crc32 (c : Nat) (bs : List Byte) : Nat := (bs.foldl crcByte (c ^^^ 0xFFFFFFFF)) ^^^ 0xFFFFFFFF

/-- Adler-32 of more octets after a running value. -/
def adler32 (a : Nat) (bs : List Byte) : Nat :=
  let r := bs.foldl (fun (p : Nat × Nat) b => let x := (p.1 + b.toNat) % 65521
    (x, (p.2 + x) % 65521)) (a % 65536, a / 65536)
  r.2 * 65536 + r.1

/-! ## Laurel (15 R406-R416) -/

/-- The regions of a Laurel descriptor that may not overlap; STATE_IN may equal STATE_OUT. -/
def lauClash (d : List Byte) (segs : List (Nat × Nat)) : Bool :=
  let si := dfld d 0x28 8
  let so := dfld d 0x30 8
  let rs := (dfld d 8 8, dfld d 0x10 4) :: segs ++ (if si = 0 then [] else [(si, 36864)]) ++ (if so = 0 ∨ so = si then [] else [(so, 36864)])
  (List.range rs.length).any (fun i => (List.range i).any (fun k => overlap (rs.getD i (0, 0)) (rs.getD k (0, 0))))

/-- A Laurel descriptor that breaks Tables 15.2 and 15.3, before its segment list is read. -/
def lauBad (d : List Byte) : Bool :=
  let comp := decide (dfld d 0 1 = 1)
  let fl := dfld d 2 2
  let depth := dfld d 6 2
  let len := dfld d 0x10 4
  let nseg := dfld d 0x20 1
  decide (2 < dfld d 1 1) || decide (nbits fl 15 10 ≠ 0 ∨ nbits fl 7 5 ≠ 0 ∨ fl.testBit 2 = true) ||
  (if comp then decide (nbits fl 9 8 = 3) || fl.testBit 4 || decide (depth < 4 ∨ 256 < depth) || !zeros d 0x14 4 else decide (nbits fl 9 8 ≠ 0) || decide (depth ≠ 0)) ||
  decide (len = 0 ∨ 2 ^ 30 < len) || decide (dfld d 0x18 8 % 16 ≠ 0) || decide (nseg = 0 ∨ 16 < nseg) || !zeros d 0x21 3 ||
  (!fl.testBit 4 && !zeros d 0x24 4) || decide (dfld d 0x28 8 % 64 ≠ 0) || decide (dfld d 0x30 8 % 64 ≠ 0) || !zeros d 0x38 8 ||
  (fl.testBit 0 == decide (dfld d 0x28 8 ≠ 0))

/-- The segments of a Laurel descriptor, or the status it ends with. -/
def lauSegs (j : Job) (s : State) : Except Nat (List (Nat × Nat)) × State :=
  match jobRead j (dfld j.d 0x18 8) (16 * dfld j.d 0x20 1) s with
  | (.error x, s) => (.error x, s)
  | (.ok b, s) =>
    let es := (List.range (dfld j.d 0x20 1)).map (fun i => b.drop (16 * i))
    let segs := es.map (fun x => (dfld x 0 8, dfld x 8 4))
    if es.any (fun x => !zeros x 12 4 || decide (dfld x 8 4 = 0 ∨ 2 ^ 30 < dfld x 8 4)) ∨ (segs.map (·.2)).foldl (· + ·) 0 < 4096 ∨ lauClash j.d segs = true then
      (.error 0x0A, s)
    else (.ok segs, s)

/-- Write output into segments in order: false when an accessed granule is not owned. -/
def segsWrite (j : Job) : List (Nat × Nat) → List Byte → State → Bool × State
  | _, [], s => (true, s)
  | [], _, s => (true, s)
  | g :: gs, bs, s =>
    if jobOwns s j g.1 (min g.2 bs.length) then segsWrite j gs (bs.drop g.2) (jobWrite g.1 (bs.take g.2) s)
    else (false, noteDenied j [(g.1, min g.2 bs.length)] s)

/-- What a stream has behind it: its window, the bytes pending, running checks and totals, and the coder's own state. -/
structure Stream where
  window : List Byte := []
  pending : List Byte := []
  coder : List Byte := []
  crc : Nat := 0
  adler : Nat := 1
  totalIn : Nat := 0
  totalOut : Nat := 0
deriving DecidableEq, Repr

/-- Load a state buffer (15 R412, Table 15.5). -/
def loadState (j : Job) (s : State) : Except Nat Stream × State :=
  let pa := dfld j.d 0x28 8
  if pa = 0 then (.ok {}, s)
  else match jobRead j pa 36864 s with
    | (.error x, s) => (.error x, s)
    | (.ok b, s) =>
      let plen := dfld b 0x8C02 2
      let wlen := dfld b 0x8C04 4
      if dfld b 0x8FFC 4 ≠ crc32 0 (b.take 0x8FFC) ∨ dfld b 0x8C00 1 ≠ 1 ∨ dfld b 0x8C01 1 ≠ dfld j.d 0 1 * 16 + dfld j.d 1 1 then (.error 0x07, s)
      else (.ok { window := (b.drop (32768 - min wlen 32768)).take (min wlen 32768), pending := (b.drop 0x8000).take (min plen 2048),
                  coder := (b.drop 0x8800).take 1024, crc := dfld b 0x8C08 4, adler := dfld b 0x8C0C 4, totalIn := dfld b 0x8C10 8, totalOut := dfld b 0x8C18 8 }, s)

/-- The octets of a state buffer. -/
def stateOctets (j : Job) (x : Stream) : List Byte :=
  let pad (n : Nat) (l : List Byte) : List Byte := l.take n ++ List.replicate (n - l.length) 0
  let w := x.window.drop (x.window.length - 32768)
  let body := List.replicate (32768 - w.length) 0 ++ w ++ pad 2048 x.pending ++ pad 1024 x.coder ++ leBytes 1 1 ++ leBytes 1 (dfld j.d 0 1 * 16 + dfld j.d 1 1) ++
    leBytes 2 (min x.pending.length 2048) ++ leBytes 4 w.length ++ leBytes 4 x.crc ++ leBytes 4 x.adler ++ leBytes 8 x.totalIn ++ leBytes 8 x.totalOut ++ List.replicate 988 0
  body ++ leBytes 4 (crc32 0 body)

/-- Save the state buffer: whether one was saved; none when its granule is not owned. -/
def saveState (j : Job) (x : Stream) (s : State) : Option Bool × State :=
  let pa := dfld j.d 0x30 8
  if pa = 0 then (some false, s)
  else if jobOwns s j pa 36864 then (some true, jobWrite pa (stateOctets j x) s)
  else (none, noteDenied j [(pa, 36864)] s)

/-- The end of a Laurel descriptor that wrote output: the state is saved where R412 says so. -/
def lauFinish (j : Job) (segs : List (Nat × Nat)) (status flags used : Nat) (out : List Byte) (save : Bool) (x : Stream) (s : State) : State :=
  match segsWrite j segs out s with
  | (false, s) => lauEnd j 0x09 0 0 0 0 0 (jobWipe j segs s)
  | (true, s) =>
    match (if save then saveState j x s else (some false, s)) with
    | (none, s) => lauEnd j 0x09 0 0 0 0 0 (jobWipe j segs s)
    | (some saved, s) => lauEnd j status (flags + (if saved then 4 else 0)) used out.length x.crc x.adler (accelCount j.unit used out.length s)

/-- The end of a Laurel descriptor whose output stays in the segments and belongs to no saved state (15 R410, R414). -/
def lauPartial (j : Job) (segs : List (Nat × Nat)) (status used made crc adler : Nat) (out : List Byte) (s : State) : State :=
  match segsWrite j segs out s with
  | (false, s) => lauEnd j 0x09 0 0 0 0 0 (jobWipe j segs s)
  | (true, s) => lauEnd j status 0 used made crc adler s

/-- The arguments of Laurel's coder: source, FMT, FLAGS, DEPTH, the loaded state and the capacity (15 R408). -/
def coderArgs (j : Job) (x : Stream) (src : List Byte) (cap : Nat) : List (List Byte) :=
  [src, leBytes 1 (dfld j.d 1 1), leBytes 2 (dfld j.d 2 2), leBytes 2 (dfld j.d 6 2), x.window, x.pending, x.coder, leBytes 4 x.crc, leBytes 4 x.adler, leBytes 8 x.totalIn, leBytes 8 x.totalOut, leBytes 8 cap]

/-- COMPRESS (15 R408-R410, R415): the coder's output is its function of R408, which the spec does not restate (log 8). -/
def compress (j : Job) (s : State) : State :=
  if lauBad j.d then jobFail j 0x0A s
  else match lauSegs j s with
    | (.error x, s) => jobFail j x s
    | (.ok segs, s) =>
      match loadState j s with
      | (.error x, s) => jobFail j x s
      | (.ok st, s) =>
        let len := dfld j.d 0x10 4
        match jobRead j (dfld j.d 8 8) len s with
        | (.error x, s) => lauEnd j x 0 0 0 0 0 (jobWipe j segs s)
        | (.ok src, s) =>
          let cap := (segs.map (·.2)).foldl (· + ·) 0
          let args := coderArgs j st src cap
          let out := st.pending ++ Config.standard "Laurel COMPRESS output" args
          let full := decide (cap < out.length)
          let gain := decide (nbits (dfld j.d 2 2) 9 8 < 2)
          if gain ∧ len + st.pending.length ≤ min out.length cap then
            lauPartial j segs 0x01 0 0 st.crc st.adler (out.take (len + st.pending.length)) s
          else
            let used := if full then min len (max 1 (leNat ((Config.standard "Laurel COMPRESS consumed" args).take 4))) else len
            let orig := src.take used
            let x : Stream := { st with
              window := st.window ++ orig
              pending := (out.drop cap).take 2048
              coder := Config.standard "Laurel COMPRESS coder" args
              crc := crc32 st.crc orig
              adler := adler32 st.adler orig
              totalIn := st.totalIn + used
              totalOut := st.totalOut + min out.length cap }
            lauFinish j segs (if full then 0x02 else 0x00) 0 used (out.take cap) (full || !(dfld j.d 2 2).testBit 1) x s

/-- The trailer of a stream agrees with its original (15 R413): gzip's CRC-32 and ISIZE, zlib's Adler-32. -/
def trailerOk (fmt : Nat) (t : List Byte) (crc adler total : Nat) : Bool :=
  if fmt = 2 then decide (leNat (t.take 4) = crc) && decide (leNat ((t.drop 4).take 4) = total % 2 ^ 32)
  else if fmt = 1 then decide (leNat (t.take 4).reverse = adler)
  else true

/-- DECOMPRESS (15 R413, R414): what RFC 1951, 1950 and 1952 decode to is a function the spec does not restate (log 8). -/
def decompress (j : Job) (s : State) : State :=
  if lauBad j.d then jobFail j 0x0A s
  else match lauSegs j s with
    | (.error x, s) => jobFail j x s
    | (.ok segs, s) =>
      match loadState j s with
      | (.error x, s) => jobFail j x s
      | (.ok st, s) =>
        let len := dfld j.d 0x10 4
        match jobRead j (dfld j.d 8 8) len s with
        | (.error x, s) => lauEnd j x 0 0 0 0 0 (jobWipe j segs s)
        | (.ok src, s) =>
          let fl := dfld j.d 2 2
          let cap := (segs.map (·.2)).foldl (· + ·) 0
          let lim := dfld j.d 0x14 4
          let args := coderArgs j st src 0
          let all := st.pending ++ Config.standard "Laurel DECOMPRESS output" args
          let ended := decide (Config.standard "Laurel DECOMPRESS stream end" args ≠ [])
          let bad := decide (Config.standard "Laurel DECOMPRESS format error" args ≠ [])
          let n := if lim = 0 then min all.length cap else min all.length (min cap lim)
          let out := all.take n
          let cut := decide (n < all.length) || (decide (lim ≠ 0 ∧ n = lim) && !ended)
          let crc := crc32 st.crc out
          let adler := adler32 st.adler out
          let used (done : Bool) : Nat := if done ∧ ¬ ended then len else min len (leNat ((Config.standard "Laurel DECOMPRESS consumed" (args ++ [leBytes 8 n])).take 4))
          let x (done : Bool) : Stream := { st with
            window := st.window ++ out
            pending := if done then [] else (all.drop n).take (min 2048 (leNat ((Config.standard "Laurel DECOMPRESS pending" (args ++ [leBytes 8 n])).take 4)))
            coder := Config.standard "Laurel DECOMPRESS coder" (args ++ [leBytes 8 n])
            crc := crc
            adler := adler
            totalIn := st.totalIn + used done
            totalOut := st.totalOut + n }
          if cut then lauFinish j segs (if lim ≠ 0 ∧ n = lim then 0x03 else 0x02) 0 (used false) out true (x false) s
          else if bad then lauPartial j segs 0x04 (used true) out.length crc adler out s
          else if ended then
            if trailerOk (dfld j.d 1 1) (Config.standard "Laurel DECOMPRESS trailer" args) crc adler (st.totalOut + n) ∧ (¬ fl.testBit 4 ∨ crc = dfld j.d 0x24 4) then lauFinish j segs 0x00 2 (used true) out (!fl.testBit 1) (x true) s
            else lauEnd j 0x05 0 (used true) 0 crc adler (jobWipe j segs s)
          else if fl.testBit 1 then lauPartial j segs 0x06 (used true) out.length crc adler out s
          else lauFinish j segs 0x00 0 (used true) out true (x true) s

/-! ## Holly: keys (15 R417-R426) -/

/-- Octets of key an ALG holds (15 Table 15.8); 0 when it holds none. -/
def keyLen (alg : Nat) : Nat :=
  match alg with
  | 0x01 => 16 | 0x02 => 32 | 0x03 => 32 | 0x04 => 64 | 0x10 => 32 | 0x11 => 48 | 0x12 => 64 | 0x20 => 32 | 0x21 => 48
  | 0x30 => 64 | 0x31 => 64 | 0x38 => 32 | 0x39 => 32 | 0x40 => 32 | 0x41 => 48 | _ => 0

/-- USE bits an ALG permits (15 Table 15.8, 12 Table 12.11): bit 7 encrypt, 6 decrypt, 5 sign, 4 verify, 3 derive, 2 wrap, 1 unwrap, 0 key agreement. -/
def usePermitted (alg : Nat) : Nat :=
  match alg with
  | 0x01 => 0xC0 | 0x02 => 0xC6 | 0x03 => 0xC0 | 0x04 => 0xC0 | 0x10 => 0x30 | 0x11 => 0x38 | 0x12 => 0x30 | 0x20 => 0x21 | 0x21 => 0x21
  | 0x30 => 0x01 | 0x31 => 0x01 | 0x38 => 0x20 | 0x39 => 0x20 | 0x40 => 0x08 | 0x41 => 0x08 | _ => 0

/-- A new key's USE is inside its row and not 0. -/
def useOk (alg u : Nat) : Bool := decide (u ≠ 0) && decide (u &&& usePermitted alg = u)

/-- Octets of a digest or an HMAC tag. -/
def digestLen (alg : Nat) : Nat :=
  match alg with
  | 0x10 => 32 | 0x11 => 48 | 0x12 => 64 | 0x50 => 32 | 0x51 => 48 | 0x52 => 64 | 0x58 => 32 | 0x59 => 64 | _ => 0

/-- Octets of a signature, a public key and a ciphertext (FIPS 186-5, 203, 204; log 8). -/
def sigLen (alg : Nat) : Nat := match alg with | 0x20 => 64 | 0x21 => 96 | 0x38 => 3309 | 0x39 => 4627 | _ => 0
def pubLen (alg : Nat) : Nat :=
  match alg with | 0x20 => 65 | 0x21 => 97 | 0x30 => 1184 | 0x31 => 1568 | 0x38 => 1952 | 0x39 => 2592 | _ => 0
def ctLen (alg : Nat) : Nat := match alg with | 0x30 => 1088 | 0x31 => 1568 | _ => 0

/-- A word field of a Holly descriptor tagged HNDL. -/
def isHndl (j : Job) (off : Nat) : Bool := j.hndl.contains (off / 8)

/-- The key a handle names, under R316 and R419: 0x0B when a condition on the handle fails, 0x0C when ALG or USE does not permit it. -/
def keyAt (s : State) (j : Job) (off : Nat) (algOk : Nat → Bool) (need : Nat) : Except Nat (Nat × HKey) :=
  let w := dfld j.d off 8
  let slot := nbits w 15 0
  if ¬ isHndl j off ∨ nbits w 63 60 ≠ jobEncl j ∨ nbits w 55 40 ≠ mGet 0 s.accel.gen (jobEncl j) ∨ nbits w 19 16 ≠ mGet 0 s.accel.reuse slot % 16 then .error 0x0B
  else match mFind s.accel.keys slot with
    | none => .error 0x0B
    | some k => if algOk k.alg ∧ (need = 0 ∨ k.use &&& nbits w 39 32 &&& need ≠ 0) then .ok (slot, k) else .error 0x0C

/-- Keys an enclosure holds, and its quota (15 R421). -/
def keysOf (s : State) (e : Nat) : Nat := (s.accel.keys.filter (fun k => decide (k.2.encl = e))).length
def keyQuota (s : State) (e : Nat) : Nat := slotsOf s e 2 * 256

/-- The slot a new key takes: one never used, else the one freed longest ago. -/
def freeSlot (s : State) : Option Nat := if s.accel.fresh < 65536 then some s.accel.fresh else s.accel.freed.head?

/-- Create a key and write its handle to OUTH (15 R424, R425). -/
def newKey (j : Job) (alg use : Nat) (key : List Byte) (s : State) : Option State :=
  let e := jobEncl j
  if keyQuota s e ≤ keysOf s e then none
  else match freeSlot s with
    | none => none
    | some slot =>
      let g := mGet 0 s.accel.gen e
      let s := { s with accel := { s.accel with
        keys := mIns s.accel.keys slot ⟨e, g, alg, use, key⟩
        fresh := if s.accel.fresh < 65536 then s.accel.fresh + 1 else s.accel.fresh
        freed := if s.accel.fresh < 65536 then s.accel.freed else s.accel.freed.tail } }
      let w := e * 2 ^ 60 + g * 2 ^ 40 + use * 2 ^ 32 + alg * 2 ^ 24 + (mGet 0 s.accel.reuse slot % 16) * 2 ^ 16 + slot
      let pa := dfld j.d 0x58 8
      some (putTag pa .hndl (jobWrite pa (leBytes 8 w) s))

/-- A slot is freed and its reuse count raised (15 R422). -/
def freeKey (slot : Nat) (s : State) : State :=
  { s with accel := { s.accel with
    keys := mDel s.accel.keys slot
    reuse := mPut 0 s.accel.reuse slot (mGet 0 s.accel.reuse slot + 1)
    freed := s.accel.freed ++ [slot] } }

/-! ## Random numbers (15 R428-R430) -/

/-- Seed one instance: false when both noise sources have failed. -/
def reseed (unit e : Nat) (s : State) : Bool × State :=
  let w := obj s 0x8300 1
  if flag w 0 ∧ flag w 1 then (false, setObj 0x8300 1 (setBit w 2 true) s)
  else (true, { s with accel := { s.accel with drbg := mPut {} s.accel.drbg ((unit - 344) * 32 + e) ⟨0, s.stamp⟩ } })

/-- Draw octets from an engine's instance of an enclosure (15 R429): none when its reseed is due and cannot be served. -/
def draw (unit e n : Nat) (pr : Bool) (s : State) : Option (List Byte) × State :=
  let k := (unit - 344) * 32 + e
  let d := mGet {} s.accel.drbg k
  let r := if pr ∨ 65536 ≤ d.count ∨ d.seedAt + 1600000000 ≤ s.stamp then reseed unit e s else (true, s)
  if ¬ r.1 then (none, r.2)
  else
    let s := { r.2 with accel := { r.2.accel with drbg := mPut {} r.2.accel.drbg k { mGet {} r.2.accel.drbg k with count := (mGet {} r.2.accel.drbg k).count + 1 } } }
    let f := takeFree s
    (some (leBytes n f.1), f.2)

/-! ## Holly: operations (15 Table 15.10) -/

/-- A Holly descriptor that breaks Table 15.9 whatever its operation. -/
def holBad (j : Job) (hasKey hasKey2 : Bool) : Bool :=
  let d := j.d
  let fl := dfld d 2 2
  decide (nbits fl 7 4 ≠ 0) || fl.testBit 0 || !zeros d 6 2 || !zeros d 0x34 4 || !zeros d 0x54 4 || !zeros d 0x68 24 ||
  decide (2 ^ 30 < dfld d 0x18 4) || decide (65536 < dfld d 0x30 4) || decide (dfld d 0x58 8 % 8 ≠ 0) ||
  (!hasKey && (isHndl j 8 || !zeros d 8 8)) || (!hasKey2 && (isHndl j 0x60 || !zeros d 0x60 8)) || (!isHndl j 0x60 && !zeros d 0x60 8)

/-- Fields of a Holly descriptor. -/
def hSrc (j : Job) : Nat × Nat := (dfld j.d 0x10 8, dfld j.d 0x18 4)
def hDst (j : Job) (n : Nat) : Nat × Nat := (dfld j.d 0x20 8, n)
def hAux (j : Job) (n : Nat) : Nat × Nat := (dfld j.d 0x48 8, n)
def hAad (j : Job) : Nat × Nat := (dfld j.d 0x28 8, dfld j.d 0x30 4)
def hIv (j : Job) : List Byte := (j.d.drop 0x38).take 16
def hUse (j : Job) : Nat := nbits (dfld j.d 2 2) 15 8
def hAlg (j : Job) : Nat := dfld j.d 1 1

/-- Read several spans of a descriptor. -/
def readSpans (j : Job) : List (Nat × Nat) → State → Except Nat (List (List Byte)) × State
  | [], s => (.ok [], s)
  | p :: ps, s =>
    match jobRead j p.1 p.2 s with
    | (.error x, s) => (.error x, s)
    | (.ok b, s) => match readSpans j ps s with
      | (.ok bs, s) => (.ok (b :: bs), s)
      | (.error x, s) => (.error x, s)

/-- What an operation has found before it acts: spans it reads and writes; the sizes must fit DSTLEN and AUXLEN (15 R418). -/
def spansBad (j : Job) (srcs dsts : List (Nat × Nat)) (dst aux : Nat) : Bool :=
  decide (dfld j.d 0x1C 4 < dst) || decide (dfld j.d 0x50 4 < aux) || srcs.any (fun a => dsts.any (fun b => overlap a b))

/-- Exactly `n` octets of a published algorithm. -/
def stdN (name : String) (args : List (List Byte)) (n : Nat) : List Byte :=
  let r := Config.standard name args
  r.take n ++ List.replicate (n - r.length) 0

/-- Write DST and AUX and end; a granule not owned ends with PROTECTION. -/
def holWrite (j : Job) (dst aux : List Byte) (s : State) : State :=
  let ds := [hDst j dst.length, hAux j aux.length]
  if ds.all (fun p => jobOwns s j p.1 p.2) then
    holEnd j 0x00 dst.length aux.length (accelCount j.unit (dfld j.d 0x18 4) (dst.length + aux.length) (jobWrite (hAux j 0).1 aux (jobWrite (hDst j 0).1 dst s)))
  else holEnd j 0x09 0 0 (jobWipe j ds (noteDenied j ds s))

/-- An operation with its source spans read: it fails with the status of a read. -/
def withSpans (j : Job) (srcs dsts : List (Nat × Nat)) (f : List (List Byte) → State → State) (s : State) : State :=
  match readSpans j srcs s with
  | (.error x, s) => holEnd j x 0 0 (jobWipe j dsts s)
  | (.ok bs, s) => f bs s

/-- AES ciphers with a key: the algorithm's name, the output and the tag. -/
def cipher (name : String) (algs : Nat → Bool) (need : Nat) (gcm decr : Bool) (j : Job) (s : State) : State :=
  let n := dfld j.d 0x18 4
  let srcs := hSrc j :: (if gcm then hAad j :: (if decr then [hAux j 16] else []) else [])
  let dsts := hDst j n :: (if gcm ∧ ¬ decr then [hAux j 16] else [])
  if holBad j true false ∨ hAlg j ≠ 0 ∨ (gcm ∧ leNat ((hIv j).drop 12) ≠ 0) ∨ (name = "AES-XTS" ∧ n < 16) ∨
      spansBad j srcs dsts n (if gcm then 16 else 0) then jobFail j 0x0A s
  else match keyAt s j 8 algs need with
    | .error x => jobFail j x s
    | .ok (_, k) =>
      withSpans j srcs dsts (fun bs s =>
        let args := leBytes 1 (if decr then 1 else 0) :: k.key :: hIv j :: bs
        let out := stdN name args n
        if gcm ∧ decr then
          (if stdN "AES-GCM tag" (k.key :: hIv j :: bs.take 2) 16 = bs.getD 2 [] then holWrite j out [] s else holEnd j 0x0D 0 0 (jobWipe j dsts s))
        else holWrite j out (if gcm then stdN "AES-GCM tag" (k.key :: hIv j :: out :: bs.drop 1) 16 else []) s) s

/-- ALGs of Table 15.8 by group. -/
def isGcm (a : Nat) : Bool := a = 0x01 ∨ a = 0x02
def isXts (a : Nat) : Bool := a = 0x03 ∨ a = 0x04
def isHmac (a : Nat) : Bool := a = 0x10 ∨ a = 0x11 ∨ a = 0x12
def isEcc (a : Nat) : Bool := a = 0x20 ∨ a = 0x21
def isKem (a : Nat) : Bool := a = 0x30 ∨ a = 0x31
def isDsa (a : Nat) : Bool := a = 0x38 ∨ a = 0x39

/-- HASH (15 Table 15.10). -/
def holHash (j : Job) (s : State) : State :=
  let n := digestLen (hAlg j)
  if holBad j false false ∨ hAlg j < 0x50 ∨ n = 0 ∨ spansBad j [hSrc j] [hDst j n] n 0 then jobFail j 0x0A s
  else withSpans j [hSrc j] [hDst j n] (fun bs s => holWrite j (stdN "digest" (leBytes 1 (hAlg j) :: bs) n) [] s) s

/-- HMAC (15 Table 15.10). -/
def holHmac (j : Job) (s : State) : State :=
  if holBad j true false ∨ hAlg j ≠ 0 then jobFail j 0x0A s
  else match keyAt s j 8 isHmac 0x20 with
    | .error x => jobFail j x s
    | .ok (_, k) =>
      let n := digestLen k.alg
      if spansBad j [hSrc j] [hDst j n] n 0 then jobFail j 0x0A s
      else withSpans j [hSrc j] [hDst j n] (fun bs s => holWrite j (stdN "HMAC" (leBytes 1 k.alg :: k.key :: bs) n) [] s) s

/-- HMAC_VERIFY (15 R418). -/
def holHmacVerify (j : Job) (s : State) : State :=
  if holBad j true false ∨ hAlg j ≠ 0 then jobFail j 0x0A s
  else match keyAt s j 8 isHmac 0x10 with
    | .error x => jobFail j x s
    | .ok (_, k) =>
      let n := digestLen k.alg
      if spansBad j [] [] 0 n then jobFail j 0x0A s
      else withSpans j [hSrc j, hAux j n] [] (fun bs s =>
        if stdN "HMAC" (leBytes 1 k.alg :: k.key :: bs.take 1) n = bs.getD 1 [] then holEnd j 0x00 0 0 s else holEnd j 0x0D 0 0 s) s

/-- SIGN (15 Table 15.10): ECDSA draws k, ML-DSA its hedging, from the DRBG. -/
def holSign (j : Job) (s : State) : State :=
  if holBad j true false ∨ hAlg j ≠ 0 then jobFail j 0x0A s
  else match keyAt s j 8 (fun a => isEcc a || isDsa a) 0x20 with
    | .error x => jobFail j x s
    | .ok (_, k) =>
      let n := sigLen k.alg
      let pre := (dfld j.d 2 2).testBit 1
      if spansBad j [hSrc j] [hAux j n] 0 n ∨ (pre ∧ ¬ (isEcc k.alg ∧ dfld j.d 0x18 4 = (if k.alg = 0x20 then 32 else 48))) then jobFail j 0x0A s
      else withSpans j [hSrc j] [hAux j n] (fun bs s =>
        match draw j.unit (jobEncl j) 64 false s with
        | (none, s) => jobFail j 0x10 s
        | (some r, s) => holWrite j [] (stdN "sign" (leBytes 1 k.alg :: leBytes 1 pre.toNat :: k.key :: r :: bs) n) s) s

/-- VERIFY (15 R418). -/
def holVerify (j : Job) (s : State) : State :=
  let a := hAlg j
  let pre := (dfld j.d 2 2).testBit 1
  if holBad j false false ∨ ¬ (isEcc a ∨ isDsa a) ∨ dfld j.d 0x1C 4 < pubLen a ∨ dfld j.d 0x50 4 < sigLen a ∨
      (pre ∧ ¬ (isEcc a ∧ dfld j.d 0x18 4 = (if a = 0x20 then 32 else 48))) then jobFail j 0x0A s
  else withSpans j [hSrc j, hAux j (sigLen a), hDst j (pubLen a)] [] (fun bs s =>
    if Config.standard "verify" (leBytes 1 a :: leBytes 1 pre.toNat :: bs) ≠ [] then holEnd j 0x00 0 0 s else holEnd j 0x0D 0 0 s) s

/-- A new key from octets, with what is written beside it: PROTECTION of OUTH first, then KEY_STORE_FULL. -/
def holNewKey (j : Job) (alg use : Nat) (key dst aux : List Byte) (s : State) : State :=
  let ds := [(dfld j.d 0x58 8, 8), hDst j dst.length, hAux j aux.length]
  if ¬ ds.all (fun p => jobOwns s j p.1 p.2) then jobFail j 0x09 (noteDenied j ds s)
  else match newKey j alg use key s with
    | none => jobFail j 0x0E s
    | some s => holWrite j dst aux s

/-- ECDH (15 Table 15.10): a peer key that is not valid fails the check. -/
def holEcdh (j : Job) (s : State) : State :=
  if holBad j true false ∨ hAlg j ≠ 0 then jobFail j 0x0A s
  else match keyAt s j 8 isEcc 0x01 with
    | .error x => jobFail j x s
    | .ok (_, k) =>
      let alg := if k.alg = 0x20 then 0x40 else 0x41
      if ¬ useOk alg (hUse j) ∨ spansBad j [hAux j (pubLen k.alg)] [(dfld j.d 0x58 8, 8)] 0 (pubLen k.alg) then jobFail j 0x0A s
      else withSpans j [hAux j (pubLen k.alg)] [] (fun bs s =>
        if Config.standard "public key valid" (leBytes 1 k.alg :: bs) = [] then jobFail j 0x0A s
        else holNewKey j alg (hUse j) (stdN "ECDH" (leBytes 1 k.alg :: k.key :: bs) (keyLen alg)) [] [] s) s

/-- KEM_ENCAPS (15 Table 15.10). -/
def holEncaps (j : Job) (s : State) : State :=
  let a := hAlg j
  if holBad j false false ∨ ¬ isKem a ∨ ¬ useOk 0x40 (hUse j) ∨ spansBad j [hAux j (pubLen a)] [hDst j (ctLen a), (dfld j.d 0x58 8, 8)] (ctLen a) (pubLen a) then jobFail j 0x0A s
  else withSpans j [hAux j (pubLen a)] [hDst j (ctLen a)] (fun bs s =>
    match draw j.unit (jobEncl j) 32 false s with
    | (none, s) => jobFail j 0x10 s
    | (some r, s) => holNewKey j 0x40 (hUse j) (stdN "ML-KEM secret" (leBytes 1 a :: r :: bs) 32) (stdN "ML-KEM ciphertext" (leBytes 1 a :: r :: bs) (ctLen a)) [] s) s

/-- KEM_DECAPS (15 Table 15.10). -/
def holDecaps (j : Job) (s : State) : State :=
  if holBad j true false ∨ hAlg j ≠ 0 ∨ ¬ useOk 0x40 (hUse j) then jobFail j 0x0A s
  else match keyAt s j 8 isKem 0x01 with
    | .error x => jobFail j x s
    | .ok (_, k) =>
      if spansBad j [hAux j (ctLen k.alg)] [(dfld j.d 0x58 8, 8)] 0 (ctLen k.alg) then jobFail j 0x0A s
      else withSpans j [hAux j (ctLen k.alg)] [] (fun bs s =>
        holNewKey j 0x40 (hUse j) (stdN "ML-KEM decapsulate" (leBytes 1 k.alg :: k.key :: bs) 32) [] [] s) s

/-- KEYGEN (15 R424, R429). -/
def holKeygen (j : Job) (s : State) : State :=
  let a := hAlg j
  let p := pubLen a
  if holBad j false false ∨ keyLen a = 0 ∨ ¬ useOk a (hUse j) ∨ spansBad j [] [] 0 p ∨ overlap (hAux j p) (dfld j.d 0x58 8, 8) then jobFail j 0x0A s
  else match draw j.unit (jobEncl j) (keyLen a) false s with
    | (none, s) => jobFail j 0x10 s
    | (some r, s) => holNewKey j a (hUse j) r [] (stdN "public key" [leBytes 1 a, r] p) s

/-- DERIVE (15 R417, Table 15.10). -/
def holDerive (j : Job) (s : State) : State :=
  let a := hAlg j
  let n := dfld j.d 0x50 4
  if holBad j true false ∨ keyLen a = 0 ∨ ¬ useOk a (hUse j) ∨ n = 0 ∨ 256 < n ∨ overlap (hAux j n) (dfld j.d 0x58 8, 8) then jobFail j 0x0A s
  else match keyAt s j 8 (fun x => decide (x = 0x40) || decide (x = 0x41) || decide (x = 0x11)) 0x08 with
    | .error x => jobFail j x s
    | .ok (_, k) =>
      withSpans j [hAux j n] [] (fun bs s =>
        holNewKey j a (hUse j) (stdN "SP 800-108 counter KDF" (k.key :: bs ++ [leBytes 1 a, leBytes 1 (hUse j)]) (keyLen a)) [] [] s) s

/-! ## The layout (12 Table 12.4a) and the enclosure sealing key (12 R313, R314) -/

/-- A 48-octet field. -/
def lrHash (r : List Byte) (off : Nat) : List Byte := (r.drop off).take 48

/-- OWNER_HASH and IMAGE_HASH of an enclosure. -/
def enclHashes (s : State) (e : Nat) : List (List Byte) := let r := (recOfEncl s e).getD []
  [lrHash r 0x140, lrHash r 0x110]

/-- The enclosure sealing key: KDF(UDS, OWNER_HASH, IMAGE_HASH, ENCL). -/
def sealingKey (s : State) (e : Nat) : List Byte := stdN "enclosure sealing key" (enclHashes s e ++ [leBytes 1 e]) 32

/-- What a sealed blob is bound to: its header, the DeviceID digest, ENCL, OWNER_HASH and IMAGE_HASH (15 R427). -/
def blobAad (s : State) (e : Nat) (head : List Byte) : List (List Byte) :=
  [head, Config.document "DeviceID digest", leBytes 1 e] ++ enclHashes s e

/-- The key-encryption key of a WRAP or UNWRAP: the sealing key without HANDLE2, else an AES-256 key with the USE. -/
def kekOf (s : State) (j : Job) (need : Nat) : Except Nat (List Byte) :=
  if ¬ isHndl j 0x60 then .ok (sealingKey s (jobEncl j))
  else match keyAt s j 0x60 (fun a => decide (a = 0x02)) need with
    | .error x => .error x
    | .ok (_, k) => .ok k.key

/-- The header of a sealed blob (15 Table 15.11) before its nonce. -/
def blobHead (alg use kek n : Nat) : List Byte := [1, BitVec.ofNat 8 alg, BitVec.ofNat 8 use, BitVec.ofNat 8 kek] ++ leBytes 4 n

/-- WRAP (15 R427). -/
def holWrap (j : Job) (s : State) : State :=
  if holBad j true true ∨ hAlg j ≠ 0 then jobFail j 0x0A s
  else match keyAt s j 8 (fun _ => true) 0 with
    | .error x => jobFail j x s
    | .ok (_, k) =>
      match kekOf s j 0x04 with
      | .error x => jobFail j x s
      | .ok kek =>
        let n := 48 + k.key.length
        if spansBad j [] [] n 0 then jobFail j 0x0A s
        else match draw j.unit (jobEncl j) 12 false s with
          | (none, s) => jobFail j 0x10 s
          | (some r, s) =>
            let head := blobHead k.alg k.use (isHndl j 0x60).toNat k.key.length ++ r ++ List.replicate 12 0
            let aad := blobAad s (jobEncl j) head
            holWrite j (head ++ stdN "AES-GCM" (kek :: r :: k.key :: aad) k.key.length ++ stdN "AES-GCM tag" (kek :: r :: k.key :: aad) 16) [] s

/-- UNWRAP (15 R427). -/
def holUnwrap (j : Job) (s : State) : State :=
  let n := dfld j.d 0x18 4
  if holBad j false true ∨ hAlg j ≠ 0 ∨ overlap (hSrc j) (dfld j.d 0x58 8, 8) then jobFail j 0x0A s
  else match kekOf s j 0x02 with
    | .error x => jobFail j x s
    | .ok kek =>
      withSpans j [hSrc j] [] (fun bs s =>
        let b := bs.headD []
        let len := dfld b 4 4
        let head := b.take 32
        let r := (b.drop 8).take 12
        let aad := blobAad s (jobEncl j) head
        let key := stdN "AES-GCM open" (kek :: r :: (b.drop 32).take len :: aad) len
        if n < 48 ∨ len < 16 ∨ 64 < len ∨ n < 48 + len ∨ dfld b 0 1 ≠ 1 ∨ dfld b 3 1 ≠ (isHndl j 0x60).toNat ∨ ¬ zeros b 0x14 12 ∨
            stdN "AES-GCM tag" (kek :: r :: key :: aad) 16 ≠ (b.drop (32 + len)).take 16 then jobFail j 0x0F s
        else holNewKey j (dfld b 1 1) (dfld b 2 1) key [] [] s) s

/-- DESTROY (15 R422, R426): the references of earlier checks are released when their descriptors end. -/
def holDestroy (j : Job) (s : State) : State :=
  if holBad j true false ∨ hAlg j ≠ 0 then jobFail j 0x0A s
  else match keyAt s j 8 (fun _ => true) 0 with
    | .error x => jobFail j x s
    | .ok (slot, _) => holEnd j 0x00 0 0 (freeKey slot s)

/-- PUBLIC (15 Table 15.10). -/
def holPublic (j : Job) (s : State) : State :=
  if holBad j true false ∨ hAlg j ≠ 0 then jobFail j 0x0A s
  else match keyAt s j 8 (fun a => isEcc a || isKem a || isDsa a) 0 with
    | .error x => jobFail j x s
    | .ok (_, k) =>
      if spansBad j [] [] 0 (pubLen k.alg) then jobFail j 0x0A s else holWrite j [] (stdN "public key" [leBytes 1 k.alg, k.key] (pubLen k.alg)) s

/-- RANDOM (15 R429). -/
def holRandom (j : Job) (s : State) : State :=
  let n := dfld j.d 0x1C 4
  if holBad j false false ∨ hAlg j ≠ 0 ∨ n = 0 ∨ 65536 < n then jobFail j 0x0A s
  else match draw j.unit (jobEncl j) n ((dfld j.d 2 2).testBit 2) s with
    | (none, s) => jobFail j 0x10 s
    | (some r, s) => holWrite j r [] s

/-! ## Failed engines and sources (15 R404, R430; 16 R464) -/

/-- A descriptor of a failed engine: dispatched again from its beginning, or ended. -/
def rerunJob (kind : Nat) (j : Job) (s : State) : State :=
  let s := { s with accel := { s.accel with jobs := s.accel.jobs.erase j } }
  let inout := dfld j.d 0x28 8
  if kind = 1 ∧ inout ≠ 0 ∧ inout = dfld j.d 0x30 8 then
    let f := takeFree s
    let s := match lauSegs j f.2 with
      | (.ok segs, s) => ((inout, 36864) :: segs).foldl (fun s p => if jobOwns s j p.1 p.2 then jobWrite p.1 (leBytes p.2 (f.1 / 2 ^ (p.1 % 64))) s else s) s
      | (.error _, s) => s
    jobFail j 0x11 s
  else
    let us := ((List.range 8).map (fun i => unitBase kind + i)).filter (fun u => accelRuns s u)
    match us.foldl (fun (b : Option Nat) u =>
        match b with
        | none => some u
        | some v => if (jobsOf s u).length < (jobsOf s v).length then some u else some v) none with
    | none => jobFail j 0x11 s
    | some u =>
      let idx := if kind = 1 then 0x8000 else 0x8100
      let s := setObjFld idx (u % 8) 47 32 (min 0xFFFF (fld (obj s idx (u % 8)) 47 32 + 1)) s
      { s with accel := { s.accel with jobs := s.accel.jobs ++ [{ j with unit := u, rerun := true }] } }

/-- A Laurel or Holly engine is declared failed: 1 heartbeat, 3 check, 4 forced. -/
def accelFail (unit reason : Nat) (s : State) : State :=
  if unit < 336 ∨ 351 < unit ∨ ¬ accelRuns s unit then s
  else
    let kind := if unit < 344 then 1 else 2
    let js := jobsOf s unit
    let s := { s with accel := { s.accel with failed := mPut false s.accel.failed unit true } }
    let s := setObj (if kind = 1 then 0x8000 else 0x8100) (unit % 8) (setBit (obj s (if kind = 1 then 0x8000 else 0x8100) (unit % 8)) 63 true) s
    let taker := (pickEngine s kind).map (fun u => u % 8)
    let s := report { stamp := 0, useq := 0, unit := unit, cls := 0x0501, sev := 1, encl := 0x10, d0 := reason, d1 := taker.getD 0xFF, rings := (js.map jobEncl).eraseDups } s
    accelGoOn (js.foldl (fun s j => rerunJob kind j s) s)

/-- A noise source fails a health test (15 R430). -/
def sourceFail (die test : Nat) (s : State) : State :=
  if 2 ≤ die then s
  else noteDev 361 0x0503 2 die test (setObj 0x8300 1 (setBit (obj s 0x8300 1) die true) s)

/-! ## Meanings -/

/-- COMPRESS (15 R408). -/
def execCompress (n : Nat) (s : State) : Host.Outcome State Fault Refusal := .next (runJob (336 + n % 8) 0x01 compress s)
/-- DECOMPRESS (15 R414). -/
def execDecompress (n : Nat) (s : State) : Host.Outcome State Fault Refusal := .next (runJob (336 + n % 8) 0x02 decompress s)
/-- GCM_ENC (15 Table 15.10). -/
def execGcmEnc (n : Nat) (s : State) : Host.Outcome State Fault Refusal := .next (runJob (344 + n % 8) 0x01 (cipher "AES-GCM" isGcm 0x80 true false) s)
/-- GCM_DEC (15 Table 15.10, R418). -/
def execGcmDec (n : Nat) (s : State) : Host.Outcome State Fault Refusal := .next (runJob (344 + n % 8) 0x02 (cipher "AES-GCM" isGcm 0x40 true true) s)
/-- XTS_ENC (15 Table 15.10). -/
def execXtsEnc (n : Nat) (s : State) : Host.Outcome State Fault Refusal := .next (runJob (344 + n % 8) 0x03 (cipher "AES-XTS" isXts 0x80 false false) s)
/-- XTS_DEC (15 Table 15.10). -/
def execXtsDec (n : Nat) (s : State) : Host.Outcome State Fault Refusal := .next (runJob (344 + n % 8) 0x04 (cipher "AES-XTS" isXts 0x40 false true) s)
/-- CTR (15 Table 15.10). -/
def execCtr (n : Nat) (s : State) : Host.Outcome State Fault Refusal := .next (runJob (344 + n % 8) 0x05 (cipher "AES-CTR" isGcm 0x80 false false) s)
/-- HASH (15 Table 15.10). -/
def execHash (n : Nat) (s : State) : Host.Outcome State Fault Refusal := .next (runJob (344 + n % 8) 0x08 holHash s)
/-- HMAC (15 Table 15.10). -/
def execHmac (n : Nat) (s : State) : Host.Outcome State Fault Refusal := .next (runJob (344 + n % 8) 0x09 holHmac s)
/-- HMAC_VERIFY (15 R418). -/
def execHmacVerify (n : Nat) (s : State) : Host.Outcome State Fault Refusal := .next (runJob (344 + n % 8) 0x0A holHmacVerify s)
/-- SIGN (15 Table 15.10). -/
def execSign (n : Nat) (s : State) : Host.Outcome State Fault Refusal := .next (runJob (344 + n % 8) 0x10 holSign s)
/-- VERIFY (15 R418). -/
def execVerify (n : Nat) (s : State) : Host.Outcome State Fault Refusal := .next (runJob (344 + n % 8) 0x11 holVerify s)
/-- ECDH (15 Table 15.10). -/
def execEcdh (n : Nat) (s : State) : Host.Outcome State Fault Refusal := .next (runJob (344 + n % 8) 0x12 holEcdh s)
/-- KEM_ENCAPS (15 Table 15.10). -/
def execKemEncaps (n : Nat) (s : State) : Host.Outcome State Fault Refusal := .next (runJob (344 + n % 8) 0x13 holEncaps s)
/-- KEM_DECAPS (15 Table 15.10). -/
def execKemDecaps (n : Nat) (s : State) : Host.Outcome State Fault Refusal := .next (runJob (344 + n % 8) 0x14 holDecaps s)
/-- KEYGEN (15 R424). -/
def execKeygen (n : Nat) (s : State) : Host.Outcome State Fault Refusal := .next (runJob (344 + n % 8) 0x18 holKeygen s)
/-- DERIVE (15 Table 15.10). -/
def execDerive (n : Nat) (s : State) : Host.Outcome State Fault Refusal := .next (runJob (344 + n % 8) 0x19 holDerive s)
/-- WRAP (15 R427). -/
def execWrap (n : Nat) (s : State) : Host.Outcome State Fault Refusal := .next (runJob (344 + n % 8) 0x1A holWrap s)
/-- UNWRAP (15 R427). -/
def execUnwrap (n : Nat) (s : State) : Host.Outcome State Fault Refusal := .next (runJob (344 + n % 8) 0x1B holUnwrap s)
/-- DESTROY (15 R422). -/
def execDestroy (n : Nat) (s : State) : Host.Outcome State Fault Refusal := .next (runJob (344 + n % 8) 0x1C holDestroy s)
/-- PUBLIC (15 Table 15.10). -/
def execHolPublic (n : Nat) (s : State) : Host.Outcome State Fault Refusal := .next (runJob (344 + n % 8) 0x1D holPublic s)
/-- RANDOM (15 R429). -/
def execRandom (n : Nat) (s : State) : Host.Outcome State Fault Refusal := .next (runJob (344 + n % 8) 0x20 holRandom s)

/-- ACCELERATOR_ENGINE_FAILED (15 R404, 16 R464). -/
def execAcceleratorEngineFailed (unit reason : Nat) (s : State) : Host.Outcome State Fault Refusal := .next (accelFail unit reason s)

/-- DRBG_RESEED (15 R429): an instance whose reseed is due. -/
def execDrbgReseed (n e : Nat) (s : State) : Host.Outcome State Fault Refusal :=
  let d := mGet {} s.accel.drbg (n * 32 + e)
  .next (if n < 8 ∧ e ≤ 16 ∧ (65536 ≤ d.count ∨ d.seedAt + 1600000000 ≤ s.stamp) then (reseed (344 + n) e s).2 else s)

/-- ENTROPY_SOURCE_FAIL (15 R430). -/
def execEntropySourceFail (die test : Nat) (s : State) : Host.Outcome State Fault Refusal := .next (sourceFail die test s)

end Sys2Proof.Machine
end

