-- ==== Sys2Proof/Machine/Atomic.lean ====
section
/-! DEFINITION. Atomics (04 R103-R106, 09 R221, 10 R261, R263). -/

namespace Sys2Proof.Machine
open Sys2Proof

/-- A 64-bit SWAP or CAS copies and compares handles and poison unchanged (04 R105). -/
def copies (op : Nat) (d : Bool) : Bool := d && (decide (op = 0) || decide (op = 9))

/-- The arithmetic of an atomic in `w` bits (04 Table 4.7); CAS is decided apart. -/
def atomArith (op w : Nat) (old b : Nat) : Nat :=
  let x := BitVec.ofNat w old
  let y := BitVec.ofNat w b
  if op = 0 ∨ op = 9 then y.toNat
  else if op = 1 then (x + y).toNat
  else if op = 2 then (x &&& y).toNat
  else if op = 3 then (x ||| y).toNat
  else if op = 4 then (x ^^^ y).toNat
  else if op = 5 then (if x.slt y then x else y).toNat
  else if op = 6 then (if x.slt y then y else x).toNat
  else if op = 7 then min x.toNat y.toNat
  else max x.toNat y.toNat

/-- The tag of the memory word after a 64-bit operation (04 Table 4.7). -/
def atomTag (op : Nat) (old b : Tag) : Tag := if op = 0 ∨ op = 9 then b else if op ≤ 4 then ptrTag old b else .data

/-- What an atomic makes of a word: a fault of R105, or the new octets and tag to store, none when CAS finds no match: the word then keeps its
tag at 32 bits too (log 95).
`priv` is true at U or S. `old` holds the whole 64-bit word's tag and the operand's own octets. -/
def atomApply (op : Nat) (d priv : Bool) (old b exp : GVal) : Except Exc (Option GVal) :=
  let w := if d then 64 else 32
  if old.t = .pois then .error { code := 0x0D, tag := 7 }
  else if old.t = .hndl ∧ priv ∧ ¬ copies op d then .error { code := 0x03, sub := 0x05, tag := 4 }
  else
    let eq := decide (BitVec.ofNat w old.v.toNat = BitVec.ofNat w exp.v.toNat) && (!d || decide (old.t = exp.t))
    if op = 9 ∧ ¬ eq then .ok none
    else .ok (some ⟨BitVec.ofNat 64 (atomArith op w old.v.toNat b.v.toNat), if d then atomTag op old.t b.t else .data⟩)

/-- What rd receives: the old word with its tag, or the zero-extended old value tagged DATA (04 R103, R105). -/
def atomResult (d : Bool) (old : GVal) : GVal := if d then old else ⟨BitVec.ofNat 64 (old.v.toNat % 2 ^ 32), .data⟩

/-- The register checks of an atomic at priorities 6 and 7 (04 R105). -/
def atomExc (h : Hart) (c : Cpu) (op : Nat) (d : Bool) (base b exp : GVal) : Option Exc :=
  addrExc h c base [] (if copies op d then [] else if op = 9 then [b, exp] else [b])

/-- Index of a line's contention counter (10 R263). -/
def contendIdx (pa : Nat) : Nat := nbits pa 13 6 ^^^ nbits pa 21 14

/-- Train the contention counter of a line (10 R263). -/
def contendTrain (pa : Nat) (up : Bool) (c : Cpu) : Cpu :=
  let k := mGet 0 c.contend (contendIdx pa)
  { c with contend := mPut 0 c.contend (contendIdx pa) (if up then min 3 (k + 1) else k - 1) }

/-- The old operand of an atomic at an address: its octets, and the tag of the word that holds them. -/
def atomOld (s : State) (pa : Nat) (d : Bool) : GVal := ⟨BitVec.ofNat 64 (memNat s pa (if d then 8 else 4)), memTag s pa⟩

/-- Store an atomic's new value. -/
def atomStore (pa : Nat) (d : Bool) (x : GVal) (s : State) : State :=
  storeBytes pa (leBytes (if d then 8 else 4) x.v.toNat) (if d then some x.t else none) s

/-- A near atomic trains its line's counter (10 R263): up when the line had to be asked for and its grant carried C, down otherwise. -/
def nearTrain (n line pa : Nat) (c : Bool) (s : State) : State :=
  modCpu (.core n) (contendTrain pa c) (modTile (tileOf s n) (fun x => { x with contested := x.contested.filter (fun l => l ≠ line) }) s)

/-- A near atomic that retires is counted (20 Table 20.5). -/
def nearCount (h : Hart) (c : Bool) (s : State) : State :=
  let s := countH h 0x30 1 s
  if c then countH h 0x32 1 s else s

/-- An atomic on memory, performed near in an owned line, or at the home by an engine (04 R106). -/
def atomNear (h : Hart) (op : Nat) (d : Bool) (rd : Reg) (b exp : GVal) (va : Word) (pa : Nat) (s : State) : State × Done :=
  let line := lineOf pa
  let o := ownLine h line false false s
  if ¬ o.2.1 then (o.1, .hold)
  else
    let old := atomOld s pa d
    let c := decide (o.2.2 = some true) || (tileAt s (unitOf s h)).contested.contains line
    let s := match h with
      | .core n => nearTrain n line pa c o.1
      | .prv _ => noteFar line o.1
    match atomApply op d (decide ((cpuOf s h).level ≠ .m)) old b exp with
    | .error e => (s, .exc (if e.code = 0x0D then { e with tval := va } else e))
    | .ok new =>
      let s := match new with | some x => noticeStore h pa (if d then 8 else 4) (atomStore pa d x (writeLine h line s)) | none => s
      writeG h rd (atomResult d old) (nearCount h c (useTlbs h .atomic [(va, if d then 8 else 4)] s))

/-- An atomic goes to its line's home (10 R261), unless the core asks for the line already. -/
def atomFar (n : Nat) (op : Nat) (d : Bool) (b exp : GVal) (pa : Nat) (dst : LoadDst) (s : State) : State × Done :=
  let h : Hart := .core n
  let u := tileOf s n
  let line := lineOf pa
  if asking s u line ∨ wbPending s u line ∨ 48 ≤ requestsOut s u then (s, .hold)
  else
    let q : ReqFlit := { dest := 0, src := u, txid := freeTxid s u, oid := nextOid s h, encl := enclOfCore s n, addr := line,
                         atop := op, off := pa % 64, len := (if d then 7 else 3), lp := decide ((coreOf s n).level ≠ .m) }
    let s := toHomeReq 0x0A q (modTile u (fun x => { x with oid := x.oid + 1 }) s)
    (modCpu h (fun c => { c with wait := .farAtomic pa op d b exp dst }) s, .stay)

/-- An atomic instruction: checks, translation, and its path (04 R103-R106, 06 R144, 09 R221). To device space and windows the operands
travel as values: a 64-bit SWAP or CAS checks no tag of theirs there either (log 96). -/
def atomic (h : Hart) (op : Nat) (rd ra rb : Reg) (d : Bool) (s : State) : State × Done :=
  let c := cpuOf s h
  let base := gpr c ra
  let b := gpr c rb
  let exp := gpr c rd
  let n := if d then 8 else 4
  let va := base.v
  match atomExc h c op d base b exp with
  | some e => (s, .exc e)
  | none =>
    if va.toNat % n ≠ 0 then (s, .exc { code := 0x08, tval := va })
    else match xlate h .atomic [(va, n)] s with
      | (.error d, s) => (s, d)
      | (.ok pas, s) =>
        let pa := pas.headD 0
        let dst : LoadDst := ⟨rd, n, false, va⟩
        if locBase ≤ pa then
          let old : GVal := ⟨BitVec.ofNat 64 (leNat ((List.range n).map (fun i => anyByte s (pa + i)))), anyTag s (pa / 8 * 8)⟩
          match atomApply op d false old b exp with
          | .error e => (s, .exc e)
          | .ok new =>
            let s := match new with
              | some x => storeHalf h false (if d then some x.t else none) c.pc va pa (leBytes n x.v.toNat) s
              | none => s
            writeG h rd (atomResult d old) s
        else match placeH h s pa with
          | .unbacked => (reportAccess h 0x0305 3 pa s, .exc { code := 0x0D, tag := 7, tval := va })
          | .mem =>
            let r := sbDrain h s
            if ¬ r.2 then (r.1, .hold)
            else
              let l := ntLeave h (lineOf pa) r.1
              if ¬ l.2 then (l.1, .hold)
              else match h with
                | .core k =>
                  if 2 ≤ mGet 0 (coreOf l.1 k).contend (contendIdx pa) then atomFar k op d b exp pa dst l.1 else atomNear h op d rd b exp va pa l.1
                | .prv _ => atomNear h op d rd b exp va pa l.1
          | _ => sendDev h 0x12 pa n op b.v exp.v (fun unit deadline tx => .devAtomic pa unit deadline tx dst) s

/-- ATOMIC_SWAP (04 Table 4.7); ORD adds nothing here, since accesses to memory complete in program order (09 R221, log 10). -/
def execAtomicSwap (h : Hart) (rd ra rb : Reg) (d : Bool) (ord : BitVec 2) (s : State) : Host.Outcome State Fault Refusal :=
  run h (.atomicSwap h rd ra rb d ord) (atomic h 0 rd ra rb d) s

/-- ATOMIC_ADD (04 Table 4.7); ORD adds nothing here, since accesses to memory complete in program order (09 R221, log 10). -/
def execAtomicAdd (h : Hart) (rd ra rb : Reg) (d : Bool) (ord : BitVec 2) (s : State) : Host.Outcome State Fault Refusal :=
  run h (.atomicAdd h rd ra rb d ord) (atomic h 1 rd ra rb d) s

/-- ATOMIC_AND (04 Table 4.7); ORD adds nothing here, since accesses to memory complete in program order (09 R221, log 10). -/
def execAtomicAnd (h : Hart) (rd ra rb : Reg) (d : Bool) (ord : BitVec 2) (s : State) : Host.Outcome State Fault Refusal :=
  run h (.atomicAnd h rd ra rb d ord) (atomic h 2 rd ra rb d) s

/-- ATOMIC_OR (04 Table 4.7); ORD adds nothing here, since accesses to memory complete in program order (09 R221, log 10). -/
def execAtomicOr (h : Hart) (rd ra rb : Reg) (d : Bool) (ord : BitVec 2) (s : State) : Host.Outcome State Fault Refusal :=
  run h (.atomicOr h rd ra rb d ord) (atomic h 3 rd ra rb d) s

/-- ATOMIC_XOR (04 Table 4.7); ORD adds nothing here, since accesses to memory complete in program order (09 R221, log 10). -/
def execAtomicXor (h : Hart) (rd ra rb : Reg) (d : Bool) (ord : BitVec 2) (s : State) : Host.Outcome State Fault Refusal :=
  run h (.atomicXor h rd ra rb d ord) (atomic h 4 rd ra rb d) s

/-- ATOMIC_MIN (04 Table 4.7); ORD adds nothing here, since accesses to memory complete in program order (09 R221, log 10). -/
def execAtomicMin (h : Hart) (rd ra rb : Reg) (d : Bool) (ord : BitVec 2) (s : State) : Host.Outcome State Fault Refusal :=
  run h (.atomicMin h rd ra rb d ord) (atomic h 5 rd ra rb d) s

/-- ATOMIC_MAX (04 Table 4.7); ORD adds nothing here, since accesses to memory complete in program order (09 R221, log 10). -/
def execAtomicMax (h : Hart) (rd ra rb : Reg) (d : Bool) (ord : BitVec 2) (s : State) : Host.Outcome State Fault Refusal :=
  run h (.atomicMax h rd ra rb d ord) (atomic h 6 rd ra rb d) s

/-- ATOMIC_MINU (04 Table 4.7); ORD adds nothing here, since accesses to memory complete in program order (09 R221, log 10). -/
def execAtomicMinu (h : Hart) (rd ra rb : Reg) (d : Bool) (ord : BitVec 2) (s : State) : Host.Outcome State Fault Refusal :=
  run h (.atomicMinu h rd ra rb d ord) (atomic h 7 rd ra rb d) s

/-- ATOMIC_MAXU (04 Table 4.7); ORD adds nothing here, since accesses to memory complete in program order (09 R221, log 10). -/
def execAtomicMaxu (h : Hart) (rd ra rb : Reg) (d : Bool) (ord : BitVec 2) (s : State) : Host.Outcome State Fault Refusal :=
  run h (.atomicMaxu h rd ra rb d ord) (atomic h 8 rd ra rb d) s

/-- ATOMIC_CAS (04 Table 4.7); ORD adds nothing here, since accesses to memory complete in program order (09 R221, log 10). -/
def execAtomicCas (h : Hart) (rd ra rb : Reg) (d : Bool) (ord : BitVec 2) (s : State) : Host.Outcome State Fault Refusal :=
  run h (.atomicCas h rd ra rb d ord) (atomic h 9 rd ra rb d) s

end Sys2Proof.Machine
end

