-- ==== Sys2Proof/Machine/CacheOps.lean ====
section
/-! DEFINITION. Cache maintenance and way locking (04 R115-R117, 08 R202-R214). -/

namespace Sys2Proof.Machine
open Sys2Proof

/-! ## What an operation does to one line (08 Table 8.4) -/

/-- Every dirty L1D bit of a line goes; its data is in the L2 line. -/
def l1Clean (tiles : List Nat) (line : Nat) (s : State) : State := tiles.foldl (fun s t => l1dDirty t line false s) s

/-- The tiles a line's filter entry names. -/
def lineHolders (s : State) (line : Nat) : List Nat :=
  match sfFind s line with | some e => sfHolders e | none => []

/-- Nothing lies beneath the line any more: memory holds its value. -/
def memCurrent (line : Nat) (s : State) : State := dropUnder1 line (dropUnder2 line (dropUnder3 line s))

/-- Whether a line is dirty in an L2 or in its LLC sector. -/
def lineDirty (s : State) (line : Nat) : Bool := (lineHolders s line).any (fun t => l2IsDirty s t line) || llcDirty s line

/-- A line's value goes to memory when a copy of it is dirty. -/
def writtenBack (dirty : Bool) (line : Nat) (s : State) : State := memCurrent line (if dirty then memWritten line s else s)

/-- The LLC sector of a line becomes clean. -/
def llcClean (line : Nat) (s : State) : State := llcMod line (fun e => some { e with dirty := e.dirty &&& ~~~(sectorBit line) }) s

/-- The holders' states after CLEAN: M becomes E, O becomes S, and an entry in O turns to S. -/
def cleanHolders (line : Nat) (s : State) : State :=
  let hs := lineHolders s line
  let s := hs.foldl (fun s t =>
    if l2State s t line = some .m then l2SetState t line (some .e) s
    else if l2State s t line = some .o then l2SetState t line (some .s) s else s) (l1Clean hs line s)
  match sfFind s line with
  | some e => if e.st = .o then
      (match e.own with
       | some o => sfStore { sfAddSharer o e with st := .s, own := none } s
       | none => sfStore { e with st := .s } s) else s
  | none => s

/-- CLEAN of a line: written back; the LLC sector becomes clean. -/
def cmoClean (line : Nat) (s : State) : State := writtenBack (lineDirty s line) line (llcClean line (cleanHolders line s))

/-- The LLC sector of a line goes; a locked entry stays locked, empty when its last sector went. -/
def llcEmpty (line : Nat) (s : State) : State :=
  llcMod line (fun e =>
    let v := e.valid &&& ~~~(sectorBit line)
    let e' := { e with valid := v, dirty := e.dirty &&& ~~~(sectorBit line) }
    if v = 0 then (if e.lock then some { e' with empty := true } else none) else some e') s

/-- Every copy of a line goes: L1s, L2s with their shadow entries, filter entry and LLC sector. -/
def lineGone (line : Nat) (s : State) : State := llcEmpty line (removeFromL2s line s).1

/-- CLINV of a line: written back, then invalidated. -/
def cmoClinv (line : Nat) (s : State) : State := writtenBack (lineDirty s line) line (lineGone line s)

/-- Whether a line's LLC entry is locked. -/
def llcLocked (s : State) (line : Nat) : Bool := match llcFind s line with | some (_, e) => e.lock | none => false

/-- What memory holds of a line once every dirty copy that INVAL discards is gone: a dirty locked LLC sector is written back, an unlocked
one is discarded (08 R204). -/
def discarded (s : State) (line : Nat) : Line :=
  if llcLocked s line && llcDirty s line then (mFind s.mem.under2 line).getD (getLine s line) else dramCopy s line

/-- INVAL of a line: a dirty locked sector is written back; whether other discarded data had been written back before is not defined, so a
free value decides (08 R204, log 14). -/
def cmoInval (line : Nat) (s : State) : State :=
  let old := discarded s line
  let back := llcLocked s line && llcDirty s line
  let f := takeFree (lineGone line s)
  writtenBack back line (if f.1 % 2 = 0 then setLine line old f.2 else f.2)

/-! ## Locking (08 R210-R214) -/

/-- The owner of an LLC way at a slice position; ways 0 to 7 have none (08 Table 8.7). -/
def wayOwner (s : State) (pos way : Nat) : Nat :=
  if way < 8 then 0xFF else nbits (objN s 0x4300 pos) (8 * (way - 8) + 7) (8 * (way - 8))

/-- The ways of a slice an enclosure owns. -/
def ownWays (s : State) (e pos : Nat) : List Nat := (List.range 16).filter (fun w => wayOwner s pos w = e)

/-- A lock-load is refused for a line (08 R214). -/
def lockRefused (h : Hart) (line : Nat) (s : State) : State :=
  let s := modCpu h (setSys 0xC21 (BitVec.ofNat 64 (2 ^ 63 + line * 64))) s
  countH h 0x3D 1 (bumpObj 0x9710 (enclOf s h) 32 1 s)

/-- LOCKLD of one line at its home (08 R212): the first case that applies, the lowest way within it. Answers whether it was taken. -/
def lockLine (e line : Nat) (s : State) : State × Bool :=
  let pos := slicePos line
  let q := setOf (sliceAt s pos).llc (llcSet line)
  let ws := ownWays s e pos
  let entry (w : Nat) : Option LlcEntry := mFind q.ways w
  let holds (w : Nat) : Bool := match entry w with | some x => x.lock && !x.empty && decide (x.block = line / 4) | none => false
  let emptyLock (w : Nat) : Bool := match entry w with | some x => x.lock && x.empty | none => false
  let unlocked (w : Nat) : Bool := match entry w with | some x => !x.lock | none => true
  let moved : Option (Nat × LlcEntry) := (llcFind s line).filter (fun p => !p.2.lock)
  let owned := (lineHolders s line).any (fun t => l2IsDirty s t line)
  let asRead (s : State) : State :=
    if ¬ owned then s
    else let s := keepUnder3 line s
         { s with mem := { s.mem with under2 := mIns s.mem.under2 line (getLine s line) } }
  let take (w : Nat) (s : State) : State :=
    let s := match entry w with
      | some x => if x.empty ∨ x.block = line / 4 then s else entryWriteBack x s
      | none => s
    let q := match moved with | some (w', _) => { q with ways := mDel q.ways w' } | none => q
    let v := match moved with | some (_, x) => x.valid | none => 0
    let d := match moved with | some (_, x) => x.dirty | none => 0
    let s := if flag v (line % 4) then s else asRead (if owned then s else memRead line s)
    setLlc line (psPut 4 w ⟨line / 4, true, false, v ||| sectorBit line, d⟩ q) s
  match ws.find? holds with
  | some w =>
    let x := (entry w).getD ⟨line / 4, true, false, 0, 0⟩
    let s := if flag x.valid (line % 4) then s else asRead (if owned then s else memRead line s)
    (setLlc line (psPut 4 w { x with valid := x.valid ||| sectorBit line } q) s, true)
  | none => match ws.find? emptyLock with
    | some w => (take w s, true)
    | none => match ws.find? unlocked with
      | some w => (take w s, true)
      | none => (s, false)

/-! ## Scopes (04 R115, R116; 08 R205-R207) -/

/-- The four operations by line. -/
inductive CmoOp where
  | clean
  | inval
  | clinv
  | lockld
deriving DecidableEq, Repr

/-- The access an operation needs (04 R117). -/
def cmoAccess : CmoOp → Access
  | .inval => .store
  | _ => .load

/-- The code of an operation's request (10 Table 10.6), and back. -/
def cmoOpc : CmoOp → Nat
  | .clean => 0x0B
  | .inval => 0x0C
  | .clinv => 0x0D
  | .lockld => 0x0E
def cmoOf (opc : Nat) : CmoOp := if opc = 0x0B then .clean else if opc = 0x0C then .inval else if opc = 0x0D then .clinv else .lockld

/-- One operation on a quiet line of memory, at its home. -/
def cmoHome (h : Hart) (op : CmoOp) (line : Nat) (s : State) : State :=
  match op with
  | .clean => cmoClean line s
  | .inval => cmoInval line s
  | .clinv => cmoClinv line s
  | .lockld => let r := lockLine (enclOf s h) line s
               if r.2 then r.1 else lockRefused h line s

/-- Maintenance requests of a unit whose Comp has not come. -/
def cmoFlight (s : State) (u : Nat) : Nat := (s.mshr.filter (fun m => decide (m.1 / 1024 = u ∧ 0x0B ≤ m.2.opc ∧ m.2.opc ≤ 0x0E))).length

/-- One operation on one line of memory, once it has left the combining buffer (09 R223): done at once or sent to the line's home, of which
32 may be in flight (08 R208). Answers whether it was. -/
def cmoLine (h : Hart) (op : CmoOp) (line : Nat) (s : State) : State × Bool :=
  let u := unitOf s h
  let r := ntLeave h line s
  let s := r.1
  if ¬ r.2 ∨ asking s u line ∨ wbPending s u line then (s, false)
  else if lineQuiet s line then (cmoHome h op line s, true)
  else if 32 ≤ cmoFlight s u ∨ 48 ≤ requestsOut s u then (s, false)
  else (sendAsk h (cmoOpc op) line s, true)

/-- One operation on the line of a physical address: nothing for device space and PCIe windows (04 R117), a record for an unbacked one. -/
def cmoPa (h : Hart) (op : CmoOp) (pa : Nat) (s : State) : State × Bool :=
  if locBase ≤ pa then (s, true)
  else match placeOf s (enclOf s h) pa with
    | .mem => cmoLine h op (lineOf pa) s
    | .unbacked => (reportAccess h 0x0305 4 pa s, true)
    | _ => (s, true)

/-- How many lines `n` octets from `va` touch. -/
def linesIn (va : Word) (n : Nat) : Nat := if n = 0 then 0 else (va.toNat % 64 + n + 63) / 64

/-- The pages that `n` octets from `va` touch, the first by the address itself. -/
def pagesOf (va : Word) (n : Nat) : List (Word × Nat) :=
  if n = 0 then []
  else (List.range ((va.toNat % 4096 + n + 4095) / 4096)).map (fun i =>
    (if i = 0 then va else BitVec.ofNat 64 (va.toNat / 4096 * 4096 + 4096 * i), 1))

/-- The page address of a pass's translation that serves an address. -/
def paIn (tr : List (Word × Nat)) (va : Word) : Nat :=
  match tr.find? (fun p => decide (p.1.toNat / 4096 = va.toNat / 4096)) with
  | some (_, pa) => pa / 4096 * 4096 + va.toNat % 4096
  | none => 0

/-- An operation under way stops at a line boundary (08 R207): 64 lines are done, and 8,000 ticks have passed or an event waits. -/
def cmoStops (h : Hart) (done at_ : Nat) (s : State) : Bool := decide (64 ≤ done) && (decide (at_ + 8000 ≤ s.stamp) || hartEvent h s)

/-- The lines of an operation in increasing order, as far as they can be done or sent: the next line, how many were, and how many are left. -/
def cmoLines (h : Hart) (op : CmoOp) (pages : List (Word × Nat)) (at_ : Nat) : Nat → Word → Nat → State → State × Word × Nat × Nat
  | 0, next, done, s => (s, next, done, 0)
  | left + 1, next, done, s =>
    if cmoStops h done at_ s then (s, next, done, left + 1)
    else
      let r := cmoPa h op (paIn pages next) s
      if r.2 then cmoLines h op pages at_ left (next + 64) (done + 1) r.1 else (r.1, next, done, left + 1)

/-- What a range operation leaves in rd (04 R116, 08 R207): the octets from the first line not processed, 0 when no line remains. -/
def cmoLeft (base len : Word) (done left : Nat) : Word :=
  if left = 0 ∧ len.toNat ≤ 2 ^ 20 then 0 else BitVec.ofNat 64 (base.toNat + len.toNat - (base.toNat / 64 * 64 + 64 * done))

/-- An operation goes on (08 R207, R208): it ends once every line processed is handled at its home; until then the hart waits. -/
def cmoGo (h : Hart) (op : CmoOp) (next : Word) (left done at_ : Nat) (pages : List (Word × Nat)) (range : Option (Reg × Word × Word))
    (s : State) : State × Done :=
  let r := cmoLines h op pages at_ left next done s
  let s := r.1
  let d := r.2.2.1
  let l := r.2.2.2
  if cmoFlight s (unitOf s h) = 0 ∧ (l = 0 ∨ cmoStops h d at_ s = true) then
    (match range with
     | some (rd, base, len) => writeG h rd ⟨cmoLeft base len d l, .data⟩ s
     | none => (s, .seq))
  else (modCpu h (fun c => { c with wait := .cmo (cmoOpc op) r.2.1 l d at_ pages range }) s, .stay)

/-- A hart that waits for its cache operation goes on with it; when it ends, the instruction retires. -/
def cmoOn (h : Hart) (s : State) : State :=
  match (cpuOf s h).wait with
  | .cmo opc next left done at_ pages range =>
    let op := cmoOf opc
    let r := cmoGo h op next left done at_ pages range s
    if r.2 = .stay then r.1
    else retireWaited h (pages.map (fun p => (cmoAccess op, p.1))) (modCpu h (fun c => { c with wait := .none }) r.1)
  | _ => s

/-- Address and range scope, once every older store has left the store buffer (08 R202). A range acts on at most 1 MiB (04 R116); its base is
checked like that of an operation by address, and a handle as its length like a handle in an address (log 100). -/
def cmoSpan (h : Hart) (op : CmoOp) (rd ra rb : Reg) (range : Bool) (s : State) : State × Done :=
  let c := cpuOf s h
  let base := gpr c ra
  let len := gpr c rb
  match addrExc h c base (if range then [len] else []) [] with
  | some e => (s, .exc e)
  | none =>
    let n := if range then min len.v.toNat (2 ^ 20) else 1
    let ps := pagesOf base.v n
    match xlate h (cmoAccess op) ps s with
    | (.error d, s) => (s, d)
    | (.ok pas, s) =>
      afterStores h (fun s =>
        let first := BitVec.ofNat 64 (base.v.toNat / 64 * 64)
        let r := cmoGo h op first (linesIn base.v n) 0 s.stamp ((ps.map (·.1)).zip pas) (if range then some (rd, base.v, len.v) else none) s
        if r.2 = .stay then r else (useTlbs h (cmoAccess op) ps r.1, r.2)) s

/-- Whether a set/way operand is in range (08 Table 8.5): level 0 L1D, 1 L2, 2 LLC. -/
def setWayOk (lvl : Nat) (w : Word) : Bool :=
  decide (fld w 63 32 = 0) && decide (fld w 23 20 = 0) && decide (fld w 7 4 = 0) &&
  (if lvl = 0 then decide (fld w 31 24 = 0) && decide (fld w 19 8 ≤ 127) && decide (fld w 3 0 ≤ 7)
   else if lvl = 1 then decide (fld w 31 24 = 0) && decide (fld w 19 8 ≤ 1023)
   else decide (fld w 31 24 ≤ 215) && decide (fld w 19 8 ≤ 383))

/-- Set/way on the L1D (08 Table 8.6). -/
def swL1d (op : CmoOp) (t set way : Nat) (s : State) : State :=
  match mFind (setOf (tileAt s t).l1d set).ways way with
  | none => s
  | some e =>
    let line := e.line
    match op with
    | .clean => dropUnder1 line (l1dDirty t line false s)
    | .inval =>
      let s := l1dDrop t line s
      (match mFind s.mem.under1 line with
       | some l => dropUnder1 line (setLine line l s)
       | none => s)
    | _ => dropUnder1 line (l1dDrop t line s)

/-- Set/way on the L2 of a quiet line (08 Table 8.6). -/
def swL2 (op : CmoOp) (t line : Nat) (s : State) : State :=
  let dirty := l2IsDirty s t line
  match op with
  | .clean =>
    if ¬ dirty then s
    else
      let o := decide (l2State s t line = some .o)
      let s := homeTakeDirty line (l1dDirty t line false s)
      let s := l2SetState t line (some (if o then .s else .e)) s
      (match sfFind s line with
       | some x => if x.st = .o then sfStore { sfAddSharer t x with st := .s, own := none } s else s
       | none => s)
  | .inval =>
    let s := sfLeave t line (tileDrop t line s)
    (match dirty, mFind s.mem.under2 line with
     | true, some l => dropUnder1 line (dropUnder2 line (setLine line l s))
     | _, _ => s)
  | _ =>
    let s := tileDrop t line s
    sfLeave t line (if dirty then homeTakeDirty line s else s)

/-- Set/way on the L2 of any other line: an invalidation goes to its home as an eviction, with its data or, when that is discarded, without;
CLEAN goes as a maintenance request (log 101). -/
def swL2Far (h : Hart) (op : CmoOp) (t line : Nat) (s : State) : State :=
  match op with
  | .clean => if l2IsDirty s t line then ask h 0x0B line s else s
  | .inval =>
    let s := match l2IsDirty s t line, mFind s.mem.under2 line with
      | true, some l => dropUnder1 line (dropUnder2 line (setLine line l s))
      | _, _ => s
    pushOut t line (l2SetState t line (some .s) s)
  | _ => pushOut t line s

/-- What is beneath an LLC sector that is dropped dirty becomes memory's value, or the copy beneath a dirty L2 line. -/
def llcDiscard (line : Nat) (s : State) : State :=
  match mFind s.mem.under3 line with
  | none => s
  | some l =>
    let s := dropUnder3 line s
    if (mFind s.mem.under2 line).isSome then { s with mem := { s.mem with under2 := mIns s.mem.under2 line l } } else setLine line l s

/-- Set/way on the LLC: all four sectors of the entry (08 Table 8.6); entries outside the enclosure's memory and ways are skipped (08 R206). -/
def swLlc (op : CmoOp) (e pos set way : Nat) (s : State) : State :=
  let q := setOf (sliceAt s pos).llc set
  let own := wayOwner s pos way
  match mFind q.ways way with
  | none => s
  | some x =>
    if x.empty ∨ own ≠ e ∨ placeOf s e (x.block * 256) ≠ .mem then s
    else
      let put (y : Option LlcEntry) (s : State) : State :=
        modSlice pos (fun sl => { sl with llc := putSet set { q with ways := match y with | some y => mIns q.ways way y | none => mDel q.ways way } sl.llc }) s
      let gone : Option LlcEntry := if x.lock then some { x with empty := true, valid := 0, dirty := 0 } else none
      match op with
      | .clean => put (some { x with dirty := 0 }) (entryWriteBack x s)
      | .inval =>
        if x.lock then put gone (entryWriteBack x s)
        else put gone ((List.range 4).foldl (fun s i => llcDiscard (4 * x.block + i) s) s)
      | _ => put gone (entryWriteBack x s)

/-- A fill of an entry is in flight (08 R206): of an L1D or L2 way by a request of its tile, of an LLC set by a lock-load. -/
def fillInFlight (s : State) (u : Nat) (lvl set way pos : Nat) : Bool :=
  if lvl = 2 then (sliceAt s pos).txns.any (fun t => decide (t.req = .lockLd ∧ llcSet t.line = set))
  else s.mshr.any (fun m =>
    let l := m.2.q.addr
    decide (m.1 / 1024 = u) && (m.2.opc = 0 || m.2.opc = 1 || m.2.opc = 2 || m.2.opc = 3) &&
      (if lvl = 0 then
        let q := setOf (tileAt s u).l1d set
        decide (l1dSet l = set) && decide ((psFind (fun e => decide (e.line = l)) q).getD (psVictim 3 (fun _ => true) q) = way)
       else
        let q := setOf (tileAt s u).l2 set
        decide (l2Set l = set) && decide ((psFind (fun e => decide (e.line = l)) q).getD (psVictim 4 (fun _ => true) q) = way)))

/-- The line of the L1D or L2 entry that a set/way operand names. -/
def entryLine (s : State) (u lvl set way : Nat) : Option Nat :=
  if lvl = 0 then (mFind (setOf (tileAt s u).l1d set).ways way).map (·.line)
  else if lvl = 1 then (mFind (setOf (tileAt s u).l2 set).ways way).map (·.line)
  else none

/-- A set/way operation on an L2 entry: at once on a quiet line; otherwise the instruction is held until its home has accepted it. -/
def cmoL2 (h : Hart) (op : CmoOp) (t set way : Nat) (s : State) : State × Done :=
  if (tileAt s t).wb.any (fun w => decide (l2Set w.line = set)) then (s, .hold)
  else match entryLine s t 1 set way with
    | none => (s, .seq)
    | some line =>
      if asking s t line then (s, .hold)
      else if lineQuiet s line then (swL2 op t line s, .seq)
      else if op = .clean ∧ l2IsDirty s t line = false then (s, .seq)
      else (swL2Far h op t line s, .hold)

/-- Set/way scope of CLEAN, INVAL and CLINV (08 R205, R206), once every older store has left the store buffer (06 R144). The line of the
entry leaves the combining buffer first (09 R223), and a fill of the entry is waited for. -/
def cmoSetWay (h : Hart) (op : CmoOp) (lvl : BitVec 2) (ra : Reg) (s : State) : State × Done :=
  let x := gpr (cpuOf s h) ra
  match srcExc (cpuOf s h) [x] with
  | some e => (s, .exc e)
  | none =>
    afterStores h (fun s =>
      if ¬ setWayOk lvl.toNat x.v then (s, .seq)
      else
        let t := unitOf s h
        let set := fld x.v 19 8
        let way := fld x.v 3 0
        let pos := fld x.v 31 24
        if fillInFlight s t lvl.toNat set way pos then (s, .hold)
        else
          let lines := if lvl = 2 then (match mFind (setOf (sliceAt s pos).llc set).ways way with
              | some y => (List.range 4).map (fun i => 4 * y.block + i)
              | none => [])
            else (entryLine s t lvl.toNat set way).toList
          let r := lines.foldl (fun r l => let y := ntLeave h l r.1; (y.1, r.2 && y.2)) (s, true)
          if ¬ r.2 then (r.1, .hold)
          else if lvl = 0 then (swL1d op t set way r.1, .seq)
          else if lvl = 1 then cmoL2 h op t set way r.1
          else (swLlc op (enclOf s h) pos set way r.1, .seq)) s

/-- A cache operation of any scope. -/
def cmo (h : Hart) (op : CmoOp) (rd ra rb : Reg) (sc : Scope) (s : State) : State × Done :=
  match sc with
  | .addr => cmoSpan h op rd ra rb false s
  | .range => cmoSpan h op rd ra rb true s
  | .setway lvl => cmoSetWay h op lvl ra s

/-- UNLOCK (08 R213). -/
def unlockWay (h : Hart) (ra : Reg) (s : State) : State × Done :=
  let c := cpuOf s h
  let x := gpr c ra
  match srcExc c [x] with
  | some e => (s, .exc e)
  | none =>
    afterStores h (fun s =>
    if ¬ setWayOk 2 x.v then (s, .seq)
    else
      let pos := fld x.v 31 24
      let set := fld x.v 19 8
      let way := fld x.v 3 0
      let q := setOf (sliceAt s pos).llc set
      match mFind q.ways way with
      | none => (s, .seq)
      | some y =>
        if wayOwner s pos way ≠ enclOf s h ∨ ¬ y.lock then (s, .seq)
        else
          let ways := if y.empty then mDel q.ways way else mIns q.ways way { y with lock := false }
          (modSlice pos (fun sl => { sl with llc := putSet set { q with ways := ways } sl.llc }) s, .seq)) s

/-- DCZ (08 R203): one store-buffer entry of 64 zero octets with DATA tags. -/
def dcz (h : Hart) (ra : Reg) (s : State) : State × Done :=
  let c := cpuOf s h
  let base := gpr c ra
  match addrExc h c base [] [] with
  | some e => (s, .exc e)
  | none =>
    let va := BitVec.ofNat 64 (base.v.toNat / 64 * 64)
    match xlate h .store [(base.v, 1)] s with
    | (.error d, s) => (s, d)
    | (.ok pas, s) =>
      let pa := pas.headD 0 / 64 * 64
      let zeros := List.replicate 64 (0 : Byte)
      if toDevice h s pas then (s, .exc { code := 0x08, tval := base.v })
      else
        let room := sbRoom h 1 s
        if ¬ room.2 then (room.1, .hold)
        else
          let s := useTlbs h .store [(base.v, 1)] room.1
          if locBase ≤ pa then
            ((List.range 8).foldl (fun s i => storeHalf h false (some .data) c.pc va (pa + 8 * i) (List.replicate 8 0) s) s, .seq)
          else if placeH h s pa = .unbacked then (reportAccess h 0x0305 1 pa s, .seq)
          else (noticeStore h pa 64 (sbPush h ⟨pa, zeros, none, true, false, false, va, c.pc⟩ s), .seq)

/-! ## Meanings -/

/-- DCZ (04 Table 4.11). -/
def execDcz (h : Hart) (ra : Reg) (s : State) : Host.Outcome State Fault Refusal := run h (.dcz h ra) (dcz h ra) s

/-- CLEAN (04 Table 4.11, 08 R204-R206). -/
def execClean (h : Hart) (rd ra rb : Reg) (sc : Scope) (s : State) : Host.Outcome State Fault Refusal :=
  run h (.clean h rd ra rb sc) (cmo h .clean rd ra rb sc) s

/-- INVAL (04 Table 4.11, 08 R204-R206). -/
def execInval (h : Hart) (rd ra rb : Reg) (sc : Scope) (s : State) : Host.Outcome State Fault Refusal :=
  run h (.inval h rd ra rb sc) (cmo h .inval rd ra rb sc) s

/-- CLINV (04 Table 4.11, 08 R204-R206). -/
def execClinv (h : Hart) (rd ra rb : Reg) (sc : Scope) (s : State) : Host.Outcome State Fault Refusal :=
  run h (.clinv h rd ra rb sc) (cmo h .clinv rd ra rb sc) s

/-- LOCKLD (04 Table 4.11, 08 R212). -/
def execLockld (h : Hart) (rd ra rb : Reg) (sc : Scope) (s : State) : Host.Outcome State Fault Refusal :=
  run h (.lockld h rd ra rb sc) (cmo h .lockld rd ra rb sc) s

/-- UNLOCK (04 Table 4.11, 08 R213). -/
def execUnlock (h : Hart) (ra : Reg) (lvl : BitVec 2) (s : State) : Host.Outcome State Fault Refusal :=
  run h (.unlock h ra lvl) (unlockWay h ra) s

end Sys2Proof.Machine
end

