-- ==== Sys2Proof/Machine/Dict.lean ====
section
/-! DEFINITION. The object dictionary's descriptors (22), the change log (19 R526-R528) and the frames the module sends by itself (19 R512). -/

namespace Sys2Proof.Machine
open Sys2Proof

/-! ## Descriptors (22 Tables 22.3-22.15) -/

/-- Rows of the object tables: indices `lo` to `hi`, sub-indices `s0` to `s1`; TYPE, SIZE, ACCESS, WRITERS and PERSIST as INFO codes them
(19 Tables 19.5-19.7); `src` when the default column names a source and INFO reports 0 (22 R565). -/
structure DictRow where
  lo : Nat
  hi : Nat
  s0 : Nat
  s1 : Nat
  ty : Nat
  size : Nat
  access : Nat
  writers : Nat
  persist : Nat
  src : Bool
deriving DecidableEq, Repr

/-- Area 0x0xxx (22 Table 22.3). -/
def dictArea0 : List DictRow :=
  [⟨0x0000, 0x0000, 0x01, 0x01, 3, 8, 0, 0, 4, true⟩,
   ⟨0x0000, 0x0000, 0x02, 0x02, 4, 16, 0, 0, 4, false⟩,
   ⟨0x0000, 0x0000, 0x03, 0x03, 4, 48, 0, 0, 4, false⟩,
   ⟨0x0000, 0x0000, 0x04, 0x04, 3, 4, 0, 0, 0, true⟩,
   ⟨0x0010, 0x0010, 0x01, 0x01, 3, 8, 0, 0, 4, true⟩,
   ⟨0x0020, 0x0020, 0x01, 0x01, 3, 8, 0, 0, 0, true⟩,
   ⟨0x0020, 0x0020, 0x02, 0x02, 1, 4, 0, 0, 4, true⟩,
   ⟨0x0020, 0x0020, 0x03, 0x04, 4, 48, 0, 0, 0, false⟩]

/-- Area 0x1xxx (22 Table 22.4). -/
def dictArea1 : List DictRow :=
  [⟨0x1000, 0x1000, 0x01, 0x01, 3, 4, 2, 1, 0, false⟩,
   ⟨0x1100, 0x1100, 0x01, 0x01, 1, 8, 0, 0, 0, false⟩,
   ⟨0x1110, 0x1110, 0x01, 0x01, 3, 4, 2, 1, 0, false⟩]

/-- Area 0x2xxx (22 Table 22.5). -/
def dictArea2 : List DictRow :=
  [⟨0x2000, 0x2000, 0x01, 0x01, 3, 4, 0, 0, 0, false⟩,
   ⟨0x2000, 0x2000, 0x02, 0x02, 1, 2, 0, 0, 0, false⟩,
   ⟨0x2010, 0x2010, 0x01, 0x01, 1, 2, 1, 1, 2, false⟩,
   ⟨0x2020, 0x2020, 0x01, 0x01, 1, 1, 1, 1, 2, false⟩,
   ⟨0x2020, 0x2020, 0x02, 0x02, 1, 4, 1, 1, 2, false⟩,
   ⟨0x2030, 0x2030, 0x01, 0x01, 1, 1, 0, 0, 0, false⟩,
   ⟨0x2040, 0x2040, 0x01, 0x01, 3, 4, 0, 0, 0, false⟩,
   ⟨0x2040, 0x2040, 0x02, 0x02, 1, 8, 0, 0, 0, false⟩,
   ⟨0x2050, 0x2050, 0x01, 0x01, 3, 4, 0, 0, 0, false⟩,
   ⟨0x2050, 0x2050, 0x02, 0x02, 2, 4, 0, 0, 0, false⟩,
   ⟨0x2060, 0x2060, 0x00, 0xBF, 3, 1, 0, 0, 0, false⟩,
   ⟨0x2070, 0x2070, 0x00, 0x10, 1, 8, 0, 0, 0, false⟩,
   ⟨0x2080, 0x2080, 0x00, 0x06, 1, 2, 0, 0, 0, false⟩]

/-- Area 0x3xxx (22 Table 22.6). -/
def dictArea3 : List DictRow :=
  [⟨0x3000, 0x3000, 0x01, 0x01, 3, 4, 0, 0, 0, false⟩,
   ⟨0x3000, 0x3000, 0x02, 0x02, 3, 4, 0, 0, 0, true⟩,
   ⟨0x3010, 0x3010, 0x00, 0x0F, 1, 8, 4, 4, 3, false⟩,
   ⟨0x3020, 0x3020, 0x01, 0x01, 5, 0, 0, 0, 4, false⟩,
   ⟨0x3030, 0x3030, 0x00, 0x03, 4, 48, 0, 0, 4, false⟩,
   ⟨0x3031, 0x3031, 0x01, 0x02, 3, 1, 0, 0, 4, true⟩,
   ⟨0x3100, 0x3103, 0x00, 0xFF, 3, 8, 4, 4, 3, false⟩,
   ⟨0x3200, 0x3200, 0x00, 0xBF, 1, 1, 4, 4, 3, false⟩,
   ⟨0x3300, 0x3300, 0x00, 0x8F, 1, 1, 4, 4, 3, false⟩,
   ⟨0x3400, 0x3400, 0x00, 0x0F, 3, 8, 4, 4, 3, false⟩,
   ⟨0x3500, 0x3500, 0x00, 0x7F, 3, 2, 4, 4, 3, false⟩,
   ⟨0x3600, 0x3600, 0x00, 0x0F, 3, 6, 4, 4, 3, false⟩]

/-- Area 0x4xxx (22 Table 22.7). -/
def dictArea4 : List DictRow :=
  [⟨0x4000, 0x4000, 0x00, 0x0F, 3, 4, 2, 1, 0, true⟩,
   ⟨0x4010, 0x4010, 0x00, 0x0F, 2, 4, 0, 0, 0, false⟩,
   ⟨0x4020, 0x4020, 0x00, 0x0F, 2, 4, 0, 0, 0, false⟩,
   ⟨0x4030, 0x4030, 0x00, 0xFF, 3, 1, 2, 1, 2, false⟩,
   ⟨0x4100, 0x4100, 0x01, 0x01, 1, 1, 1, 1, 2, false⟩,
   ⟨0x4110, 0x4110, 0x00, 0x0F, 3, 2, 0, 0, 0, false⟩,
   ⟨0x4300, 0x4300, 0x00, 0xD7, 3, 8, 4, 4, 3, false⟩,
   ⟨0x4400, 0x4400, 0x00, 0xD7, 3, 8, 1, 3, 0, false⟩,
   ⟨0x4401, 0x4401, 0x00, 0xDF, 3, 8, 1, 1, 0, false⟩,
   ⟨0x4402, 0x4402, 0x00, 0x0F, 3, 8, 1, 1, 0, false⟩,
   ⟨0x4403, 0x4403, 0x00, 0x00, 3, 8, 1, 1, 0, false⟩,
   ⟨0x4404, 0x4404, 0x00, 0xD7, 3, 8, 1, 3, 0, false⟩,
   ⟨0x4405, 0x4406, 0x00, 0xDF, 3, 8, 1, 1, 0, false⟩,
   ⟨0x4407, 0x4407, 0x00, 0x3F, 3, 8, 1, 1, 0, false⟩,
   ⟨0x4408, 0x4408, 0x00, 0x0F, 3, 8, 1, 1, 0, false⟩,
   ⟨0x4409, 0x4409, 0x00, 0x00, 3, 8, 1, 1, 0, false⟩]

/-- Area 0x5xxx (22 Table 22.8). -/
def dictArea5 : List DictRow :=
  [⟨0x5010, 0x5010, 0x01, 0x01, 1, 1, 0, 0, 0, true⟩,
   ⟨0x5020, 0x5020, 0x00, 0xD7, 3, 1, 0, 0, 0, true⟩,
   ⟨0x5030, 0x5030, 0x00, 0xBF, 1, 1, 0, 0, 0, false⟩,
   ⟨0x5040, 0x5040, 0x00, 0xD7, 2, 4, 0, 0, 0, false⟩,
   ⟨0x5050, 0x5050, 0x00, 0xD7, 3, 2, 0, 0, 0, true⟩,
   ⟨0x5060, 0x5060, 0x00, 0xBF, 2, 4, 0, 0, 0, false⟩,
   ⟨0x5070, 0x5070, 0x01, 0x01, 3, 4, 3, 1, 0, false⟩,
   ⟨0x5100, 0x5100, 0x00, 0x0F, 3, 8, 1, 3, 1, false⟩,
   ⟨0x5110, 0x5110, 0x00, 0x0F, 1, 2, 1, 3, 1, false⟩,
   ⟨0x5120, 0x5120, 0x00, 0x0F, 3, 8, 0, 0, 1, false⟩,
   ⟨0x5200, 0x5200, 0x01, 0x01, 1, 8, 0, 0, 0, false⟩,
   ⟨0x5210, 0x5210, 0x00, 0x00, 5, 524288, 0, 0, 2, false⟩]

/-- Area 0x6xxx (22 Table 22.9). -/
def dictArea6 : List DictRow :=
  [⟨0x6000, 0x6000, 0x00, 0x0F, 3, 4, 0, 0, 0, false⟩,
   ⟨0x6100, 0x6100, 0x00, 0x3F, 3, 8, 0, 0, 0, false⟩,
   ⟨0x6120, 0x6120, 0x01, 0x01, 1, 4, 1, 1, 2, false⟩,
   ⟨0x6120, 0x6120, 0x02, 0x02, 1, 1, 1, 1, 2, false⟩,
   ⟨0x6120, 0x6120, 0x03, 0x03, 1, 4, 1, 1, 2, false⟩,
   ⟨0x6120, 0x6120, 0x04, 0x04, 1, 8, 1, 1, 2, false⟩,
   ⟨0x6200, 0x6200, 0x00, 0x3F, 1, 1, 0, 0, 0, false⟩]

/-- Area 0x7xxx (22 Table 22.10). -/
def dictArea7 : List DictRow :=
  [⟨0x7000, 0x7000, 0x01, 0x01, 1, 4, 1, 1, 2, false⟩,
   ⟨0x7000, 0x7000, 0x02, 0x02, 1, 2, 1, 1, 2, false⟩,
   ⟨0x7000, 0x7000, 0x03, 0x03, 1, 4, 1, 1, 2, false⟩,
   ⟨0x7000, 0x7000, 0x04, 0x04, 1, 1, 1, 1, 2, false⟩,
   ⟨0x7000, 0x7000, 0x05, 0x05, 1, 4, 1, 1, 2, false⟩,
   ⟨0x7010, 0x7010, 0x00, 0x8F, 3, 4, 1, 3, 2, false⟩,
   ⟨0x7020, 0x7020, 0x00, 0x8F, 3, 4, 2, 1, 0, false⟩,
   ⟨0x7030, 0x7030, 0x00, 0x8F, 1, 8, 0, 0, 4, true⟩]

/-- Area 0x8xxx (22 Table 22.11). -/
def dictArea8 : List DictRow :=
  [⟨0x8000, 0x8000, 0x00, 0x07, 3, 8, 0, 0, 0, false⟩,
   ⟨0x8100, 0x8100, 0x00, 0x07, 3, 8, 0, 0, 0, false⟩,
   ⟨0x8200, 0x8200, 0x00, 0x0F, 3, 4, 0, 0, 0, true⟩,
   ⟨0x8300, 0x8300, 0x01, 0x01, 3, 1, 0, 0, 0, false⟩]

/-- Area 0x9xxx (22 Table 22.12). -/
def dictArea9 : List DictRow :=
  [⟨0x9000, 0x9000, 0x01, 0x01, 1, 1, 1, 1, 2, false⟩,
   ⟨0x9100, 0x91D7, 0x00, 0x13, 1, 4, 0, 0, 0, false⟩,
   ⟨0x9200, 0x9201, 0x00, 0x0F, 1, 8, 0, 0, 0, false⟩,
   ⟨0x9300, 0x9301, 0x00, 0x8F, 1, 8, 0, 0, 0, false⟩,
   ⟨0x9400, 0x9401, 0x00, 0x03, 1, 8, 0, 0, 0, false⟩,
   ⟨0x9410, 0x9411, 0x00, 0x03, 1, 8, 0, 0, 0, false⟩,
   ⟨0x9500, 0x9500, 0x00, 0x8F, 3, 8, 0, 0, 0, false⟩,
   ⟨0x9510, 0x9510, 0x00, 0x8F, 2, 4, 0, 0, 0, false⟩,
   ⟨0x9600, 0x9600, 0x00, 0xD7, 3, 8, 0, 0, 0, false⟩,
   ⟨0x9700, 0x9700, 0x00, 0x03, 2, 4, 0, 0, 0, false⟩,
   ⟨0x9710, 0x9710, 0x00, 0x0F, 2, 4, 0, 0, 0, false⟩,
   ⟨0x9800, 0x9800, 0x00, 0x3F, 2, 8, 0, 0, 0, false⟩,
   ⟨0x9810, 0x9811, 0x00, 0x0F, 2, 8, 0, 0, 0, false⟩]

/-- Area 0xAxxx (22 Table 22.13). -/
def dictAreaA : List DictRow :=
  [⟨0xA000, 0xA000, 0x01, 0x01, 1, 1, 0, 0, 0, true⟩,
   ⟨0xA000, 0xA000, 0x02, 0x02, 1, 4, 3, 1, 0, false⟩,
   ⟨0xA010, 0xA010, 0x00, 0x01, 3, 4, 0, 0, 2, false⟩,
   ⟨0xA020, 0xA020, 0x01, 0x01, 1, 2, 1, 1, 2, false⟩,
   ⟨0xA100, 0xA100, 0x00, 0x0F, 1, 1, 3, 3, 0, false⟩,
   ⟨0xA110, 0xA110, 0x00, 0x0F, 4, 40, 3, 2, 1, false⟩,
   ⟨0xA200, 0xA200, 0x01, 0x01, 1, 8, 0, 0, 2, false⟩,
   ⟨0xA210, 0xA210, 0x00, 0x00, 5, 2097152, 0, 0, 2, false⟩]

/-- Area 0xBxxx (22 Table 22.14). -/
def dictAreaB : List DictRow :=
  [⟨0xB000, 0xB000, 0x01, 0x01, 1, 8, 0, 0, 5, false⟩,
   ⟨0xB000, 0xB000, 0x02, 0x02, 4, 32, 0, 0, 5, false⟩,
   ⟨0xB010, 0xB010, 0x01, 0x01, 4, 10, 0, 0, 5, false⟩,
   ⟨0xB010, 0xB010, 0x02, 0x02, 4, 48, 0, 0, 5, false⟩,
   ⟨0xB020, 0xB020, 0x01, 0x01, 3, 4, 0, 0, 5, true⟩,
   ⟨0xB100, 0xB103, 0x00, 0xFF, 4, 32, 0, 0, 5, false⟩,
   ⟨0xB110, 0xB110, 0x01, 0x01, 1, 4, 0, 0, 5, false⟩]

/-- Area 0xCxxx (22 Table 22.15). -/
def dictAreaC : List DictRow :=
  [⟨0xC000, 0xC000, 0x00, 0x03, 3, 1, 0, 0, 0, true⟩,
   ⟨0xC010, 0xC010, 0x00, 0x0F, 3, 4, 2, 1, 0, false⟩,
   ⟨0xC100, 0xC100, 0x00, 0x03, 3, 4, 2, 1, 0, false⟩,
   ⟨0xC110, 0xC110, 0x00, 0x03, 2, 4, 0, 0, 0, false⟩]

/-- Every object of the dictionary (22 R563). -/
def dictRows : List DictRow := dictArea0 ++ dictArea1 ++ dictArea2 ++ dictArea3 ++ dictArea4 ++ dictArea5 ++ dictArea6 ++ dictArea7 ++ dictArea8 ++ dictArea9 ++ dictAreaA ++ dictAreaB ++ dictAreaC

/-- The rows of an index. -/
def rowsOf (idx : Nat) : List DictRow := dictRows.filter (fun r => decide (r.lo ≤ idx ∧ idx ≤ r.hi))

/-- What a dictionary address names (22 R563, R564). -/
inductive Named where
  | noObject
  | noSub
  /-- sub-index 0 of an object whose entries start at 1: the highest sub-index -/
  | count (n : Nat)
  | row (r : DictRow)
deriving DecidableEq, Repr

/-- Look an object up. -/
def named (idx sub : Nat) : Named :=
  match rowsOf idx with
  | [] => .noObject
  | rs => match rs.find? (fun r => decide (r.s0 ≤ sub ∧ sub ≤ r.s1)) with
    | some r => .row r
    | none => if sub = 0 then .count (rs.foldl (fun a r => max a r.s1) 0) else .noSub

/-- The persistence class of a stored object's key (19 Table 19.7). -/
def persistOf (k : Nat) : Nat := match named (k / 256) (k % 256) with | .row r => r.persist | _ => 0

/-- Whether an object keeps its value over a module reset, or over the loss of input and STOPPED (19 Table 19.7, 22 R570). -/
def survives (powerLoss : Bool) (k : Nat) : Bool :=
  let p := persistOf k
  decide (p = 4) || decide (p = 5) || (decide (p = 2) && !powerLoss)

/-! ## The change log -/

/-- Append a record: CLOG_TOTAL counts it, and the oldest of 65,536 is overwritten (19 R526, R528). -/
def clogAdd (r : ClogRec) (s : State) : State :=
  let n := objN s 0xA200 1
  let keep := if s.sdp.clog.length < 65536 then s.sdp.clog else s.sdp.clog.tail
  setObj 0xA200 1 (BitVec.ofNat 64 (n + 1)) { s with
    sdp := { s.sdp with clog := keep ++ [r] }
    ras := { s.ras with logLost := s.ras.logLost.filter (fun x => decide (x ≠ 8192 + n % 65536)) } }

/-- The first 8 octets of the SHA-384 digest of a value (19 R527). -/
def digest8 (bs : List Byte) : Nat := leNat ((Config.standard "SHA-384" [bs]).take 8)

/-- A service or debug event's record (19 Table 19.12, R527): SUB, origin, principal, result and the request's data. -/
def clogEvent (sub origin principal result : Nat) (data : List Byte) (s : State) : State :=
  clogAdd { stamp := s.stamp, sub := sub, origin := origin, principal := principal, result := result, flags := 1 + 4, new := digest8 data } s

/-! ## CAN frames (19 R506-R512) -/

/-- The legal CAN FD data length of at least n octets. -/
def canLen (n : Nat) : Nat := ([8, 12, 16, 20, 24, 32, 48, 64].find? (fun k => decide (n ≤ k))).getD 64

/-- Octets padded to the next legal length. -/
def canPad (bs : List Byte) : List Byte := bs ++ List.replicate (canLen bs.length - bs.length) 0

/-- Send a frame on one port; with node number 0 the ports stay silent (19 R507), in bus-off a port sends nothing (19 R506, R508). -/
def canSend (port ident : Nat) (bs : List Byte) (s : State) : State :=
  let n := objN s 0xA000 1
  if n = 0 ∨ flag (obj s 0xA010 port) 15 then s else emit (.can port (ident + n) (canPad bs)) s

/-- A header (19 Table 19.2). -/
def sdpHeader (svc flags tid status idx sub len : Nat) : List Byte :=
  [BitVec.ofNat 8 svc, BitVec.ofNat 8 flags, BitVec.ofNat 8 tid, BitVec.ofNat 8 status] ++ leBytes 2 idx ++ [BitVec.ofNat 8 sub, BitVec.ofNat 8 len]

/-- A heartbeat on both ports (19 Table 19.3). -/
def heartbeat (s : State) : State :=
  let bs := sdpHeader 0x7E 0 0 0 0 0 26 ++ leBytes 8 s.stamp ++ leBytes 1 (objN s 0x2030 1) ++ leBytes 1 (fld (obj s 0x3000 1) 3 0) ++
    leBytes 8 (objN s 0x5200 1) ++ leBytes 8 (objN s 0xA200 1)
  canSend 1 0x200 bs (canSend 0 0x200 bs s)

/-- An emergency frame on both ports (19 Table 19.3): cause, stamp, input voltage in 10 mV, newest SEQ. -/
def emergencyFrame (cause vin : Nat) (s : State) : State :=
  let bs := sdpHeader 0x7F 0 0 0 0 0 19 ++ leBytes 1 cause ++ leBytes 8 s.stamp ++ leBytes 2 vin ++ leBytes 8 (objN s 0x5200 1)
  canSend 1 0x080 bs (canSend 0 0x080 bs s)

end Sys2Proof.Machine
end

