-- ==== Sys2Proof/Machine/Proxy.lean ====
section
/-! DEFINITION. The link units as proxies (10 R264, 21 R557, R558): what they send over a link for this socket's units, and what they issue
here for the peer's. -/

namespace Sys2Proof.Machine
open Sys2Proof

/-! ## Sending (21 R557-R559) -/

/-- Send one sequenced flit; a full replay buffer holds it back. -/
def sendFlit (l : Nat) (slots : List Slot) (s : State) : State :=
  let k := linkAt s l
  if 512 ≤ k.replay.length then modLink l (fun k => { k with held := k.held ++ [slots] }) s
  else bwAdd 0x9400 l 192 <| emit (.flit l 0 k.txSeq k.rxSeq slots)
    (modLink l (fun k => { k with txSeq := (k.txSeq + 1) % 4096, replay := k.replay ++ [(k.txSeq, slots)] }) s)

/-- An ACK covers every flit before it: those leave the replay buffer and held flits follow. -/
def takeAck (l ack : Nat) (s : State) : State :=
  let k := linkAt s l
  let keep := k.replay.filter (fun f => decide (512 ≤ (ack + 4095 - f.1) % 4096))
  if keep.length = k.replay.length then s
  else
    let s := modLink l (fun k => { k with replay := keep, held := [], replays := none }) s
    k.held.foldl (fun s f => sendFlit l f s) s

/-- The line a mesh message names, if it names one. -/
def msgLine : Msg → Option Nat
  | .req _ q => some q.addr
  | .snp _ q => some q.addr
  | _ => none

/-- A message takes its slots of its class's credit: 1, or 3 for a DAT (21 R558). -/
def useCredit (l : Nat) (m : Msg) (s : State) : State :=
  modLink l (fun k => match m with
    | .req _ _ => { k with crReq := k.crReq - 1 }
    | .snp _ _ => { k with crSnp := k.crSnp - 1 }
    | .rsp _ _ => { k with crRsp := k.crRsp - 1 }
    | .dat _ _ => { k with crDat := k.crDat - 3 }) s

/-- The class of a link message: its network. -/
def msgClass : Msg → Nat
  | .req _ _ => 0
  | .snp _ _ => 1
  | .rsp _ _ => 2
  | .dat _ _ => 3

/-- Too few slots of a message's class are left. What the credits are before the peer's first CREDIT is not stated, and none holds a message
back until then (log 88). -/
def noCredit (k : SlLink) (m : Msg) : Bool :=
  k.told && (match m with
    | .req _ _ => decide (k.crReq < 1)
    | .snp _ _ => decide (k.crSnp < 1)
    | .rsp _ _ => decide (k.crRsp < 1)
    | .dat _ _ => decide (k.crDat < 3))

/-- Send a message on a link; without credit, or behind an older message of its class, it waits (21 R558). -/
def sendMsg (l : Nat) (m : Msg) (s : State) : State :=
  let k := linkAt s l
  if k.waiting.any (fun x => decide (msgClass x = msgClass m)) || noCredit k m then modLink l (fun k => { k with waiting := k.waiting ++ [m] }) s
  else sendFlit l [.msg m] (useCredit l m s)

/-- A link unit sends a message on the link of its line (21 R560). -/
def linkSend (peer line : Nat) (m : Msg) (s : State) : State :=
  match linkOfLine (groupOf s peer) line with
  | some l => sendMsg l m s
  | none => s

/-- Send messages of one line. -/
def linkSends (peer line : Nat) (ms : List Msg) (s : State) : State := ms.foldl (fun s m => linkSend peer line m s) s

/-! ## What the link units keep -/

/-- What the link units toward a peer keep. -/
def proxyOf (s : State) (p : Nat) : Proxy := mGet {} s.proxies p

/-- Change what the link units toward a peer keep. -/
def modProxy (p : Nat) (f : Proxy → Proxy) (s : State) : State := { s with proxies := mPut {} s.proxies p (f (proxyOf s p)) }

/-- The directory of a peer's line. -/
def dirOf (s : State) (p line : Nat) : DirLine := (mFind (proxyOf s p).dir line).getD ⟨[], none⟩

/-- Write a line's directory entry; a line without holders has none. -/
def dirPut (p line : Nat) (d : DirLine) : State → State :=
  modProxy p (fun x => { x with dir := if d.holders = [] then mDel x.dir line else mIns x.dir line d })

/-- A tile holds a peer's line, as its owner or not. -/
def dirAdd (p line t : Nat) (own : Bool) (s : State) : State :=
  let d := dirOf s p line
  dirPut p line { holders := if d.holders.contains t then d.holders else d.holders ++ [t], own := if own then some t else d.own } s

/-- A tile holds a peer's line no more. -/
def dirLeave (p line t : Nat) (s : State) : State :=
  let d := dirOf s p line
  dirPut p line { holders := d.holders.filter (fun h => h ≠ t), own := if d.own = some t then none else d.own } s

/-- A tile gives up the ownership of a peer's line. -/
def dirDisown (p line t : Nat) (s : State) : State :=
  let d := dirOf s p line
  dirPut p line { d with own := if d.own = some t then none else d.own } s

/-- The number that this socket's next request carries on a link: TXIDs from 512 up, HTXIDs below it (log 103). -/
def freeOut (x : Proxy) : Nat := 512 + ((List.range 512).find? (fun k => (mFind x.outq (512 + k)).isNone)).getD 511
def freeSnp (x : Proxy) : Nat := ((List.range 512).find? (fun k => (mFind x.osnp k).isNone)).getD 511

/-- The request of this socket behind a unit's transaction, with its number on the link. -/
def outOf (s : State) (p src txid : Nat) : Option (Nat × LinkReq) :=
  (proxyOf s p).outq.find? (fun e => decide (e.2.src = src ∧ e.2.txid = txid))

/-- The snoop of a home here behind its transaction, with its number on the link. -/
def snpOf (s : State) (p src htxid : Nat) : Option (Nat × LinkSnoop) :=
  (proxyOf s p).osnp.find? (fun e => decide (e.2.src = src ∧ e.2.htxid = htxid))

/-! ## Messages -/

/-- An RSP of a unit, with this socket's epoch and stamp. -/
def rspMsg (opc dest src txid info : Nat) (spr : Bool) (s : State) : Msg :=
  .rsp opc { dest := dest, src := src, txid := txid, info := info, spr := spr, epoch := s.mesh.epoch, lstamp := s.stamp % 4096 }

/-- An RSP or DAT message from a unit to the slice that answers for a line. -/
def toSlice (line src txid : Nat) (m : Msg) (s : State) : State :=
  let t := sliceTarget s (slicePos line)
  match m with
  | .rsp o q => send (rspMsg o (t % 512) src txid q.info (decide (512 ≤ t)) s) s
  | .dat o f => send (.dat o { f with dest := t % 512, src := src, txid := txid, spr := decide (512 ≤ t), epoch := s.mesh.epoch, wrap := false, lstamp := s.stamp % 4096 }) s
  | _ => s

/-- A message from a link unit to a unit here. -/
def toUnit (dest src txid : Nat) (m : Msg) (s : State) : State :=
  match m with
  | .rsp o q => send (rspMsg o dest src txid q.info false s) s
  | .dat o f => send (.dat o { f with dest := dest, src := src, txid := txid, spr := false, epoch := s.mesh.epoch, wrap := false, lstamp := s.stamp % 4096 }) s
  | _ => s

/-- The transaction identifier of an RSP or DAT message. -/
def msgTxid : Msg → Nat
  | .rsp _ q => q.txid
  | .dat _ f => f.txid
  | .req _ q => q.txid
  | .snp _ q => q.htxid

/-- An RSP or DAT message with another transaction identifier, as it goes over the link. -/
def withTxid (k : Nat) : Msg → Msg
  | .rsp o q => .rsp o { q with txid := k }
  | .dat o f => .dat o { f with txid := k }
  | .req o q => .req o { q with txid := k }
  | .snp o q => .snp o { q with htxid := k }

/-- The last flit of an answer. -/
def lastPart : Msg → Bool
  | .dat o f => f.half || decide (o = 7 ∨ o = 0xD ∨ o = 0xE)
  | _ => true

/-- How a request of a line that nothing stands behind is answered (01 R32): a read as POIS words of 0, a write as done. -/
def unbackedAnswer (opc dest src txid : Nat) (s : State) : List Msg :=
  let rsp (o info : Nat) : List Msg := [rspMsg o dest src txid info false s]
  match opc with
  | 0x0 => lineFlits 0 dest src txid false (zeroLine 7) s
  | 0x1 => lineFlits 1 dest src txid false (zeroLine 7) s
  | 0x2 => rsp 2 2
  | 0x3 => rsp 2 3
  | 0x4 => lineFlits 5 dest src txid false (zeroLine 7) s
  | 0x5 => lineFlits 6 dest src txid false (zeroLine 7) s
  | 0x6 => rsp 1 1
  | 0xA => [.dat 0xD { dest := dest, src := src, txid := txid, be := BitVec.allOnes 32, epoch := s.mesh.epoch, lstamp := s.stamp % 4096, tags := 0x7777 }]
  | 0xE => rsp 1 2
  | 0x10 | 0x11 | 0x12 | 0x14 => []
  | _ => rsp 1 0

/-! ## The peer's snoops at this socket's holders (10 R264, Table 10.10) -/

/-- A link unit snoops holders here. -/
def snoopHolders (p u j opc line : Nat) (hs : List Nat) (s : State) : State :=
  let s := modProxy p (fun x => { x with isnp := mIns x.isnp j { opc := opc, line := line, waits := hs } }) s
  hs.foldl (fun s t => send (.snp opc { dest := t, src := u, htxid := j, addr := line, epoch := s.mesh.epoch, lstamp := s.stamp % 4096 }) s) s

/-- A grant of the peer's home reaches the unit that asked. -/
def grantIn (p u k : Nat) (m : Msg) (own last : Bool) (s : State) : State :=
  match mFind (proxyOf s p).outq k with
  | none => s
  | some r => toUnit r.src u r.txid m (if last ∧ r.src < 216 then dirAdd p r.line r.src own s else s)

/-- One combined answer of the holders: data, dirty before clean, then a write-back pending, a shared copy, none. The invalidation of the
other holders for an upgrade lets the Grant go. -/
def combined (p j : Nat) (s : State) : State :=
  match mFind (proxyOf s p).isnp j with
  | none => s
  | some w =>
    if w.waits ≠ [] then s
    else
      let gone (s : State) : State := modProxy p (fun x => { x with isnp := mDel x.isnp j }) s
      if 512 ≤ j then
        (match mFind (proxyOf s p).outq j with
         | some r => (match r.grant with
           | some q => grantIn p (lineUnit s p w.line) j (.rsp 2 q) true true (gone s)
           | none => gone s)
         | none => gone s)
      else match w.data with
        | some d => gone (linkSends p w.line (w.halves.map (fun f => .dat (if d then 9 else 8) { f with txid := j })) s)
        | none =>
          if w.pend.isSome then linkSend p w.line (rspMsg 0x0B 0 0 j 0 false s) s
          else gone (linkSend p w.line (rspMsg (if w.shared then 9 else 8) 0 0 j 0 false s) s)

/-- Change a snoop under way, and answer when every holder has. -/
def modFwd (p j : Nat) (f : LinkFwd → LinkFwd) (s : State) : State :=
  combined p j (modProxy p (fun x => match mFind x.isnp j with | some w => { x with isnp := mIns x.isnp j (f w) } | none => x) s)

/-- A holder's answer without data. -/
def fwdAnswer (p opc : Nat) (q : RspFlit) (s : State) : State :=
  match mFind (proxyOf s p).isnp q.txid with
  | none => s
  | some w =>
    let s := if opc = 8 ∨ opc = 0xA then dirLeave p w.line q.src s else s
    modFwd p q.txid (fun w => { w with
      waits := w.waits.erase q.src
      shared := w.shared || decide (opc = 9)
      pend := if opc = 0xB then some q.src else w.pend }) s

/-- A holder's data: complete with its second half. -/
def fwdData (p opc : Nat) (f : DatFlit) (s : State) : State :=
  match mFind (proxyOf s p).isnp f.txid with
  | none => s
  | some w =>
    let s := if ¬ f.half then s
      else if w.opc = 1 ∨ w.opc = 2 ∨ w.opc = 4 ∨ w.opc = 5 then dirLeave p w.line f.src s
      else if w.opc = 0 ∧ opc = 8 then dirDisown p w.line f.src s else s
    modFwd p f.txid (fun w => { w with
      halves := w.halves ++ [f]
      waits := if f.half then w.waits.erase f.src else w.waits
      data := if f.half then some (decide (opc = 9)) else w.data }) s

/-! ## From this socket to the peer -/

/-- The link unit has a request of a line under way: as a cache it sends one request of a line at a time (10 R251). -/
def lineHeld (s : State) (p opc line : Nat) : Bool :=
  decide (opc < 0x10) && (proxyOf s p).outq.any (fun e => decide (e.2.line = line ∧ e.2.opc < 0x10))

/-- A request for a line or window of the peer: an eviction whose line others here hold stays here, and one whose data was fetched is stale;
an upgrade takes the line from the other holders here; an upgrade of a copy that is lost is a read (10 R258, R259). -/
def outReq (p opc : Nat) (q : ReqFlit) (s : State) : State :=
  let d := dirOf s p q.addr
  let others := d.holders.filter (fun h => h ≠ q.src)
  if groupOf s p = [] then sends (unbackedAnswer opc q.src q.dest q.txid s) s
  else if (opc = 6 ∨ opc = 7) ∧ ¬ d.holders.contains q.src then send (rspMsg 1 q.src q.dest q.txid 1 false s) s
  else if opc = 7 ∧ others ≠ [] then send (rspMsg 1 q.src q.dest q.txid 0 false s) (dirLeave p q.addr q.src s)
  else
    let opc' := if opc = 2 ∧ ¬ d.holders.contains q.src then 1 else opc
    let k := freeOut (proxyOf s p)
    let s := modProxy p (fun x => { x with outq := mIns x.outq k ⟨q.src, q.txid, opc', q.addr, none⟩ }) s
    let s := if (opc' = 2 ∨ opc' = 6) ∧ others ≠ [] then snoopHolders p q.dest k (if opc' = 2 then 2 else 5) q.addr others s else s
    linkSend p q.addr (.req opc' { q with txid := k }) s

/-- A snoop of a home here for the peer's holders. -/
def outSnp (p opc : Nat) (q : SnpFlit) (s : State) : State :=
  let j := freeSnp (proxyOf s p)
  linkSend p q.addr (.snp opc { q with htxid := j })
    (modProxy p (fun x => { x with osnp := mIns x.osnp j ⟨q.src, q.htxid, q.addr, false⟩ }) s)

/-- An answer of a home or window here to the peer's request; its last part ends the request, but a grant's. -/
def outAnswer (p : Nat) (m : Msg) (keep : Bool) (s : State) : State :=
  let k := msgTxid m
  match mFind (proxyOf s p).inq k with
  | none => s
  | some x =>
    let s := linkSend p x.line m s
    if keep then s else modProxy p (fun x => { x with inq := mDel x.inq k }) s

/-- Ack, or data after DbGo, of a unit here for its request at the peer. -/
def outOwn (p src : Nat) (m : Msg) (done : Bool) (s : State) : State :=
  match outOf s p src (msgTxid m) with
  | none => s
  | some (k, r) =>
    let s := linkSend p r.line (withTxid k m) s
    if done then modProxy p (fun x => { x with outq := mDel x.outq k }) s else s

/-- A message that reaches a link unit on this socket's mesh. -/
def linkOut (l : Nat) (m : Msg) (s : State) : State :=
  let p := linkPeer s l
  match m with
  | .req o q => outReq p o q s
  | .snp o q => outSnp p o q s
  | .rsp o q =>
    if o = 0 then outOwn p q.src m true s
    else if o = 3 then
      (match snpOf s p q.src q.txid with
       | some (j, x) => if x.pend then linkSend p x.line (withTxid j m) s else outAnswer p m true s
       | none => outAnswer p m true s)
    else if o < 8 then outAnswer p m (decide (o = 2)) s
    else fwdAnswer p o q s
  | .dat o f =>
    if o = 8 ∨ o = 9 then fwdData p o f s
    else if o = 0xA ∨ o = 0xB ∨ o = 0xC then outOwn p f.src m false s
    else outAnswer p m (decide (o < 5) || !lastPart m) s

/-- A message arrives at its unit: one for another socket goes to the link unit, which holds a request of a line it already has one of. -/
def here (m : Msg) (act : State → State) (s : State) : State :=
  let d := (msgEnds m).2.1
  if 356 ≤ d ∧ d < 360 then
    (match m with
     | .req o q => if lineHeld s (linkPeer s (d - 356)) o q.addr then s else arrives m (linkOut (d - 356) m) s
     | _ => arrives m (linkOut (d - 356) m) s)
  else arrives m act s

/-! ## From the peer to this socket (21 R558) -/

/-- A request of the peer: issued at the home here, or at the root complex its window names; one that nothing stands behind is recorded and
answered by the link unit (01 R32, 11 Table 11.4). -/
def inReq (p l opc : Nat) (q : ReqFlit) (s : State) : State :=
  let u := 356 + l
  let note (s : State) : State := modProxy p (fun x => { x with inq := mIns x.inq q.txid ⟨u, q.addr⟩ }) s
  let place (dest : Nat) (spr : Bool) (s : State) : State :=
    send (.req opc { q with dest := dest, spr := spr, src := u, epoch := s.mesh.epoch, wrap := false, lstamp := s.stamp % 4096 }) (note s)
  if 0x10 ≤ opc then
    (match placeOf s q.encl (64 * q.addr) with
     | .pcie v => if v < 356 then place v false s else s
     | _ => s)
  else if remoteLine s q.addr ∨ placeOf s q.encl (64 * q.addr) ≠ .mem then
    linkSends p q.addr (unbackedAnswer opc 0 0 q.txid s)
      (report { stamp := 0, useq := 0, unit := u, cls := 0x0305, sev := 2, encl := q.encl, addr := 64 * q.addr, d0 := 0x0B } s)
  else let t := sliceTarget s (slicePos q.addr); place (t % 512) (decide (512 ≤ t)) s

/-- A snoop of the peer's home: to the holders here, or answered at once when there is none. -/
def inSnp (p l opc : Nat) (q : SnpFlit) (s : State) : State :=
  match (dirOf s p q.addr).holders with
  | [] => linkSend p q.addr (rspMsg 8 0 0 q.htxid 0 false s) s
  | hs => snoopHolders p (356 + l) q.htxid opc q.addr hs s

/-- An answer of the peer's holders to a snoop of a home here. -/
def inSnpAnswer (p : Nat) (m : Msg) (s : State) : State :=
  let j := msgTxid m
  match mFind (proxyOf s p).osnp j with
  | none => s
  | some x =>
    let pend : Bool := match m with | .rsp o _ => decide (o = 0x0B) | _ => false
    let u := lineUnit s p x.line
    let s := (match m with
      | .rsp o _ => send (rspMsg o x.src u x.htxid 0 (decide (512 ≤ x.htxid)) s) s
      | .dat o f => send (.dat o { f with dest := x.src, src := u, txid := x.htxid, spr := decide (512 ≤ x.htxid), epoch := s.mesh.epoch, wrap := false, lstamp := s.stamp % 4096 }) s
      | _ => s)
    modProxy p (fun y => { y with
      osnp := if pend then mIns y.osnp j { x with pend := true } else if lastPart m then mDel y.osnp j else y.osnp }) s

/-- An answer of the peer to a request of this socket. -/
def inAnswer (p : Nat) (m : Msg) (s : State) : State :=
  let k := msgTxid m
  match mFind (proxyOf s p).outq k with
  | none => s
  | some r =>
    let u := lineUnit s p r.line
    let s := if r.src < 216 ∧ (r.opc = 6 ∨ r.opc = 7) then dirLeave p r.line r.src s else s
    toUnit r.src u r.txid m (if lastPart m then modProxy p (fun x => { x with outq := mDel x.outq k }) s else s)

/-- DbGo of the peer: for a holder whose write-back was pending, or for a writer here; for a line whose holder died the link unit itself
sends POIS words (16 R458). -/
def inDbGo (p l : Nat) (q : RspFlit) (s : State) : State :=
  if q.txid < 512 then
    match mFind (proxyOf s p).isnp q.txid with
    | none => s
    | some w =>
      (match w.pend with
       | none => s
       | some t =>
         let s := modProxy p (fun x => { x with isnp := mIns x.isnp q.txid { w with waits := [t], pend := none } }) (dirLeave p w.line t s)
         send (rspMsg 3 t (356 + l) q.txid 0 false s) s)
  else
    match mFind (proxyOf s p).outq q.txid with
    | none => s
    | some r =>
      if 356 ≤ r.src then linkSends p r.line (lineFlits 0xA 0 0 q.txid false (zeroLine 7) s) s
      else toUnit r.src (lineUnit s p r.line) r.txid (.rsp 3 q) s

/-- A mesh message that came over a link is issued on this socket's mesh with its values (10 R264, 21 R558). -/
def injectSlot (l : Nat) (m : Msg) (s : State) : State :=
  let p := linkPeer s l
  let k := msgTxid m
  match m with
  | .req o q => inReq p l o q s
  | .snp o q => inSnp p l o q s
  | .rsp o q =>
    if o = 0 then
      (match mFind (proxyOf s p).inq k with
       | some x => toSlice x.line x.unit k m (modProxy p (fun y => { y with inq := mDel y.inq k }) s)
       | none => s)
    else if o = 2 then
      (if (mFind (proxyOf s p).isnp k).isSome then
         modProxy p (fun x => match mFind x.outq k with | some r => { x with outq := mIns x.outq k { r with grant := some q } } | none => x) s
       else grantIn p (356 + l) k m true true s)
    else if o = 3 then inDbGo p l q s
    else if o < 8 then inAnswer p m s
    else inSnpAnswer p m s
  | .dat o f =>
    if o < 5 then grantIn p (356 + l) k m (decide (o ≠ 0)) f.half s
    else if o = 8 ∨ o = 9 then inSnpAnswer p m s
    else if o = 0xA ∨ o = 0xB ∨ o = 0xC then
      (match mFind (proxyOf s p).inq k with
       | some x => toSlice x.line x.unit k m s
       | none => s)
    else inAnswer p m s

/-! ## Loss of a holder or of a peer -/

/-- Write a line as 0 with eight POIS tags (16 R458). -/
def poisonLine (line : Nat) (s : State) : State :=
  setLine line (zeroLine 7) (dropUnder1 line (dropUnder2 line (dropUnder3 line s)))

/-- The directories' scan for a tile closed without drain (16 R458): a line it owned is written back as POIS words, and it holds none. -/
def scanDirs (t : Nat) (s : State) : State :=
  s.proxies.foldl (fun s e =>
    let p := e.1
    let mine := e.2.dir.filter (fun d => d.2.holders.contains t)
    mine.foldl (fun s d =>
      let s := dirLeave p d.1 t s
      if d.2.own ≠ some t then s
      else
        let u := lineUnit s p d.1
        let k := freeOut (proxyOf s p)
        linkSend p d.1 (.req 6 { dest := 0, src := u, txid := k, oid := 0, encl := 0x10, addr := d.1 })
          (modProxy p (fun x => { x with outq := mIns x.outq k ⟨u, k, 6, d.1, none⟩ }) (poisonLine d.1 s))) s) s

/-- What was under way toward or from a lost peer ends: this socket's requests as of lines that nothing stands behind, its homes' snoops as
RspI, or as POIS data where the peer owned the line or owed its write-back; the peer's requests with an Ack (16 R458, 21 R560). -/
def dropProxies (p : Nat) (s : State) : State :=
  let x := proxyOf s p
  let s := { s with proxies := mPut {} s.proxies p {} }
  let s := x.outq.foldl (fun s e =>
    let u := lineUnit s p e.2.line
    if 216 ≤ e.2.src ∧ e.2.opc = 6 then s
    else match e.2.grant with
      | some q => toUnit e.2.src u e.2.txid (.rsp 2 q) s
      | none => sends (unbackedAnswer e.2.opc e.2.src u e.2.txid s) s) s
  let s := x.osnp.foldl (fun (s : State) (e : Nat × LinkSnoop) =>
    let u := lineUnit s p e.2.line
    let theirs : Bool := match sfFind s e.2.line with | some f => decide (f.st ≠ .s) && f.own.isNone && f.rmt.contains p | none => false
    let spr := decide (512 ≤ e.2.htxid)
    if theirs = true ∨ e.2.pend = true then sends (lineFlits 9 e.2.src u e.2.htxid spr (zeroLine 7) s) s
    else send (rspMsg 8 e.2.src u e.2.htxid 0 spr s) s) s
  let s := x.isnp.foldl (fun s e => match e.2.pend with
    | some t => send (rspMsg 3 t (lineUnit s p e.2.line) e.1 0 false s) s
    | none => s) s
  x.inq.foldl (fun s e => toSlice e.2.line e.2.unit e.1 (.rsp 0 { dest := 0, src := 0 }) s) s

end Sys2Proof.Machine
end

