-- ==== Sys2Proof/Machine/Links.lean ====
section
/-! DEFINITION. Socket links (21 R555-R561): flits, replay, credits, training, loss, and the alignment of the stamp across sockets (02 R49-R51). -/

namespace Sys2Proof.Machine
open Sys2Proof

/-! ## Loss of a link or of a peer -/

/-- One slice's scan for a lost peer: entries owned there are poisoned and removed, its sharer bit is cleared (16 R458, 21 R560). -/
def scanPeer (peer pos : Nat) (s : State) : State :=
  let entries := (sliceAt s pos).sf.flatMap (fun q => q.2.ways.map (·.2))
  let owned := entries.filter (fun e => e.st ≠ .s ∧ e.own = none ∧ e.rmt.contains peer)
  let shared := entries.filter (fun e => (e.st = .s ∨ e.own ≠ none) ∧ e.rmt.contains peer)
  let s := owned.foldl (fun s e => sfDrop e.line (poisonLine e.line s)) s
  let s := shared.foldl (fun s e =>
    let e' := { e with rmt := e.rmt.filter (fun x => x ≠ peer) }
    if e'.sharers = [] ∧ e'.own = none ∧ e'.rmt = [] then sfDrop e.line s else sfStore e' s) s
  noteDev pos 0x0405 2 (256 + peer) owned.length s

/-- A peer is lost: what was under way ends, and every slice scans its entries (21 R560). DETAIL0 names the peer as 256 + socket (log 15). -/
def peerLost (peer : Nat) (s : State) : State := (List.range 216).foldl (fun s p => scanPeer peer p s) (dropProxies peer s)

/-- A link goes down (21 R559, R560): recorded with its unit number in the router field; the group shrinks and is told, or the peer is lost. -/
def linkDown (l : Nat) (s : State) : State :=
  if ¬ linkUp s l then s
  else
    let peer := linkPeer s l
    let was := linkAdmitted s l
    let s := raiseBits 0xC100 l 8 (setObjFld 0xC100 l 3 0 8 s)
    let s := noteDev (356 + l) 0x0402 4 (356 + l) 0 (regroup s)
    if ¬ was then s
    else match groupOf s peer with
      | [] => peerLost peer s
      | g :: _ => sendFlit g [.groupResume l (linkAt s l).rxSeq] s

/-- The line of a message that a link carries: an RSP or DAT names it by its transaction (21 R560). -/
def slotLine (s : State) (peer : Nat) (m : Msg) : Nat :=
  let x := proxyOf s peer
  let k := msgTxid m
  match m with
  | .req _ q => q.addr
  | .snp _ q => q.addr
  | _ => match mFind x.outq k, mFind x.inq k, mFind x.osnp k, mFind x.isnp k with
    | some r, _, _, _ => r.line
    | _, some r, _, _ => r.line
    | _, _, some r, _ => r.line
    | _, _, _, some r => r.line
    | _, _, _, _ => 0

/-- GROUP_RESUME: the unacknowledged flits of the failed link from a SEQ on are sent over the survivors (21 R560). -/
def groupResume (l failed seq : Nat) (s : State) : State :=
  let peer := linkPeer s l
  let s := if linkUp s failed then linkDown failed s else s
  let todo := ((linkAt s failed).replay.filter (fun f => decide ((f.1 + 4096 - seq) % 4096 < 512))).flatMap (·.2)
  let rest := (linkAt s failed).held.flatMap (fun x => x) ++ (linkAt s failed).waiting.map Slot.msg
  let s := modLink failed (fun k => { k with replay := [], held := [], waiting := [] }) s
  (todo ++ rest).foldl (fun s x => match x with | .msg m => linkSend peer (slotLine s peer m) m s | _ => s) s

/-- Replay from a SEQ (21 R559): after 8 replays of one flit the link retrains, after 8 more it is down. -/
def replayFrom (l seq : Nat) (s : State) : State :=
  let k := linkAt s l
  let todo := k.replay.filter (fun f => decide ((f.1 + 4096 - seq) % 4096 < 512))
  let n := match k.replays with | some (q, n) => if q = seq then n + 1 else 1 | none => 1
  let s := modLink l (fun k => { k with replays := some (seq, n) }) s
  let s := bumpObj 0xC110 l 32 todo.length s
  let s := todo.foldl (fun s f => bwAdd 0x9400 l 192 (emit (.flit l 0 f.1 (linkAt s l).rxSeq f.2) s)) s
  if 16 ≤ n then linkDown l s else s

/-! ## Alignment of the stamp (02 R49-R51, 21 R561) -/

/-- IS_MASTER and MASTER of STAMP_ALIGN (02 Table 2.4). -/
def isMaster (s : State) : Bool := flag (obj s 0x1110 1) 0
def masterOf (s : State) : Nat := fld (obj s 0x1110 1) 18 16

/-- An exchange is due: 4,096 ticks have passed since the last one (02 R50). -/
def alignDue (s : State) : Bool := match s.clk.lastAlign with | none => true | some t => decide (t + 4096 ≤ s.stamp)

/-- ALIGN_REQ leaves for the master (02 R50). -/
def alignInterval (s : State) : State :=
  if isMaster s ∨ ¬ alignDue s then s
  else match linkTo s (masterOf s) with
    | none => s
    | some l => sendFlit l [.alignReq s.stamp] { s with clk := { s.clk with t1 := some (l, s.stamp), lastAlign := some s.stamp } }

/-- The master answers with its arrival and send stamps (21 R561). -/
def alignReq (l t1 : Nat) (s : State) : State :=
  if linkAdmitted s l then sendFlit l [.alignRsp t1 s.stamp s.stamp] s else s

/-- Offset and delay of an exchange, rounded toward zero (21 R561). -/
def alignOffset (t1 t2 t3 t4 : Int) : Int := ((t1 - t2) + (t4 - t3)).tdiv 2
def alignDelay (t1 t2 t3 t4 : Int) : Int := ((t4 - t1) - (t3 - t2)).tdiv 2

/-- A measured offset (02 R50, R51): shown, and corrected by slew. DESIGN CHOICE: a STAMP_OUT_OF_BOUND record is the link unit's over which the
exchange ran; the manual names no unit (log 61). -/
def takeOffset (l : Nat) (o : Int) (s : State) : State :=
  let inside := decide (-2 ≤ o ∧ o ≤ 2)
  let w := setBit (setFld (obj s 0x1110 1) 15 8 (o % 256).toNat) 1 inside
  let w := if inside then w else setBit w 3 true
  let s := raiseBits 0x1110 1 (if inside then 0 else 8) (setObj 0x1110 1 w { s with clk := { s.clk with slew := o, t1 := none } })
  if inside then s else noteDev (356 + l) 0x0703 1 (o % 2 ^ 64).toNat 0 s

/-- ALIGN_RSP: the socket computes its offset (21 R561). -/
def alignRsp (l t1 t2 t3 : Nat) (s : State) : State :=
  if isMaster s ∨ s.clk.t1 ≠ some (l, t1) then s else takeOffset l (alignOffset t1 t2 t3 s.stamp) s

/-- An adjustment may be made: one is due and 256 ticks have passed since the last (02 R50). -/
def adjustDue (s : State) : Bool :=
  decide (s.clk.slew ≠ 0) && (match s.clk.lastAdjust with | none => true | some t => decide (t + 256 ≤ s.stamp))

/-! ## Training (21 R556) -/

/-- Training of a link to an aligned socket whose set has a lower master (02 R49): the first one loads the master's stamp plus the delay, before
any enclosure has started. Otherwise the new master's offset is not measured yet: the stamp is only slewed, once an exchange has run
(log 106). -/
def alignAtTraining (master masterStamp delay : Nat) (s : State) : State :=
  if s.socket ≤ master ∨ masterOf s ≤ master then s
  else
    let load := !s.clk.slaved && decide (s.phase ≠ .running)
    let s := { s with stamp := if load then masterStamp + delay else s.stamp, clk := { s.clk with slaved := true, t1 := none, slew := 0 } }
    setObj 0x1110 1 (BitVec.ofNat 64 (master * 2 ^ 16 + (if load then 2 else 0)) ||| (obj s 0x1110 1 &&& 0xC)) s

/-- The outcome of training (21 R556, 12 R304): `ok` electrical training, the peer's socket, whether its layout digest agrees, its stamp master
and that master's stamp if it is aligned, and the measured one-way delay. -/
def trainLink (l : Nat) (ok : Bool) (peer : Nat) (layout : Bool) (master : Option (Nat × Nat)) (delay : Nat) (s : State) : State :=
  if 4 ≤ l then s
  else if ¬ ok then linkDown l s
  else
    let k := linkAt s l
    let s := setObj 0xC100 l (BitVec.ofNat 64 ((fld (obj s 0xC100 l) 3 3) * 8 + peer % 8 * 256 + 1)) s
    let s := modLink l (fun _ => { replay := k.replay, txSeq := k.txSeq, rxSeq := k.rxSeq, held := k.held, waiting := k.waiting, delay := delay }) s
    if peer % 8 = s.socket ∨ ¬ layout then
      let s := regroup (setObjFld 0xC100 l 2 2 1 s)
      if layout then s else noteDev (356 + l) 0x0704 4 l 0 s
    else
      let s := match master with | some (m, t) => alignAtTraining m t delay s | none => s
      regroup (setObjFld 0xC100 l 1 1 1 s)

/-! ## Receiving (21 R558, R559) -/

/-- Credits are added to each class, and messages that waited for them go (21 R558). -/
def addCredits (l a b c d : Nat) (s : State) : State :=
  (linkAt s l).waiting.foldl (fun s m => sendMsg l m s)
    (modLink l (fun k => { k with crReq := k.crReq + a, crSnp := k.crSnp + b, crRsp := k.crRsp + c, crDat := k.crDat + d, told := true, waiting := [] }) s)

/-- The slots that a flit's messages of a class took. -/
def slotsOfClass (slots : List Slot) (k : Nat) : Nat :=
  (slots.map (fun x => match x with | .msg m => (if msgClass m = k then (if k = 3 then 3 else 1) else 0) | _ => 0)).sum

/-- The slots of a flit have been passed on: their credits go back to the sender (21 R558, log 88). -/
def creditBack (l : Nat) (slots : List Slot) (s : State) : State :=
  let n := slotsOfClass slots
  if n 0 + n 1 + n 2 + n 3 = 0 ∨ linkUp s l = false then s else sendFlit l [.credit (n 0) (n 1) (n 2) (n 3)] s

/-- What one slot of a received flit does. -/
def takeSlot (l : Nat) (x : Slot) (s : State) : State :=
  match x with
  | .msg m => injectSlot l m s
  | .credit a b c d => addCredits l a b c d s
  | .alignReq t1 => alignReq l t1 s
  | .alignRsp t1 t2 t3 => alignRsp l t1 t2 t3 s
  | .groupResume f q => groupResume l f q s

/-- Ask for a replay from the SEQ expected, at most once per 256 ticks for that SEQ (21 R559). -/
def askReplay (l : Nat) (s : State) : State :=
  let k := linkAt s l
  let again := match k.asked with | some (q, t) => decide (q = k.rxSeq ∧ s.stamp < t + 256) | none => false
  if again then s
  else emit (.flit l 1 k.rxSeq k.rxSeq []) (modLink l (fun k => { k with asked := some (k.rxSeq, s.stamp) }) s)

/-- A flit is received (21 R558, R559). -/
def takeFlit (l : Nat) (crcOk : Bool) (ty seq ack : Nat) (slots : List Slot) (s : State) : State :=
  if ¬ linkUp s l then s
  else if ¬ crcOk then askReplay l s
  else
    let s := takeAck l ack (bwAdd 0x9401 l 192 s)
    if ty = 1 then replayFrom l seq s
    else if ty = 2 then s
    else if seq ≠ (linkAt s l).rxSeq then askReplay l s
    else creditBack l slots (slots.foldl (fun s x => takeSlot l x s) (modLink l (fun k => { k with rxSeq := (seq + 1) % 4096, asked := none }) s))

/-! ## Meanings -/

/-- LINK_TRAINING (21 R556, 02 R49, 12 R304). -/
def execLinkTraining (link : Nat) (ok : Bool) (peer : Nat) (layout : Bool) (master : Option (Nat × Nat)) (delay : Nat) (s : State) :
    Host.Outcome State Fault Refusal := .next (trainLink link ok peer layout master delay s)

/-- LINK_FLIT (21 R559). -/
def execLinkFlit (link : Nat) (crcOk : Bool) (ty seq ack : Nat) (slots : List Slot) (s : State) : Host.Outcome State Fault Refusal :=
  .next (takeFlit link crcOk ty seq ack slots s)

/-- REPLAY_REQUEST: a flit of TYPE 1 arrives (21 R559). -/
def execReplayRequest (link seq : Nat) (s : State) : Host.Outcome State Fault Refusal :=
  .next (if linkUp s link then replayFrom link seq s else s)

/-- CREDIT (21 R558). -/
def execCredit (link a b c d : Nat) (s : State) : Host.Outcome State Fault Refusal :=
  .next (if linkUp s link then addCredits link a b c d s else s)

/-- GROUP_RESUME (21 R560). -/
def execGroupResume (link failed seq : Nat) (s : State) : Host.Outcome State Fault Refusal :=
  .next (if linkUp s link then groupResume link failed seq s else s)

/-- SOCKET_LINK_DOWN (21 R560). -/
def execSocketLinkDown (link : Nat) (s : State) : Host.Outcome State Fault Refusal := .next (linkDown link s)

/-- ALIGN_INTERVAL (02 R50). -/
def execAlignInterval (s : State) : Host.Outcome State Fault Refusal := .next (alignInterval s)

/-- ALIGN_REQ (21 R561). -/
def execAlignReq (link t1 : Nat) (s : State) : Host.Outcome State Fault Refusal := .next (alignReq link t1 s)

/-- ALIGN_RSP (21 R561, 02 R51). -/
def execAlignRsp (link t1 t2 t3 : Nat) (s : State) : Host.Outcome State Fault Refusal := .next (alignRsp link t1 t2 t3 s)

end Sys2Proof.Machine
end

