-- ==== Sys2Proof/Machine/Branch.lean ====
section
/-! DEFINITION. Branches, calls and loops (04 R87-R91, 06 R151, R153). -/

namespace Sys2Proof.Machine
open Sys2Proof

/-- A branch that retires is counted (20 Table 20.5, 0x10). Prediction, training and the return stack are the front end's (06 R140, R151, R153). -/
def branchTo (h : Hart) (target : Word) (s : State) : State × Done := (countH h 0x10 1 s, .jump target)

/-- A conditional branch (04 R87). -/
def condBranch (h : Hart) (ra rb : Reg) (off : BitVec 16) (p : Word → Word → Bool) (s : State) : State × Done :=
  let c := cpuOf s h
  match srcExc c [gpr c ra, gpr c rb] with
  | some e => (s, .exc e)
  | none =>
    let target := c.pc + (off.signExtend 64 <<< 2)
    if p (gpr c ra).v (gpr c rb).v then branchTo h target s
    else (countH h 0x10 1 s, .seq)

/-- The tag checks on an indirect target, before any effect (04 R89): SUB 0x01 wants CPTR or LINK, SUB 0x02 wants LINK. -/
def targetExc (h : Hart) (c : Cpu) (x : GVal) (sub : Nat) : Option Exc :=
  if x.t = .pois then some poisExc
  else if x.t = .hndl then some (tagExc 0x04 x)
  else if tagLevel h c = 0 ∨ x.t = .link ∨ (sub = 0x01 ∧ x.t = .cptr) then none
  else some (tagExc sub x)

/-- A call: lk takes the address after the call, tagged LINK (04 R87, R88). -/
def callTo (h : Hart) (target : Word) (s : State) : State × Done :=
  let a := pcOf s h + 4
  branchTo h target (modCpu h (fun c => { c with lk := ⟨a, .link⟩ }) s)

/-- RET (04 R88, R89). -/
def returnTo (h : Hart) (s : State) : State × Done :=
  let c := cpuOf s h
  match targetExc h c c.lk 0x02 with
  | some e => (s, .exc e)
  | none => branchTo h (alignTarget c.lk.v) s

/-- JR and CALLR check their target first (04 R88, R89). -/
def indirect (h : Hart) (ra : Reg) (go : Word → State → State × Done) (s : State) : State × Done :=
  let x := gpr (cpuOf s h) ra
  match targetExc h (cpuOf s h) x 0x01 with
  | some e => (s, .exc e)
  | none => go (alignTarget x.v) s

/-- LOOP sets up a level; with count 0 the body does not run, and control goes past it without loop evaluation of the level that ends at the
LOOP itself, if one does (04 R90, log 93). -/
def loopSetup (h : Hart) (lvl : BitVec 2) (rc : Reg) (off : BitVec 19) (s : State) : State × Done :=
  let c := cpuOf s h
  let n := gpr c rc
  match srcExc c [n] with
  | some e => (s, .exc e)
  | none =>
    let i := lvl.toNat
    let le := c.pc + (off.zeroExtend 64 <<< 2)
    let s := modCpu h (fun c => { c with ls := mPut 0 c.ls i (c.pc + 4), le := mPut 0 c.le i le, lc := mPut 0 c.lc i n.v }) s
    (s, if n.v = 0 then .jump (le + 4) else .seq)

/-- J (04 R87). -/
def execJ (h : Hart) (off : BitVec 26) (s : State) : Host.Outcome State Fault Refusal :=
  run h (.j h off) (fun s => branchTo h (pcOf s h + (off.signExtend 64 <<< 2)) s) s

/-- CALL (04 R87). -/
def execCall (h : Hart) (off : BitVec 26) (s : State) : Host.Outcome State Fault Refusal :=
  run h (.call h off) (fun s => callTo h (pcOf s h + (off.signExtend 64 <<< 2)) s) s

/-- BEQ (04 R87). -/
def execBeq (h : Hart) (ra rb : Reg) (off : BitVec 16) (s : State) : Host.Outcome State Fault Refusal :=
  run h (.beq h ra rb off) (condBranch h ra rb off (fun a b => a == b)) s

/-- BNE (04 R87). -/
def execBne (h : Hart) (ra rb : Reg) (off : BitVec 16) (s : State) : Host.Outcome State Fault Refusal :=
  run h (.bne h ra rb off) (condBranch h ra rb off (fun a b => a != b)) s

/-- BLT (04 R87). -/
def execBlt (h : Hart) (ra rb : Reg) (off : BitVec 16) (s : State) : Host.Outcome State Fault Refusal :=
  run h (.blt h ra rb off) (condBranch h ra rb off (fun a b => a.slt b)) s

/-- BGE (04 R87). -/
def execBge (h : Hart) (ra rb : Reg) (off : BitVec 16) (s : State) : Host.Outcome State Fault Refusal :=
  run h (.bge h ra rb off) (condBranch h ra rb off (fun a b => !(a.slt b))) s

/-- BLTU (04 R87). -/
def execBltu (h : Hart) (ra rb : Reg) (off : BitVec 16) (s : State) : Host.Outcome State Fault Refusal :=
  run h (.bltu h ra rb off) (condBranch h ra rb off (fun a b => a.ult b)) s

/-- BGEU (04 R87). -/
def execBgeu (h : Hart) (ra rb : Reg) (off : BitVec 16) (s : State) : Host.Outcome State Fault Refusal :=
  run h (.bgeu h ra rb off) (condBranch h ra rb off (fun a b => !(a.ult b))) s

/-- JR (04 R88). -/
def execJr (h : Hart) (ra : Reg) (s : State) : Host.Outcome State Fault Refusal :=
  run h (.jr h ra) (indirect h ra (branchTo h)) s

/-- CALLR (04 R88). -/
def execCallr (h : Hart) (ra : Reg) (s : State) : Host.Outcome State Fault Refusal :=
  run h (.callr h ra) (indirect h ra (callTo h)) s

/-- RET (04 R88). -/
def execRet (h : Hart) (s : State) : Host.Outcome State Fault Refusal :=
  run h (.ret h) (returnTo h) s

/-- LOOP (04 R90). -/
def execLoop (h : Hart) (lvl : BitVec 2) (rc : Reg) (off : BitVec 19) (s : State) : Host.Outcome State Fault Refusal :=
  run h (.loop h lvl rc off) (loopSetup h lvl rc off) s

end Sys2Proof.Machine
end

