-- ==== Sys2Proof/Machine/Flags.lean ====
section
/-! DEFINITION. The flags of the machine: FCSR's sticky flags (05 R126-R128), the only flags an instruction computes. -/

namespace Sys2Proof.Machine
open Sys2Proof

/-- The five exception flags of one operation (05 Table 5.5). -/
structure FFlags where
  nv : Bool := false
  dz : Bool := false
  of : Bool := false
  uf : Bool := false
  nx : Bool := false
deriving DecidableEq, Repr

/-- The flags as FCSR bits 4:0. -/
def flagBits (f : FFlags) : Nat := f.nx.toNat * 16 + f.uf.toNat * 8 + f.of.toNat * 4 + f.dz.toNat * 2 + f.nv.toNat

/-- Either operation's flags. -/
def orFlags (a b : FFlags) : FFlags := ⟨a.nv || b.nv, a.dz || b.dz, a.of || b.of, a.uf || b.uf, a.nx || b.nx⟩

/-- An instruction ORs its flags into FCSR at its retirement (05 R127). -/
def raiseFlags (f : FFlags) (c : Cpu) : Cpu := setSys 0x001 (sysReg c 0x001 ||| BitVec.ofNat 64 (flagBits f)) c

/-- A write to FCSR: a reserved RM leaves RM unchanged, and the flag bits still take effect (05 Table 5.5). -/
def writeFcsr (v : Word) (c : Cpu) : Cpu :=
  let rm := if fld v 10 8 ≤ 4 then fld v 10 8 else fld (sysReg c 0x001) 10 8
  setSys 0x001 (BitVec.ofNat 64 (rm * 256 + fld v 4 0)) c

/-- The rounding mode an instruction's rm field names (05 R126). -/
def rmOf (c : Cpu) (rm : BitVec 3) : Nat := if rm = 7 then fld (sysReg c 0x001) 10 8 else rm.toNat

end Sys2Proof.Machine
end

