-- ==== Sys2Proof/Machine/SysRegs.lean ====
section
/-! DEFINITION. System registers: what each read returns and each write leaves (03 Table 3.3 and the field maps of later chapters). -/

namespace Sys2Proof.Machine
open Sys2Proof

/-- The compute die of a tile: T0 northwest, T1 northeast, T2 southwest, T3 southeast (01 Table 1.1, R11). -/
def dieOfTile (t : Nat) : Nat := (if t % 12 < 6 then 0 else 1) + (if t / 12 < 9 then 0 else 2)

/-- PWRSTAT (17 Table 17.5). -/
def pwrstat (s : State) (n : Nat) : Word :=
  let c := coreOf s n
  let req := fld (sysReg c 0xC30) 2 0
  BitVec.ofNat 64 ((mGet false s.guard (dieOfTile (tileOf s n))).toNat * 1024 +
    (decide (req < c.thermalLim)).toNat * 512 + (decide (req < c.powerLim)).toNat * 256 + c.opp)

/-- The reset value of PMU_SNAP (20 Table 20.8): N is 24. -/
def snapDefault : Word := 0x0180000000000000

/-- Whether a counter register may be read at U (20 R530). -/
def userCounter (c : Cpu) (n : Nat) : Bool :=
  let u := sysReg c 0x460
  if n = 0x440 then flag u 0 else if n = 0x441 then flag u 1
  else if 0x442 ≤ n ∧ n ≤ 0x445 then flag u 2
  else if 0x448 ≤ n ∧ n ≤ 0x44F then flag u (8 + (n - 0x448)) else false

/-- The numbers a main core implements (03 Table 3.3 and later chapters). -/
def coreHasSys (n : Nat) : Bool :=
  n = 0x001 ∨ (0x010 ≤ n ∧ n ≤ 0x018) ∨ (0x020 ≤ n ∧ n ≤ 0x022) ∨ (0x0C0 ≤ n ∧ n ≤ 0x0C2) ∨ (0x400 ≤ n ∧ n ≤ 0x408) ∨
  (0x410 ≤ n ∧ n ≤ 0x412) ∨ n = 0x420 ∨ n = 0x421 ∨ n = 0x430 ∨ (0x440 ≤ n ∧ n ≤ 0x445) ∨ (0x448 ≤ n ∧ n ≤ 0x457) ∨
  n = 0x460 ∨ n = 0x461 ∨ (0xC00 ≤ n ∧ n ≤ 0xC08) ∨ n = 0xC10 ∨ n = 0xC11 ∨ n = 0xC20 ∨ n = 0xC21 ∨ n = 0xC30 ∨ n = 0xC40 ∨
  n = 0xCC0

/-- The numbers a Privet engine implements: loops, LK, PH, PL, STAMP, CTX_TIMING, IOBSTAT and IOTMO (03 Table 3.14, log 12). -/
def prvHasSys (n : Nat) : Bool :=
  (0x010 ≤ n ∧ n ≤ 0x018) ∨ (0x020 ≤ n ∧ n ≤ 0x022) ∨ n = 0x0C0 ∨ n = 0x412 ∨ n = 0x430 ∨ n = 0xC11

/-- Whether a hart implements a number. -/
def hasSys (h : Hart) (n : Nat) : Bool :=
  match h with | .core _ => coreHasSys n | .prv _ => prvHasSys n

/-- The lowest level that a number's bits 11:10 admit (03 R62). -/
def sysLevel (n : Nat) : Nat := n / 1024

/-- Whether MFS of a number is legal (03 R62, 20 R530). -/
def canRead (h : Hart) (c : Cpu) (n : Nat) : Bool :=
  hasSys h n && (decide (sysLevel n ≤ levelCode c.level) || (decide (c.level = .u) && userCounter c n))

/-- Whether MTS to a number is legal (03 R62). -/
def canWrite (h : Hart) (c : Cpu) (n : Nat) : Bool :=
  hasSys h n && decide (sysLevel n ≤ levelCode c.level) && decide (n / 64 % 4 ≠ 3)

/-- What MFS reads; only LK carries a tag (04 R110). -/
def readSys (h : Hart) (s : State) (n : Nat) : GVal :=
  let c := cpuOf s h
  let core := match h with | .core k => k | .prv k => k
  let i := (n - 0x010) / 3
  let w (x : Word) : GVal := ⟨x, .data⟩
  if 0x010 ≤ n ∧ n ≤ 0x018 then
    w (if (n - 0x010) % 3 = 0 then mGet 0 c.ls i else if (n - 0x010) % 3 = 1 then mGet 0 c.le i else mGet 0 c.lc i)
  else if n = 0x020 then c.lk
  else if n = 0x021 then w c.ph
  else if n = 0x022 then w c.pl
  else if n = 0x0C0 then w (BitVec.ofNat 64 s.stamp)
  else if n = 0x0C1 then w (BitVec.ofNat 64 (s.socket * 4096 + enclOfCore s core % 16 * 256 + core))
  else if n = 0x0C2 then w 0x6808
  else if n = 0xC40 then
    let e := enclOfCore s core
    w ((mFind s.pmuSnapNext e).getD (mGet snapDefault s.pmuSnap e))
  else if n = 0xCC0 then w (pwrstat s core)
  else w (sysReg c n)

/-- A field that a reserved value leaves unchanged. -/
def keepIf (bad : Bool) (hi lo : Nat) (old new : Word) : Word := if bad then setFld new hi lo (fld old hi lo) else new

/-- A write to ESTAT of level X (03 Table 3.6). -/
def writeEstat (isS : Bool) (old v : Word) : Word :=
  let v := v &&& 0xFBA
  let fix (hi lo : Nat) (v : Word) : Word :=
    if fld v hi lo = 2 then setFld v hi lo (fld old hi lo)
    else if isS ∧ fld v hi lo = 3 then setFld v hi lo 1 else v
  fix 5 4 (fix 10 9 v)

/-- A write to CTX_TAGCTL at a level (03 Table 3.5, R66). -/
def writeTagctl (l : Level) (old v : Word) : Word :=
  let f (hi lo : Nat) (mOnly : Bool) : Nat :=
    if fld v hi lo = 3 ∨ (mOnly ∧ l ≠ .m) then fld old hi lo else fld v hi lo
  BitVec.ofNat 64 (f 9 8 true * 256 + f 5 4 true * 16 + f 1 0 false)

/-- Whether an event code is defined (20 Table 20.5). -/
def eventOk (e : Nat) : Bool :=
  (1 ≤ e ∧ e ≤ 4) ∨ (0x10 ≤ e ∧ e ≤ 0x13) ∨ (0x20 ≤ e ∧ e ≤ 0x24) ∨ (0x28 ≤ e ∧ e ≤ 0x2A) ∨ (0x30 ≤ e ∧ e ≤ 0x32) ∨ (0x38 ≤ e ∧ e ≤ 0x3E)

/-- A write to PMEVTi (20 Table 20.2). -/
def writePmevt (i : Nat) (old v : Word) : Word :=
  let v := keepIf (!(eventOk (fld v 7 0) || decide (fld v 7 0 = 0))) 7 0 old (v &&& 0x3FFF)
  if i % 2 = 0 then setBit v 12 false else v

/-- A write to IOTMO (03 Table 3.12). -/
def writeIotmo (old v : Word) : Word :=
  let t := fld v 20 0
  if 0x640 ≤ t ∧ t ≤ 0x186A00 then BitVec.ofNat 64 t else old

/-- A write to PWRCTL (17 Table 17.4). -/
def writePwrctl (old v : Word) : Word := keepIf (decide (4 < fld v 2 0)) 2 0 old (v &&& 0xFFFFFFFF17)

/-- A write to PMU_SNAP (20 Table 20.8). -/
def writeSnap (old v : Word) : Word :=
  keepIf (decide (fld v 57 52 < 16 ∨ 34 < fld v 57 52)) 57 52 old (v &&& 0x83FFFFFFFFFFF00F)

/-- The core registers a write to a plain system register leaves (03 to 20 field maps). -/
def writeCpuSys (n : Nat) (x : GVal) (c : Cpu) : Cpu :=
  let v := x.v
  let old := sysReg c n
  if 0x010 ≤ n ∧ n ≤ 0x018 then setLoopReg (n - 0x010) v c
  else if n = 0x001 then writeFcsr v c
  else if n = 0x020 then { c with lk := x }
  else if n = 0x021 then { c with ph := v }
  else if n = 0x022 then { c with pl := v }
  else if n = 0x400 then setSys n (writeEstat true old v) c
  else if n = 0xC00 then setSys n (writeEstat false old v) c
  else if n = 0x402 ∨ n = 0x407 ∨ n = 0xC02 ∨ n = 0xC07 then setSys n (v &&& 0x800FFFFF) c
  else if n = 0x404 ∨ n = 0xC04 then setSys n (v &&& ~~~(0xFFF : Word)) c
  else if n = 0x410 then setSys n (writeTagctl c.level old v) c
  else if n = 0x411 then { setSys n v c with rstack := [] }
  else if n = 0x412 then setSys n (v &&& 1) c
  else if n = 0x420 then setSys n (v &&& 0xFFFFFFFFFF006) c
  else if n = 0x421 then setSys n (v &&& 0xFFF) c
  else if n = 0x430 then setSys n (old &&& ~~~(v &&& 7)) c
  else if 0x448 ≤ n ∧ n ≤ 0x44F then setSys n (v &&& 0xFFFFFFFFFFFF) c
  else if 0x450 ≤ n ∧ n ≤ 0x457 then setSys n (writePmevt (n - 0x450) old v) c
  else if n = 0x460 then setSys n (v &&& 0xFF07) c
  else if n = 0x461 then setSys n (old &&& ~~~(v &&& 0xFF)) c
  else if n = 0xC10 then setSys n (v &&& 0x7FFC) c
  else if n = 0xC11 then setSys n (writeIotmo old v) c
  else if n = 0xC20 then setSys n (v &&& 1) c
  else if n = 0xC21 then setSys n (v &&& 0x800FFFFFFFFFFFC0) c
  else if n = 0xC30 then retarget (setSys n (writePwrctl old v) c)
  else setSys n v c

/-- Write a system register of a hart. PMU_SNAP is one register of the enclosure and changes at the next period boundary (20 R538). -/
def writeSys (h : Hart) (n : Nat) (x : GVal) (s : State) : State :=
  if n = 0xC40 then
    let e := enclOf s h
    { s with pmuSnapNext := mIns s.pmuSnapNext e (writeSnap ((mFind s.pmuSnapNext e).getD (mGet snapDefault s.pmuSnap e)) x.v) }
  else modCpu h (writeCpuSys n x) s

/-- MFS (04 R109, R110; 03 R62); STAMP is read once every older store has left a core's store buffer (06 R144). -/
def mfs (h : Hart) (i : Instr) (rd : Reg) (n : Nat) (s : State) : State × Done :=
  if ¬ canRead h (cpuOf s h) n then (s, .exc (illegalExc i))
  else if n = 0x0C0 ∧ isPrv h = false then afterStores h (fun s => writeG h rd (readSys h s n) s) s
  else writeG h rd (readSys h s n) s

/-- MTS (04 R110): the check on the source, the drain of R114 for numbers above U, and the write; a loop register is written once the MTS's own
loop evaluation is done (04 R93). -/
def mts (h : Hart) (i : Instr) (n : Nat) (ra : Reg) (s : State) : State × Done :=
  let c := cpuOf s h
  let x := gpr c ra
  if ¬ canWrite h c n then (s, .exc (illegalExc i))
  else
    let chk : Option Exc :=
      if n = 0x020 then (if 1 ≤ tagLevel h c ∧ x.t ≠ .link then some (tagExc 0x06 x) else none) else srcExc c [x]
    match chk with
    | some e => (s, .exc e)
    | none =>
      if 0x010 ≤ n ∧ n ≤ 0x018 then (s, .loopReg (n - 0x010) x.v)
      else if sysLevel n = 0 then (writeSys h n x s, .seq)
      else afterStores h (fun s => (writeSys h n x s, .seq)) s

end Sys2Proof.Machine
end

