-- ==== Sys2Proof/Machine/System.lean ====
section
/-! DEFINITION. System, tag, fence and translation instructions (04 R109-R114, 07 R176-R188, 09 R224-R229). -/

namespace Sys2Proof.Machine
open Sys2Proof

/-! ## Tags, traps and returns -/

/-- The tag a TSET type names (04 Table 4.10). -/
def tsetTag (ty : BitVec 3) : Tag := tagOfCode ty.toNat

/-- ERET (03 R69 pseudocode, 04 R112); the return stack is flushed (06 R153). -/
def eret (h : Hart) (s : State) : State × Done :=
  let c := cpuOf s h
  let x := c.level
  let est := sysReg c (lvlReg x 0x400)
  if ¬ flag est 8 ∧ ¬ flag est 7 then (s, .exc (illegalExc (.eret h)))
  else
    let rf := flag est 8
    let pc := sysReg c (lvlReg x (if rf then 0x406 else 0x401))
    let lv := if rf then fld est 10 9 else fld est 5 4
    let ie := if rf then fld est 11 11 else fld est 3 3
    let est := setFld (setBit est (if rf then 8 else 7) false) 1 1 ie
    (modCpu h (fun c => { setSys (lvlReg x 0x400) est c with level := levelOf lv, rstack := [] }) s, .jump pc)

/-- WFI (04 R112): retires at once when an interrupt is pending, else holds the core in CS1. -/
def wfi (h : Hart) (s : State) : State × Done :=
  let c := cpuOf s h
  if c.irqM ∨ c.irqS then (s, .seq)
  else (modCpu h (fun c => { c with run := .wfi, cs1At := s.stamp }) s, .stay)

/-! ## Fences (09 R224, Table 9.4) -/

/-- FENCE.NT: NT stores still in the store buffer enter the combining buffer, and every line leaves and is accepted at its home; answers
whether that is done. -/
def fenceNt (h : Hart) (s : State) : State × Bool :=
  let r := if (cpuOf s h).sb.any (·.nt) then sbDrain h s else (s, true)
  if r.2 then ntDrain h r.1 else r

/-- FENCE: stores performed, device stores sent, combining buffer empty; answers whether that is done. -/
def fenceAll (h : Hart) (s : State) : State × Bool :=
  let r := sbDrain h s
  if r.2 then fenceNt h r.1 else r

/-- A fence retires when its condition holds; until then it is held. -/
def fenceWhen (r : State × Bool) : State × Done := (r.1, if r.2 then .seq else .hold)

/-- FENCE.IO: held until every device store is accepted (log 13). -/
def fenceIo (h : Hart) (s : State) : State × Done :=
  let r := fenceAll h s
  fenceWhen (r.1, r.2 && decide ((cpuOf r.1 h).devSent = 0))

/-! ### SYNC.IO (09 R227-R229) -/

/-- The lowest free tag of a root complex's 768 (21 Table 21.2). -/
def freeTag (s : State) (pe : Nat) : Option Nat :=
  (List.range 768).find? (fun t => !(s.ptags.any (fun x => decide (x.pe = pe ∧ x.tag = t))))

/-- Whether a root port's link is up (21 Table 21.9). -/
def portUp (s : State) (pe port : Nat) : Bool := flag (obj s 0xC010 (4 * pe + port)) 8

/-- The confirming read of a unit (09 R227): a root complex sends a zero-length memory read to the last store's address, on the path of the
function that owns it, unless its port is down; any other unit sends nothing. -/
def confirmRead (unit addr : Nat) (s : State) : State :=
  let pe := unit - 352
  let a := addr % 2 ^ 46
  if unit < 352 ∨ 356 ≤ unit then s
  else match s.bars.find? (fun b => decide (b.pe = pe ∧ b.base ≤ a ∧ a < b.base + b.size)) with
    | some b => if portUp s pe b.port then emit (.tlp pe b.rid ((freeTag s pe).getD 0) 2 a []) s else s
    | none => s

/-- The units that report a loss to a core's confirming reads (09 R227, R228): one whose read timed out reports nothing. -/
def lossUnits (h : Hart) (units : List Nat) (s : State) : List Nat :=
  match h with
  | .core n => units.filter (fun u => mGet false s.loss (u * 1024 + n))
  | .prv _ => []

/-- SYNC.IO (09 R227, R229): each target of a device store is read; loss flags are reported and cleared by those that answer; a failure
raises the I/O barrier error after retirement. -/
def syncIo (h : Hart) (bad : List SyncAnswer) (s : State) : State × Done :=
  let r := fenceAll h s
  let s := r.1
  let c := cpuOf s h
  if ¬ r.2 ∨ c.devSent ≠ 0 then (s, .hold)
  else
    let units := c.devUnits.map (·.1)
    let s := c.devUnits.foldl (fun s u => confirmRead u.1 u.2 s) s
    let tmo := (bad.filter (fun b => b.tmo && units.contains b.unit)).map (·.unit)
    let lost := lossUnits h (units.filter (fun u => !tmo.contains u)) s
    let err := (bad.filter (fun b => b.err && units.contains b.unit)).map (·.unit)
    let failed := lost ++ tmo ++ err
    let core := match h with | .core n => n | .prv n => n
    let s := { s with loss := lost.foldl (fun m u => mDel m (u * 1024 + core)) s.loss }
    let s := modCpu h (fun c => { c with devUnits := [] }) s
    if failed = [] then (s, .seq)
    else
      let old := sysReg c 0x430
      let bits := old ||| BitVec.ofNat 64 ((decide (err ≠ [])).toNat * 4 + (decide (tmo ≠ [])).toNat * 2 + (decide (lost ≠ [])).toNat)
      let w := setFld bits 24 16 (failed.foldl min 511)
      (modCpu h (fun c => { setSys 0x430 w c with
        iobar := match h with | .core _ => some c.pc | .prv _ => none }) s, .seq)

/-! ## TLB instructions -/

/-- The register after the one a field names. -/
def nextReg (r : Reg) : Reg := r + 1

/-- An operand carries POIS or HNDL (07 R177, R182). -/
def badOperand (xs : List GVal) : Bool := xs.any (fun x => decide (x.t = .pois) || decide (x.t = .hndl))

/-- Entries a new entry displaces (07 R178 step 1). -/
def overlaps (e new : TlbEntry) : Bool :=
  let c := max e.cont new.cont
  decide (e.vpn >>> (4 * c) = new.vpn >>> (4 * c)) && (e.g || new.g || decide (e.asid = new.asid))

/-- TLBW (07 R178). -/
def tlbw (h : Hart) (ra : Reg) (s : State) : State × Done :=
  let c := cpuOf s h
  let hi := gpr c ra
  let lo := gpr c (nextReg ra)
  if badOperand [hi, lo] then (s, .seq)
  else
    let e := entryOf hi.v lo.v
    let c := tlbRemove (fun x => overlaps x e) c
    if ¬ flag lo.v 63 ∨ loReserved lo.v then (setCpu h c s, .seq)
    else if flag lo.v 62 then (setCpu h { c with wired := mIns c.wired (fld lo.v 61 58) e } s, .seq)
    else
      let i := l2tlbSet e.vpn e.cont
      let q := setOf c.l2tlb i
      (setCpu h { c with l2tlb := putSet i (psPut 3 (psVictim 3 (fun _ => true) q) e q) c.l2tlb } s, .seq)

/-- Write a pair of registers with ENTRY_HI and ENTRY_LO, tagged DATA. -/
def writePair (h : Hart) (rd : Reg) (hi lo : Word) (s : State) : State × Done :=
  (modCpu h (fun c => setGpr (nextReg rd) ⟨lo, .data⟩ (setGpr rd ⟨hi, .data⟩ c)) s, .seq)

/-- TLBR (07 R179): the L2 TLB and the wired slots. -/
def tlbr (h : Hart) (rd ra : Reg) (s : State) : State × Done :=
  let c := cpuOf s h
  let x := gpr c ra
  if badOperand [x] then writePair h rd (entryHi 0 5 (vpnOf x.v) 0) 0 s
  else match wiredFind c x.v with
    | some (k, e) => writePair h rd (entryHi 0 0 e.vpn e.asid) (entryLo e (some k)) s
    | none => match l2tlbFind c x.v with
      | some (_, e) => writePair h rd (entryHi 0 0 e.vpn e.asid) (entryLo e none) s
      | none => writePair h rd (entryHi 0 1 (vpnOf x.v) 0) 0 s

/-- A walk reads a line through its core's L2 (07 R180): the line enters the L2 and the LLC; with allocation disabled nothing is kept
(08 R201). Answers whether the core has it. -/
def walkLine (n line : Nat) (s : State) : State × Bool :=
  let h : Hart := .core n
  let t := tileOf s n
  let inLlc (s : State) : State := if remoteLine s line ∨ llcValid s line then s else llcAlloc line false s
  if (l2State s t line).isSome then (inLlc (l2Touch t line s), true)
  else if ¬ cacheEn s h then
    (if shadowReady s t line then (installShadow t line false s, true)
     else if lineQuiet s line then (s, true) else (ask h 0 line s, false))
  else
    let s := makeRoom t line s
    if shadowReady s t line ∧ l2Room s t line = true then (inLlc (installShadow t line true s), true)
    else if atOnce s t line then (inLlc (acquireShared t line s), true)
    else (ask h 0 line s, false)

/-- The lines a walk reads, one after another. -/
def walkLines (n : Nat) (lines : List Nat) (s : State) : State × Bool :=
  lines.foldl (fun r l => if r.2 then walkLine n l r.1 else r) (s, true)

/-- WALK has its leaf (07 R180): the two words. -/
def walkGives (h : Hart) (rd : Reg) (vpn : Nat) (leaf : Word) (s : State) : State × Done :=
  let a := curAsid (cpuOf s h)
  writePair h rd (entryHi 0 0 vpn a) (entryLo (leafEntry vpn a leaf) none) s

/-- The compare-and-swap that marks a leaf goes to the leaf's home as a far atomic, and the core waits for its result (07 R183). -/
def askMark (n pa : Nat) (leaf : Word) (rd ra : Reg) (intent : BitVec 2) (s : State) : State × Done :=
  let u := tileOf s n
  let line := lineOf pa
  if asking s u line ∨ wbPending s u line ∨ 48 ≤ requestsOut s u then (s, .hold)
  else
    let q : ReqFlit := { dest := 0, src := u, txid := freeTxid s u, oid := nextOid s (.core n), encl := enclOfCore s n, addr := line,
                         atop := 9, off := pa % 64, len := 7, lp := decide ((coreOf s n).level ≠ .m) }
    let s := toHomeReq 0x0A q (modTile u (fun x => { x with oid := x.oid + 1 }) s)
    (modCpu (.core n) (fun c => { c with wait := .mark pa leaf rd ra intent }) s, .stay)

/-- WALK (07 R180-R183). A leaf at a quiet home is marked at once; after four failed compares the status is CONTENDED. -/
def walk (h : Hart) (rd ra : Reg) (intent : BitVec 2) (s : State) : State × Done :=
  let c := cpuOf s h
  let x := gpr c ra
  let root := sysReg c 0x420
  let vpn := vpnOf x.v
  if badOperand [x] then writePair h rd (entryHi 0 5 vpn 0) 0 s
  else
    let e := enclOf s h
    let n := match h with | .core n => n | .prv n => n
    if 4 ≤ c.walkTries then writePair h rd (entryHi 0 4 vpn 0) 0 (modCpu h (fun c => { c with walkTries := 0 }) s)
    else
      let lines := ((walkRootReads s e (fun _ => none) root x.v).map (fun p => lineOf p.2.pa))
      let r := walkLines n lines s
      if ¬ r.2 then (r.1, .hold)
      else match walkRoot s e (fun _ => none) root x.v with
        | .busError pa =>
          (if placeOf s e pa = .unbacked then reportAccess h 0x0305 5 pa r.1 else r.1, .exc { code := 0x09, tval := BitVec.ofNat 64 pa })
        | .attrFault pa => (r.1, .exc { code := 0x0A, tval := BitVec.ofNat 64 pa })
        | .status wst lvl => writePair h rd (entryHi lvl wst vpn 0) 0 r.1
        | .ok pa leaf =>
          let leaf' := if flag root 2 then markedLeaf (decide (intent = 1)) leaf else leaf
          if leaf' = leaf then walkGives h rd vpn leaf r.1
          else if lineQuiet r.1 (lineOf pa) ∧ ¬ asking r.1 (unitOf r.1 h) (lineOf pa) then walkGives h rd vpn leaf' (markLeaf pa leaf' r.1)
          else askMark n pa leaf rd ra intent r.1

/-- The result of the compare-and-swap of a WALK (07 R183): the walk ends with its leaf, or is repeated from the root. -/
def markAnswered (n : Nat) (old : Word) (s : State) : State :=
  let h : Hart := .core n
  let c := coreOf s n
  match c.wait with
  | .mark _ leaf rd ra intent =>
    let leaf' := markedLeaf (decide (intent = 1)) leaf
    let s := modCpu h (fun c => { c with wait := .none }) s
    if old = leaf then
      let s := modCpu h (fun c => { c with walkTries := 0 }) s
      retireWaited h [] (walkGives h rd (vpnOf (gpr c ra).v) leaf' s).1
    else
      let i : Instr := .walk h rd ra intent
      modCpu h (fun c => { c with
        walkTries := c.walkTries + 1
        win := { i := i, pc := c.pc, pred := fallTo c.pc c, heldAt := some s.stamp } :: c.win }) s
  | _ => s

/-- The units a broadcast TLBI of an enclosure waits for (07 R186, R187): its other cores that hold TLBs, and the I/O caches that hold
anything. Cores in CS3 or failover are answered for at once. -/
def tlbiTargets (s : State) (n e : Nat) : List TlbTarget :=
  ((List.range 192).filter (fun k => k ≠ n ∧ enclOfCore s k = e ∧
      (coreOf s k).run ≠ .unpowered ∧ (coreOf s k).run ≠ .cs3 ∧ (coreOf s k).run ≠ .failover ∧ (coreOf s k).run ≠ .lost)).map .core ++
  ((List.range 64).filter (fun k => ¬ (prvOf s k).failed ∧ ioTlbOf s (272 + k) ≠ {})).map .prv ++
  ((List.range 4).filter (fun k => ioTlbOf s (352 + k) ≠ {})).map .pe

/-- TLBI (07 R182, R185, R186): the local removal, then the broadcast when B is 1. -/
def tlbi (h : Hart) (form : Nat) (x : GVal) (b : Bool) (s : State) : State × Done :=
  let c := cpuOf s h
  let form := if badOperand [x] then 0 else form
  let s := modCpu h (tlbRemove (tlbiHits form x.v (fld x.v 11 0) (curAsid c))) s
  match h with
  | .prv _ => (s, .seq)
  | .core n =>
    let ts := if b then tlbiTargets s n (enclOfCore s n) else []
    if ts = [] then (s, .seq)
    else (modCpu h (fun c => { c with wait := .tlbi ts form x.v (fld x.v 11 0) s.stamp }) s, .stay)

/-! ## Meanings -/

/-- MFS (04 R109). -/
def execMfs (h : Hart) (rd : Reg) (sys : BitVec 12) (s : State) : Host.Outcome State Fault Refusal :=
  run h (.mfs h rd sys) (mfs h (.mfs h rd sys) rd sys.toNat) s

/-- MTS to a register that has no row of its own (04 R109, R110). -/
def execMts (h : Hart) (sys : BitVec 12) (ra : Reg) (s : State) : Host.Outcome State Fault Refusal :=
  run h (.mts h sys ra) (mts h (.mts h sys ra) sys.toNat ra) s

/-- MTS LK (04 R110). -/
def execMtsLk (h : Hart) (ra : Reg) (s : State) : Host.Outcome State Fault Refusal :=
  run h (.mtsLk h ra) (mts h (.mtsLk h ra) 0x020 ra) s

/-- MTS FCSR (05 R127). -/
def execMtsFcsr (h : Hart) (ra : Reg) (s : State) : Host.Outcome State Fault Refusal :=
  run h (.mtsFcsr h ra) (mts h (.mtsFcsr h ra) 0x001 ra) s

/-- MTS CTX_PREDKEY: the return stack is flushed (06 R152). -/
def execMtsCtxPredkey (h : Hart) (ra : Reg) (s : State) : Host.Outcome State Fault Refusal :=
  run h (.mtsCtxPredkey h ra) (mts h (.mtsCtxPredkey h ra) 0x411 ra) s

/-- MTS CTX_TAGCTL (03 R66). -/
def execMtsCtxTagctl (h : Hart) (ra : Reg) (s : State) : Host.Outcome State Fault Refusal :=
  run h (.mtsCtxTagctl h ra) (mts h (.mtsCtxTagctl h ra) 0x410 ra) s

/-- MTS CTX_TIMING (05 R135). -/
def execMtsCtxTiming (h : Hart) (ra : Reg) (s : State) : Host.Outcome State Fault Refusal :=
  run h (.mtsCtxTiming h ra) (mts h (.mtsCtxTiming h ra) 0x412 ra) s

/-- MTS CACHECFG: nothing is written back or invalidated (08 R201). -/
def execMtsCachecfg (h : Hart) (ra : Reg) (s : State) : Host.Outcome State Fault Refusal :=
  run h (.mtsCachecfg h ra) (mts h (.mtsCachecfg h ra) 0xC20 ra) s

/-- MTS to a loop register (04 R93). -/
def execMtsLoopRegister (h : Hart) (k : LoopReg) (ra : Reg) (s : State) : Host.Outcome State Fault Refusal :=
  run h (.mtsLoopRegister h k ra) (mts h (.mtsLoopRegister h k ra) (0x010 + k.toNat) ra) s

/-- MTS PWRCTL (17 R474). -/
def execMtsPwrctl (h : Hart) (ra : Reg) (s : State) : Host.Outcome State Fault Refusal :=
  run h (.mtsPwrctl h ra) (mts h (.mtsPwrctl h ra) 0xC30 ra) s

/-- MTS PMU_SNAP (20 R538). -/
def execMtsPmuSnap (h : Hart) (ra : Reg) (s : State) : Host.Outcome State Fault Refusal :=
  run h (.mtsPmuSnap h ra) (mts h (.mtsPmuSnap h ra) 0xC40 ra) s

/-- MTS to a counter register (20 R530). -/
def execMtsCounter (h : Hart) (k : CounterReg) (ra : Reg) (s : State) : Host.Outcome State Fault Refusal :=
  run h (.mtsCounter h k ra) (mts h (.mtsCounter h k ra) (0x440 + k.toNat) ra) s

/-- TSET (04 R111). -/
def execTset (h : Hart) (rd ra : Reg) (ty : BitVec 3) (s : State) : Host.Outcome State Fault Refusal :=
  run h (.tset h rd ra ty) (fun s =>
    let x := gpr (cpuOf s h) ra
    match srcExc (cpuOf s h) [x] with
    | some e => (s, .exc e)
    | none => writeG h rd ⟨x.v, tsetTag ty⟩ s) s

/-- TGET: the tag code of any operand as a value (03 Table 3.7). -/
def execTget (h : Hart) (rd ra : Reg) (s : State) : Host.Outcome State Fault Refusal :=
  run h (.tget h rd ra) (fun s => writeG h rd ⟨BitVec.ofNat 64 (tagCode (gpr (cpuOf s h) ra).t), .data⟩ s) s

/-- ECALL: system call (04 Table 4.9). -/
def execEcall (h : Hart) (s : State) : Host.Outcome State Fault Refusal :=
  run h (.ecall h) (fun s => (s, .exc { code := 0x0B })) s

/-- EBREAK: breakpoint with TVAL 0 (04 Table 4.9). -/
def execEbreak (h : Hart) (s : State) : Host.Outcome State Fault Refusal :=
  run h (.ebreak h) (fun s => (s, .exc { code := 0x0C })) s

/-- ERET (04 R112). -/
def execEret (h : Hart) (s : State) : Host.Outcome State Fault Refusal := run h (.eret h) (eret h) s

/-- WFI (04 R112). -/
def execWfi (h : Hart) (s : State) : Host.Outcome State Fault Refusal := run h (.wfi h) (wfi h) s

/-- FENCE (09 Table 9.4). -/
def execFence (h : Hart) (s : State) : Host.Outcome State Fault Refusal := run h (.fence h) (fun s => fenceWhen (fenceAll h s)) s

/-- FENCE.SL: every older store has been performed (09 Table 9.4). -/
def execFenceSl (h : Hart) (s : State) : Host.Outcome State Fault Refusal := run h (.fenceSl h) (fun s => fenceWhen (sbDrain h s)) s

/-- FENCE.NT (09 Table 9.4). -/
def execFenceNt (h : Hart) (s : State) : Host.Outcome State Fault Refusal := run h (.fenceNt h) (fun s => fenceWhen (fenceNt h s)) s

/-- FENCE.IO (09 Table 9.4). -/
def execFenceIo (h : Hart) (s : State) : Host.Outcome State Fault Refusal := run h (.fenceIo h) (fenceIo h) s

/-- SYNC.IO (09 R227, R229). -/
def execSyncIo (h : Hart) (bad : List SyncAnswer) (s : State) : Host.Outcome State Fault Refusal :=
  run h (.syncIo h bad) (syncIo h bad) s

/-- ISYNC: what was fetched behind it is discarded and fetched again (04 R113). -/
def execIsync (h : Hart) (s : State) : Host.Outcome State Fault Refusal := run h (.isync h) (fun s => (s, .seq)) s

/-- TLBW (07 R178). -/
def execTlbw (h : Hart) (ra : Reg) (s : State) : Host.Outcome State Fault Refusal := run h (.tlbw h ra) (afterStores h (tlbw h ra)) s

/-- TLBI ALL (07 Table 7.14). -/
def execTlbiAll (h : Hart) (b : Bool) (s : State) : Host.Outcome State Fault Refusal :=
  run h (.tlbiAll h b) (afterStores h (tlbi h 0 ⟨0, .data⟩ b)) s

/-- TLBI ASID (07 Table 7.14). -/
def execTlbiAsid (h : Hart) (ra : Reg) (b : Bool) (s : State) : Host.Outcome State Fault Refusal :=
  run h (.tlbiAsid h ra b) (afterStores h (fun s => tlbi h 1 (gpr (cpuOf s h) ra) b s)) s

/-- TLBI VA (07 Table 7.14). -/
def execTlbiVa (h : Hart) (ra : Reg) (b : Bool) (s : State) : Host.Outcome State Fault Refusal :=
  run h (.tlbiVa h ra b) (afterStores h (fun s => tlbi h 2 (gpr (cpuOf s h) ra) b s)) s

/-- TLBI VA_ALL (07 Table 7.14). -/
def execTlbiVaAll (h : Hart) (ra : Reg) (b : Bool) (s : State) : Host.Outcome State Fault Refusal :=
  run h (.tlbiVaAll h ra b) (afterStores h (fun s => tlbi h 3 (gpr (cpuOf s h) ra) b s)) s

/-- TLBI NONGLOBAL (07 Table 7.14). -/
def execTlbiNonglobal (h : Hart) (b : Bool) (s : State) : Host.Outcome State Fault Refusal :=
  run h (.tlbiNonglobal h b) (afterStores h (tlbi h 4 ⟨0, .data⟩ b)) s

/-- WALK (07 R180). -/
def execWalk (h : Hart) (rd ra : Reg) (intent : BitVec 2) (s : State) : Host.Outcome State Fault Refusal :=
  run h (.walk h rd ra intent) (afterStores h (walk h rd ra intent)) s

/-- TLBR (07 R179). -/
def execTlbr (h : Hart) (rd ra : Reg) (s : State) : Host.Outcome State Fault Refusal := run h (.tlbr h rd ra) (afterStores h (tlbr h rd ra)) s

end Sys2Proof.Machine
end

