-- ==== Sys2Proof/Machine/Device.lean ====
section
/-! DEFINITION. Device accesses at the core that waits for them (04 R104, 09 R225-R228), and asynchronous events taken. -/

namespace Sys2Proof.Machine
open Sys2Proof

/-- A late completion, a DAT packet, is discarded and recorded, with the stamp of its injection (09 R226, 02 R48, R53). -/
def lateCompletion (h : Hart) (unit low : Nat) (wrap : Bool) (s : State) : State :=
  report { stamp := 0, useq := 0, unit := unitOf s h, net := 3, cls := 0x0602, sev := 0, late := true, encl := enclOf s h,
           core := (match h with | .core n => n | .prv _ => 0xFF), d0 := unit, pktStamp := injected s low wrap, inexact := wrap } s

/-- The value a load's destination takes. -/
def loadedVal (dst : LoadDst) (v : Nat) : Word := if dst.sext then sext (8 * dst.size) v else BitVec.ofNat 64 (v % 2 ^ (8 * dst.size))

/-- An access a hart waits for completes: rd receives the value, and the instruction retires. -/
def completeWait (h : Hart) (a : Access) (dst : LoadDst) (x : GVal) (s : State) : State :=
  retireWaited h [(a, dst.va)] (modCpu h (fun c => { setGpr dst.rd x c with wait := .none }) s)

/-- An access completes in the tick of its deadline: the completion is evaluated first, and the timeout's record is still due (02 R54). -/
def noteEnded (h : Hart) (pa unit deadline : Nat) (s : State) : State :=
  if deadline = s.stamp then modCpu h (fun c => { c with ended := c.ended ++ [(s.stamp, pa, unit)] }) s else s

/-- A device load's data arrives (09 R225, R226): for the access that waits for that unit and transaction, otherwise late. -/
def devDataArrives (h : Hart) (unit tx v low : Nat) (wrap : Bool) (s : State) : State :=
  match (cpuOf s h).wait with
  | .devLoad pa u d t dst =>
    if u = unit ∧ t = tx then completeWait h .load dst ⟨loadedVal dst v, .data⟩ (noteEnded h pa u d s) else lateCompletion h unit low wrap s
  | _ => lateCompletion h unit low wrap s

/-- The result of an atomic to a device arrives (04 R104, 09 R226). -/
def devAtomArrives (h : Hart) (unit tx v low : Nat) (wrap : Bool) (s : State) : State :=
  match (cpuOf s h).wait with
  | .devAtomic pa u d t dst =>
    if u = unit ∧ t = tx then completeWait h .atomic dst ⟨loadedVal dst v, .data⟩ (noteEnded h pa u d s) else lateCompletion h unit low wrap s
  | _ => lateCompletion h unit low wrap s

/-- The old word of a far atomic arrives (10 R261): of an instruction, or of the compare that marks a WALK's leaf (07 R183). The retired
instruction is counted (20 Table 20.5). -/
def atomArrives (h : Hart) (v : Nat) (t : Tag) (c : Bool) (s : State) : State :=
  match (cpuOf s h).wait with
  | .farAtomic _ op d b exp dst =>
    (match atomApply op d (decide ((cpuOf s h).level ≠ .m)) ⟨BitVec.ofNat 64 v, t⟩ b exp with
     | .error e => takeSync h (if e.code = 0x0D then { e with tval := dst.va } else e) (modCpu h (fun c => { c with wait := .none }) s)
     | .ok _ =>
       let s := countH h 0x31 1 (if c then countH h 0x32 1 s else s)
       completeWait h .atomic dst ⟨loadedVal dst v, if d then t else .data⟩ s)
  | .mark _ _ _ _ _ => (match h with | .core n => markAnswered n (BitVec.ofNat 64 v) s | .prv _ => s)
  | _ => s

/-- The record of an access that timed out (09 R226); superseded when its completion came in the same tick (02 R54). -/
def timeoutNote (sup : Bool) (h : Hart) (unit pa : Nat) (s : State) : State :=
  report { stamp := 0, useq := 0, unit := unitOf s h, cls := 0x0601, sev := 2, encl := enclOf s h,
           core := (match h with | .core n => n | .prv _ => 0xFF),
           tile := (match h with | .core n => tileOf s n | .prv _ => 0xFF), addr := pa, d0 := unit, superseded := sup } s

/-- The record of an access that timed out and ends so. -/
def timeoutRecord (h : Hart) (unit pa : Nat) (s : State) : State := timeoutNote false h unit pa s

/-- Timeouts recognised in the tick in which their accesses completed: each is recorded, superseded, and has no other effect (02 R54). -/
def supersededTimeouts (h : Hart) (s : State) : State :=
  ((cpuOf s h).ended.filter (fun x => decide (x.1 = s.stamp))).foldl (fun s x => timeoutNote true h x.2.2 x.2.1 s)
    (if (cpuOf s h).ended = [] then s else modCpu h (fun c => { c with ended := [] }) s)

/-- The root complex's tags of a hart's request go on, but its core waits no more (21 R545). -/
def tagsLate (src txid : Nat) (s : State) : State :=
  { s with ptags := s.ptags.map (fun t => if t.q.src = src ∧ t.q.txid = txid ∧ t.kind ≠ 1 then { t with late := true } else t) }

/-- A device load or atomic ends as a read of a POIS word (09 R226). -/
def endTimedOut (h : Hart) (s : State) : State :=
  match (cpuOf s h).wait with
  | .devLoad pa unit _ _ dst =>
    let s := timeoutRecord h unit pa s
    if dst.size = 8 then completeWait h .load dst ⟨0, .pois⟩ s
    else takeSync h { code := 0x0D, tag := 7, tval := dst.va } (modCpu h (fun c => { c with wait := .none }) s)
  | .devAtomic pa unit _ _ dst =>
    takeSync h { code := 0x0D, tag := 7, tval := dst.va } (modCpu h (fun c => { c with wait := .none }) (timeoutRecord h unit pa s))
  | _ => s

/-- The deadline of the access a hart waits for. -/
def waitDeadline (c : Cpu) : Option Nat :=
  match c.wait with
  | .devLoad _ _ d _ _ => some d
  | .devAtomic _ _ d _ _ => some d
  | _ => none

/-- The transaction of the device access a hart waits for. -/
def waitTx (c : Cpu) : Nat :=
  match c.wait with
  | .devLoad _ _ _ t _ => t
  | .devAtomic _ _ _ t _ => t
  | _ => 0

/-- A configuration store whose completion did not come within IOTMO receives its Accept (21 R545). -/
def cfgTimeout (h : Hart) (s : State) : State :=
  let due (t : PTag) : Bool := decide (t.kind = 1) && !t.late && decide (t.q.src = unitOf s h) &&
    decide (t.deadline + fld (sysReg (cpuOf s h) 0xC11) 20 0 ≤ s.stamp + 16000000)
  let ts := s.ptags.filter due
  let s := { s with ptags := s.ptags.map (fun t => if due t then { t with late := true } else t) }
  ts.foldl (fun s t => send (rspTo 0x06 (352 + t.pe) 0 t.q s) (timeoutRecord h (352 + t.pe) (reqPa t.q) s)) s

/-- DEVICE_LOAD_TIMEOUT (09 R226). A completion recognised in the deadline's tick came before this command: it wins (02 R54). -/
def deviceTimeout (h : Hart) (s : State) : State :=
  let s := supersededTimeouts h (cfgTimeout h s)
  match waitDeadline (cpuOf s h) with
  | none => s
  | some d => if d ≤ s.stamp then endTimedOut h (tagsLate (unitOf s h) (waitTx (cpuOf s h)) s) else s

/-- A hart has an access whose timeout is recognised in this tick. -/
def timeoutDue (s : State) (h : Hart) : Bool := match waitDeadline (cpuOf s h) with | some d => decide (d ≤ s.stamp) | none => false

/-- Before the stamp leaves a tick, every timeout of a device access whose deadline it reached is recognised (02 R54). -/
def timeoutsDue (s : State) : State :=
  ((s.cores.map (fun p => Hart.core p.1) ++ s.prv.map (fun p => Hart.prv p.1)).filter (timeoutDue s)).foldl (fun s h => deviceTimeout h s) s

/-- A posted write that a root complex accepted and cannot deliver (09 R228): recorded, flagged and counted at its port. -/
def postedDrop (pe port src addr : Nat) (s : State) : State :=
  let s := report { stamp := 0, useq := 0, unit := 352 + pe, cls := 0x0603, sev := 2, encl := if src < 192 then enclOfCore s src else 0x10,
                    core := src, tile := if src < 192 then tileOf s src else 0xFF, addr := addr, d0 := src } s
  let s := { s with loss := mPut false s.loss ((352 + pe) * 1024 + src) true }
  let k := 4 * pe + port
  setObjFld 0xC010 k 31 16 (min 0xFFFF (fld (obj s 0xC010 k) 31 16 + 1)) s

/-- An Accept reaches the hart that sent a device store (09 R225): its unit is to be read by the next SYNC.IO, at the address of its last
store (09 R227). -/
def acceptArrives (h : Hart) (unit tx : Nat) (s : State) : State :=
  modCpu h (fun c => match c.devOut.find? (fun x => decide (x.1 = tx ∧ x.2.1 = unit)) with
    | some x => { c with devSent := c.devSent - 1, devOut := c.devOut.erase x, devUnits := mIns c.devUnits unit x.2.2 }
    | none => c) s

/-! ## Meanings -/

/-- DEVICE_LOAD_TIMEOUT (09 R226, 21 R545). -/
def execDeviceLoadTimeout (h : Hart) (s : State) : Host.Outcome State Fault Refusal := .next (deviceTimeout h s)

/-- POSTED_WRITE_DROP (09 R228). -/
def execPostedWriteDrop (pe port src addr : Nat) (s : State) : Host.Outcome State Fault Refusal :=
  .next (if pe < 4 ∧ port < 4 ∧ src < 192 then postedDrop pe port src addr s else s)

/-- ACCEPT: an I/O unit's response to a device store (09 R225). -/
def execAccept (q : RspFlit) (s : State) : Host.Outcome State Fault Refusal :=
  .next (here (.rsp 0x06 q) (fun s => match hartOf s q.dest with
    | some h => acceptArrives h q.src q.txid s
    | none => s) s)

/-- DEVDATA: a device load's data (09 R225). -/
def execDevdata (q : DatFlit) (s : State) : Host.Outcome State Fault Refusal :=
  .next (here (.dat 7 q) (fun s => match hartOf s q.dest with
    | some h => devDataArrives h q.src q.txid (q.data.toNat >>> (8 * ctz q.be.toNat 0 32)) q.lstamp q.wrap s
    | none => s) s)

/-- ASYNC_EVENT_TAKEN: a core takes the event pending at its boundary (03 R71, R72). -/
def execAsyncEventTaken (n : Nat) (s : State) : Host.Outcome State Fault Refusal :=
  .next (if n < 192 ∧ canRun (.core n) s then takeEvent n s else s)

end Sys2Proof.Machine
end

