-- ==== Sys2Proof/Machine/Dram.lean ====
section
/-! DEFINITION. Memory controllers (11): interleave, tag caches, the symbol code, read-modify-write, poison, scrub and flip masks. -/

namespace Sys2Proof.Machine
open Sys2Proof

/-! ## The symbol code (11 R279, R280) -/

/-- Multiplication by α in GF(2^8) with x^8 + x^4 + x^3 + x^2 + 1. -/
def gfDouble (x : Nat) : Nat := if 128 ≤ x then (2 * x) ^^^ 0x11D else 2 * x

/-- Multiplication by α^d. -/
def gfPow (x : Nat) : Nat → Nat
  | 0 => x
  | d + 1 => gfDouble (gfPow x d)

/-- The two syndromes of code word k of a burst with these errors: roots α^0 and α^1. -/
def syndromes (errs : List (Nat × Nat)) (k : Nat) : Nat × Nat :=
  errs.foldl (fun a e => let x := nbits e.2 (8 * k + 7) (8 * k)
    (a.1 ^^^ x, a.2 ^^^ gfPow x e.1)) (0, 0)

/-- What decoding a burst gives. -/
inductive Decoded where
  | clean
  /-- corrected in a device -/
  | corrected (d : Nat)
  /-- accepted as corrected in a device, wrongly (11 R280) -/
  | wrong (d : Nat)
  | bad
deriving DecidableEq, Repr

/-- Whether the errors lie in one device alone. -/
def onlyIn (errs : List (Nat × Nat)) (d : Nat) : Bool := errs.all (fun e => decide (e.1 = d) || decide (e.2 % 2 ^ 64 = 0))

/-- The position a code word's syndromes point to: none outside the ten positions. -/
def locator (s : Nat × Nat) : Option Nat := (List.range 10).find? (fun d => decide (gfPow s.1 d = s.2))

/-- Decode a burst, with the marked device of its rank and subchannel if it has one. -/
def decodeBurst (mark : Option Nat) (errs : List (Nat × Nat)) : Decoded :=
  let ss := (List.range 8).map (syndromes errs)
  let hit := ss.filter (fun s => decide (s ≠ (0, 0)))
  if hit = [] then (if errs.all (fun e => decide (e.2 % 2 ^ 64 = 0)) then .clean else .wrong 10)
  else if hit.any (fun s => decide (s.1 = 0)) then .bad
  else match mark with
    | some d => if hit.all (fun s => decide (gfPow s.1 d = s.2)) then (if onlyIn errs d then .corrected d else .wrong d) else .bad
    | none =>
      match hit.map locator with
      | some d :: rest => if rest.all (fun l => decide (l = some d)) then (if onlyIn errs d then .corrected d else .wrong d) else .bad
      | _ => .bad

/-- How many code words of a burst a device is in error in. -/
def wordsInError (errs : List (Nat × Nat)) : Nat := ((List.range 8).filter (fun k => decide (syndromes errs k ≠ (0, 0)))).length

/-! ## Records and counts (11 R281, R282, R286) -/

/-- The key of a rank and subchannel. -/
def rankKey (rank sub : Nat) : Nat := 2 * rank + sub

/-- The marked device of a rank and subchannel. -/
def markOf (s : State) (ch rank sub : Nat) : Option Nat :=
  let w := obj s 0x4030 (16 * ch + rankKey rank sub)
  if flag w 7 then some (fld w 3 0) else none

/-- The enclosure whose memory a line is, 0x10 for the device's. -/
def lineEncl (s : State) (line : Nat) : Nat :=
  let o := granuleOwner s (line % 2 ^ 42 / 2 ^ 24)
  if o < 16 then o else 0x10

/-- Set a bit of MEM_CHAN_STATUS; CE, UE and SCRUB_LATE are W1C. -/
def chanBit (ch i : Nat) (v : Bool) (s : State) : State :=
  raiseBits 0x4000 ch (if v then BitVec.ofNat 64 (2 ^ i) &&& 0x8C else 0) (setObj 0x4000 ch (setBit (obj s 0x4000 ch) i v) s)

/-- A device is marked unless its rank and subchannel has a mark; MARKS counts them. -/
def markDevice (ch rank sub d : Nat) (s : State) : State :=
  if (markOf s ch rank sub).isSome then s
  else
    let s := raiseBits 0x4030 (16 * ch + rankKey rank sub) 0x80 (setObj 0x4030 (16 * ch + rankKey rank sub) (BitVec.ofNat 64 (128 + d)) s)
    let n := ((List.range 16).filter (fun k => flag (obj s 0x4030 (16 * ch + k)) 7)).length
    setObjFld 0x4000 ch 19 16 (min n 15) s

/-- The eight first syndromes, an octet each. -/
def syndromeWord (errs : List (Nat × Nat)) : Nat := (List.range 8).foldl (fun a k => a + (syndromes errs k).1 * 256 ^ k) 0

/-- A memory record's place (16 Table 16.2): channel, subchannel, rank, device in octets 3 to 0. -/
def memPlace (ch sub rank dev : Nat) : Nat := ch * 2 ^ 24 + sub * 2 ^ 16 + rank * 256 + dev

/-- A corrected burst (11 R281, R282). -/
def countCorrected (ch line rank d : Nat) (errs : List (Nat × Nat)) (s : State) : State :=
  let sub := subchOf line
  let s := chanBit ch 2 true (bumpObj 0x4010 ch 32 1 s)
  let key := ch * 4096 + rankKey rank sub * 16 + d
  let n := mGet 0 s.dram.ceCnt key + 1
  let win := s.stamp / hourTicks + 1
  let first := mGet 0 s.dram.ceHour key ≠ win
  let s := { s with dram := { s.dram with ceCnt := mPut 0 s.dram.ceCnt key n, ceHour := mPut 0 s.dram.ceHour key win } }
  let s := if first then
      report { stamp := 0, useq := 0, unit := 256 + ch, cls := 0x0301, sev := 0, encl := lineEncl s line, addr := 64 * line,
               d0 := memPlace ch sub rank d, d1 := syndromeWord errs } s
    else s
  if 16 ≤ n ∨ 4 ≤ wordsInError errs then markDevice ch rank sub d s else s

/-- An uncorrectable burst (11 R286, R287): status, count and record. -/
def countUncorrectable (ch line rank lines : Nat) (s : State) : State :=
  let s := chanBit ch 3 true (bumpObj 0x4020 ch 32 1 s)
  report { stamp := 0, useq := 0, unit := 256 + ch, cls := 0x0302, sev := 2, encl := lineEncl s line, addr := 64 * line,
           d0 := memPlace ch (subchOf line) rank 0xFF, d1 := lines } s

/-! ## The DRAM level of a line -/

/-- Replace what DRAM holds of a line, beneath every dirty copy. -/
def dramSet (line : Nat) (l : Line) (s : State) : State :=
  if (mFind s.mem.under3 line).isSome then { s with mem := { s.mem with under3 := mIns s.mem.under3 line l } }
  else if (mFind s.mem.under2 line).isSome then { s with mem := { s.mem with under2 := mIns s.mem.under2 line l } }
  else setLine line l s

/-- Poison a line in place: data 0 and eight POIS tags (11 R286). -/
def dramPoison (line : Nat) (s : State) : State := dramSet line (zeroLine 7) s

/-! ## Reading a tag line (11 R287) -/

/-- An uncorrectable tag line (11 R287): every word of its sixteen lines is POIS. -/
def tagLinePoison (ch line rank : Nat) (s : State) : State :=
  let ls := tagLineLines s ch (tagLineOf line)
  countUncorrectable ch line rank 16 (ls.foldl (fun s l =>
    dramSet l { dramCopy s l with tags := (zeroLine 7).tags } s) s)

/-- A tag line wrongly corrected: the tags of its sixteen lines are not stated (11 R280, log 2). -/
def tagLineFree (ch line : Nat) (s : State) : State :=
  (tagLineLines s ch (tagLineOf line)).foldl (fun s l =>
    let f := takeFree s
    dramSet l { dramCopy s l with tags := BitVec.ofNat 32 f.1 } f.2) s

/-- A tag line read from DRAM with errors (11 R280, R287): sixteen lines become POIS when it is uncorrectable. -/
def tagRead (ch line : Nat) (e : BurstErr) (s : State) : State :=
  match decodeBurst (markOf s ch e.rank (tagLineOf line % 2)) e.terrs with
  | .clean => s
  | .bad => tagLinePoison ch line e.rank s
  | .corrected d => countCorrected ch line e.rank d e.terrs s
  | .wrong d => let s := tagLineFree ch line s
                if d < 10 then countCorrected ch line e.rank d e.terrs s else s

/-! ## Reads (11 R277, R282, R286) -/

/-- A line read wrongly corrected: its octets are not stated (log 2). -/
def freeLine (l : Line) (s : State) : Line × State :=
  let f := takeFree s
  (⟨BitVec.ofNat 512 f.1, l.tags⟩, f.2)

/-- A demand read of a burst: the line delivered. -/
def burstRead (ch line : Nat) (e : BurstErr) (s : State) : Line × State :=
  match decodeBurst (markOf s ch e.rank (subchOf line)) e.errs with
  | .clean => (dramCopy s line, s)
  | .corrected d => (dramCopy s line, countCorrected ch line e.rank d e.errs s)
  | .wrong d =>
    let f := freeLine (dramCopy s line) s
    (f.1, dramSet line f.1 (if d < 10 then countCorrected ch line e.rank d e.errs f.2 else f.2))
  | .bad => (zeroLine 7, countUncorrectable ch line e.rank 1 (dramPoison line s))

/-- MemRd (11 R277): tag line, then the burst. -/
def memRd (ch line : Nat) (e : BurstErr) (s : State) : Line × State :=
  let tl := tagLineOf line
  let s := if tagHit s ch tl then s else tagRead ch line e s
  burstRead ch line e (tagUse ch tl false s)

/-- MemRdNT (11 R277, R282, R286): nothing is allocated, counted or recorded, and nothing changes. -/
def memRdNt (s : State) (ch line : Nat) (e : BurstErr) : Line :=
  let tags := if tagHit s ch (tagLineOf line) then (dramCopy s line).tags
    else match decodeBurst (markOf s ch e.rank (tagLineOf line % 2)) e.terrs with
      | .bad => (zeroLine 7).tags
      | .wrong _ => BitVec.ofNat 32 (Config.free (s.free + 1))
      | _ => (dramCopy s line).tags
  match decodeBurst (markOf s ch e.rank (subchOf line)) e.errs with
  | .bad => zeroLine 7
  | .wrong _ => ⟨BitVec.ofNat 512 (Config.free s.free), tags⟩
  | _ => ⟨(dramCopy s line).data, tags⟩

/-- How many free values a MemRdNT has used: its octets, or its tags, wrongly corrected. -/
def ntFree (s : State) (ch line : Nat) (e : BurstErr) : Nat :=
  match decodeBurst (markOf s ch e.rank (subchOf line)) e.errs, decodeBurst (markOf s ch e.rank (tagLineOf line % 2)) e.terrs with
  | .bad, _ => 0
  | .wrong _, _ => 2
  | _, .wrong _ => 2
  | _, _ => 0

/-! ## Writes (11 R283, R285) -/

/-- A half with only its wholly written words enabled (11 R285). -/
def wholeWords (f : DatFlit) : DatFlit :=
  { f with be := (List.range 4).foldl (fun m i => if fld f.be (8 * i + 7) (8 * i) = 255 then m else m &&& ~~~((255 : BitVec 32) <<< (8 * i))) f.be }

/-- The write of a MemWr once its data is there: a masked one reads its burst first (11 R283, R285). -/
def memWrite (w : MemWrite) (h0 h1 : DatFlit) (s : State) : State :=
  let ch := w.mc - 256
  let whole := decide (h0.be = BitVec.allOnes 32 ∧ h1.be = BitVec.allOnes 32)
  let s := tagUse ch (tagLineOf w.line) true s
  let merged (l : Line) : Line := mergeHalf h1 (mergeHalf h0 l)
  if whole then dramSet w.line (merged (dramCopy s w.line)) s
  else match decodeBurst (markOf s ch w.rank (subchOf w.line)) w.errs with
    | .clean => dramSet w.line (merged (dramCopy s w.line)) s
    | .corrected d => dramSet w.line (merged (dramCopy s w.line)) (countCorrected ch w.line w.rank d w.errs s)
    | .wrong d => let f := freeLine (dramCopy s w.line) s
                  dramSet w.line (merged f.1) (if d < 10 then countCorrected ch w.line w.rank d w.errs f.2 else f.2)
    | .bad => dramSet w.line (mergeHalf (wholeWords h1) (mergeHalf (wholeWords h0) (zeroLine 7))) (countUncorrectable ch w.line w.rank 1 s)

/-- WrData arrives at a controller: at the second half the write is accepted and MemComp sent. -/
def ctrlData (f : DatFlit) (s : State) : State :=
  match s.dram.writes.find? (fun w => decide (w.mc = f.dest ∧ w.htxid = f.txid ∧ w.src = f.src)) with
  | none => s
  | some w =>
    match f.half, w.half0 with
    | true, some h0 =>
      let s := { s with dram := { s.dram with writes := s.dram.writes.erase w } }
      memWrite w h0 f (send (.rsp 0x0C { dest := w.src, src := w.mc, txid := w.htxid, spr := decide (512 ≤ w.htxid), epoch := s.mesh.epoch, lstamp := s.stamp % 4096 }) s)
    | _, _ => { s with dram := { s.dram with writes := s.dram.writes.map (fun x => if x = w then { w with half0 := some f } else x) } }

/-! ## Scrub and the rest (11 R272, R289, R290, R294) -/

/-- Patrol scrub runs: a pass under way goes on with its period, and 0 stops the next (11 R289, Table 11.10). -/
def scrubOn (s : State) (ch : Nat) : Bool := decide (mGet 24 s.dram.scrubHours ch ≠ 0) || decide (objN s 0x4100 1 ≠ 0)

/-- Patrol scrub reads a burst of the data region, or the tag line of a data line; a burst written since the read is not written back (11 R290). -/
def patrol (line : Nat) (tag : Bool) (e : BurstErr) (written : Bool) (s : State) : State :=
  let ch := chanOf (64 * line)
  if scrubOn s ch = false then s
  else if tag then tagRead ch line e s
  else if written then
    (match decodeBurst (markOf s ch e.rank (subchOf line)) e.errs with
     | .corrected d => countCorrected ch line e.rank d e.errs s
     | .wrong d => if d < 10 then countCorrected ch line e.rank d e.errs s else s
     | .bad => countUncorrectable ch line e.rank 1 s
     | .clean => s)
  else (burstRead ch line e s).2

/-- A scrub period ends (11 R281, R289): the counts of the period start again; a pass unfinished goes on. -/
def scrubEnd (ch : Nat) (done : Bool) (s : State) : State :=
  let s := { s with dram := { s.dram with ceCnt := s.dram.ceCnt.filter (fun e => !decide (e.1 / 4096 = ch)) } }
  if done then { s with dram := { s.dram with scrubHours := mPut 24 s.dram.scrubHours ch (objN s 0x4100 1) } } else chanBit ch 7 true s

/-- The key of a DIMM's threshold: 0 for 85 °C, 1 for 95 °C. -/
def hotKey (ch dimm k : Nat) : Nat := ch * 4 + 2 * dimm + k

/-- A DIMM's reading crosses a threshold, or falls 3 °C below it; the channel's bit shows whether any of its DIMMs is above (11 R272). -/
def dimmThresh (ch dimm t k bit hi : Nat) (s : State) : State :=
  let old := mGet false s.dram.hot (hotKey ch dimm k)
  let s := { s with dram := { s.dram with hot := mPut false s.dram.hot (hotKey ch dimm k) (if hi < t then true else if t ≤ hi - 3 then false else old) } }
  chanBit ch bit (mGet false s.dram.hot (hotKey ch 0 k) || mGet false s.dram.hot (hotKey ch 1 k)) s

/-- A DIMM's sensor reads a temperature in °C (11 R272). -/
def dimmTemp (ch dimm t : Nat) (s : State) : State :=
  if dimm < (s.dram.dimms.getD ch []).length then dimmThresh ch dimm t 1 6 95 (dimmThresh ch dimm t 0 5 85 s) else s

/-- A command/address parity error (11 R272): a retry that succeeds changes nothing; otherwise every burst the command touched is handled as
uncorrectable: the data lines, and the tag lines named by a data line each (11 R286, R287). -/
def parityError (ch rank : Nat) (ok : Bool) (lines tags : List Nat) (s : State) : State :=
  if ok then s
  else tags.foldl (fun s l => tagLinePoison ch l rank s) (lines.foldl (fun s l => countUncorrectable ch l rank 1 (dramPoison l s)) s)

/-- An armed flip mask is applied by a write of its word (11 R294). -/
def flipFired (idx sub : Nat) (s : State) : State :=
  let w := obj s idx sub
  if 0x4400 ≤ idx ∧ idx ≤ 0x4409 ∧ flag w 63 then raiseBits idx sub (2 ^ 62) (setObj idx sub (setBit (setBit w 63 false) 62 true) s) else s

/-! ## Meanings -/

/-- A request of a home arrives at a memory controller (10 Table 10.6). -/
def atCtrl (opc : Nat) (q : SnpFlit) (act : State → State) (s : State) : State :=
  if 256 ≤ q.dest ∧ q.dest < 272 then arrives (.snp opc q) act s else s

/-- MEMRD (11 R277): the line with its tags goes to the home. -/
def execMemrd (q : SnpFlit) (e : BurstErr) (s : State) : Host.Outcome State Fault Refusal :=
  .next (atCtrl 0x8 q (fun s =>
    let r := memRd (q.dest - 256) q.addr e s
    sends (lineFlits 0xF q.src q.dest q.htxid (decide (512 ≤ q.htxid)) r.1 r.2) r.2) s)

/-- MEMRDNT (11 R277). -/
def execMemrdnt (q : SnpFlit) (e : BurstErr) (s : State) : Host.Outcome State Fault Refusal :=
  .next (atCtrl 0xA q (fun s =>
    sends (lineFlits 0xF q.src q.dest q.htxid (decide (512 ≤ q.htxid)) (memRdNt s (q.dest - 256) q.addr e) s)
      { s with free := s.free + ntFree s (q.dest - 256) q.addr e }) s)

/-- A controller accepts a MemWr (11 R277, R283): its tag line is read when the tag cache does not hold it, and DbGo asks for the data. -/
def memWr (q : SnpFlit) (e : BurstErr) (s : State) : State :=
  let ch := q.dest - 256
  let s := if tagHit s ch (tagLineOf q.addr) then s else tagRead ch q.addr e s
  let s := { s with dram := { s.dram with writes := s.dram.writes ++ [{ mc := q.dest, src := q.src, htxid := q.htxid, line := q.addr, rank := e.rank, errs := e.errs }] } }
  send (.rsp 0x03 { dest := q.src, src := q.dest, txid := q.htxid, spr := decide (512 ≤ q.htxid), epoch := s.mesh.epoch, lstamp := s.stamp % 4096 }) s

/-- MEMWR (11 R283): the errors are those of the burst a masked write reads. -/
def execMemwr (q : SnpFlit) (e : BurstErr) (s : State) : Host.Outcome State Fault Refusal := .next (atCtrl 0x9 q (memWr q e) s)

/-- REFRESH (11 R272): every stored value stays as it is. -/
def execRefresh (_ch _rank : Nat) (s : State) : Host.Outcome State Fault Refusal := .next s

/-- DIMM_TEMPERATURE (11 R272). -/
def execDimmTemperature (ch : DimmAt) (temp : Nat) (s : State) : Host.Outcome State Fault Refusal := .next (dimmTemp ch.ch ch.dimm temp s)

/-- CA_PARITY_ERROR (11 R272). -/
def execCaParityError (ch : Nat) (ok : Bool) (rank : Nat) (lines : Touched) (s : State) : Host.Outcome State Fault Refusal :=
  .next (parityError ch rank ok lines.lines lines.tags s)

/-- PATROL_SCRUB (11 R289, R290). -/
def execPatrolScrub (line : Nat) (tag : Bool) (e : BurstErr) (written : Bool) (s : State) : Host.Outcome State Fault Refusal :=
  .next (patrol line tag e written s)

/-- SCRUB_PERIOD_END (11 R289). -/
def execScrubPeriodEnd (ch : Nat) (done : Bool) (s : State) : Host.Outcome State Fault Refusal := .next (scrubEnd ch done s)

/-- FLIP_MASK_FIRED (11 R294). -/
def execFlipMaskFired (idx sub : Nat) (s : State) : Host.Outcome State Fault Refusal := .next (flipFired idx sub s)

end Sys2Proof.Machine
end

