-- ==== Sys2Proof/Machine/Home.lean ====
section
/-! DEFINITION. The home slice (10 R242 to R263): how it accepts and orders requests, its transactions, and what it receives. -/

namespace Sys2Proof.Machine
open Sys2Proof

/-! ## Which requests a home takes, and when (10 R243, R245, R247-R249) -/

/-- The units that send a request (10 Table 10.6): an L2, a core or a writer; a link unit as the proxy of any; a Privet engine as a core
(log 10). -/
def mayRequest (opc src : Nat) : Bool :=
  let l2 := decide (src < 216) || decide (356 ≤ src ∧ src < 360)
  if opc ≤ 3 ∨ opc = 6 ∨ opc = 7 then l2
  else if opc = 4 ∨ 0x0A ≤ opc then l2 || decide (272 ≤ src ∧ src < 336)
  else l2 || decide (272 ≤ src ∧ src < 356)

/-- A request to the new slice of a position in transfer (10 R268): the old slice serves what was injected before the switch. -/
def inTransfer (s : State) (pos : Nat) (q : ReqFlit) : Bool :=
  (sliceAt s pos).moving && s.mesh.switchAt.isNone && (q.epoch == s.mesh.epoch)

/-- The slices' domain is closed for power-down, from package state PK4 on (17 Table 17.4). -/
def domainClosed (s : State) : Bool := decide (4 ≤ objN s 0x2030 1)

/-- A request is answered Retry (10 R247). -/
def answersRetry (s : State) (q : ReqFlit) : Bool := domainClosed s || inTransfer s (slicePos q.addr) q

/-- Input L of a slice (10 R248): the path from its own tile's L2; any other request comes by input E. -/
def inputL (q : ReqFlit) : Bool := decide (q.src = q.dest) && !q.spr

/-- A flit stands at its destination, injected in an earlier tick. -/
def delivered (s : State) (f : Flit) : Bool :=
  match f.pos with
  | some (r, _) => decide (routeOut r (msgEnds f.msg).2.1 = none) && decide (f.wait = 0) && decide (f.at_ < s.stamp)
  | none => false

/-- The memory requests delivered to a request's slice, that one apart. -/
def rivals (s : State) (q : ReqFlit) : List (Nat × ReqFlit) :=
  s.net.filterMap (fun f => match f.msg with
    | .req o r => if delivered s f ∧ o < 0x10 ∧ r.dest = q.dest ∧ r.spr = q.spr ∧ r ≠ q then some (o, r) else none
    | _ => none)

/-- A write-back or an eviction notice, which is exempt from the queue of its line (10 R249). -/
def isEvict (opc : Nat) : Bool := decide (opc = 6 ∨ opc = 7)

/-- What a slice does with a request that stands at its input in this cycle. -/
inductive Turn where
  /-- it stays there: no room, or another is ordered first -/
  | stay
  | take
  /-- it is taken before one at the other input: the priority bit then names that one -/
  | first
deriving DecidableEq, Repr

/-- The turn of a request (10 R245, R248, R249): the buffer holds 128; an eviction goes before the other requests of its line; of two inputs the
one that the priority bit names goes first. -/
def turn (opc : Nat) (q : ReqFlit) (s : State) : Turn :=
  let sl := sliceAt s (slicePos q.addr)
  let rs := rivals s q
  let other := rs.filter (fun r => inputL r.2 ≠ inputL q)
  if 128 ≤ sl.txns.length + sl.waitq.length then .stay
  else if isEvict opc then
    (if other.all (fun r => decide (r.2.addr = q.addr) && !isEvict r.1) then .take else if sl.prioL = inputL q then .first else .stay)
  else if rs.any (fun r => isEvict r.1 && decide (r.2.addr = q.addr)) then .stay
  else if other = [] then .take
  else if sl.prioL = inputL q then .first else .stay

/-- A request arrives at its home, from a unit that sends it; it may have to stay where it is. One for another socket goes to the link. -/
def atHome (opc : Nat) (q : ReqFlit) (act : State → State) (s : State) : State :=
  if ¬ mayRequest opc q.src then s
  else if 356 ≤ q.dest ∧ q.dest < 360 then here (.req opc q) act s
  else match turn opc q s with
    | .stay => s
    | .take => here (.req opc q) act s
    | .first => here (.req opc q) act (modSlice (slicePos q.addr) (fun x => { x with prioL := !x.prioL }) s)

/-- A request of a unit of this socket is outstanding; a link unit keeps the peer's itself. -/
def noteOwn (opc : Nat) (q : ReqFlit) (s : State) : State := if q.src < 356 then noteReq opc q s else s

/-! ## Messages of a home -/

/-- An RSP from the slice of a position. -/
def sliceRsp (pos opc dest txid info : Nat) (s : State) : State := send (rspMsg opc dest (sliceTarget s pos % 512) txid info false s) s

/-- An RSP from a unit to the home of a line, or to the link unit toward it. -/
def toHome (opc src txid line : Nat) (s : State) : State :=
  let t := homeTarget s line
  send (rspMsg opc (t % 512) src txid 0 (decide (512 ≤ t)) s) s

/-- A half of a line arrives: what this socket does not hold, and a flit whose words are all POIS, is taken as it came (10 R239, R264). -/
def takeHalf (line : Nat) (f : DatFlit) (s : State) : State :=
  if remoteLine s line ∨ (356 ≤ f.src ∧ f.src < 360) ∨ f.tags = 0x7777 then
    setLine line (mergeHalf { f with be := BitVec.allOnes 32 } (getLine s line)) s
  else s

/-! ## Transactions of a home -/

/-- A transaction by its HTXID. -/
def txnOf (s : State) (pos h : Nat) : Option Txn := (sliceAt s pos).txns.find? (fun t => decide (t.htxid = h))

/-- Change a transaction. -/
def modTxn (pos h : Nat) (f : Txn → Txn) (s : State) : State :=
  modSlice pos (fun x => { x with txns := x.txns.map (fun t => if t.htxid = h then f t else t) }) s

/-- The lowest HTXID a slice has free; spare slices use 512 and above (log 18). -/
def freeHtxid (s : State) (pos : Nat) : Nat :=
  let base := if 512 ≤ sliceTarget s pos then 512 else 0
  base + ((List.range 512).find? (fun i => !(sliceAt s pos).txns.any (fun t => decide (t.htxid = base + i)))).getD 511

/-- The unit a filter entry's owner answers at: its tile, or the link of the socket that owns the line (10 R264). -/
def ownerUnit (s : State) (e : SfEntry) : Option Nat :=
  match e.own with
  | some o => some o
  | none => if e.st = .s then none else e.rmt.head?.map (fun p => lineUnit s p e.line)

/-- The units of an entry's other holders; a marked group stands for its logical tiles (10 R254). -/
def sharerUnits (s : State) (e : SfEntry) : List Nat :=
  let here := if e.coarse then (sfSharers e).filter (fun t => (hartOf s t).isSome) else sfSharers e
  (here ++ e.rmt.map (fun p => lineUnit s p e.line)).filter (fun u => decide (some u ≠ ownerUnit s e))

/-- Whether an entry names a unit. -/
def names (s : State) (e : SfEntry) (u : Nat) : Bool := decide (ownerUnit s e = some u) || (sharerUnits s e).contains u

/-- A filter entry owned by one unit. -/
def ownedBy (s : State) (line u : Nat) : SfEntry :=
  if u < 216 then ⟨line, .x, some u, false, [], [], false⟩ else ⟨line, .x, none, false, [], [linkPeer s (u - 356)], false⟩

/-- A filter entry with one sharer more. -/
def sharedBy (s : State) (u : Nat) (e : SfEntry) : SfEntry :=
  if u < 216 then sfAddSharer u e
  else if e.rmt.contains (linkPeer s (u - 356)) then e else { e with rmt := e.rmt ++ [linkPeer s (u - 356)] }

/-- A unit gives a line up. -/
def unitLeaves (u line : Nat) (s : State) : State :=
  if u < 216 then sfLeave u line s
  else match sfFind s line with
    | none => s
    | some e =>
      let e' := { e with rmt := e.rmt.filter (fun x => x ≠ linkPeer s (u - 356)) }
      if (e.st ≠ .s ∧ e.own = none) ∨ (e'.sharers = [] ∧ e'.own = none ∧ e'.rmt = []) then sfDrop line s else sfStore e' s

/-- Send snoops of one opcode. -/
def snoops (pos h opc line : Nat) (us : List Nat) (s : State) : State :=
  us.foldl (fun s u => send (.snp opc { dest := u, src := sliceTarget s pos % 512, htxid := h, addr := line, epoch := s.mesh.epoch, lstamp := s.stamp % 4096 }) s) s

/-- Send the snoops of a plan. -/
def snoopAll (pos h line : Nat) (plan : List (Nat × Nat)) (s : State) : State := plan.foldl (fun s p => snoops pos h p.2 line [p.1] s) s

/-- Send a memory command of one opcode to the line's controller. -/
def memCmd (pos h opc line : Nat) (s : State) : State := snoops pos h opc line [256 + chanOf (64 * line)] s

/-- Whether a request takes the line from every L2. -/
def unique (r : HomeReq) : Bool :=
  match r with
  | .rdUnique | .upgrade | .claimZero | .atomFar | .wrLine | .wrPtl | .cmoInval | .cmoClinv => true
  | _ => false

/-- Whether a request needs the line's data at the home. -/
def needsLine (r : HomeReq) : Bool :=
  match r with
  | .rdShared | .rdUnique | .rdOnce | .lockLd | .atomFar => true
  | _ => false

/-- Send a grant's two flits. -/
def grantLine (pos dop : Nat) (t : Txn) (s : State) : State :=
  modTxn pos t.htxid (fun t => { t with needAck := true })
    (sends (lineFlits dop t.q.src (sliceTarget s pos % 512) t.q.txid false (getLine s t.line) s) s)

/-- The line's octets as the home holds them beneath an owner in another state (10 R256). -/
def homeCopy (s : State) (line : Nat) : Line := (mFind s.mem.under2 line).getD (getLine s line)

/-! ### Filter entries (10 R253, R255) -/

/-- The filter entry of a line that names a holder; a request that will need an entry has taken an empty one (log 104). -/
def sfLive (s : State) (line : Nat) : Option SfEntry :=
  (sfFind s line).filter (fun e => e.own.isSome || !e.sharers.isEmpty || !e.rmt.isEmpty)

/-- An entry without holders, busy for a request under way. -/
def emptyEntry (line : Nat) : SfEntry := ⟨line, .s, none, false, [], [], false⟩

/-- A request that leaves its sender in the filter. -/
def needsEntry (r : HomeReq) : Bool := match r with | .rdShared | .rdUnique | .upgrade | .claimZero => true | _ => false

/-- The filter has an entry of a line or a free one. -/
def entryFree (s : State) (line : Nat) : Bool :=
  (sfFind s line).isSome ||
  (let q := setOf (sliceAt s (slicePos line)).sf (sfSet line)
   (List.range 16).any (fun w => (mFind q.ways w).isNone))

/-- Take the entry of a line for a request. -/
def takeEntry (line : Nat) (s : State) : State := if (sfFind s line).isSome then s else sfStore (emptyEntry line) s

/-- An eviction of an entry of a line's set is under way. -/
def evicting (s : State) (line : Nat) : Bool :=
  (sliceAt s (slicePos line)).txns.any (fun t => decide (t.req = .backInval ∧ sfSet t.line = sfSet line))

/-- Evict the pseudo-LRU entry of a line's set that is not busy (10 R255): SnpBackInval to every holder. -/
def evictEntry (pos line : Nat) (s : State) : State :=
  if evicting s line then s
  else match mFind (setOf (sliceAt s pos).sf (sfSet line)).ways (sfVictim s line) with
    | none => s
    | some x =>
      if lineBusy s x.line then s
      else
        let us := (ownerUnit s x).toList ++ sharerUnits s x
        let h := freeHtxid s pos
        let t : Txn := { line := x.line, req := .backInval, q := { dest := 0, src := 0, addr := x.line }, htxid := h, awaiting := us, st0 := some x.st }
        snoops pos h 5 x.line us (modSlice pos (fun y => { y with txns := y.txns ++ [t] }) s)

/-! ### Serving a request (10 Table 10.8) -/

/-- The snoops of a request by filter state (10 Table 10.8): to the owner and to the sharers. A link unit is
snooped for its other holders. -/
def snoopPlan (s : State) (r : HomeReq) (whole : Bool) (q : ReqFlit) (e : Option SfEntry) : List (Nat × Nat) :=
  match e with
  | none => []
  | some e =>
    let l2 := match r with | .rdShared | .rdUnique | .upgrade | .claimZero => true | _ => false
    let keep (us : List Nat) : List Nat := if l2 && (decide (q.src < 216) || decide (r = .upgrade)) then us.filter (fun u => u ≠ q.src) else us
    let o := keep ((ownerUnit s e).toList)
    let sh := keep (sharerUnits s e)
    let all (k : Nat) : List (Nat × Nat) := (o ++ sh).map (fun u => (u, k))
    match r with
    | .rdShared => o.map (fun u => (u, 0))
    | .rdUnique | .atomFar | .wrPtl => o.map (fun u => (u, 1)) ++ sh.map (fun u => (u, 2))
    | .wrLine => if whole then all 2 else o.map (fun u => (u, 1)) ++ sh.map (fun u => (u, 2))
    | .upgrade | .claimZero | .cmoInval => all 2
    | .rdOnce | .lockLd => o.map (fun u => (u, 6))
    | .cmoClean => o.map (fun u => (u, 3))
    | .cmoClinv => all 4
    | .backInval => all 5
    | .wrBack | .rdNt => []

/-- The C mark (10 R263). -/
def contended (t : Txn) : Bool := t.taken || t.recent

/-- A request takes its line from the home: a hit of the LLC updates its tree (08 R197). -/
def homeUse (t : Txn) (s : State) : State := if t.ownerData then s else llcTouch t.line s

/-- RdShared is served (10 Table 10.8). -/
def serveShared (pos : Nat) (t : Txn) (s : State) : State :=
  let solo (s : State) : State := grantLine pos 1 t (sfStore (ownedBy s t.line t.q.src) s)
  match sfLive s t.line with
  | none => solo s
  | some e =>
    if e.st = .s ∨ (e.st = .o ∧ t.ownerData) then grantLine pos 0 t (sfStore (sharedBy s t.q.src e) s)
    else if t.ownerData then
      let u := (ownerUnit s e).getD 0
      if t.gotDirty then grantLine pos 0 t (sfStore (sharedBy s t.q.src { e with st := .o }) s)
      else grantLine pos 0 t (sfStore (sharedBy s t.q.src (sharedBy s u { e with st := .s, own := none, rmt := if e.own.isNone then [] else e.rmt })) s)
    else
      let e' := { e with st := .s, own := none, rmt := if e.own.isNone then [] else e.rmt }
      if e'.sharers = [] ∧ e'.rmt = [] then solo s else grantLine pos 0 t (sfStore (sharedBy s t.q.src e') s)

/-- The value and tag of the word an atomic names in a flit's first two words. -/
def opndWord (f : DatFlit) (i : Nat) : GVal := ⟨BitVec.ofNat 64 (fld f.data (64 * i + 63) (64 * i)), tagOfCode (fld f.tags (4 * i + 3) (4 * i))⟩

/-- The old word of an atomic as its home returns it (10 R261). -/
def atomWord (opc : Nat) (t : Txn) (home : Nat) (old : GVal) (s : State) : Msg :=
  let at_ := t.q.off % 32
  .dat opc
    { dest := t.q.src, src := home, txid := t.q.txid, half := decide (32 ≤ t.q.off), epoch := s.mesh.epoch, lstamp := s.stamp % 4096,
      be := BitVec.ofNat 32 ((2 ^ (t.q.len + 1) - 1) * 2 ^ at_), data := BitVec.ofNat 256 (old.v.toNat * 2 ^ (8 * at_)),
      tags := BitVec.ofNat 16 (tagCode old.t * 2 ^ (4 * (at_ / 8))) }

/-- AtomFar is performed and its old word returned (10 R261); a fault and a failed compare write nothing. -/
def serveAtom (pos : Nat) (t : Txn) (s : State) : State :=
  let pa := 64 * t.line + t.q.off
  let d := decide (t.q.len = 7)
  let old := atomOld s pa d
  let f := t.dats.headD { dest := 0, src := 0 }
  let direct := llcValid s t.line
  let s := sfDrop t.line s
  let r := atomApply t.q.atop d t.q.lp old (opndWord f 0) (opndWord f 1)
  let s := send (atomWord (if contended t then 0xE else 0xD) t (sliceTarget s pos % 512) old s) s
  match r with
  | .ok (some x) =>
    let s := atomStore pa d x (homePlace t.line s)
    if direct then s else modTxn pos t.htxid (fun t => { t with needComp := true }) (memCmd pos t.htxid 9 t.line s)
  | _ => s

/-- A write is performed (10 R262): in the LLC when its source allocates or the sector is valid, otherwise by MemWr. -/
def serveWrite (pos : Nat) (t : Txn) (s : State) : State :=
  let alloc := decide (272 ≤ t.q.src ∧ t.q.src < 360)
  let direct := alloc || llcValid s t.line
  let s := sfDrop t.line s
  let s := if alloc then homeTakeDirty t.line s else homePlace t.line s
  let s := setLine t.line (t.dats.foldl (fun l f => mergeHalf f l) (getLine s t.line)) s
  let s := sliceRsp pos 0x01 t.q.src t.q.txid 0 s
  if direct then s else modTxn pos t.htxid (fun t => { t with needComp := true }) (memCmd pos t.htxid 9 t.line s)

/-- Clean data goes to memory before Comp when any was dirty (10 Table 10.8). -/
def serveClean (pos : Nat) (t : Txn) (dirty : Bool) (s : State) : State :=
  if dirty then modTxn pos t.htxid (fun t => { t with needComp := true, compLast := true }) (memCmd pos t.htxid 9 t.line s)
  else sliceRsp pos 0x01 t.q.src t.q.txid 0 s

/-- Serve a request whose answers and data are there. -/
def serve (pos : Nat) (t : Txn) (s : State) : State :=
  let ownTo (s : State) : State := sfStore (ownedBy s t.line t.q.src) s
  let c := if contended t then 1 else 0
  match t.req with
  | .rdShared => serveShared pos t (homeUse t s)
  | .rdUnique => grantLine pos ((if t.gotDirty then 2 else 1) + 2 * c) t (ownTo (homeUse t s))
  | .upgrade =>
    modTxn pos t.htxid (fun t => { t with needAck := true }) (sliceRsp pos 0x02 t.q.src t.q.txid ((if t.st0 = some .o then 3 else 2) + 4 * c) (ownTo s))
  | .claimZero => modTxn pos t.htxid (fun t => { t with needAck := true }) (sliceRsp pos 0x02 t.q.src t.q.txid (3 + 4 * c) (ownTo s))
  | .rdOnce => let s := homeUse t s; sends (lineFlits 6 t.q.src (sliceTarget s pos % 512) t.q.txid false (getLine s t.line) s) s
  | .lockLd =>
    let r := lockLine t.q.encl t.line s
    sliceRsp pos 0x01 t.q.src t.q.txid (if r.2 then 0 else 2) r.1
  | .atomFar => serveAtom pos t s
  | .wrPtl => serveWrite pos t s
  | .wrLine => serveWrite pos t s
  | .cmoClean =>
    let dirty := t.gotDirty || llcDirty s t.line
    serveClean pos t dirty (writtenBack dirty t.line (llcClean t.line (cleanHolders t.line s)))
  | .cmoClinv =>
    let dirty := t.gotDirty || llcDirty s t.line
    serveClean pos t dirty (writtenBack dirty t.line (lineGone t.line s))
  | .cmoInval =>
    let back := llcLocked s t.line && llcDirty s t.line
    serveClean pos t back (cmoInval t.line s)
  | .backInval => sfDrop t.line s
  | .wrBack => s
  | .rdNt => s

/-! ### The course of a transaction -/

/-- A transaction has nothing left to wait for before it is served. -/
def txnReady (t : Txn) : Bool :=
  t.awaiting.isEmpty && t.fetched.isEmpty && t.absorbed.isEmpty && !t.needEntry && !t.needData && !t.needAck && !t.needComp

/-- Start a transaction: its filter entry, its snoops, and DbGo to a sender of data (10 R252, R255, R261, R262). -/
def startTxn (pos : Nat) (r : HomeReq) (q : ReqFlit) (recent : Bool) (s : State) : State :=
  let s := sfRebuild q.addr s
  let e := sfLive s q.addr
  let listed : Bool := match e with | some x => names s x q.src | none => false
  let r := if r = .upgrade ∧ listed = false then .rdUnique else r
  let h := freeHtxid s pos
  let data := decide (r = .wrPtl ∨ r = .wrLine ∨ r = .atomFar)
  let plan := if data then [] else snoopPlan s r true q e
  let need := needsEntry r && !entryFree s q.addr
  let s := if needsEntry r && !need then takeEntry q.addr s else s
  let t : Txn := { line := q.addr, req := r, q := q, htxid := h, awaiting := plan.map (·.1), st0 := e.map (·.st), needData := data,
                   needEntry := need, recent := recent }
  let s := modSlice pos (fun x => { x with txns := x.txns ++ [t] }) s
  if need then evictEntry pos q.addr s
  else if data then sliceRsp pos 0x03 q.src q.txid 0 s else snoopAll pos h q.addr plan s

/-- The data of a write or the operands of an atomic are there: its snoops go out, a write that covers the line asking for no data. -/
def dataThere (pos : Nat) (t : Txn) (s : State) : State :=
  let whole := decide (t.req = .wrLine) && t.dats.all (fun f => decide (f.be = BitVec.allOnes 32))
  let plan := snoopPlan s t.req whole t.q (sfLive s t.line)
  snoopAll pos t.htxid t.line plan (modTxn pos t.htxid (fun t => { t with needData := false, awaiting := plan.map (·.1) }) s)

/-- A request that waits for a filter entry takes one that is free now, or evicts one. -/
def tryEntry (pos : Nat) (t : Txn) (s : State) : State :=
  if entryFree s t.line then modTxn pos t.htxid (fun t => { t with needEntry := false }) (takeEntry t.line s) else evictEntry pos t.line s

/-- A transaction ends (10 R248, R250): the next of its line starts, and requests that wait for an entry of its set try again. Answers the
transactions to go on with. -/
def finishTxn (pos : Nat) (t : Txn) (s : State) : State × List Nat :=
  let s := modSlice pos (fun x => { x with txns := x.txns.filter (fun u => !decide (u.htxid = t.htxid)) }) s
  let s := if sfFind s t.line = some (emptyEntry t.line) then sfDrop t.line s else s
  let wait := (sliceAt s pos).txns.filter (fun u => u.needEntry && decide (sfSet u.line = sfSet t.line))
  let s := wait.foldl (fun s u => tryEntry pos u s) s
  match (sliceAt s pos).waitq.find? (fun w => decide (w.2.1.addr = t.line)) with
  | none => (s, wait.map (·.htxid))
  | some w =>
    let s := modSlice pos (fun x => { x with waitq := x.waitq.erase w }) s
    let h := freeHtxid s pos
    (startTxn pos w.1 w.2.1 w.2.2 s, wait.map (·.htxid) ++ [h])

/-- Move a transaction on: ask memory, serve it, end it and go on with what waited for it. -/
def advance (pos : Nat) : Nat → Nat → State → State
  | 0, _, s => s
  | fuel + 1, h, s =>
    match txnOf s pos h with
    | none => s
    | some t =>
      if ¬ txnReady t then s
      else if needsLine t.req ∧ ¬ t.ownerData ∧ ¬ llcValid s t.line ∧ ¬ t.memHere then
        (if t.memAsked then s else memCmd pos h 8 t.line (modTxn pos h (fun t => { t with memAsked := true }) s))
      else
        let s := serve pos t s
        match txnOf s pos h with
        | none => s
        | some t' =>
          if t'.needAck ∨ t'.needComp then s
          else
            let r := finishTxn pos t s
            r.2.foldl (fun s h => advance pos fuel h s) r.1

/-- Transactions and waiting requests of a slice, which bound how far one event moves them. -/
def fuelOf (s : State) (pos : Nat) : Nat := (sliceAt s pos).waitq.length + (sliceAt s pos).txns.length + 2

/-- Move a transaction on as far as it goes. -/
def go (pos h : Nat) (s : State) : State := advance pos (fuelOf s pos) h s

/-- A served transaction's last message came: it ends. -/
def endTxn (pos h : Nat) (s : State) : State :=
  match txnOf s pos h with
  | none => s
  | some t =>
    let r := finishTxn pos t s
    r.2.foldl (fun s h => go pos h s) r.1

/-! ### Requests -/

/-- Another far atomic of a line was ordered within the 256 mesh cycles, 192 ticks, before now (10 R263). -/
def farSoon (s : State) (line : Nat) : Bool :=
  match mFind (sliceAt s (slicePos line)).farAt line with | some at_ => decide (s.stamp < at_ + 192) | none => false

/-- A request is ordered (10 R248, R250): in its line's queue while the line is busy. -/
def order (r : HomeReq) (q : ReqFlit) (s : State) : State :=
  let pos := slicePos q.addr
  let soon := decide (r = .atomFar) && farSoon s q.addr
  let s := if r = .atomFar then noteFar q.addr s else s
  if lineBusy s q.addr then modSlice pos (fun x => { x with waitq := x.waitq ++ [(r, q, soon)] }) s
  else
    let h := freeHtxid s pos
    go pos h (startTxn pos r q soon s)

/-- A home receives a request: answered Retry, or ordered (10 R247, R248). -/
def homeReq (r : HomeReq) (opc : Nat) (q : ReqFlit) (s : State) : State :=
  atHome opc q (fun s =>
    let s := noteOwn opc q s
    if answersRetry s q then sliceRsp (slicePos q.addr) 0x04 q.src q.txid 0 s else order r q s) s

/-- RdNT (10 R256): refused, answered from the LLC, or read without allocation. -/
def homeNt (q : ReqFlit) (s : State) : State :=
  atHome 0x04 q (fun s =>
    let s := noteOwn 0x04 q s
    let pos := slicePos q.addr
    if answersRetry s q then sliceRsp pos 0x04 q.src q.txid 0 s
    else if lineBusy s q.addr ∨ (match sfFind s q.addr with | some e => decide (e.st = .x) | none => false) = true then sliceRsp pos 0x05 q.src q.txid 0 s
    else if llcValid s q.addr then sends (lineFlits 5 q.src (sliceTarget s pos % 512) q.txid false (homeCopy s q.addr) s) s
    else
      let h := freeHtxid s pos
      memCmd pos h 0xA q.addr (modSlice pos (fun x => { x with txns := x.txns ++ [{ line := q.addr, req := .rdNt, q := q, htxid := h }] }) s)) s

/-! ### Evictions (10 R249, R258) -/

/-- An eviction that a tile's message shows: the line leaves its caches and waits for Comp. -/
def evicted (dirty : Bool) (q : ReqFlit) (s : State) : State :=
  if 216 ≤ q.src ∨ (tileAt s q.src).wb.any (fun w => decide (w.line = q.addr ∧ w.txid = q.txid)) then s
  else modTile q.src (fun x => { x with wb := x.wb ++ [{ line := q.addr, dirty := dirty, txid := q.txid }] }) (dropUnder1 q.addr (tileDrop q.src q.addr s))

/-- Whether the filter lists a request's sender. -/
def lists (s : State) (q : ReqFlit) : Bool := match sfLive s q.addr with | some e => names s e q.src | none => false

/-- WrBack: taken when the filter lists its sender, absorbed into the line's transaction when busy, otherwise stale. -/
def homeWrBack (q : ReqFlit) (s : State) : State :=
  atHome 0x06 q (fun s =>
    let s := noteOwn 0x06 q (evicted true q s)
    let pos := slicePos q.addr
    if answersRetry s q then sliceRsp pos 0x04 q.src q.txid 0 s
    else
      let busy := (sliceAt s pos).txns.find? (fun t => decide (t.line = q.addr ∧ t.req ≠ .rdNt))
      match lists s q, busy with
      | true, some t => sliceRsp pos 0x03 q.src q.txid 0 (modTxn pos t.htxid (fun t => { t with absorbed := t.absorbed ++ [(q.src, q.txid)] }) s)
      | true, none =>
        let h := freeHtxid s pos
        sliceRsp pos 0x03 q.src q.txid 0
          (modSlice pos (fun x => { x with txns := x.txns ++ [{ line := q.addr, req := .wrBack, q := q, htxid := h, absorbed := [(q.src, q.txid)] }] }) s)
      | false, some t =>
        if t.fetched.contains q.src then modTxn pos t.htxid (fun t => { t with stale := t.stale ++ [(q.src, q.txid)] }) s
        else sliceRsp pos 0x01 q.src q.txid 1 s
      | false, none => sliceRsp pos 0x01 q.src q.txid 1 s) s

/-- EvictClean: the filter forgets its sender, and the line is offered to the LLC (08 R194). -/
def homeEvictClean (q : ReqFlit) (s : State) : State :=
  atHome 0x07 q (fun s =>
    let s := noteOwn 0x07 q (evicted false q s)
    let pos := slicePos q.addr
    if answersRetry s q then sliceRsp pos 0x04 q.src q.txid 0 s
    else if lists s q then
      let s := if llcValid s q.addr then s else llcAlloc q.addr false s
      sliceRsp pos 0x01 q.src q.txid 0 (unitLeaves q.src q.addr s)
    else sliceRsp pos 0x01 q.src q.txid 1 s) s

/-! ### What a home receives -/

/-- A message that names a transaction of the slice it reaches. -/
def atTxn (m : Msg) (dest : Nat) (spr : Bool) (h : Nat) (act : Nat → Txn → State → State) (s : State) : State :=
  here m (fun s => match posOf s dest spr with
    | none => s
    | some pos => match txnOf s pos h with
      | none => s
      | some t => act pos t s) s

/-- A snoop answer without data: RspI, RspS, RspIEvict. After RspIEvict the filter lists the cache no more (10 R258). -/
def homeAnswer (opc : Nat) (q : RspFlit) (gone : Bool) (s : State) : State :=
  atTxn (.rsp opc q) q.dest q.spr q.txid (fun pos t s =>
    if ¬ t.awaiting.contains q.src then s
    else
      let exact := match sfFind s t.line with | some e => !e.coarse || decide (ownerUnit s e = some q.src) | none => false
      let s := if opc = 0x0A then unitLeaves q.src t.line s else s
      go pos q.txid (modTxn pos q.txid (fun t => { t with
        awaiting := t.awaiting.erase q.src
        taken := t.taken || (gone && unique t.req && exact && decide (q.src ≠ t.q.src)) }) s)) s

/-- RspWbPend (10 R258): DbGo goes to the evicting cache, unless its WrBack was absorbed before. -/
def homeWbPend (q : RspFlit) (s : State) : State :=
  atTxn (.rsp 0x0B q) q.dest q.spr q.txid (fun pos t s =>
    if ¬ t.awaiting.contains q.src then s
    else
      let s := modTxn pos q.txid (fun t => { t with awaiting := t.awaiting.erase q.src }) s
      if t.absorbed.any (fun a => decide (a.1 = q.src)) then go pos q.txid s
      else
        let s := unitLeaves q.src t.line (modTxn pos q.txid (fun t => { t with fetched := t.fetched ++ [q.src] }) s)
        sliceRsp pos 0x03 q.src q.txid 0 s) s

/-- Dirty data reaches the home (10 R252, R262): into the LLC, but for a maintenance request, which writes it to memory. -/
def takeDirty (t : Txn) (s : State) : State :=
  match t.req with
  | .cmoClean | .cmoClinv => s
  | _ => homeTakeDirty t.line s

/-- Snoop data (10 R252, R258): at its second half it is the home's. -/
def homeSnoopData (opc : Nat) (f : DatFlit) (s : State) : State :=
  atTxn (.dat opc f) f.dest f.spr f.txid (fun pos t s =>
    if ¬ (t.awaiting.contains f.src ∨ t.fetched.contains f.src) then s
    else if ¬ f.half then takeHalf t.line f s
    else
      let dirty := decide (opc = 9)
      let s := takeHalf t.line f (if dirty then takeDirty t s else s)
      let s := (t.stale.filter (fun a => decide (a.1 = f.src))).foldl (fun s a => sliceRsp pos 0x01 a.1 a.2 1 s) s
      go pos f.txid (modTxn pos f.txid (fun t => { t with
        awaiting := t.awaiting.erase f.src
        fetched := t.fetched.erase f.src
        stale := t.stale.filter (fun a => !decide (a.1 = f.src))
        ownerData := true
        gotDirty := t.gotDirty || dirty
        taken := t.taken || (unique t.req && decide (f.src ≠ t.q.src)) }) s)) s

/-- A WrBack's data is the home's (10 R258): its sender's snoop answer is waited for no more, and the WrBack is done. -/
def wbTaken (pos : Nat) (t : Txn) (src txid : Nat) (s : State) : State :=
  let s := unitLeaves src t.line (homeTakeDirty t.line s)
  let s := sliceRsp pos 0x01 src txid 0 s
  let s := modTxn pos t.htxid (fun t => { t with
    absorbed := t.absorbed.erase (src, txid)
    awaiting := t.awaiting.erase src
    ownerData := true
    gotDirty := true }) s
  if t.req = .wrBack then endTxn pos t.htxid s else go pos t.htxid s

/-- WbData (10 R258): the home takes it, uses it for the busy transaction and answers Comp. -/
def homeWbData (f : DatFlit) (s : State) : State :=
  here (.dat 0xA f) (fun s =>
    match posOf s f.dest f.spr with
    | none => s
    | some pos =>
      match (sliceAt s pos).txns.find? (fun t => t.absorbed.contains (f.src, f.txid)) with
      | none => s
      | some t => if f.half then wbTaken pos t f.src f.txid (takeHalf t.line f s) else takeHalf t.line f s) s

/-- Write data or operands at a home: a write of half a line and an atomic send one flit, a write of a line two. -/
def homeData (opc : Nat) (f : DatFlit) (s : State) : State :=
  match posOf s f.dest f.spr with
  | none => s
  | some pos =>
    match (sliceAt s pos).txns.find? (fun t => t.needData && decide (t.q.src = f.src ∧ t.q.txid = f.txid) && decide ((t.req = .atomFar) = (opc = 0xC))) with
    | none => s
    | some t =>
      let s := modTxn pos t.htxid (fun t => { t with dats := t.dats ++ [f] }) s
      if t.req = .wrLine ∧ ¬ f.half then s
      else go pos t.htxid (dataThere pos { t with dats := t.dats ++ [f] } s)

/-- MemData at a home: the second half completes it; data of a non-tracking read is passed on flit by flit. -/
def homeMemData (f : DatFlit) (s : State) : State :=
  atTxn (.dat 0xF f) f.dest f.spr f.txid (fun pos t s =>
    if t.req = .rdNt then
      let s := send (.dat 5 { f with dest := t.q.src, src := sliceTarget s pos % 512, txid := t.q.txid, spr := false,
                                     epoch := s.mesh.epoch, wrap := false, lstamp := s.stamp % 4096 }) s
      if f.half then modSlice pos (fun x => { x with txns := x.txns.filter (fun t => !decide (t.htxid = f.txid)) }) s else s
    else if t.memAsked then
      let s := takeHalf t.line f s
      if f.half then go pos f.txid (modTxn pos f.txid (fun t => { t with memHere := true }) s) else s
    else s) s

/-- MemComp at a home (10 R250). -/
def homeMemComp (q : RspFlit) (s : State) : State :=
  atTxn (.rsp 0x0C q) q.dest q.spr q.txid (fun pos t s =>
    if ¬ t.needComp then s
    else endTxn pos q.txid (if t.compLast then sliceRsp pos 0x01 t.q.src t.q.txid 0 s else s)) s

/-- A unit whose own messages come no more: a link unit whose peer is lost, or a tile behind a closed gate. -/
def silent (s : State) (u : Nat) : Bool := decide (356 ≤ u ∧ u < 360) || (decide (u < 216) && decide (coreGate s u = 2))

/-- What the homes' transactions still expect of a tile: the number that each expects it under, and the line. -/
def owedBy (s : State) (t : Nat) : List (Nat × Nat) :=
  s.slices.flatMap (fun p => p.2.txns.flatMap (fun x =>
    (if (x.needAck || x.needData) && decide (x.q.src = t) then [(x.q.txid, x.line)] else []) ++
    (x.absorbed.filter (fun a => decide (a.1 = t))).map (fun a => (a.2, x.line)) ++
    (if x.fetched.contains t then [(x.htxid, x.line)] else [])))

/-- Ack at a home (10 R250): the line is free. From a silent unit it ends whatever that unit left open (16 R458, 21 R560; log 80): a write
without its data is dropped, and a line whose write-back was owed becomes POIS. -/
def homeAck (q : RspFlit) (s : State) : State :=
  here (.rsp 0x00 q) (fun s =>
    match posOf s q.dest q.spr with
    | none => s
    | some pos =>
      let link := silent s q.src
      match (sliceAt s pos).txns.find? (fun t => (t.needAck || (link && t.needData)) && decide (t.q.src = q.src ∧ t.q.txid = q.txid)) with
      | some t => endTxn pos t.htxid s
      | none =>
        match (sliceAt s pos).txns.find? (fun t => link && t.absorbed.contains (q.src, q.txid)) with
        | some t => wbTaken pos t q.src q.txid (poisonLine t.line s)
        | none =>
          match (sliceAt s pos).txns.find? (fun t => link && decide (t.htxid = q.txid) && t.fetched.contains q.src) with
          | some t => go pos t.htxid (modTxn pos t.htxid (fun t => { t with fetched := t.fetched.erase q.src, ownerData := true, gotDirty := true })
              (homeTakeDirty t.line (poisonLine t.line s)))
          | none => s) s

end Sys2Proof.Machine
end

