-- ==== Sys2Proof/Machine/Coherence.lean ====
section
/-! DEFINITION. Coherence messages at a cache or requester (10): snoop answers, grants, data and completions; and the meaning of every
message. -/

namespace Sys2Proof.Machine
open Sys2Proof

/-! ## An L2's answers to snoops (10 Table 10.10, R257, R259) -/

/-- What a line answers: data dirty (some true), data clean (some false) or an RSP opcode; and its state after. -/
def snoopTable (k : Nat) (st : Option L2State) : Sum Bool Nat × Option L2State :=
  match st with
  | none => (.inr 0x08, none)
  | some .m =>
    if k = 0 then (.inl true, some .o) else if k = 1 then (.inl true, none) else if k = 2 then (.inr 0x08, none)
    else if k = 3 then (.inl true, some .e) else if k = 6 then (.inl true, some .m) else (.inl true, none)
  | some .o =>
    if k = 0 then (.inl true, some .o) else if k = 1 then (.inl true, none) else if k = 2 then (.inr 0x08, none)
    else if k = 3 then (.inl true, some .s) else if k = 6 then (.inl true, some .o) else (.inl true, none)
  | some .e =>
    if k = 0 then (.inl false, some .s) else if k = 1 then (.inl false, none) else if k = 2 then (.inr 0x08, none)
    else if k = 3 then (.inr 0x09, some .e) else if k = 6 then (.inl false, some .e) else (.inr 0x08, none)
  | some .s =>
    if k = 0 ∨ k = 3 ∨ k = 6 then (.inr 0x09, some .s) else (.inr 0x08, none)

/-- The line of the atomic that a core's oldest instruction is, while it is held. -/
def heldAtomic (s : State) (n : Nat) : Option Nat :=
  let c := coreOf s n
  match c.win with
  | e :: _ =>
    let w := wordOf e.i
    if e.heldAt.isSome ∧ opcOf w = 0x25 then some (lineOf (physAt c .atomic (gpr c (raOf w)).v)) else none
  | [] => none

/-- A tile owns a line that its core's oldest instruction, an atomic, waits for: a snoop that takes the ownership waits for it (10 R260). -/
def atomicFirst (s : State) (t line : Nat) : Bool :=
  owns s t line &&
  (match hartOf s t with
   | some (.core n) => canRun (.core n) s && decide (heldAtomic s n = some line)
   | _ => false)

/-- A line of a tile takes the state that a snoop leaves it in, in the L2 or in a shadow entry (06 R157). -/
def snooped (t line : Nat) (left : Option L2State) (s : State) : State :=
  match left with
  | none => dropUnder1 line (tileDrop t line s)
  | some st =>
    if heldState s t line = some st then s
    else
      let s := modTile t (fun x => { x with shadow := x.shadow.map (fun e => if e.line = line ∧ e.tracked.isSome then { e with tracked := some st } else e) }) s
      if (l2State s t line).isSome then l2SetState t line (some st) (dropUnder1 line (l1dDirty t line false s)) else s

/-- An L2 answers a snoop; the closed gate of a tile answers RspI (16 R457). -/
def snoopAt (k : Nat) (q : SnpFlit) (s : State) : State :=
  if k ≠ 6 ∧ atomicFirst s q.dest q.addr = true then s
  else here (.snp k q) (fun s =>
    let t := q.dest
    let spr := decide (512 ≤ q.htxid)
    let rsp (opc : Nat) (s : State) : State := send (rspMsg opc q.src t q.htxid 0 spr s) s
    if coreGate s t = 2 then rsp 0x08 s
    else match (tileAt s t).wb.find? (fun w => decide (w.line = q.addr) && !w.comp) with
    | some w =>
      if w.dirty then
        rsp 0x0B (modTile t (fun x => { x with wb := x.wb.map (fun y => if y.line = q.addr then { y with snooped := y.snooped ++ [(q.src, q.htxid)] } else y) }) s)
      else rsp 0x0A s
    | none =>
      let up := s.mshr.any (fun m => decide (m.1 / 1024 = t ∧ m.2.opc = 2 ∧ m.2.q.addr = q.addr))
      let r := if up ∧ (k = 1 ∨ k = 2) then (.inr 0x08, none) else snoopTable k (heldState s t q.addr)
      let line := getLine s q.addr
      let lost := l2IsDirty s t q.addr && up && decide (k = 1)
      let s := snooped t q.addr r.2 s
      let s := if lost then dropUnder1 q.addr (dropUnder2 q.addr s) else s
      match r.1 with
      | .inr opc => rsp opc s
      | .inl dirty => sends (lineFlits (if dirty then 9 else 8) q.src t q.htxid spr line s) s) s

/-! ## Grants (06 R156, R158; 08 R201; 10 R251, R260, R263) -/

/-- The oldest store that waits for a line is performed when ownership arrives (10 R260). -/
def firstStore (t line : Nat) (s : State) : State :=
  match hartOf s t with
  | some (.core n) =>
    match (coreOf s n).sb with
    | e :: _ => if lineOf e.pa = line ∧ e.dev = false ∧ e.nt = false then (sbHead (.core n) s).1 else s
    | [] => s
  | _ => s

/-- A shadow entry takes a tracked line. -/
def shadowTake (t line : Nat) (st : L2State) (s : State) : State :=
  if (tileAt s t).shadow.any (fun e => decide (e.line = line) && !e.dead) then
    modTile t (fun x => { x with shadow := x.shadow.map (fun e => if e.line = line ∧ ¬ e.dead then { e with asked := true, tracked := some st } else e) }) s
  else modTile t (fun x => { x with shadow := x.shadow ++ [{ line := line, asked := true, tracked := some st }] }) s

/-- A granted line is at its cache: a dead shadow entry that asked for it is freed and the line discarded (06 R158); a load's shadow entry
holds it until the load retires (06 R156), as one does without allocation (08 R201) or while the L2 has no room; otherwise the L2 has it. -/
def lineIn (n t line : Nat) (st : L2State) (s : State) : State :=
  let es := (tileAt s t).shadow
  if es.any (fun e => decide (e.line = line) && e.dead) then
    modTile t (fun x => { x with shadow := x.shadow.filter (fun e => !(decide (e.line = line) && e.dead)) }) s
  else if es.any (fun e => decide (e.line = line) && e.asked) ∨ cacheEn s (.core n) = false then shadowTake t line st s
  else
    let s := makeRoom t line s
    if l2Room s t line then l2Fill t line st s else shadowTake t line st s

/-- A grant is complete: Ack goes to the home (10 R251), the line is in, the C mark is kept for a held atomic (10 R263), and the first store
that waits for the line is performed. At a closed gate Ack alone goes (16 R458). -/
def granted (t txid line : Nat) (st : L2State) (c : Bool) (s : State) : State :=
  let s := toHome 0x00 t txid line (doneReq t txid s)
  match hartOf s t with
  | some (.core n) =>
    if coreGate s t = 2 then s
    else
      let s := lineIn n t line st s
      let s := if c ∧ heldAtomic s n = some line then modTile t (fun x => { x with contested := x.contested ++ [line] }) s else s
      if st = .s then s else firstStore t line s
  | _ => s

/-- A granted line's data at its requester: it is there with the second half. -/
def grantData (opc : Nat) (st : L2State) (f : DatFlit) (s : State) : State :=
  here (.dat opc f) (fun s =>
    match outstanding s f.dest f.txid with
    | some m =>
      let s := takeHalf m.q.addr f s
      if f.half then granted f.dest f.txid m.q.addr st (decide (3 ≤ opc)) s else s
    | none => s) s

/-- Grant at its requester: the line it holds, or claims, becomes owned. -/
def grantOwn (q : RspFlit) (s : State) : State :=
  here (.rsp 0x02 q) (fun s =>
    match outstanding s q.dest q.txid with
    | some m => granted q.dest q.txid m.q.addr (if q.info % 4 = 3 then .m else .e) (decide (4 ≤ q.info)) s
    | none => s) s

/-! ## Completions -/

/-- An eviction's entry after a change; it is freed once Comp came and no data is owed (10 R258). -/
def wbChange (t : Nat) (f : WbEntry → WbEntry) : State → State :=
  modTile t (fun x => { x with wb := (x.wb.map f).filter (fun w => !(w.comp && w.snooped.isEmpty)) })

/-- A write is done at its home: a line of the combining buffer has left it, or the head of the store buffer is written. -/
def writeDone (h : Hart) (line : Nat) (s : State) : State :=
  modCpu h (fun c =>
    if c.nt.any (fun l => l.leaving && decide (l.line = line)) then { c with nt := c.nt.filter (fun l => !(l.leaving && decide (l.line = line))) }
    else match c.sb with
      | e :: rest => if lineOf e.pa = line ∧ e.dev = false ∧ e.nt = false then { c with sb := rest } else c
      | [] => c) s

/-- Comp at its requester: of an eviction (10 R258), a write, a maintenance operation, or a lock-load, refused with INFO 2 (08 R214). -/
def compAt (q : RspFlit) (s : State) : State :=
  here (.rsp 0x01 q) (fun s =>
    let o := outstanding s q.dest q.txid
    let s := doneReq q.dest q.txid s
    let s := if q.dest < 216 then wbChange q.dest (fun w => if w.txid = q.txid then { w with comp := true } else w) s else s
    match o, hartOf s q.dest with
    | some m, some h =>
      let s := if m.opc = 8 ∨ m.opc = 9 then writeDone h m.q.addr s
        else if m.opc = 0x0E ∧ q.info = 2 then lockRefused h m.q.addr s else s
      if 0x0B ≤ m.opc ∧ m.opc ≤ 0x0E then cmoOn h s else s
    | _, _ => s) s

/-! ## DbGo (10 R258, R261, R262; 11 R283) -/

/-- The data of a write at its home, for the memory controller: masked as the writer masked it, unless a holder's data was merged. -/
def dbgoHome (pos : Nat) (t : Txn) (mc : Nat) (s : State) : State :=
  let l := getLine s t.line
  let be (half : Bool) : BitVec 32 :=
    if (t.req = .wrPtl ∨ t.req = .wrLine) ∧ ¬ t.gotDirty then ((t.dats.find? (fun f => f.half == half)).map (·.be)).getD 0 else BitVec.allOnes 32
  sends ((lineFlits 0xB mc (sliceTarget s pos % 512) t.htxid false l s).map (fun m => match m with
    | .dat o f => .dat o { f with be := be f.half }
    | m => m)) s

/-- The two WrData flits of octets by place in the line, with their tags. -/
def wrFlits (dest src txid : Nat) (spr : Bool) (bytes : FMap Byte) (tags : FMap Tag) (s : State) : List Msg :=
  (lineFlits 0xB dest src txid spr
    ⟨BitVec.ofNat 512 (bytes.foldl (fun a b => a + b.2.toNat * 256 ^ b.1) 0), BitVec.ofNat 32 (tags.foldl (fun a t => a + tagCode t.2 * 16 ^ t.1) 0)⟩ s).map
    (fun m => match m with
      | .dat o f => .dat o { f with be := BitVec.ofNat 32 (bytes.foldl (fun a b => if (if f.half then 32 ≤ b.1 else b.1 < 32) then a + 2 ^ (b.1 % 32) else a) 0) }
      | m => m)

/-- The data that a hart's write of a line sends: a line of the combining buffer that leaves, or the head of the store buffer. -/
def writeData (c : Cpu) (line : Nat) : FMap Byte × FMap Tag :=
  match c.nt.find? (fun l => l.leaving && decide (l.line = line)) with
  | some l => (l.bytes, l.tags)
  | none => match c.sb with
    | e :: _ =>
      if lineOf e.pa ≠ line ∨ e.dev = true ∨ e.nt = true then ([], [])
      else if e.dcz then ((List.range 64).map (fun i => (i, 0)), [])
      else ((e.bytes.zipIdx).map (fun b => (e.pa % 64 + b.2, b.1)), match e.tag with | some t => [(e.pa % 64 / 8, t)] | none => [])
    | [] => ([], [])

/-- The operands that an atomic at its home works with: of an instruction, or of the compare that marks a leaf (07 R183). -/
def atomOperands (c : Cpu) : Option (GVal × GVal) :=
  match c.wait with
  | .farAtomic _ _ _ b e _ => some (b, e)
  | .mark _ leaf _ _ intent => some (⟨markedLeaf (decide (intent = 1)) leaf, .data⟩, ⟨leaf, .data⟩)
  | _ => none

/-- DbGo at the closed gate of a tile: the gate ends what its home expects with an Ack, and sends a link unit POIS data (16 R456, R458;
log 80). -/
def dbgoGate (q : RspFlit) (s : State) : State :=
  if 356 ≤ q.src then sends (lineFlits 9 q.src q.dest q.txid false (zeroLine 7) s) s
  else match (owedBy s q.dest).find? (fun a => decide (a.1 = q.txid)) with
    | some a => toHome 0x00 q.dest a.1 a.2 s
    | none => s

/-- DbGo at a cache or core: the data it asks for goes. -/
def dbgoUnit (q : RspFlit) (s : State) : State :=
  let spr := match outstanding s q.dest q.txid with | some m => decide (512 ≤ homeTarget s m.q.addr) | none => false
  match (if q.dest < 216 then (tileAt s q.dest).wb.find? (fun w => w.snooped.contains (q.src, q.txid)) else none) with
  | some w =>
    wbChange q.dest (fun y => if y = w then { y with snooped := y.snooped.erase (q.src, q.txid), sent := true } else y)
      (sends (lineFlits 9 q.src q.dest q.txid (decide (512 ≤ q.txid)) (getLine s w.line) s) s)
  | none =>
    match (if q.dest < 216 then (tileAt s q.dest).wb.find? (fun w => decide (w.txid = q.txid)) else none) with
    | some w =>
      sends (lineFlits 0xA q.src q.dest q.txid spr (getLine s w.line) s)
        (modTile q.dest (fun x => { x with wb := x.wb.map (fun y => if y = w then { y with sent := true } else y) }) s)
    | none =>
      match outstanding s q.dest q.txid, hartOf s q.dest with
      | some m, some h =>
        if m.opc = 8 ∨ m.opc = 9 then
          let d := writeData (cpuOf s h) m.q.addr
          sends (wrFlits q.src q.dest q.txid spr d.1 d.2 s) s
        else match (if m.opc = 0x0A then atomOperands (cpuOf s h) else none) with
          | none => s
          | some (b, e) =>
            send (.dat 0xC { dest := q.src, src := q.dest, txid := q.txid, spr := spr, epoch := s.mesh.epoch, lstamp := s.stamp % 4096, be := 0xFFFF,
                             data := BitVec.ofNat 256 (b.v.toNat + e.v.toNat * 2 ^ 64), tags := BitVec.ofNat 16 (tagCode b.t + 16 * tagCode e.t) }) s
      | _, _ => s

/-- DbGo. -/
def dbgo (q : RspFlit) (s : State) : State :=
  here (.rsp 0x03 q) (fun s =>
    if 256 ≤ q.src ∧ q.src < 272 then
      match posOf s q.dest q.spr with
      | none => s
      | some pos => match txnOf s pos q.txid with
        | some t => dbgoHome pos t q.src s
        | none => s
    else if q.dest < 216 ∧ coreGate s q.dest = 2 then dbgoGate q s
    else dbgoUnit q s) s

/-- WrData at a home or at a controller. -/
def wrData (f : DatFlit) (s : State) : State :=
  here (.dat 0xB f) (fun s => if 256 ≤ f.dest ∧ f.dest < 272 then ctrlData f s else homeData 0xB f s) s

/-! ## Results and read data -/

/-- The result of an atomic at its core: of one to a device or window from the unit that performed or refused it (04 R104), of a far atomic
by its outstanding request (10 R261, R263). -/
def atomResultAt (opc : Nat) (f : DatFlit) (s : State) : State :=
  here (.dat opc f) (fun s =>
    match hartOf s f.dest with
    | none => s
    | some h =>
      let dev : Bool := match (cpuOf s h).wait with | .devAtomic _ _ _ _ _ => true | _ => false
      match (if dev then none else outstanding s f.dest f.txid) with
      | none => devAtomArrives h f.src f.txid (f.data.toNat >>> (8 * ctz f.be.toNat 0 32)) f.lstamp f.wrap s
      | some m =>
        let at_ := m.q.off % 32
        let n := m.q.len + 1
        let v := fld f.data (8 * (at_ + n) - 1) (8 * at_)
        let t := tagOfCode (fld f.tags (4 * (at_ / 8) + 3) (4 * (at_ / 8)))
        let c := decide (opc = 0xE)
        let s := doneReq f.dest f.txid s
        let mark : Bool := match (cpuOf s h).wait with | .mark _ _ _ _ _ => true | _ => false
        let s := if mark then s else modCpu h (contendTrain (64 * m.q.addr + m.q.off) c) s
        atomArrives h v t c s) s

/-- DataNT at its core: the shadow entry takes the line as it was sent (06 R154); a dead one is freed (06 R158). -/
def ntData (f : DatFlit) (s : State) : State :=
  here (.dat 5 f) (fun s =>
    match outstanding s f.dest f.txid with
    | some m =>
      let put (e : Shadow) : Shadow :=
        let l := mergeHalf { f with be := BitVec.allOnes 32 } ⟨e.data, e.tags⟩
        { e with data := l.data, tags := l.tags, filled := f.half }
      let s := modTile f.dest (fun x => { x with shadow := (x.shadow.filter (fun e => !(decide (e.line = m.q.addr) && e.dead && f.half))).map (fun e =>
        if e.line = m.q.addr ∧ ¬ e.dead then put e else e) }) s
      if f.half then doneReq f.dest f.txid s else s
    | none => s) s

/-- DataOnce at its requester; an engine's read has its line. -/
def onceData (f : DatFlit) (s : State) : State :=
  here (.dat 6 f) (fun s =>
    match outstanding s f.dest f.txid with
    | none => s
    | some m =>
      let s := takeHalf m.q.addr f s
      if ¬ f.half then s
      else
        let s := doneReq f.dest f.txid s
        match hartOf s f.dest with
        | some (.prv _) => shadowTake f.dest m.q.addr .s s
        | _ => s) s

/-- Retry: the request is to be issued again (10 R247); a core counts it (20 Table 20.5). -/
def retried (q : RspFlit) (s : State) : State :=
  here (.rsp 0x04 q) (fun s =>
    match outstanding s q.dest q.txid with
    | some m =>
      let s := { s with mshr := mIns s.mshr (mkey q.dest q.txid) { m with retried := some s.stamp } }
      (match hartOf s q.dest with | some h => countH h 0x38 1 s | none => s)
    | none => s) s

/-- A closed gate discards every request of its tile, one that drains all but evictions (16 Table 16.8a). -/
def gateDiscards (s : State) (src opc : Nat) : Bool :=
  decide (src < 216) && (decide (coreGate s src = 2) || (decide (coreGate s src = 1) && !isEvict opc))

/-- The request is issued again with RETRY, a new stamp and the current epoch, 64 mesh cycles or 48 ticks after its Retry at the earliest
(10 R247); a gate may discard it, counted (16 Table 16.8a). -/
def reissue (src txid : Nat) (s : State) : State :=
  match outstanding s src txid with
  | some m => (match m.retried with
    | some at_ =>
      if s.stamp < at_ + 48 then s
      else if gateDiscards s src m.opc then bumpObj 0x5040 src 32 1 (doneReq src txid s)
      else toHomeReq m.opc { m.q with retry := true } s
    | none => s)
  | none => s

/-- Refuse at its core: the load waits for its safe point (06 R155); a dead shadow entry is freed (06 R158). -/
def refused (q : RspFlit) (s : State) : State :=
  here (.rsp 0x05 q) (fun s =>
    match outstanding s q.dest q.txid with
    | some m => modTile q.dest (fun x => { x with shadow := x.shadow.filter (fun e => !(decide (e.line = m.q.addr) && e.dead)) }) (doneReq q.dest q.txid s)
    | none => s) s

/-! ## Meanings: requests at a home -/

/-- RDSHARED (10 Table 10.8). -/
def execRdshared (q : ReqFlit) (s : State) : Host.Outcome State Fault Refusal := .next (homeReq .rdShared 0x00 q s)
/-- RDUNIQUE (10 Table 10.8). -/
def execRdunique (q : ReqFlit) (s : State) : Host.Outcome State Fault Refusal := .next (homeReq .rdUnique 0x01 q s)
/-- UPGRADE (10 Table 10.8, R259). -/
def execUpgrade (q : ReqFlit) (s : State) : Host.Outcome State Fault Refusal := .next (homeReq .upgrade 0x02 q s)
/-- CLAIMZERO (10 Table 10.8). -/
def execClaimzero (q : ReqFlit) (s : State) : Host.Outcome State Fault Refusal := .next (homeReq .claimZero 0x03 q s)
/-- RDNT (10 R256). -/
def execRdnt (q : ReqFlit) (s : State) : Host.Outcome State Fault Refusal := .next (homeNt q s)
/-- RDONCE (10 Table 10.8). -/
def execRdonce (q : ReqFlit) (s : State) : Host.Outcome State Fault Refusal := .next (homeReq .rdOnce 0x05 q s)
/-- WRBACK (10 R258). -/
def execWrback (q : ReqFlit) (s : State) : Host.Outcome State Fault Refusal := .next (homeWrBack q s)
/-- EVICTCLEAN (10 R249, R254). -/
def execEvictclean (q : ReqFlit) (s : State) : Host.Outcome State Fault Refusal := .next (homeEvictClean q s)
/-- WRPTL (10 R262). -/
def execWrptl (q : ReqFlit) (s : State) : Host.Outcome State Fault Refusal := .next (homeReq .wrPtl 0x08 q s)
/-- WRLINE (10 R262). -/
def execWrline (q : ReqFlit) (s : State) : Host.Outcome State Fault Refusal := .next (homeReq .wrLine 0x09 q s)
/-- ATOMFAR (10 R261). -/
def execAtomfar (q : ReqFlit) (s : State) : Host.Outcome State Fault Refusal := .next (homeReq .atomFar 0x0A q s)
/-- CMOCLEAN (10 Table 10.8). -/
def execCmoclean (q : ReqFlit) (s : State) : Host.Outcome State Fault Refusal := .next (homeReq .cmoClean 0x0B q s)
/-- CMOINVAL (10 Table 10.8). -/
def execCmoinval (q : ReqFlit) (s : State) : Host.Outcome State Fault Refusal := .next (homeReq .cmoInval 0x0C q s)
/-- CMOCLINV (10 Table 10.8). -/
def execCmoclinv (q : ReqFlit) (s : State) : Host.Outcome State Fault Refusal := .next (homeReq .cmoClinv 0x0D q s)
/-- LOCKLD_REQUEST (08 R212). -/
def execLockldRequest (q : ReqFlit) (s : State) : Host.Outcome State Fault Refusal := .next (homeReq .lockLd 0x0E q s)

/-! ## Meanings: snoops at an L2 -/

/-- SNPSHARED (10 Table 10.10). -/
def execSnpshared (q : SnpFlit) (s : State) : Host.Outcome State Fault Refusal := .next (snoopAt 0 q s)
/-- SNPUNIQUE (10 Table 10.10). -/
def execSnpunique (q : SnpFlit) (s : State) : Host.Outcome State Fault Refusal := .next (snoopAt 1 q s)
/-- SNPINVAL (10 Table 10.10). -/
def execSnpinval (q : SnpFlit) (s : State) : Host.Outcome State Fault Refusal := .next (snoopAt 2 q s)
/-- SNPCLEAN (10 Table 10.10). -/
def execSnpclean (q : SnpFlit) (s : State) : Host.Outcome State Fault Refusal := .next (snoopAt 3 q s)
/-- SNPCLEANINVAL (10 Table 10.10). -/
def execSnpcleaninval (q : SnpFlit) (s : State) : Host.Outcome State Fault Refusal := .next (snoopAt 4 q s)
/-- SNPBACKINVAL (10 R255, Table 10.10). -/
def execSnpbackinval (q : SnpFlit) (s : State) : Host.Outcome State Fault Refusal := .next (snoopAt 5 q s)
/-- SNPONCE (10 Table 10.10). -/
def execSnponce (q : SnpFlit) (s : State) : Host.Outcome State Fault Refusal := .next (snoopAt 6 q s)

/-! ## Meanings: responses -/

/-- ACK (10 R250). -/
def execAck (q : RspFlit) (s : State) : Host.Outcome State Fault Refusal := .next (homeAck q s)
/-- COMP (10 R243, R258). -/
def execComp (q : RspFlit) (s : State) : Host.Outcome State Fault Refusal := .next (compAt q s)
/-- GRANT (10 R243). -/
def execGrant (q : RspFlit) (s : State) : Host.Outcome State Fault Refusal := .next (grantOwn q s)
/-- DBGO (10 R258, R261). -/
def execDbgo (q : RspFlit) (s : State) : Host.Outcome State Fault Refusal := .next (dbgo q s)
/-- RETRY (10 R247). -/
def execRetry (q : RspFlit) (s : State) : Host.Outcome State Fault Refusal := .next (retried q s)
/-- REQUEST_REISSUE (10 R247). -/
def execRequestReissue (src txid : Nat) (s : State) : Host.Outcome State Fault Refusal := .next (reissue src txid s)
/-- REFUSE (06 R155). -/
def execRefuse (q : RspFlit) (s : State) : Host.Outcome State Fault Refusal := .next (refused q s)
/-- RSPI (10 R257). -/
def execRspi (q : RspFlit) (s : State) : Host.Outcome State Fault Refusal := .next (homeAnswer 0x08 q true s)
/-- RSPS (10 R257). -/
def execRsps (q : RspFlit) (s : State) : Host.Outcome State Fault Refusal := .next (homeAnswer 0x09 q false s)
/-- RSPIEVICT (10 R257). -/
def execRspievict (q : RspFlit) (s : State) : Host.Outcome State Fault Refusal := .next (homeAnswer 0x0A q false s)
/-- RSPWBPEND (10 R258). -/
def execRspwbpend (q : RspFlit) (s : State) : Host.Outcome State Fault Refusal := .next (homeWbPend q s)
/-- MEMCOMP (10 R262). -/
def execMemcomp (q : RspFlit) (s : State) : Host.Outcome State Fault Refusal := .next (homeMemComp q s)

/-! ## Meanings: data -/

/-- DATAS (10 R243). -/
def execDatas (q : DatFlit) (s : State) : Host.Outcome State Fault Refusal := .next (grantData 0 .s q s)
/-- DATAE (10 R243). -/
def execDatae (q : DatFlit) (s : State) : Host.Outcome State Fault Refusal := .next (grantData 1 .e q s)
/-- DATAM (10 R243). -/
def execDatam (q : DatFlit) (s : State) : Host.Outcome State Fault Refusal := .next (grantData 2 .m q s)
/-- DATAEC (10 R263). -/
def execDataec (q : DatFlit) (s : State) : Host.Outcome State Fault Refusal := .next (grantData 3 .e q s)
/-- DATAMC (10 R263). -/
def execDatamc (q : DatFlit) (s : State) : Host.Outcome State Fault Refusal := .next (grantData 4 .m q s)
/-- DATANT (06 R154). -/
def execDatant (q : DatFlit) (s : State) : Host.Outcome State Fault Refusal := .next (ntData q s)
/-- DATAONCE (10 R243). -/
def execDataonce (q : DatFlit) (s : State) : Host.Outcome State Fault Refusal := .next (onceData q s)
/-- SNPDATACLEAN (10 R252). -/
def execSnpdataclean (q : DatFlit) (s : State) : Host.Outcome State Fault Refusal := .next (homeSnoopData 8 q s)
/-- SNPDATADIRTY (10 R252, R258). -/
def execSnpdatadirty (q : DatFlit) (s : State) : Host.Outcome State Fault Refusal := .next (homeSnoopData 9 q s)
/-- WBDATA (10 R258). -/
def execWbdata (q : DatFlit) (s : State) : Host.Outcome State Fault Refusal := .next (homeWbData q s)
/-- WRDATA (10 R262, 11 R283). -/
def execWrdata (q : DatFlit) (s : State) : Host.Outcome State Fault Refusal := .next (wrData q s)
/-- ATOMOPND (10 R261). -/
def execAtomopnd (q : DatFlit) (s : State) : Host.Outcome State Fault Refusal := .next (here (.dat 0xC q) (homeData 0xC q) s)
/-- ATOMRESULT (10 R261, R263). -/
def execAtomresult (q : DatFlit) (s : State) : Host.Outcome State Fault Refusal := .next (atomResultAt 0xD q s)
/-- ATOMRESULTC (10 R263). -/
def execAtomresultc (q : DatFlit) (s : State) : Host.Outcome State Fault Refusal := .next (atomResultAt 0xE q s)
/-- MEMDATA (11 R277, 10 R252). -/
def execMemdata (q : DatFlit) (s : State) : Host.Outcome State Fault Refusal := .next (homeMemData q s)

end Sys2Proof.Machine
end

