-- ==== Sys2Proof/Machine/Micro.lean ====
section
/-! DEFINITION. Events inside a core or engine that no instruction names (03 R77, 06, 07): one meaning per row. -/

namespace Sys2Proof.Machine
open Sys2Proof

/-! ## Stores, loads and lines (06 R146-R156) -/

/-- The address of an older store has become known (06 R148): the load at `pc` of the window that executed before it executes again. -/
def reexec (h : Hart) (pc : Word) (s : State) : State :=
  match h with
  | .prv _ => s
  | .core n =>
    match (coreOf s n).win.findIdx? (fun e => decide (e.pc = pc) && e.early.isSome) with
    | some j => readTooEarly n j s
    | none => s

/-- The oldest line of the combining buffer leaves (06 R150). -/
def ntOldest (h : Hart) (s : State) : State :=
  match (cpuOf s h).nt.find? (fun l => !l.leaving) with
  | some l => (ntLeave h l.line s).1
  | none => s

/-- A load reaches its safe point (06 R156): the tracked read of its line goes out, unless the line came from the L2 or is tracked. -/
def safePoint (n line : Nat) (s : State) : State :=
  let t := tileOf s n
  if 192 ≤ n ∨ 216 ≤ t ∨ coreGate s t = 2 then s
  else match (tileAt s t).shadow.find? (fun e => decide (e.line = line) && !e.dead) with
    | some e => if e.fromL2 ∨ e.tracked.isSome then s else askTracked n line true s
    | none => s

/-! ## Broadcast TLBI (07 R186-R188) -/

/-- A target has acknowledged: the TLBI retires with the last one. -/
def tlbiAck (n : Nat) (t : TlbTarget) (s : State) : State :=
  match (coreOf s n).wait with
  | .tlbi ts form va asid at_ =>
    if ¬ ts.contains t then s
    else if ts.erase t = [] then retireWaited (.core n) [] (modCpu (.core n) (fun c => { c with wait := .none }) s)
    else modCpu (.core n) (fun c => { c with wait := .tlbi (ts.erase t) form va asid at_ }) s
  | _ => s

/-- A core removes the entries of a shootdown and flushes what was translated by them (07 R187); answers whether its retired stores are
written, which its acknowledgement waits for. -/
def tlbiCore (k form : Nat) (va : Word) (asid cur : Nat) (s : State) : State × Bool :=
  let c := tlbRemove (tlbiHits form va asid cur) (coreOf s k)
  let s := if c = coreOf s k ∨ c.level = .m then s else flushAll k false s
  sbDrain (.core k) (modCpu (.core k) (tlbRemove (tlbiHits form va asid cur)) s)

/-- The interrupt controller acknowledges for the core (07 R187). -/
def ackedFor (s : State) (k : Nat) : Bool := match (coreOf s k).run with | .cs3 => true | .failover => true | _ => false

/-- What a shootdown of enclosure `e` does at its target, and whether the target acknowledges. -/
def tlbiAt (t : TlbTarget) (e form : Nat) (va : Word) (asid cur : Nat) (s : State) : State × Bool :=
  match t with
  | .core k => if ackedFor s k then (modCpu (.core k) (tlbRemove (tlbiHits form va asid cur)) s, true) else tlbiCore k form va asid cur s
  | .prv k => (ioTlbi (272 + k) (fun x => decide (x = e)) form va asid cur s, true)
  | .pe k => (ioTlbi (352 + k) (fun x => decide (64 + 32 * e ≤ x ∧ x < 96 + 32 * e)) form va asid cur s, true)

/-- A target receives the shootdown of a core's TLBI, removes entries and acknowledges; a core whose stores are still to be written does so
when the shootdown is repeated (log 105). -/
def shootdown (t : TlbTarget) (n : Nat) (s : State) : State :=
  match (coreOf s n).wait with
  | .tlbi ts form va asid _ =>
    if ¬ ts.contains t then s
    else
      let r := tlbiAt t (enclOfCore s n) form va asid (curAsid (coreOf s n)) s
      if r.2 then tlbiAck n t r.1 else r.1
  | _ => s

/-- The TLBIs whose shootdown an engine has not acknowledged within 12,800 ticks. -/
def tlbiOverdue (n : Nat) (s : State) : List Nat :=
  (List.range 192).filter (fun k => match (coreOf s k).wait with
    | .tlbi ts _ _ _ at_ => ts.contains (.prv n) && decide (at_ + 12800 ≤ s.stamp)
    | _ => false)

/-- A Privet engine has not acknowledged in time: it is failed, and closed; that counts as its acknowledgement (07 R188). -/
def ioTlbiTimeout (n : Nat) (s : State) : State :=
  if tlbiOverdue n s = [] then s
  else (List.range 192).foldl (fun s k => tlbiAck k (.prv n) s) (if prvRuns s n then engineFail n 2 s else s)

/-! ## I/O translation caches (07 R190) -/

/-- The cache of a root complex or engine walks a stream's table: a stream is its enclosure for an engine, 64 + 32 × enclosure + entry
for a root complex. -/
def ioWalk (t : TlbTarget) (stream : Nat) (va : Word) (store : Bool) (s : State) : State :=
  match t with
  | .core _ => s
  | .prv n => if stream < 16 ∧ n < 64 then (ioTranslate (272 + n) stream stream ⟨mGet 0 s.ioRoots stream, (mGet 0 s.ioAsids stream).toNat % 4096⟩ va store s).2 else s
  | .pe n =>
    let k := stream - 64
    if 64 ≤ stream ∧ k < 512 ∧ n < 4 ∧ flag (mGet 0 s.sctl k) 63 then
      (ioTranslate (352 + n) stream (k / 32) ⟨mGet 0 s.sroot k, fld (mGet 0 s.sctl k) 11 0⟩ va store s).2
    else s

/-! ## Exceptions met without an instruction of the table -/

/-- The classes an engine can meet (03 Table 3.14, R77). -/
def engineClass (code : Nat) : Bool := code = 0x01 ∨ code = 0x02 ∨ code = 0x03 ∨ code = 0x08 ∨ code = 0x0D ∨ code = 0x0F

/-- A word no instruction has reaches execution (04 R79), as the oldest of its hart: illegal instruction with the word in TVAL. -/
def illegalWord (h : Hart) (w : BitVec 32) (s : State) : State :=
  if ¬ hartExists h ∨ ¬ canRun h s ∨ (cpuOf s h).win ≠ [] then s
  else if breakHit h s then modCpu h (fun c => { c with halted := true }) s
  else if hartEvent h s then (match h with | .core n => takeEvent n s | .prv _ => s)
  else match fetchCheck h s with
    | (some b, s) => fetchFails h b s
    | (none, s) =>
      let legalWord : Bool := match decodeWord h w with | some i => legal h (cpuOf s h) i | none => false
      if legalWord then s
      else
        let f := fetchLine h s
        if f.2 then takeSync h { code := 0x02, tval := w.setWidth 64 } f.1 else f.1

/-! ## Route epochs (10 R265-R268) -/

/-- Messages in a router buffer or on a link that were injected under the old epoch. -/
def oldFlits (s : State) : Nat := (s.net.filter (fun f => f.pos.isSome && (msgEpoch f.msg != s.mesh.epoch))).length

/-- The new translation is written into the table that is not current (10 R266); positions that it gives another slice are to move
(10 R268). -/
def tableWrite (tab : List (Nat × Nat)) (s : State) : State :=
  let cur := if s.mesh.epoch then s.mesh.table1 else s.mesh.table0
  let new := tab.foldl (fun m p => if p.1 < 216 then mPut p.1 m p.1 p.2 else m) cur
  let moves := (List.range 216).filter (fun p => decide (mGet p new p ≠ mGet p cur p))
  { s with mesh := { (if s.mesh.epoch then { s.mesh with table0 := new } else { s.mesh with table1 := new }) with moves := moves } }

/-- A change of the routes: held while the previous one drains (10 R267), and not taken while a switch is announced. -/
def routeWrite (tab : List (Nat × Nat)) (s : State) : State :=
  if s.mesh.draining then { s with mesh := { s.mesh with heldTab := some (s.mesh.heldTab.getD [] ++ tab) } }
  else if s.mesh.switchAt.isSome then s
  else tableWrite tab s

/-- The new table becomes current in every router (10 R266): the positions it moves are in transfer (10 R268). -/
def switchNow (s : State) : State :=
  let s' := s.mesh.moves.foldl (fun s p => modSlice p (fun x => { x with moving := true }) s) s
  { s' with mesh := { s'.mesh with epoch := !s.mesh.epoch, switchAt := none, draining := true, latches := [], latchAt := s.stamp, moves := [] } }

/-- The announced tick has come. -/
def switchDue (s : State) : Bool := match s.mesh.switchAt with | some t => decide (t ≤ s.stamp) | none => false

/-- The switch message names a tick at least 64 ahead; in that tick the new table becomes current (10 R266). -/
def routeSwitch (t : Nat) (s : State) : State :=
  if switchDue s then switchNow s
  else if s.mesh.switchAt.isNone ∧ s.stamp + 64 ≤ t ∧ ¬ s.mesh.draining then { s with mesh := { s.mesh with switchAt := some t } } else s

/-- Every router latches its count of old-epoch flits, 256 ticks after the switch or the last latch (10 R267): the old epoch has drained at
sum 0, and a change that was held is written. -/
def drainLatch (s : State) : State :=
  if ¬ s.mesh.draining ∨ s.stamp < s.mesh.latchAt + 256 then s
  else
    let k := oldFlits s
    let u := { s with mesh := { s.mesh with latches := s.mesh.latches ++ [k], latchAt := s.stamp, draining := decide (k ≠ 0) } }
    match (if k = 0 then s.mesh.heldTab else none) with
    | some tab => tableWrite tab { u with mesh := { u.mesh with heldTab := none } }
    | none => u

/-! ## Meanings -/

/-- ENGINE_EXCEPTION (03 R77). -/
def execEngineException (n : Nat) (code : BitVec 8) (s : State) : Host.Outcome State Fault Refusal :=
  .next (if prvRuns s n ∧ engineClass code.toNat then stopEngine n code.toNat s else s)

/-- ILLEGAL_INSTRUCTION (04 R79). -/
def execIllegalInstruction (h : Hart) (w : BitVec 32) (s : State) : Host.Outcome State Fault Refusal := .next (illegalWord h w s)

/-- STORE_BUFFER_WRITE (06 R146). -/
def execStoreBufferWrite (h : Hart) (s : State) : Host.Outcome State Fault Refusal := .next (sbHead h s).1

/-- STORE_ADDRESS_REEXEC (06 R148). -/
def execStoreAddressReexec (h : Hart) (pc : Word) (s : State) : Host.Outcome State Fault Refusal := .next (if canRun h s then reexec h pc s else s)

/-- LOAD_WAIT_CLEAR (06 R148). -/
def execLoadWaitClear (n : Nat) (s : State) : Host.Outcome State Fault Refusal := .next (modCpu (.core n) (fun c => { c with loadWait := [] }) s)

/-- NT_LINE_LEAVE (06 R150). -/
def execNtLineLeave (h : Hart) (s : State) : Host.Outcome State Fault Refusal := .next (ntOldest h s)

/-- SAFE_POINT_REACHED (06 R156). -/
def execSafePointReached (n line : Nat) (s : State) : Host.Outcome State Fault Refusal := .next (safePoint n line s)

/-- TLBI_SHOOTDOWN (07 R187). -/
def execTlbiShootdown (t : TlbTarget) (from_ : Nat) (s : State) : Host.Outcome State Fault Refusal := .next (shootdown t from_ s)

/-- IO_TLBI_ACK_TIMEOUT (07 R188). -/
def execIoTlbiAckTimeout (n : Nat) (s : State) : Host.Outcome State Fault Refusal := .next (ioTlbiTimeout n s)

/-- IO_TRANSLATION_WALK (07 R190). -/
def execIoTranslationWalk (t : TlbTarget) (stream : Nat) (va : Word) (store : Bool) (s : State) : Host.Outcome State Fault Refusal :=
  .next (ioWalk t stream va store s)

/-- ROUTE_TABLE_WRITE (10 R266). -/
def execRouteTableWrite (tab : List (Nat × Nat)) (s : State) : Host.Outcome State Fault Refusal := .next (routeWrite tab s)

/-- ROUTE_SWITCH (10 R266). -/
def execRouteSwitch (t : Nat) (s : State) : Host.Outcome State Fault Refusal := .next (routeSwitch t s)

/-- EPOCH_DRAIN_LATCH (10 R267). -/
def execEpochDrainLatch (s : State) : Host.Outcome State Fault Refusal := .next (drainLatch s)

end Sys2Proof.Machine
end

