-- ==== Sys2Proof/Machine/Ras.lean ====
section
/-! DEFINITION. The RAS controller (16): module log, fault rings, the fence, and core failover. -/

namespace Sys2Proof.Machine
open Sys2Proof

/-! ## Records (16 R435-R440) -/

/-- A record's 64 octets (16 Table 16.1). -/
def recOctets (socket seq : Nat) (r : ErrRec) (lostBefore : Bool) : List Byte :=
  leBytes 8 r.stamp ++ leBytes 8 seq ++ leBytes 4 r.useq ++ leBytes 2 r.unit ++ leBytes 1 socket ++ leBytes 1 r.net ++
  leBytes 2 r.cls ++ leBytes 1 r.sev ++
  leBytes 1 (r.inexact.toNat + 2 * r.unaligned.toNat + 4 * r.superseded.toNat + 8 * r.late.toNat + 16 * lostBefore.toNat) ++
  leBytes 1 r.encl ++ leBytes 1 r.core ++ leBytes 1 r.tile ++ [0] ++
  leBytes 8 (r.addr % 2 ^ 52) ++ leBytes 8 r.d0 ++ leBytes 8 r.d1 ++ leBytes 8 r.pktStamp

/-- Records in a fault ring (16 Table 16.8). -/
def fltSize (w : Word) : Nat := 2 ^ (fld w 3 0 + 6)

/-- The base of a fault ring; 0 disables it. Bits 63:52 are part of it (01 R30). -/
def fltBase (w : Word) : Nat := fld w 63 12 * 4096

/-- Every octet of a fault ring lies in its enclosure's granules: the ring is shorter than a granule, so its ends decide (00 R4, log 83). -/
def fltOwned (s : State) (e : Nat) (w : Word) : Bool :=
  decide (placeOf s e (fltBase w) = .mem) && decide (placeOf s e (fltBase w + 64 * fltSize w - 1) = .mem)

/-- Write a record into the fault ring of an enclosure, or count it lost (16 R438, 12 R310); a ring the enclosure does not own is as one that
is disabled (00 R4). -/
def ringWrite (e seq : Nat) (r : ErrRec) (s : State) : State :=
  let w := obj s 0x5100 e
  let tail := fld (obj s 0x5120 e) 15 0
  if fltBase w = 0 ∨ fltOwned s e w = false ∨ (tail + 1) % fltSize w = objN s 0x5110 e then
    let s := setObjFld 0x5120 e 63 32 (min (fld (obj s 0x5120 e) 63 32 + 1) (2 ^ 32 - 1)) s
    { s with ras := { s.ras with lostDue := mPut false s.ras.lostDue e true } }
  else
    let s := dmaStore (fltBase w + 64 * tail) (recOctets s.socket seq r (mGet false s.ras.lostDue e)) s
    let s := setObjFld 0x5120 e 15 0 ((tail + 1) % fltSize w) s
    setPend e 0 { s with ras := { s.ras with lostDue := mPut false s.ras.lostDue e false } }

/-- The enclosures whose fault rings a record goes to (12 R310). -/
def ringsOf (r : ErrRec) : List Nat := ((if r.encl < 16 then [r.encl] else []) ++ r.rings.filter (fun e => decide (e < 16))).eraseDups

/-- The RAS controller takes a record: SEQ, module log, fault rings, machine check (16 R437, R438, R440). -/
def takeRecord (r : ErrRec) (s : State) : State :=
  let seq := s.ras.seq + 1
  let keep := if s.ras.mlog.length < 8192 then s.ras.mlog else s.ras.mlog.tail
  let pos := s.ras.mlogN % 8192
  let s := { s with ras := { s.ras with
    seq := seq
    mlog := keep ++ [(seq, r)]
    mlogN := s.ras.mlogN + 1
    logLost := s.ras.logLost.filter (fun x => decide (x ≠ pos)) } }
  let s := setObj 0x5200 1 (BitVec.ofNat 64 seq) s
  let s := (ringsOf r).foldl (fun s e => ringWrite e seq r s) s
  if (r.cls = 0x0102 ∨ r.cls = 0x0106) ∧ r.core < 192 then
    modCpu (.core r.core) (fun c => { c with mcheck := c.mcheck ++ [seq] }) s
  else s

/-- The record at place k among those under way arrives. -/
def recordArrives (k : Nat) (s : State) : State :=
  match s.ras.inbox[k]? with
  | none => s
  | some r => takeRecord r { s with ras := { s.ras with inbox := s.ras.inbox.eraseIdx k } }

/-- Every record under way arrives, in the order in which they were sent. -/
def recordsArrive (s : State) : State := (List.replicate s.ras.inbox.length ()).foldl (fun s _ => recordArrives 0 s) s

/-- A write of FLT_RING (16 R438, Table 16.8): whether it is taken, and the state after it. -/
def writeFltRing (e : Nat) (v : Word) (s : State) : Bool × State :=
  let base := fltBase v
  if 16 ≤ e ∨ 11 ≤ fld v 3 0 ∨ (base ≠ 0 ∧ fltOwned s e v = false) then (false, s)
  else
    let old := obj s 0x5100 e
    let new : Word := v &&& 0xFFFFFFFFFFFFF00F
    let s := setObj 0x5100 e new s
    (true, if fltBase old ≠ base ∨ fld old 3 0 ≠ fld v 3 0 ∨ base = 0 then setObjFld 0x5120 e 15 0 0 (setObj 0x5110 e 0 s) else s)

/-- A write of FLT_HEAD (16 R438): forward up to TAIL alone. -/
def writeFltHead (e : Nat) (v : Word) (s : State) : Bool × State :=
  let n := fltSize (obj s 0x5100 e)
  let head := objN s 0x5110 e
  let tail := fld (obj s 0x5120 e) 15 0
  let h := v.toNat % 2 ^ 16
  if 16 ≤ e ∨ n ≤ h ∨ (tail + n - head) % n < (h + n - head) % n then (false, s) else (true, setObj 0x5110 e (BitVec.ofNat 64 h) s)

/-! ## Tiles and gates (01 R35-R37, 16 R454-R459) -/

/-- Set a tile's state and recount the spare tiles (16 Table 16.8). -/
def setTile (t code : Nat) (s : State) : State :=
  let s := setObjFld 0x5020 t 1 0 code s
  setObj 0x5010 1 (BitVec.ofNat 64 ((List.range 216).filter (fun k => decide (fld (obj s 0x5020 k) 1 0 = 1))).length) s

/-- Set a tile's CORE gate. -/
def setCoreGate (t g : Nat) (s : State) : State := setObjFld 0x5020 t 3 2 g s

/-- The spare tile a failover takes (01 R37), but those other failovers have chosen. -/
def pickSpare (s : State) (old : Nat) : Option Nat :=
  let free := (List.range 216).filter (fun t => decide (fld (obj s 0x5020 t) 1 0 = 1) && s.ras.fail.all (fun f => decide (f.2.spare ≠ some t)))
  match free.find? (fun t => decide (dieOfTile t = dieOfTile old)) with
  | some t => some t
  | none => free.head?

/-- A record about a logical core, keyed by the tile that carries it (02 R53). -/
def noteCore (n tile cls sev addr d0 d1 : Nat) (s : State) : State :=
  report { stamp := 0, useq := 0, unit := tile, cls := cls, sev := sev, encl := enclOfCore s n, core := n, tile := tile, addr := addr, d0 := d0, d1 := d1 } s

/-- A record of the RAS controller about the move or the loss of a core (log 38). -/
def noteMove (n tile cls sev d0 d1 : Nat) (s : State) : State :=
  report { stamp := 0, useq := 0, unit := 365, cls := cls, sev := sev, encl := enclOfCore s n, core := n, tile := tile, d0 := d0, d1 := d1 } s

/-- A core is lost until module reset (16 R451): 0 checkpoint lost, 1 no spare, 2 tile unresponsive. DESIGN CHOICE (log 80): with reason 0 or 1
its tile keeps its state and gate in TILE_STATE, logical and OPEN or DRAINING, while ESP_CORE_TILE shows 0xFF. -/
def coreLost (n reason pc : Nat) (s : State) : State :=
  if 192 ≤ n ∨ (coreOf s n).run = .lost ∨ (coreOf s n).run = .unpowered then s
  else
    let t := tileOf s n
    let s := modCpu (.core n) (fun c => { c with run := .lost }) { s with ras := { s.ras with fail := mDel s.ras.fail n } }
    noteMove n t 0x0103 3 reason pc (setObj 0x5030 n 0xFF s)

/-- One slice's scan for a tile closed without drain (16 R458). -/
def scanTile (t pos : Nat) (s : State) : State :=
  let entries := (sliceAt s pos).sf.flatMap (fun q => q.2.ways.map (·.2))
  let owned := entries.filter (fun e => decide (e.st ≠ .s ∧ e.own = some t))
  let shared := entries.filter (fun e => decide (¬ (e.st ≠ .s ∧ e.own = some t)) && !e.coarse && e.sharers.contains t)
  let s := owned.foldl (fun s e => sfDrop e.line (poisonLine e.line s)) s
  let s := shared.foldl (fun s e =>
    let e' := { e with sharers := e.sharers.filter (fun x => decide (x ≠ t)) }
    if e'.sharers = [] ∧ e'.own = none ∧ e'.rmt = [] then sfDrop e.line s else sfStore e' s) s
  report { stamp := 0, useq := 0, unit := pos, cls := 0x0405, sev := 2, encl := 0x10, tile := t, d0 := t, d1 := owned.length,
           rings := (owned.map (fun e => lineEncl s e.line)).eraseDups } s

/-- A message of a tile's gated units, not of the slice at the same router (10 Table 10.6). -/
def gated : Msg → Bool
  | .req _ _ => true
  | .snp _ _ => false
  | .rsp o _ => decide (o = 0 ∨ 8 ≤ o ∧ o ≤ 0x0B)
  | .dat o _ => decide (8 ≤ o ∧ o ≤ 0x0C)

/-- A flit from behind a closed gate dies at its own router (16 R454, R459). -/
def zombie (t net : Nat) (s : State) : State :=
  if 216 ≤ t ∨ coreGate s t ≠ 2 then s
  else report { stamp := 0, useq := 0, unit := t, net := net, cls := 0x0404, sev := 0, encl := 0x10, tile := t, d0 := net, d1 := 1 } (bumpObj 0x5040 t 32 1 s)

/-- The flits that a tile has not yet sent die behind its closed gate. -/
def zombies (t : Nat) (s : State) : State :=
  let dead (f : Flit) : Bool := f.pos.isNone && gated f.msg && decide ((msgEnds f.msg).1 = t)
  (s.net.filter dead).foldl (fun s f => zombie t (msgEnds f.msg).2.2 s) { s with net := s.net.filter (fun f => !dead f) }

/-- A CORE gate is closed without drain (16 R457, R458): the tile is retired, its core lost, every slice and link unit scans, and transactions
that wait for the tile's Ack, or for data it owes, receive an Ack from the gate (log 80). -/
def closeDead (t : Nat) (s : State) : State :=
  if 216 ≤ t ∨ coreGate s t = 2 then s
  else
    let s := match (List.range 192).find? (fun n => decide (tileOf s n = t)) with
      | some n => coreLost n 2 0 s
      | none => s
    let s := zombies t (setCoreGate t 2 (if fld (obj s 0x5020 t) 1 0 = 3 then s else setTile t 2 s))
    let s := { s with tiles := mPut {} s.tiles t {} }
    let s := scanDirs t ((List.range 216).foldl (fun s p => scanTile t p s) s)
    (owedBy s t).foldl (fun s a => toHome 0x00 t a.1 a.2 s) s

/-! ## Core failover (16 R448-R453) -/

/-- The state a save slot holds (16 R450). -/
def saveCpu (c : Cpu) : Cpu :=
  { g := c.g, lk := c.lk, f := c.f, v := c.v, ls := c.ls, le := c.le, lc := c.lc, ph := c.ph, pl := c.pl, pc := c.pc, level := c.level, sys := c.sys }

/-- A core without what neither a wake from CS3 nor a failover carries (16 R449, 17 R477): caches' and translations' followers are empty. -/
def emptyCore (c : Cpu) : Cpu :=
  { c with
    itlb := {}
    dtlb := []
    dtrees := []
    dorder := [0, 1, 2]
    l2tlb := []
    wired := []
    rstack := []
    pred := {}
    win := []
    loadWait := []
    contend := []
    walkTries := 0
    sb := []
    nt := []
    retries := 0 }

/-- A core loaded from its save slot. -/
def loadCpu (x c : Cpu) : Cpu :=
  { emptyCore c with
    g := x.g
    lk := x.lk
    f := x.f
    v := x.v
    ls := x.ls
    le := x.le
    lc := x.lc
    ph := x.ph
    pl := x.pl
    pc := x.pc
    level := x.level
    sys := x.sys }

/-- A core at the reset values of every register (03 R59), with what is outside its registers kept; PWRCTL's reset value is a request like
any other (17 R474). -/
def resetCpu (c : Cpu) : Cpu :=
  retarget { emptyCore c with
    g := []
    lk := ⟨0, .data⟩
    f := []
    v := []
    ls := []
    le := []
    lc := []
    ph := 0
    pl := 0
    pc := 0
    level := .m
    sys := []
    halted := false
    wait := .none
    ended := []
    mcheck := []
    iobar := none
    irqM := false
    irqS := false
    devSent := 0
    devOut := []
    devUnits := []
    hourWin := 0
    hourRetries := 0 }

/-- A line of a tile is written back and invalidated: at once, or by an eviction while fewer than 16 wait for Comp. -/
def lineLeaves (t line : Nat) (s : State) : State :=
  if asking s t line then s
  else if lineQuiet s line then l2Evict t line s
  else if (tileAt s t).wb.length < 16 then pushOut t line s
  else s

/-- Write back and invalidate a tile's caches, as far as that goes at once (16 Table 16.6 step 4, 17 R477): every line leaves the snoop filter. -/
def tileDrain (t : Nat) (s : State) : State :=
  let lines := (tileAt s t).l2.flatMap (fun q => q.2.ways.map (fun e => e.2.line))
  modTile t (fun x => { x with l1i := [], l2 := x.l2.filter (fun q => decide (q.2.ways ≠ [])) }) (lines.foldl (fun s l => lineLeaves t l s) s)

/-- Nothing of a tile is left: no line, no eviction and no request of it that awaits its answer. -/
def tileDrained (s : State) (t : Nat) : Bool :=
  (tileAt s t).l2.isEmpty && (tileAt s t).wb.isEmpty && s.mshr.all (fun m => decide (m.1 / 1024 ≠ t))

/-- The boot core of an enclosure: its lowest-numbered core that is not lost (03 R59, 16 R451). -/
def bootCore (s : State) (e : Nat) : Option Nat := (coresOf s e).find? (fun n => decide ((coreOf s n).run ≠ .lost ∧ (coreOf s n).run ≠ .unpowered))

/-- Whether this socket is the boot socket of an enclosure (12 Table 12.4a, FLAGS bit 0). -/
def bootsHere (s : State) (e : Nat) : Bool := s.yew.recs.any (fun r => decide (leNat (r.take 1) = e) && decide (leNat ((r.drop 2).take 1) % 2 = 1))

/-- The boot core starts at ENTRY (03 R59, 12 Table 12.8 step 9) on the boot socket, unless the enclosure may not start; a core in failover
is waited for. -/
def bootEncl (e : Nat) (s : State) : State :=
  if s.yew.stopped ∨ s.yew.held.contains e ∨ s.yew.refused.contains e ∨ ¬ bootsHere s e then s
  else match bootCore s e with
    | some n => if (coreOf s n).run = .gated then startCore n s else s
    | none => s

/-- Step 1: the core stops retiring, what it has not retired is discarded, and its map entry is marked. A core in fault stop is never moved
(16 R445); a halted one is, and stays halted (16 R449). -/
def startFailover (n trigger : Nat) (s : State) : State :=
  let c := coreOf s n
  if 192 ≤ n ∨ (mFind s.ras.fail n).isSome ∨ 216 ≤ tileOf s n ∨ ¬ (c.run = .running ∨ c.run = .wfi ∨ c.run = .cs3) then s
  else
    let f : Failover := { old := tileOf s n, trigger := trigger, at_ := s.stamp, was := c.run }
    setObj 0x5030 n 0xFE (modCpu (.core n) (fun c => { c with run := .failover }) { flushAll n false s with ras := { (flushAll n false s).ras with fail := mIns s.ras.fail n f } })

/-- Replace the failover of a core. -/
def putFail (n : Nat) (f : Failover) (s : State) : State := { s with ras := { s.ras with fail := mIns s.ras.fail n f } }

/-- Step 3: once the tracked accesses have ended and the stores and combining-buffer lines have drained, the checkpoint is saved. -/
def failSave (n : Nat) (f : Failover) (s : State) : State :=
  let c := coreOf s n
  if c.wait ≠ .none ∨ c.devSent ≠ 0 then s
  else
    let r := fenceAll (.core n) s
    if ¬ r.2 ∨ (coreOf r.1 n).devSent ≠ 0 then r.1
    else putFail n { f with step := 3 } { r.1 with ras := { r.1.ras with saves := mPut {} r.1.ras.saves n (saveCpu (coreOf r.1 n)) } }

/-- Step 4: the gate drains, and the caches are written back and invalidated. A request that was answered Retry would be discarded at the gate
when it is issued again (Table 16.8a). -/
def failDrain (n : Nat) (f : Failover) (s : State) : State :=
  let s := tileDrain f.old (setCoreGate f.old 1 { s with mshr := s.mshr.filter (fun m => !(decide (m.1 / 1024 = f.old) && m.2.retried.isSome && !isEvict m.2.opc)) })
  putFail n { f with step := 4 } { s with ras := { s.ras with drainAt := mPut 0 s.ras.drainAt f.old (s.stamp + 1) } }

/-- Step 5: once nothing of the tile is left the gate is closed and the tile retired; shadow entries are freed. -/
def failClose (n : Nat) (f : Failover) (s : State) : State :=
  if ¬ tileDrained s f.old then tileDrain f.old s
  else
    let s := { s with ras := { s.ras with drainAt := mDel s.ras.drainAt f.old }, tiles := mPut {} s.tiles f.old {} }
    putFail n { f with step := 5 } (setCoreGate f.old 2 (setTile f.old 2 s))

/-- Step 2: the next spare is chosen and tested; one that fails its self-test is retired behind its closed gate (01 R35, 16 R452). -/
def failSpare (n : Nat) (f g : Failover) (ok : Bool) (s : State) : State :=
  match pickSpare s f.old with
  | none => coreLost n 1 (coreOf s n).pc.toNat s
  | some t => if ok then putFail n { g with spare := some t } s else setCoreGate t 2 (setTile t 2 s)

/-- Steps 6 and 7: the spare is loaded from the save slot, the map names it, held interrupts are delivered and the core starts with the
machine check of its CORE_FAILOVER record pending. In an enclosure reset the core takes the reset values instead, no machine check pending
(16 R453, log 38). -/
def failLoad (n : Nat) (f : Failover) (t : Nat) (s : State) : State :=
  let x := mGet {} s.ras.saves n
  let s := modCpu (.core n) (fun c => if f.reset then { resetCpu c with run := .gated } else { loadCpu x c with run := .running }) s
  let s := setObj 0x5030 n (BitVec.ofNat 64 t) { s with ras := { s.ras with fail := mDel s.ras.fail n } }
  let s := setTile t 0 s
  let s := recordsArrive (noteMove n t 0x0102 1 (f.old + t * 256 + f.trigger * 2 ^ 16) (s.stamp - f.at_) s)
  if f.reset then
    let s := modCpu (.core n) (fun c => { c with mcheck := [] }) s
    if bootCore s (enclOfCore s n) = some n then bootEncl (enclOfCore s n) s else s
  else deliver n false (deliver n true s)

/-- Another failover that has no spare yet comes first: spares are chosen in the order of the step-1 stamps, then of the tiles (16 R453). -/
def outranked (s : State) (n : Nat) (f : Failover) : Bool :=
  s.ras.fail.any (fun x => decide (x.1 ≠ n ∧ x.2.step = 1) && (decide (x.2.at_ < f.at_) || decide (x.2.at_ = f.at_ ∧ x.2.old < f.old)))

/-- CORE_FAILOVER: a core whose rate of retries calls for it starts its failover; a failover under way takes its next step. `ok` is the
self-test's result in step 2 and the save slot read's in step 6; a spare that was retired since it was chosen gives way to the next (01 R37). -/
def failover (n : Nat) (ok : Bool) (s : State) : State :=
  match mFind s.ras.fail n with
  | none =>
    let c := coreOf s n
    if 64 ≤ c.hourRetries ∧ c.hourWin = s.stamp / hourTicks + 1 then startFailover n 1 s else s
  | some f =>
    if f.step = 1 then (if outranked s n f then s else failSpare n f { f with step := 2 } ok s)
    else if f.step = 2 then failSave n f s
    else if f.step = 3 then failDrain n f s
    else if f.step = 4 then failClose n f s
    else match f.spare.filter (fun t => decide (fld (obj s 0x5020 t) 1 0 = 1)) with
      | some t => if ok then failLoad n f t s else coreLost n 0 0 s
      | none => failSpare n f f ok s

/-- A CORE gate that has not drained in 160,000 ticks (16 R457). -/
def drainTimeout (t : Nat) (s : State) : State :=
  match mFind s.ras.drainAt t with
  | some d => if coreGate s t = 1 ∧ d + 160000 ≤ s.stamp + 1 then closeDead t s else s
  | none => s

/-! ## Core checkers (16 R441-R445) -/

/-- A retry (16 R444, R445): every unretired instruction is discarded; a detection that would make a third retry starts core failover. -/
def retryCore (n row : Nat) (s : State) : State :=
  let c := coreOf s n
  if 2 ≤ c.retries then startFailover n 0 s
  else
    let s := flushAll n false s
    let s := bumpObj 0x5060 n 32 1 (countH (.core n) 0x3C 1 (modCpu (.core n) (fun c => { c with retries := c.retries + 1 }) s))
    noteCore n (tileOf s n) 0x0101 1 0 (row + 256 * (c.retries + 1)) c.pc.toNat s

/-- The words an array error poisons: the record names no array code for a structure of the core (log 19). -/
def coreUe (n count : Nat) (s : State) : State := noteCore n (tileOf s n) 0x0202 2 0 0 count s

/-- A dropped store (16 Table 16.4 row 7). -/
def storeDropped (n width pc : Nat) (s : State) : State := noteCore n (tileOf s n) 0x0106 3 0 width pc s

/-- Words of a line replaced by 0 tagged POIS. -/
def poisWords (ws : List Nat) (l : Line) : Line :=
  ws.foldl (fun l w => if 8 ≤ w then l else
    ⟨BitVec.ofNat 512 (l.data.toNat - (nbits l.data.toNat (64 * w + 63) (64 * w) <<< (64 * w))),
     BitVec.ofNat 32 (l.tags.toNat - (nbits l.tags.toNat (4 * w + 3) (4 * w) <<< (4 * w)) + (7 <<< (4 * w)))⟩) l

/-- A double error in an architectural register (16 Table 16.4 row 4). -/
def regPoisoned (n file : Nat) (r : Reg) (s : State) : State :=
  let s := modCpu (.core n) (fun c =>
    if file = 0 then setGpr r ⟨0, .pois⟩ c else if file = 1 then setFpr r 0 c else if file = 2 then setVpr r 0 c else { c with lk := ⟨0, .pois⟩ }) s
  noteCore n (tileOf s n) 0x0105 2 0 r.toNat 0 s

/-- A retired store's entry fails (16 Table 16.4 row 7): its word is stored POIS, or it is discarded. -/
def storeFails (n k : Nat) (data : Bool) (word : Nat) (s : State) : State :=
  match (coreOf s n).sb[k]? with
  | none => s
  | some e =>
    if data ∧ ¬ e.dev then
      let p : SbEntry := { e with pa := word / 8 * 8, bytes := List.replicate 8 0, tag := some .pois, dcz := false }
      coreUe n 1 (modCpu (.core n) (fun c => { c with sb := c.sb.take (k + 1) ++ [p] ++ c.sb.drop (k + 1) }) s)
    else storeDropped n e.bytes.length e.pc.toNat (modCpu (.core n) (fun c => { c with sb := c.sb.eraseIdx k }) s)

/-- A combining-buffer line fails (16 Table 16.4 row 7). -/
def combineFails (n line : Nat) (data : Bool) (word : Nat) (s : State) : State :=
  match (coreOf s n).nt.find? (fun l => decide (l.line = line)) with
  | none => s
  | some x =>
    if data then
      let w := word % 8
      let y : NtLine := { x with
        bytes := (List.range 8).foldl (fun m i => mIns m (8 * w + i) (0 : Byte)) x.bytes
        tags := mIns x.tags w .pois }
      coreUe n 1 (modCpu (.core n) (fun c => { c with nt := c.nt.map (fun l => if l.line = line then y else l) }) s)
    else storeDropped n x.bytes.length 0 (modCpu (.core n) (fun c => { c with nt := c.nt.filter (fun l => decide (l.line ≠ line)) }) s)

/-- A dirty L1D line fails in some words: they go to the L2 line as POIS (16 Table 16.4 row 6); a clean line is invalidated. -/
def l1dFails (n line : Nat) (words : List Nat) (s : State) : State :=
  let t := tileOf s n
  match l1dState s t line with
  | none => s
  | some false => retryCore n 6 (l1dDrop t line s)
  | some true =>
    let s := dropUnder1 line (l1dDrop t line s)
    coreUe n words.length (setLine line (poisWords words (getLine s line)) s)

/-- An entry of a predictor fails its parity: it is treated as a miss (16 Table 16.4 row 9). -/
def predictorFails (what i way : Nat) (c : Cpu) : Cpu :=
  if what = 0 then { c with pred := { c.pred with btb := putSet i { setOf c.pred.btb i with ways := mDel (setOf c.pred.btb i).ways way } c.pred.btb } }
  else if what = 1 then { c with pred := { c.pred with dir := mDel c.pred.dir i } }
  else if what = 2 then { c with pred := { c.pred with ind := mDel c.pred.ind i } }
  else if what = 3 then { c with rstack := c.rstack.take i }
  else { c with loadWait := c.loadWait.filter (fun k => k ≠ i) }

/-- CHECKER_ERROR on a powered core (16 Table 16.4). -/
def checker (n : Nat) (e : CheckErr) (s : State) : State :=
  let c := coreOf s n
  if 192 ≤ n ∨ ¬ (c.run = .running ∨ c.run = .wfi) then s
  else match e with
    | .retry row => retryCore n row s
    | .corrected _ => s
    | .predictor what i way => modCpu (.core n) (predictorFails what i way) s
    | .reg file r => if file = 0 ∧ r = 0 then s else regPoisoned n file r s
    | .l1i line => retryCore n 5 (l1iDrop (tileOf s n) line s)
    | .l1d line words => l1dFails n line words s
    | .store k data word => storeFails n k data word s
    | .combine line data word => combineFails n line data word s
    | .tlb va => retryCore n 8 (modCpu (.core n) (tlbRemove (fun x => inBlock x (vpnOf va))) s)
    | .wired slot => retryCore n 8 (modCpu (.core n) (fun c => { c with wired := mDel c.wired slot }) s)
    | .oneCopy => retryCore n 10 s
    | .bothCopies => coreLost n 0 0 s

/-- CORE_LOST: the checkpoint is lost, a failover finds no spare, or the tile is dead (16 R451, R457). -/
def coreLostBy (n reason : Nat) (s : State) : State :=
  if reason = 0 then coreLost n 0 0 s
  else if reason = 1 then
    match mFind s.ras.fail n with
    | some f => if f.step = 1 ∧ pickSpare s f.old = none then coreLost n 1 (coreOf s n).pc.toNat s else s
    | none => s
  else if reason = 2 ∧ n < 192 then closeDead (tileOf s n) s
  else s

/-! ## Meanings -/

/-- ERROR_RECORD (16 R437). -/
def execErrorRecord (k : Nat) (s : State) : Host.Outcome State Fault Refusal := .next (recordArrives k s)

/-- CHECKER_ERROR (16 R441). -/
def execCheckerError (n : Nat) (e : CheckErr) (s : State) : Host.Outcome State Fault Refusal := .next (checker n e s)

/-- CORE_FAILOVER (16 R448). -/
def execCoreFailover (n : Nat) (ok : Bool) (s : State) : Host.Outcome State Fault Refusal := .next (failover n ok s)

/-- CORE_LOST (16 R451). -/
def execCoreLost (n reason : Nat) (s : State) : Host.Outcome State Fault Refusal := .next (coreLostBy n reason s)

/-- TILE_HEARTBEAT_MISS: the eighth miss in a row (16 R457). -/
def execTileHeartbeatMiss (t : Nat) (s : State) : Host.Outcome State Fault Refusal := .next (closeDead t s)

/-- DRAIN_TIMEOUT (16 R457). -/
def execDrainTimeout (t : Nat) (s : State) : Host.Outcome State Fault Refusal := .next (drainTimeout t s)

/-- ZOMBIE (16 R459). -/
def execZombie (t net_ : Nat) (s : State) : Host.Outcome State Fault Refusal := .next (zombie t net_ s)

/-- RAS_FORCE_CORE_FAILOVER (16 R466). -/
def execRasForceCoreFailover (n : Nat) (s : State) : Host.Outcome State Fault Refusal := .next (startFailover n 2 s)

/-- FLT_RING (16 R438). -/
def execFltRing (e : Nat) (v : Word) (s : State) : Host.Outcome State Fault Refusal := .next (writeFltRing e v s).2

/-- FLT_HEAD (16 R438). -/
def execFltHead (e : Nat) (v : Word) (s : State) : Host.Outcome State Fault Refusal := .next (writeFltHead e v s).2

end Sys2Proof.Machine
end

