-- ==== Sys2Proof/Machine/Slices.lean ====
section
/-! DEFINITION. Arrays outside the cores and LLC slice substitution (16 R446, R447, R460, R461). -/

namespace Sys2Proof.Machine
open Sys2Proof

/-! ## Slice substitution -/

/-- The routers that carry the eight spare slices, in the order of 01 R38. -/
def spareRouters : List Nat := [50, 51, 56, 57, 158, 159, 164, 165]

/-- The router of a spare slice. -/
def spareRouter (k : Nat) : Nat := spareRouters.getD k 0

/-- The distance of two tile numbers. -/
def tileApart (a b : Nat) : Nat := (a - b) + (b - a)

/-- The spare slice that takes a position (16 R460): the lowest of its own die, else of the die nearest by tile number (log 20). -/
def pickSlice (s : State) (p : Nat) : Option Nat :=
  let free := (List.range 8).filter (fun k => !s.ras.spareUsed.contains k)
  match free.find? (fun k => decide (dieOfTile (spareRouter k) = dieOfTile p)) with
  | some k => some k
  | none => free.foldl (fun (b : Option Nat) k =>
    match b with
    | none => some k
    | some j => if tileApart (spareRouter k) p < tileApart (spareRouter j) p then some k else some j) none

/-- A position becomes due for substitution. -/
def substDue (p : Nat) (s : State) : State :=
  if 216 ≤ p ∨ s.ras.subst.contains p ∨ (sliceAt s p).moving then s else { s with ras := { s.ras with subst := s.ras.subst ++ [p] } }

/-- The RAS controller starts the substitution of a position that is due (16 R460): the route change of 10 R266, held while another
change drains (10 R267). -/
def substitute (p : Nat) (s : State) : State :=
  if ¬ s.ras.subst.contains p ∨ s.mesh.movingPos.isSome ∨ s.mesh.draining ∨ s.mesh.switchAt.isSome then s
  else match pickSlice s p with
    | none => s
    | some k =>
      let s := routeSwitch (s.stamp + 64) (routeWrite [(p, spareRouter k + 512)] s)
      let s := modSlice p (fun x => { x with moving := true }) s
      { s with
        mesh := { s.mesh with movingPos := some (p, k) }
        ras := { s.ras with subst := s.ras.subst.erase p, spareUsed := s.ras.spareUsed ++ [k] } }

/-- What the transfer leaves of a position's LLC (16 R461): locked entries whole; unlocked ones are written back and dropped. -/
def llcTransfer (p : Nat) (s : State) : State :=
  let free := (sliceAt s p).llc.flatMap (fun q => q.2.ways.filterMap (fun e => if e.2.lock then none else some e.2))
  let s := free.foldl (fun s e => entryWriteBack e s) s
  modSlice p (fun x => { x with llc := x.llc.map (fun q => (q.1, { q.2 with ways := q.2.ways.filter (fun e => e.2.lock) })) }) s

/-- A position in transfer whose old slice has nothing left to complete, and whose old epoch has drained (10 R268). -/
def transferReady (s : State) (p : Nat) : Bool := !(s.mesh.switchAt.isSome || s.mesh.draining || !(sliceAt s p).txns.isEmpty)

/-- The state of a position that a route change moves between slices in service has arrived: the new slice answers (10 R268). -/
def movedDone (p : Nat) (s : State) : State :=
  if 216 ≤ p ∨ (sliceAt s p).moving = false ∨ transferReady s p = false then s
  else
    let s := modSlice p (fun x => { x with moving := false }) (llcTransfer p s)
    let t := sliceTarget s p
    setObj 0x5050 p (BitVec.ofNat 64 (if t = p then p else 2 ^ 15 + t)) s

/-- The state of the position in transfer has arrived: the old slice's gate closes and the substitution table names the new slice (16 R461). -/
def transferDone (p : Nat) (s : State) : State :=
  match s.mesh.movingPos with
  | none => movedDone p s
  | some (q, k) =>
    if q ≠ p then movedDone p s
    else if transferReady s p = false then s
    else
      let s := modSlice p (fun x => { x with moving := false }) (llcTransfer p s)
      let s := { s with mesh := { s.mesh with movingPos := none } }
      let s := setObjFld 0x5020 p 7 7 1 (setObjFld 0x5020 p 5 4 2 s)
      let s := setObj 0x5050 p (BitVec.ofNat 64 (2 ^ 15 + 2 ^ 9 + spareRouter k)) s
      noteDev 365 0x0403 1 p (spareRouter k + 512) s

/-! ## Array errors (16 R446, Table 16.5) -/

/-- DETAIL0 of an array record (16 Table 16.2): the array code and an index, set × 16 + way for the arrays of sets (log 21). -/
def arrayWord (code set way : Nat) : Nat := code + 256 * (if code ≤ 6 then set * 16 + way else set)

/-- The recording unit of an array. -/
def arrayUnit (s : State) (code unit : Nat) : Nat :=
  if code = 1 ∨ code = 2 then unit
  else if code ≤ 5 then sliceTarget s unit % 512
  else if code = 6 then 256 + unit else if code = 7 then 361 else if code = 8 then 272 + unit else unit

/-- The enclosure an array's record concerns: the one whose core stands on the tile, the line's owner, or none. -/
def arrayEncl (s : State) (code unit line : Nat) : Nat :=
  if code = 1 ∨ code = 2 then match hartOf s unit with | some (.core n) => enclOfCore s n | _ => 0x10
  else if code = 3 ∨ code = 6 then lineEncl s line
  else 0x10

/-- The enclosures whose work a failing array's unit carries (12 R310): those of an engine's operations or descriptors. -/
def arrayRings (s : State) (code unit : Nat) : List Nat :=
  if code = 8 then engineWork s unit else if code = 9 then ((jobsOf s unit).map jobEncl).eraseDups else []

/-- An array's record. -/
def noteArray (cls sev code unit set way line d1 : Nat) (rings : List Nat) (s : State) : State :=
  report { stamp := 0, useq := 0, unit := arrayUnit s code unit, cls := cls, sev := sev, encl := arrayEncl s code unit line,
           tile := (if code = 1 ∨ code = 2 then unit else 0xFF), addr := if code = 1 ∨ code = 3 ∨ code = 6 then 64 * line else 0,
           d0 := arrayWord code set way, d1 := d1, rings := rings } s

/-- A corrected error of a slice's tags or filter is counted in the hour: the sixteenth calls for substitution (16 R460). -/
def sliceCe (p : Nat) (s : State) : State :=
  let w := s.stamp / hourTicks + 1
  let n := (if mGet 0 s.ras.arrWin p = w then mGet 0 s.ras.arrCnt p else 0) + 1
  let s := { s with ras := { s.ras with arrCnt := mPut 0 s.ras.arrCnt p n, arrWin := mPut 0 s.ras.arrWin p w } }
  if 16 ≤ n then substDue p s else s

/-- Words of the copy of a line in an L2 or LLC become POIS: the copy beneath a dirtier one, or the line itself (log 22). -/
def copyFails (llc : Bool) (line : Nat) (ws : List Nat) (s : State) : State :=
  match (if llc then none else mFind s.mem.under1 line), (if llc then mFind s.mem.under2 line else none) with
  | some l, _ => { s with mem := { s.mem with under1 := mIns s.mem.under1 line (poisWords ws l) } }
  | none, some l => { s with mem := { s.mem with under2 := mIns s.mem.under2 line (poisWords ws l) } }
  | none, none => setLine line (poisWords ws (getLine s line)) s

/-- An L2 entry lost in both copies: its line is dropped, and with it what was dirty (16 R446). -/
def l2EntryLost (t set way : Nat) (s : State) : State :=
  match mFind (setOf (tileAt s t).l2 set).ways way with
  | none => s
  | some e =>
    let dirty := l2IsDirty s t e.line
    let old := homeCopy s e.line
    let s := tileDrop t e.line s
    if dirty then setLine e.line old (dropUnder1 e.line (dropUnder2 e.line s)) else s

/-- An LLC entry lost in both copies is dropped (16 R446). -/
def llcEntryLost (p set way : Nat) (s : State) : State :=
  match mFind (setOf (sliceAt s p).llc set).ways way with
  | none => s
  | some e =>
    let s := (List.range 4).foldl (fun s i => if flag e.dirty i then llcDiscard (4 * e.block + i) s else s) s
    modSlice p (fun x => { x with llc := putSet set { setOf x.llc set with ways := mDel (setOf x.llc set).ways way } x.llc }) s

/-- A filter entry lost in both copies: it is rebuilt on its line's next request (16 R447). -/
def sfEntryLost (p set way : Nat) (s : State) : State :=
  modSlice p (fun x =>
    let q := setOf x.sf set
    match mFind q.ways way with
    | some e => { x with sf := putSet set { q with ways := mIns q.ways way { e with lost := true } } x.sf }
    | none => x) s

/-- An uncorrectable word of Juniper at a 64-bit word index (16 Table 16.5, 17 Table 17.10): a save slot in use loses its core, a log
record is marked lost. -/
def juniperFails (w : Nat) (s : State) : State :=
  let a := 8 * w
  if a < 768 * 1024 then
    let n := a / 4096
    if (coreOf s n).run = .cs3 ∨ (match mFind s.ras.fail n with | some f => decide (3 ≤ f.step) | none => false) = true then coreLost n 0 0 s else s
  else if a < 1280 * 1024 then { s with ras := { s.ras with logLost := s.ras.logLost ++ [(a - 768 * 1024) / 64] } }
  else if a < 3328 * 1024 then { s with ras := { s.ras with logLost := s.ras.logLost ++ [8192 + (a - 1280 * 1024) / 32] } }
  else s

/-- A buffer check of a Laurel or Holly engine fails on its oldest descriptor: a second failure on one descriptor fails the engine (16 R464). -/
def bufferFails (unit : Nat) (s : State) : State :=
  match jobsOf s unit with
  | [] => s
  | j :: _ =>
    if j.checked then accelFail unit 3 s
    else { s with accel := { s.accel with jobs := s.accel.jobs.map (fun x => if x = j then { x with checked := true } else x) } }

/-- An uncorrectable error of an array (16 Table 16.5). For code 9, way 1 names the key store and `set` its slot. -/
def arrayUe (code unit set way line : Nat) (words : List Nat) (s : State) : State :=
  let all := List.range 16
  let ue (n : Nat) (s : State) : State := noteArray 0x0202 2 code unit set way line n (arrayRings s code unit) s
  if code = 1 then ue words.length (copyFails false line words s)
  else if code = 2 then l2EntryLost unit set way (noteArray 0x0203 4 code unit set way line 0 all s)
  else if code = 3 then ue words.length (copyFails true line words s)
  else if code = 4 then substDue unit (llcEntryLost unit set way (noteArray 0x0203 4 code unit set way line 0 all s))
  else if code = 5 then substDue unit (sfEntryLost unit set way (noteArray 0x0203 4 code unit set way line 0 all s))
  else if code = 6 then tagLinePoison unit line 0 s
  else if code = 7 then juniperFails set (ue 0 s)
  else if code = 8 then stopEngine unit 0x01 (ue 0 s)
  else if code = 9 then
    (if way = 1 then (if (mFind s.accel.keys set).isSome then freeKey set (ue 0 s) else ue 0 s) else bufferFails unit (ue 0 s))
  else s

/-- Whether an array code and its unit exist (16 Table 16.5). -/
def arrayExists (s : State) (code unit : Nat) : Bool :=
  if code = 1 ∨ code = 2 ∨ code = 3 ∨ code = 4 ∨ code = 5 then decide (unit < 216)
  else if code = 6 then decide (unit < 16) else if code = 7 then true else if code = 8 then prvRuns s unit
  else decide (code = 9 ∧ 336 ≤ unit ∧ unit < 352)

/-- ARRAY_ERROR (16 R446): corrected with a record, or handled by its row. -/
def arrayError (code unit set way line : Nat) (words : List Nat) (syn : Nat) (ue : Bool) (s : State) : State :=
  if ¬ arrayExists s code unit then s
  else if ue then arrayUe code unit set way line words s
  else
    let s := noteArray 0x0201 0 code unit set way line syn (arrayRings s code unit) s
    if code = 4 ∨ code = 5 then sliceCe unit s else s

/-! ## Meanings -/

/-- ARRAY_ERROR (16 R446). -/
def execArrayError (code unit set way line : Nat) (words : List Nat) (syn : Nat) (ue : Bool) (s : State) : Host.Outcome State Fault Refusal :=
  .next (arrayError code unit set way line words syn ue s)

/-- SLICE_SUBSTITUTION (16 R460). -/
def execSliceSubstitution (p : Nat) (s : State) : Host.Outcome State Fault Refusal := .next (substitute p s)

/-- SLICE_TRANSFER_COMPLETE (16 R461). -/
def execSliceTransferComplete (p : Nat) (s : State) : Host.Outcome State Fault Refusal := .next (transferDone p s)

/-- RAS_FORCE_SLICE_SUBSTITUTION (16 R460, R466). -/
def execRasForceSliceSubstitution (p : Nat) (s : State) : Host.Outcome State Fault Refusal := .next (substDue p s)

/-- RAS_FORCE_ENGINE_FAILURE (16 R463, R464, R466). -/
def execRasForceEngineFailure (unit : Nat) (s : State) : Host.Outcome State Fault Refusal :=
  .next (if 272 ≤ unit ∧ unit < 336 then (if prvRuns s (unit - 272) then engineFail (unit - 272) 4 s else s) else accelFail unit 4 s)

end Sys2Proof.Machine
end

