-- ==== Sys2Proof/Machine/Wake.lean ====
section
/-! DEFINITION. Power events and wake sources (17 R480, R482, R486, Tables 17.11, 17.14). -/

namespace Sys2Proof.Machine
open Sys2Proof

/-- A POWER_EVENT record (17 Table 17.14); the power controller's records carry Juniper's unit number (log 28). -/
def powerEvent (code value : Nat) (s : State) : State :=
  noteDev 361 0x0901 (if 2 ≤ code ∧ code ≤ 6 then 4 else 1) code value s

/-- An attempt ends. -/
def tryEnd (key : Nat) (s : State) : State := { s with pwr := { s.pwr with tries := mDel s.pwr.tries key } }

/-- At D2 each transition is logged with its stamp; the spec gives the record no code (12 Table 12.15, log 31). -/
def noteD2 (target : Nat) (s : State) : State :=
  if fld (obj s 0x3000 2) 9 8 = 2 then let f := takeFree s
    powerEvent (f.1 % 2 ^ 64) target f.2
  else s

/-- A wake source (17 R479, R482, R486): it aborts the attempts under way and an entry committed in this tick, or ends a package state; the
first of an exit is recorded, and of two in one tick the one with the lower unit number. On exit from PK6 the Privet firmware is loaded again. -/
def wake (src unit core : Nat) (s : State) : State :=
  let s := tryEnd 194 (tryEnd 196 (tryEnd 198 s))
  let from_ := objN s 0x2030 1
  let word (f : Nat) : Word := BitVec.ofNat 64 ((if src = 1 then core % 256 else 0xFF) * 2 ^ 24 + unit % 1024 * 2 ^ 12 + f * 2 ^ 8 + src % 256)
  if from_ ≠ 0 ∧ s.pwr.entered.isSome then setObj 0x2030 1 0 { s with pwr := { s.pwr with entered := none } }
  else if from_ ≠ 0 then
    let s := setObj 0x2030 1 0 (setObj 0x2040 1 (word from_) (setObj 0x2040 2 (BitVec.ofNat 64 s.stamp) s))
    let s := if from_ = 6 then (List.range 64).foldl (fun s n => if prvRuns s n then setCpu (.prv n) { run := .running } s else s) s else s
    noteD2 0 s
  else if objN s 0x2040 2 = s.stamp ∧ fld (obj s 0x2040 1) 11 8 ≠ 0 ∧ unit < fld (obj s 0x2040 1) 21 12 then setObj 0x2040 1 (word (fld (obj s 0x2040 1) 11 8)) s
  else s

/-- A frame at a channel port, or inbound PCIe traffic, wakes the package from PK4 before it is taken (17 R480). -/
def wakes (src unit : Nat) (s : State) : State := if objN s 0x2030 1 = 4 then wake src unit 0 s else s

/-- Whether an object is held by a unit that the package state has powered off (17 Table 17.7; log 110): in PK4 Privet, Laurel, Holly, the tiles
and the slices, in PK6 also the controllers, root complexes and links. -/
def heldOff (s : State) (idx : Nat) : Bool :=
  decide (4 ≤ objN s 0x2030 1 ∧ (0x4400 ≤ idx ∧ idx < 0x4500 ∧ idx ≠ 0x4402 ∧ idx ≠ 0x4403 ∨ 0x7000 ≤ idx ∧ idx < 0x9000)) ||
  decide (6 ≤ objN s 0x2030 1 ∧ (0x4000 ≤ idx ∧ idx < 0x4500 ∧ idx ≠ 0x4403 ∨ 0xC000 ≤ idx ∧ idx < 0xD000))

end Sys2Proof.Machine
end

