-- ==== Sys2Proof/Machine/Transport.lean ====
section
/-! DEFINITION. The commands of the channel subsystem and of its transport (13, 14): one meaning per row. -/

namespace Sys2Proof.Machine
open Sys2Proof

/-! ## Ports (14 R372-R376) -/

/-- The receive buffers that PORT_CFG gives the other ports of a port's die. -/
def otherBuffers (s : State) (p : Nat) : Nat :=
  (((List.range 72).map (fun i => 72 * (p / 72) + i)).filter (fun q => decide (q ≠ p))).foldl (fun a q => a + fld (obj s 0x7010 q) 11 6) 0

/-- Whether a value may be written to PORT_CFG of a port (14 R372, R374, R384, Table 14.2): else it is refused as a whole. -/
def portCfgOk (s : State) (p : Nat) (v : Word) : Bool :=
  let m := fld v 3 0
  let b := fld v 11 6
  decide (p < 144) && decide (m < 8) && (!bondMode m || decide (p % 4 = 0)) && decide (4 ≤ b) && decide (otherBuffers s p + b ≤ 1489)

/-- A bond group whose ports one enclosure does not own all (14 R374). -/
def bondBad (s : State) (p : Nat) : Bool :=
  bondMode (portMode s p) && !((List.range 4).all (fun i => decide (objN s 0x3300 (p + i) = objN s 0x3300 p)))

/-- A write to PORT_CFG that takes effect (14 R376); while a group is in a bond mode its other ports count as down. -/
def writePortCfg (p : Nat) (v : Word) (s : State) : State :=
  if ¬ portCfgOk s p v then s
  else
    let s := linkGone p (setObj 0x7010 p (v &&& 0x0FFFFFCF) s)
    let s := if bondMode (fld v 3 0) then [p + 1, p + 2, p + 3].foldl (fun s q => linkGone q s) s else s
    setObj 0x7020 p (setBit (setBit (obj s 0x7020 p) 10 false) 11 (bondBad s p)) s

/-- Whether a port's mode resolves to a speed (14 Table 14.1). -/
def speedOk (m speed : Nat) : Bool :=
  decide ((m = 1 ∧ (speed = 1 ∨ speed = 2)) ∨ ((m = 2 ∨ m = 3) ∧ speed = 2) ∨ (m = 4 ∧ speed = 1) ∨ (bondMode m = true ∧ speed = 3))

/-- Training or negotiation of a port's link ended at a speed, with or without the FEC of Table 14.1 (14 R373, R374). -/
def portComesUp (p speed : Nat) (fec : Bool) (s : State) : State :=
  let m := portMode s p
  let w := obj s 0x7020 p
  if 144 ≤ p ∨ flag w 8 ∨ objN s 0x3300 p = 0xFF ∨ ¬ speedOk m speed ∨ (p % 4 ≠ 0 ∧ bondMode (portMode s (p / 4 * 4))) then s
  else if bondBad s p then setObj 0x7020 p (setBit w 11 true) s
  else if ¬ fec then (if speed = 1 then s else setObj 0x7020 p (setBit w 10 true) s)
  else
    modPort p (fun _ => { rxbuf := fld (obj s 0x7010 p) 11 6 })
      (setObj 0x7020 p (setFld (setBit (setBit w 10 (flag w 10 && decide (speed = 1))) 8 true) 3 0 speed) s)

/-! ## Session timers and frames (14 R379-R387) -/

/-- QCT_RTO has passed for what a session waits for (14 R379, R383, R387). -/
def retransmit (port node : Nat) (s : State) : State :=
  let k := skey port node
  let q := sessAt s k
  match q.st with
  | .opening =>
    if s.stamp < q.sentAt then s
    else if 1 + qctMax s ≤ q.sends then sessFail port node s
    else
      let s := modSess k (fun q => { q with sends := q.sends + 1, sentAt := s.stamp + qctRto s }) s
      transmit port node { ty := 1, seq := q.txSeq, opid := s.runId } 0 s
  | .open =>
    match q.unacked with
    | f :: _ =>
      if s.stamp < f.at_ then s else if 1 + qctMax s ≤ f.n then sessFail port node s else goBack port node s
    | [] =>
      if q.probing then
        (if s.stamp < q.sentAt then s
         else if 1 + qctMax s ≤ q.sends then sessFail port node s
         else sendPlain port node 0xA (modSess k (fun q => { q with sends := q.sends + 1, sentAt := s.stamp + qctRto s }) s))
      else if (wants q false ∨ wants q true) ∧ q.usedAt + qctRto s ≤ s.stamp then sendPlain port node 8 s
      else s
  | _ => s

/-- Nothing has been received for QCT_KEEPALIVE ticks (14 Table 14.7). -/
def keepalive (port node : Nat) (s : State) : State :=
  let k := skey port node
  let q := sessAt s k
  if q.st = .open ∧ ¬ q.probing ∧ q.heardAt ≤ s.stamp then
    sendPlain port node 0xA (modSess k (fun q => { q with probing := true, sends := 1, sentAt := s.stamp + qctRto s }) s)
  else s

/-- 1,600 ticks have passed since a frame was accepted and not acknowledged (14 R382). -/
def ackTimer (port node : Nat) (s : State) : State :=
  let q := sessAt s (skey port node)
  if q.st = .open ∧ q.toAck ≠ 0 ∧ q.toAckAt + 1600 ≤ s.stamp then sendPlain port node 8 s else s

/-- OPEN_ACK (14 Table 14.7). -/
def openAck (port : Nat) (f : QctFrame) (s : State) : State :=
  let s := wakes 3 (384 + port) s
  let k := skey port f.src
  match frameCheck s port f with
  | some _ => discard port f s
  | none =>
    let s := bwAdd 0x9300 port ((if f.vid.isSome then 86 else 82) + f.payload.length) s
    if (sessAt s k).st = .opening then
      sendAll port f.src (modSess k (fun q => { q with
        st := .open
        mac := f.smac
        rxSeq := f.seq
        crC := f.crlimC
        crD := f.crlimD
        wantC := f.wantC
        wantD := f.wantD
        heardAt := s.stamp + qctKeep s
        usedAt := s.stamp }) s)
    else modSess k (fun q => { q with heardAt := s.stamp + qctKeep s, probing := false }) s

/-- A received frame of a TYPE, which wakes the package from PK4 (17 R480): what the header carries, then what the TYPE does; a frame that a check discards is counted. -/
def frameIn (port : Nat) (f : QctFrame) (act : State → State) (s : State) : State :=
  let s := wakes 3 (384 + port) s
  match receive port f s with
  | none => discard port f s
  | some s => act s

/-- A sequenced frame: its buffer and SEQ, the grants that released buffers allow, then what it does when it is accepted. -/
def sequencedIn (port : Nat) (f : QctFrame) (act : State → State) (s : State) : State :=
  frameIn port f (fun s => match takeSequenced port f s with
    | (.accepted, s) => act (grantPort port s)
    | (.dropped, s) => grantPort port s) s

/-- The oldest received frame of a port is processed and its buffer freed (14 R385, R386). -/
def bufferFree (port : Nat) (s : State) : State := grantPort port (modPort port (fun p => { p with used := p.used.tail }) s)

/-- A write to QCT_NODE or QCT_ETHERTYPE (14 R380, R396). -/
def writeQctNode (sub : Nat) (v : Word) (s : State) : State :=
  let n := v.toNat
  if (sub = 1 ∧ n < 2 ^ 32) ∨ (sub = 2 ∧ 0x600 ≤ n ∧ n < 2 ^ 16) then
    (setObj 0x7000 sub v s).sess.foldl (fun s q => sessFail (q.1 / 2 ^ 32) (q.1 % 2 ^ 32) s) (setObj 0x7000 sub v s)
  else s

/-- The ENDs that wait for a session to a node are sent on it (14 R394). -/
def endSend (port node : Nat) (s : State) : State :=
  if (sessAt s (skey port node)).st = .open then
    let due := s.ends.filter (fun e => decide (e.2 = node))
    let s := { s with ends := s.ends.filter (fun e => decide (e.2 ≠ node)) }
    due.foldl (fun s e => queueFrame port node { ty := 7, opid := e.1 } s) s
  else s

/-! ## Meanings: 13 -/

/-- JOURNAL_RECORD_FREE (13 R336): an ENDED record becomes FREE and waiting queues go on. -/
def execJournalRecordFree (opid : Nat) (s : State) : Host.Outcome State Fault Refusal :=
  .next (readWaiting { s with journal := s.journal.filter (fun r => !decide (r.opid = opid ∧ r.st = .ended)) })

/-- COALESCE_TIMEOUT (13 R340). -/
def execCoalesceTimeout (kind e slot : Nat) (s : State) : Host.Outcome State Fault Refusal := .next (coalesceTimeout (qkeyOf kind e slot) s)

/-- START (13 R355, R362). -/
def execStart (subch : Nat) (s : State) : Host.Outcome State Fault Refusal := .next (takeWork subch 0x11 (fun w s => opStart w (settled subch s)) s)

/-- RESUME (13 R355). -/
def execResume (subch : Nat) (s : State) : Host.Outcome State Fault Refusal := .next (takeWork subch 0x12 opResume s)

/-- HALT (13 R356). -/
def execHalt (subch : Nat) (s : State) : Host.Outcome State Fault Refusal := .next (takeWork subch 0x21 opHalt s)

/-- CLEAR (13 R355, R347). -/
def execClear (subch : Nat) (s : State) : Host.Outcome State Fault Refusal := .next (takeWork subch 0x22 opClear s)

/-- TEST (13 R355, Table 13.8). -/
def execTest (subch : Nat) (s : State) : Host.Outcome State Fault Refusal := .next (takeWork subch 0x31 opTest s)

/-- COMMAND_SEND (14 R390, 13 R351-R354). -/
def execCommandSend (opid : Nat) (s : State) : Host.Outcome State Fault Refusal := .next (commandSend opid s)

/-- RESPONSE_TIMER_EXPIRY (13 R369, R350). -/
def execResponseTimerExpiry (opid : Nat) (s : State) : Host.Outcome State Fault Refusal :=
  .next (match (recOf s opid).bind (fun r => r.cmd.bind (·.timer)) with
    | some t => if t ≤ s.stamp then pathFail opid s else s
    | none => s)

/-- OPERATION_DEADLINE (13 R357, R369). -/
def execOperationDeadline (opid : Nat) (s : State) : Host.Outcome State Fault Refusal :=
  .next (match recOf s opid with
    | some r => if r.st = .active ∧ r.fin.isNone ∧ r.deadline ≤ s.stamp then endCancel opid 0x05 s else s
    | none => s)

/-- PATH_FAILURE (13 R350): the current path's link is down or its far endpoint unreachable. -/
def execPathFailure (opid : Nat) (s : State) : Host.Outcome State Fault Refusal :=
  .next (match recOf s opid with
    | some r =>
      if ¬ r.failed.testBit r.path ∧ (¬ portLink s (recPort s r) ∨ (sessAt s (skey (recPort s r) (recNode s r))).st = .failed) then pathFail opid s else s
    | none => s)

/-- PATH_RECOVER (13 R350). -/
def execPathRecover (subch path : Nat) (s : State) : Host.Outcome State Fault Refusal :=
  .next (if mGet 0 (subAt s subch).failedAt path ≤ s.stamp then modSub subch (fun b => { b with failedAt := mPut 0 b.failedAt path 0 }) s else s)

/-- ENGINE_HEARTBEAT_MISS (13 R361, 16 R463): the eighth consecutive miss. -/
def execEngineHeartbeatMiss (n : Nat) (s : State) : Host.Outcome State Fault Refusal := .next (if prvRuns s n then engineFail n 1 s else s)

/-- ENGINE_TAKEOVER (13 R365). -/
def execEngineTakeover (n : Nat) (s : State) : Host.Outcome State Fault Refusal := .next (takeAll n s)

/-- ENDING_SWAP (13 R363). -/
def execEndingSwap (opid : Nat) (s : State) : Host.Outcome State Fault Refusal := .next (swapEnding opid s)

/-- CANCEL_COMPLETE (14 R393): the cancel's timer has expired; an answer and a failed session complete it where they arrive. -/
def execCancelComplete (opid : Nat) (s : State) : Host.Outcome State Fault Refusal :=
  .next (match (recOf s opid).bind (·.cancel) with
    | some c => if c.deadline ≤ s.stamp then cancelDone opid s else s
    | none => s)

/-! ## Meanings: 14 -/

/-- PORT_CFG (14 R376). -/
def execPortCfg (port : Nat) (v : Word) (s : State) : Host.Outcome State Fault Refusal := .next (writePortCfg port v s)

/-- LINK_UP (14 R373). -/
def execLinkUp (port speed : Nat) (fec : Bool) (s : State) : Host.Outcome State Fault Refusal := .next (portComesUp port speed fec s)

/-- LINK_DOWN (14 R376). -/
def execLinkDown (port : Nat) (s : State) : Host.Outcome State Fault Refusal :=
  .next (if flag (obj s 0x7020 port) 8 then linkGone port s else s)

/-- FRAME_DISCARD (14 R378). -/
def execFrameDiscard (port : Nat) (f : QctFrame) (s : State) : Host.Outcome State Fault Refusal := .next (discard port f s)

/-- OPEN_ACK (14 R379). -/
def execOpenAck (port : Nat) (f : QctFrame) (s : State) : Host.Outcome State Fault Refusal := .next (openAck port { f with ty := 2 } s)

/-- DATA (14 R391). -/
def execData (port : Nat) (f : QctFrame) (s : State) : Host.Outcome State Fault Refusal :=
  .next (sequencedIn port { f with ty := 4 } (dataArrives port { f with ty := 4 }) s)

/-- RSP (14 R391). -/
def execRsp (port : Nat) (f : QctFrame) (s : State) : Host.Outcome State Fault Refusal :=
  .next (sequencedIn port { f with ty := 5 } (rspArrives port { f with ty := 5 }) s)

/-- ACKF (14 R382). -/
def execAckf (port : Nat) (f : QctFrame) (s : State) : Host.Outcome State Fault Refusal := .next (frameIn port { f with ty := 8 } id s)

/-- NAK (14 R383). -/
def execNak (port : Nat) (f : QctFrame) (s : State) : Host.Outcome State Fault Refusal :=
  .next (frameIn port { f with ty := 9 } (goBack port f.src) s)

/-- CLOSE (14 R379). -/
def execClose (port : Nat) (f : QctFrame) (s : State) : Host.Outcome State Fault Refusal :=
  .next (frameIn port { f with ty := 0xB } (sessFail port f.src) s)

/-- RETRANSMISSION_TIMEOUT (14 R383, R379). -/
def execRetransmissionTimeout (port node : Nat) (s : State) : Host.Outcome State Fault Refusal := .next (retransmit port node s)

/-- KEEPALIVE_EXPIRY (14 R379). -/
def execKeepaliveExpiry (port node : Nat) (s : State) : Host.Outcome State Fault Refusal := .next (keepalive port node s)

/-- ACK_TIMER (14 R382). -/
def execAckTimer (port node : Nat) (s : State) : Host.Outcome State Fault Refusal := .next (ackTimer port node s)

/-- RECEIVE_BUFFER_FREE (14 R385). -/
def execReceiveBufferFree (port : Nat) (s : State) : Host.Outcome State Fault Refusal := .next (bufferFree port s)

/-- QCT_NODE_WRITE (14 R380). -/
def execQctNodeWrite (sub : Nat) (v : Word) (s : State) : Host.Outcome State Fault Refusal := .next (writeQctNode sub v s)

/-- END_SEND (14 R394). -/
def execEndSend (port node : Nat) (s : State) : Host.Outcome State Fault Refusal := .next (endSend port node s)

end Sys2Proof.Machine
end

