-- ==== Sys2Proof/Machine/Encl.lean ====
section
/-! DEFINITION. Enclosures and trust (12): enclosure reset, attestation, debug sessions, and a mesh link beyond repair (16 R462). -/

namespace Sys2Proof.Machine
open Sys2Proof

/-! ## Steps 1 to 4 of an enclosure reset (12 Table 12.8) -/

/-- Every register of an enclosure's interrupt-controller window takes its reset value; interrupts addressed to it are discarded and
counted (12 Table 12.8 step 1, 21 R551). -/
def intReset (e : Nat) (s : State) : State :=
  let pend := (s.src.filter (fun p => decide (p.1 / 1024 = e) && flag p.2 62)).length
  let cs := coresOf s e
  let mine (k : Nat) : Bool := cs.contains k
  { s with
    src := s.src.filter (fun p => decide (p.1 / 1024 ≠ e))
    ithresh := s.ithresh.filter (fun p => !mine p.1)
    ilocal := s.ilocal.filter (fun p => !mine p.1)
    timecmp := s.timecmp.filter (fun p => !mine p.1)
    linsvc := s.linsvc.filter (fun p => !mine (p.1 / 2))
    localPend := s.localPend.filter (fun p => !mine (p.1 / 2))
    sroot := s.sroot.filter (fun p => decide (p.1 / 32 ≠ e))
    sctl := s.sctl.filter (fun p => decide (p.1 / 32 ≠ e))
    yew := { s.yew with discarded := mPut 0 s.yew.discarded e (mGet 0 s.yew.discarded e + pend) } }

/-- A core of the enclosure stops (12 Table 12.8 step 2): a lost core stays lost, a failover runs on (16 R451, R453). -/
def stopCore (n : Nat) (s : State) : State :=
  match (coreOf s n).run with
  | .lost => modCpu (.core n) (fun c => { c with irqM := false, irqS := false }) s
  | .unpowered => s
  | .failover => match mFind s.ras.fail n with
    | some f => putFail n { f with reset := true } s
    | none => s
  | _ => modCpu (.core n) (fun c => { resetCpu c with run := .gated }) (flushAll n false s)

/-- The doorbell window of an enclosure at its reset values (13 R346); RESET_ENDED keeps its count. -/
def doorbellReset (e : Nat) (s : State) : State :=
  { s with
    queues := s.queues.filter (fun q => decide (qkEncl q.1 ≠ e))
    chn := mPut {} s.chn e { resetEnded := (chnOf s e).resetEnded }
    ioRoots := mDel s.ioRoots e
    ioAsids := mDel s.ioAsids e
    accel := { s.accel with jobs := s.accel.jobs.filter (fun j => decide (jobEncl j ≠ e)) } }

/-- A root complex's translation cache forgets an enclosure's streams. -/
def dropPeStreams (e : Nat) (s : State) : State :=
  (List.range 4).foldl (fun s k =>
    let t := ioTlbOf s (352 + k)
    setIoTlb (352 + k) { t with ents := psMap (fun x => decide (64 + 32 * e ≤ x.stream ∧ x.stream < 96 + 32 * e)) (fun _ => none) t.ents } s) s

/-- Function Level Reset of an enclosure's PCIe functions (12 Table 12.8 step 3). -/
def functionReset (e : Nat) (s : State) : State :=
  ((List.range 128).map (fun i => (i / 32, objN s 0x3500 i))).foldl (fun s p =>
    if p.2 ≠ 0xFFFF ∧ nbits p.2 15 12 = e then emit (.flr p.1 (p.2 % 4096)) s else s) s

/-- Steps 1 to 4 (12 Table 12.8): doorbells, interrupts, cores, channel operations, descriptors and functions end. -/
def closeEncl (e : Nat) (s : State) : State :=
  let s := (coresOf s e).foldl (fun s n => stopCore n s) (intReset e s)
  functionReset e (accelGoOn (doorbellReset e (channelReset e s)))

/-! ## Steps 5 to 9 -/

/-- Whether a line lies in an enclosure's granules of this socket. -/
def enclLine (s : State) (e line : Nat) : Bool :=
  decide (line / 2 ^ 42 = s.socket) && decide (granuleOwner s (line % 2 ^ 42 / 2 ^ 24) = e)

/-- Dirty sectors of every entry in the ways an enclosure owns are written back (08 R211). -/
def ownedWaysBack (e : Nat) (s : State) : State :=
  let es := s.slices.flatMap (fun p => p.2.llc.flatMap (fun q => (q.2.ways.filter (fun x => decide (wayOwner s p.1 x.1 = e) && !x.2.empty)).map (·.2)))
  es.foldl (fun s x => entryWriteBack x s) s

/-- What a reset leaves of a tile: the evictions and reads under way, whose answers come. -/
def tileReset (x : Tile) : Tile := { wb := x.wb, shadow := x.shadow.filter (·.dead), oid := x.oid }

/-- Step 5: dirty sectors of the enclosure's own ways are written back (08 R211); every other copy goes without write-back. -/
def enclCaches (e : Nat) (s : State) : State :=
  let s := ownedWaysBack e s
  let dirty := (((s.mem.under1.map (·.1)) ++ (s.mem.under2.map (·.1)) ++ (s.mem.under3.map (·.1))).filter (fun l => enclLine s e l)).eraseDups
  let s := dirty.foldl (fun s l => let v := dramCopy s l
    setLine l v (dropUnder1 l (dropUnder2 l (dropUnder3 l s)))) s
  let s := ((coresOf s e).map (fun n => tileOf s n)).foldl (fun s t => modTile t tileReset s) s
  { s with
    slices := s.slices.map (fun p => (p.1, { p.2 with
      llc := p.2.llc.map (fun q => (q.1, { q.2 with
        ways := q.2.ways.filter (fun x => !(decide (wayOwner s p.1 x.1 = e)) && !(enclLine s e (4 * x.2.block))) }))
      sf := p.2.sf.map (fun q => (q.1, { q.2 with ways := q.2.ways.filter (fun x => !(enclLine s e x.2.line)) })) })) }

/-- The granules an enclosure owns on this socket, by number within the physical space. -/
def enclGranules (s : State) (e : Nat) : List Nat :=
  ((List.range (15 * s.dram.capGiB)).filter (fun g => decide (granuleOwner s g = e))).map (fun g => s.socket * 2 ^ 18 + g)

/-- Every Holly key slot of an enclosure is erased (12 Table 12.8 step 6). -/
def eraseKeys (e : Nat) (s : State) : State :=
  ((s.accel.keys.filter (fun k => decide (k.2.encl = e))).map (·.1)).foldl (fun s k => freeKey k s) s

/-- Step 6: a new memory key, the next handle generation, and no key slots (11 R298, 12 R317); its DRBG instances start again (15 R428). -/
def rekeyEncl (e : Nat) (s : State) : State :=
  let gs := enclGranules s e
  let s := eraseKeys e s
  { s with
    mem := { s.mem with keyGen := gs.foldl (fun m g => mPut 0 m g (mGet 0 m g + 1)) s.mem.keyGen }
    accel := { s.accel with
      gen := mPut 0 s.accel.gen e ((mGet 0 s.accel.gen e + 1) % 2 ^ 16)
      drbg := (List.range 8).foldl (fun m k => mPut {} m (32 * k + e) ⟨0, s.stamp⟩) s.accel.drbg } }

/-- Step 7: the tags of its granules are DATA. -/
def clearTags (e : Nat) (s : State) : State :=
  { s with mem := { s.mem with tags := s.mem.tags.filter (fun p => !(enclLine s e (p.1 / 8))) } }

/-- A BOOT_FAIL record: BOOT_STATUS with the failing check and enclosure in DETAIL0 (16 Table 16.2, log 23). -/
def noteBootFail (fail e : Nat) (s : State) : State :=
  noteNone 360 0x0801 4 (fld (setFld (setFld (obj s 0x3000 1) 31 24 fail) 23 16 e) 31 0) e s

/-- Yew measures an image as it copies it to ENTRY on the boot socket (12 R308): whether the enclosure may start. -/
def copyImage (e : Nat) (img : List Byte) (s : State) : Bool × State :=
  match recOfEncl s e with
  | none => (false, s)
  | some r =>
    if ¬ bootsHere s e then (true, s) else
    let digest := Config.standard "SHA-384" [img]
    let s := dmaStore (objN s 0x3010 e) img s
    let s := { s with yew := { s.yew with measured := mIns s.yew.measured e digest } }
    if digest = lrHash r 0x110 then (true, { s with yew := { s.yew with refused := s.yew.refused.filter (fun x => decide (x ≠ e)) } })
    else (false, noteBootFail 0x07 e { s with yew := { s.yew with refused := s.yew.refused.filter (fun x => decide (x ≠ e)) ++ [e] } })

/-- Objects of class ENCLOSURE, PMU_SNAP, mailboxes and debug marks of an enclosure take their reset values. -/
def enclObjects (e : Nat) (s : State) : State :=
  let s := setObj 0x5100 e 0 (setObj 0x5110 e 0 (setObj 0x5120 e 0 s))
  { s with
    ras := { s.ras with lostDue := mPut false s.ras.lostDue e false }
    pmuSnap := mPut 0x0180000000000000 s.pmuSnap e 0
    pmuSnapNext := mDel s.pmuSnapNext e
    sdp := { s.sdp with mbox := s.sdp.mbox.filter (fun m => decide (m.1 / 16 ≠ e)) }
    yew := { s.yew with d1Since := mPut false s.yew.d1Since e false, breaks := s.yew.breaks.filter (fun b => !(coresOf s e).contains b.1) } }

/-! ## Debug levels (12 R320-R323) -/

/-- PROT_STATE.DEBUG shows the level in force (12 Table 12.13). -/
def showDebug (s : State) : State :=
  let l := if s.yew.sess.any (fun x => decide (x.level = 2)) then 2 else if s.yew.sess ≠ [] then 1 else 0
  setObjFld 0x3000 2 9 8 l s

/-- A debug event's records (12 R323): 1 nonce, 2 token accepted, 3 token refused, 4 session end, 5 D2 entry. -/
def debugEvent (ev origin principal result e : Nat) (data : List Byte) (s : State) : State :=
  let s := clogAdd { stamp := s.stamp, sub := 16 + ev, origin := origin, principal := principal, result := result,
                     flags := if data = [] then 1 else 5, new := if data = [] then 0 else digest8 data } s
  report { stamp := 0, useq := 0, unit := 360, cls := 0x0803, sev := 0, encl := if e < 16 then e else 0x10, d0 := ev, d1 := e } s

/-- A session ends (12 R321). -/
def endSession (x : DbgSess) (origin principal : Nat) (s : State) : State :=
  if ¬ s.yew.sess.contains x then s
  else
    let s := showDebug { s with yew := { s.yew with sess := s.yew.sess.erase x } }
    debugEvent 4 origin principal 0 (if x.level = 1 then x.encl else 0xFF) [] s

/-- Every D1 session of an enclosure ends at its reset. -/
def endD1 (e : Nat) (s : State) : State :=
  (s.yew.sess.filter (fun x => decide (x.level = 1 ∧ x.encl = e))).foldl (fun s x => endSession x 3 0x11 s) s

/-! ## Enclosure reset (12 R311, R312) -/

/-- An enclosure that the accepted layout names, on a module that runs. -/
def enclKnown (s : State) (e : Nat) : Bool := decide (e < 16) && decide (s.phase = .running) && (recOfEncl s e).isSome

/-- An enclosure reset (12 Table 12.8); `img` is what the flash holds of its image. Without a key it stops after step 5 (15 R431). -/
def enclReset (e : Nat) (img : List Byte) (s : State) : State :=
  if ¬ enclKnown s e ∨ s.yew.held.contains e ∨ s.yew.stopped then s
  else
    let s := enclCaches e (closeEncl e { s with yew := { s.yew with resetAt := mIns s.yew.resetAt e s.stamp } })
    let s := dropPeStreams e (dropPrivetStream e (endD1 e (enclObjects e s)))
    let d := draw 344 16 32 false s
    match d.1 with
    | none =>
      let s := d.2
      let s := { s with
        mem := { s.mem with noKey := (enclGranules s e).foldl (fun m g => mPut false m g true) s.mem.noKey }
        yew := { s.yew with held := s.yew.held ++ [e] } }
      noteBootFail 0x85 e s
    | some _ =>
      let s := clearTags e (rekeyEncl e d.2)
      bootEncl e (copyImage e img s).2

/-! ## Attestation (12 R318, R319) -/

/-- The report and the chain after it (12 Table 12.12). -/
def attestReport (s : State) (e : Nat) (nonce : List Byte) : List Byte :=
  let body := nonce ++ leBytes 8 s.stamp ++ leBytes 1 s.socket ++ leBytes 1 e ++ leBytes 1 s.yew.lifecycle ++
    leBytes 1 ((mGet false s.yew.d1Since e).toNat + 2 * (fld (obj s 0x3000 2) 7 7)) ++ leBytes 4 (fld (obj s 0x0020 1) 63 32) ++
    mGet [] s.octets (okey 0x0020 3) ++ mGet [] s.octets (okey 0x0020 4) ++
    Config.standard "SHA-384" [(recOfEncl s e).getD []] ++ (mFind s.yew.measured e).getD (stdN "measured image of an enclosure that boots on another socket" [leBytes 1 e] 48) ++
    leBytes 2 (mGet 0 s.accel.gen e) ++ List.replicate 14 0
  let key := [(recOfEncl s e).getD [], mGet [] s.yew.measured e]
  body ++ stdN "ML-DSA-87 sign, enclosure attestation key" (key ++ [body]) 4627 ++ stdN "ECDSA P-384 sign, enclosure attestation key" (key ++ [body]) 96 ++
    Config.document "certificate chain"

/-- Every granule of a span is memory of an enclosure. -/
def spanMem (s : State) (e pa len : Nat) : Bool :=
  (List.range ((pa % 2 ^ 30 + len + 2 ^ 30 - 1) / 2 ^ 30)).all (fun k => decide (placeOf s e ((pa / 2 ^ 30 + k) * 2 ^ 30) = .mem))

/-- ATTEST_REQ (12 R318): refused with status D2 (0x0F) at D2 and in RMA (R324); otherwise the report is written. -/
def attest (e : Nat) (nonce : List Byte) (addr : Nat) (s : State) : Nat × State :=
  if fld (obj s 0x3000 2) 9 8 = 2 ∨ s.yew.lifecycle = 3 then (0x0F, s)
  else if ¬ enclKnown s e ∨ nonce.length ≠ 32 then (0x07, s)
  else
    let bs := attestReport s e nonce
    if spanMem s e addr bs.length then (0, dmaStore addr bs s)
    else (0x07, s)

/-! ## Stops of the whole socket -/

/-- Every enclosure stops as steps 1 to 4 of 12 Table 12.8; none starts again before module reset (12 R322, 16 R462). -/
def stopAll (s : State) : State :=
  let es := (List.range 16).filter (fun e => (recOfEncl s e).isSome)
  { es.foldl (fun s e => closeEncl e s) s with yew := { (es.foldl (fun s e => closeEncl e s) s).yew with stopped := true } }

/-- Entry to D2 (12 R322): every enclosure stops, every key is erased, memory is written with zero under a fresh device key; with no key to
be had, memory reads 0 tagged POIS (15 R431). -/
def enterD2 (s : State) : State :=
  let s := stopAll { s with yew := { s.yew with d2At := some s.stamp } }
  let s := { s with accel := { s.accel with keys := [] } }
  let d := draw 344 16 32 false s
  let s := d.2
  let s := match d.1 with
    | some _ => { s with
        mem := { loc := s.mem.loc, locTags := s.mem.locTags }
        tiles := []
        slices := [] }
    | none => { s with mem := { s.mem with noKeys := true } }
  setObjFld 0x3000 2 7 7 1 s

/-- A count of MESH_LINK_ERR goes up, saturating (20 Table 20.7). -/
def linkErr (router hi lo : Nat) (s : State) : State :=
  setObjFld 0x9600 router hi lo (min (2 ^ 32 - 1) (fld (obj s 0x9600 router) hi lo + 1)) s

/-- The last flit of a network that a router's port received is sent again, which costs 2 mesh cycles (10 R237); a paused link delays it by 256
(16 R462). -/
def resend (router dir net cycles : Nat) (s : State) : State :=
  let mine (f : Flit) : Bool := decide (f.pos = some (router, dir)) && decide ((msgEnds f.msg).2.2 = net)
  let last := (s.net.zipIdx).foldl (fun a x => if mine x.1 then some x.2 else a) none
  match last with
  | some k => { s with net := (s.net.zipIdx).map (fun x => if x.2 = k then { x.1 with wait := x.1.wait + cycles } else x.1) }
  | none => s

/-- A link receives a flit with an uncorrectable error (10 R237): its sender, which holds the flit, sends it again; after three failed resends
the link is paused and the failing wire steered to a spare, and without a spare the socket stops (16 R462). -/
def flitBad (router dir net wire fails : Nat) (s : State) : State :=
  if 216 ≤ router then s
  else
    let k := router * 64 + dir * 8 + net
    if fails < 3 then
      resend router dir net 2 (linkErr router 31 0 { s with mesh := { s.mesh with resends := mPut 0 s.mesh.resends k (fails + 1) } })
    else
      let at_ := router + dir * 2 ^ 16 + net * 2 ^ 24 + wire * 2 ^ 32
      let used := mGet 0 s.mesh.wires k
      if used < 2 then
        resend router dir net 256 (noteDev 365 0x0401 1 at_ 0
          { s with mesh := { s.mesh with wires := mPut 0 s.mesh.wires k (used + 1), resends := mPut 0 s.mesh.resends k 0 } })
      else stopAll (noteDev 365 0x0402 4 at_ 0 s)

/-- A receiver finds an uncorrectable error in a flit of data past its last link: every word of it is POIS, and a record is written (10 R239,
log 109). -/
def flitPast (opc : Nat) (f : DatFlit) (s : State) : State :=
  if s.net.any (fun x => decide (x.msg = .dat opc f)) = false then s
  else
    report { stamp := 0, useq := 0, unit := f.dest, net := 3, cls := 0x0202, sev := 2, encl := 0x10, addr := 0, d0 := opc, d1 := 4,
             pktStamp := injected s f.lstamp f.wrap, inexact := f.wrap }
      { s with net := s.net.map (fun x => if x.msg = .dat opc f then { x with msg := .dat opc { f with data := 0, tags := 0x7777 } } else x) }

/-- What a link or a receiver finds in a flit (10 R237, R239). -/
def flitErr (router dir net fails : Nat) (x : FlitErr) (s : State) : State :=
  match x with
  | .corrected => if router < 216 then linkErr router 63 32 s else s
  | .uncorrectable wire => flitBad router dir net wire fails s
  | .past opc f => flitPast opc f s

/-! ## Actions at the debug port (12 Table 12.13) -/

/-- Whether an open session permits an action on a core or a physical address: D1 its enclosure alone, D2 any but Box. -/
def dbgCore (s : State) (n : Nat) : Bool :=
  decide (n < 192) && s.yew.sess.any (fun x => decide (x.level = 2) || decide (x.encl = enclOfCore s n ∧ enclOfCore s n < 16))
def dbgMem (s : State) (pa len : Nat) : Bool :=
  s.yew.sess.any (fun x => (decide (x.level = 2) && backed s pa && backed s (pa + len - 1)) || (decide (x.level = 1) && spanMem s x.encl pa len))

/-- A register of a core as the debug port reads it; a system register reads as MFS at M reads it. -/
def dbgRead (n file num : Nat) (s : State) : List Byte :=
  let c := coreOf s n
  let r : Reg := BitVec.ofNat 5 num
  if file = 0 then leBytes 8 (gpr c r).v.toNat ++ leBytes 1 (tagCode (gpr c r).t)
  else if file = 1 then leBytes 8 (fpr c r).toNat
  else if file = 2 then leBytes 32 (vpr c r).toNat
  else if file = 3 then leBytes 8 c.lk.v.toNat ++ leBytes 1 (tagCode c.lk.t)
  else if file = 4 then leBytes 8 c.pc.toNat
  else leBytes 8 (readSys (.core n) s num).v.toNat

/-- A system register as the debug port writes it, as MTS at M does: each field keeps its access (00 R15-R17, 03 R62). -/
def dbgWriteSys (n num : Nat) (w : Word) (s : State) : State :=
  if ¬ coreHasSys num ∨ num / 64 % 4 = 3 then s
  else if num = 0xC40 then writeSys (.core n) num ⟨w, .data⟩ s
  else modCpu (.core n) (fun c => { writeCpuSys num ⟨w, .data⟩ { c with level := .m } with level := c.level }) s

/-- A register as the debug port writes it; a general register or lk becomes DATA (log 24). -/
def dbgWrite (n file num : Nat) (v : BitVec 256) (s : State) : State :=
  let r : Reg := BitVec.ofNat 5 num
  let w : Word := v.setWidth 64
  if file = 0 then modCpu (.core n) (setGpr r ⟨w, .data⟩) s
  else if file = 1 then modCpu (.core n) (setFpr r w) s
  else if file = 2 then modCpu (.core n) (setVpr r v) s
  else if file = 3 then modCpu (.core n) (fun c => { c with lk := ⟨w, .data⟩ }) s
  else if file = 4 then modCpu (.core n) (fun c => { c with pc := w }) s
  else dbgWriteSys n num w s

/-- DEBUG_REQUEST: an action that no open session permits has no effect. -/
def debugReq (r : DbgReq) (s : State) : State :=
  match r with
  | .halt n => if dbgCore s n then modCpu (.core n) (fun c => { c with halted := true, cs1At := s.stamp }) s else s
  | .step n => if dbgCore s n ∧ (coreOf s n).halted then modCpu (.core n) (fun c => { c with halted := false, stepping := true, passed := true }) s else s
  | .resume n => if dbgCore s n ∧ (coreOf s n).halted then modCpu (.core n) (fun c => { c with halted := false, passed := true }) s else s
  | .readReg n file num => if dbgCore s n then emit (.jtag (dbgRead n file num s)) s else s
  | .writeReg n file num v => if dbgCore s n then dbgWrite n file num v (flushAll n false s) else s
  | .readMem pa len => if dbgMem s pa len then emit (.jtag (memBytes s pa len)) s else s
  | .writeMem pa bs => if dbgMem s pa bs.length then dmaStore pa bs s else s
  | .setBreak n pc => if dbgCore s n ∧ ¬ s.yew.breaks.contains (n, pc) then { s with yew := { s.yew with breaks := s.yew.breaks ++ [(n, pc)] } } else s
  | .clearBreak n pc => if dbgCore s n then { s with yew := { s.yew with breaks := s.yew.breaks.erase (n, pc) } } else s

/-- The k-th open session's length has expired (12 R321). -/
def sessionExpiry (k : Nat) (s : State) : State :=
  match s.yew.sess[k]? with
  | some x => if x.endAt ≤ s.stamp then endSession x 3 0x11 s else s
  | none => s

/-- A nonce passes 960,000,000 ticks (12 R321). -/
def nonceExpiry (s : State) : State :=
  match s.yew.nonce with
  | some (_, t) => if t + 960000000 ≤ s.stamp then { s with yew := { s.yew with nonce := none } } else s
  | none => s

/-- A move to RMA under a Rinistea signature (12 R324): forward only, and the UDS is destroyed. -/
def toRma (signed : Bool) (s : State) : State :=
  if signed ∧ s.yew.lifecycle < 3 then
    setObjFld 0x3000 2 15 12 3 { s with yew := { s.yew with lifecycle := 3 }, octets := mDel s.octets (okey 0x0000 3) }
  else s

/-! ## Meanings -/

/-- FLIT_UNCORRECTABLE (10 R237, 16 R462). -/
def execFlitUncorrectable (router dir net_ : Nat) (wire : FlitErr) (fails : Nat) (s : State) : Host.Outcome State Fault Refusal :=
  .next (flitErr router dir net_ fails wire s)

/-- ENCLOSURE_RESET (12 R312). -/
def execEnclosureReset (e : Nat) (img : List Byte) (s : State) : Host.Outcome State Fault Refusal := .next (enclReset e img s)

/-- ATTEST_REQ (12 R318). -/
def execAttestReq (e : Nat) (nonce : List Byte) (addr : Nat) (s : State) : Host.Outcome State Fault Refusal := .next (attest e nonce addr s).2

/-- NONCE_EXPIRY (12 R321). -/
def execNonceExpiry (s : State) : Host.Outcome State Fault Refusal := .next (nonceExpiry s)

/-- DEBUG_SESSION_END (12 R321). -/
def execDebugSessionEnd (k : Nat) (s : State) : Host.Outcome State Fault Refusal := .next (sessionExpiry k s)

/-- RMA_TRANSITION (12 R324). -/
def execRmaTransition (signed : Bool) (s : State) : Host.Outcome State Fault Refusal := .next (toRma signed s)

/-- DEBUG_REQUEST (12 R320). -/
def execDebugRequest (r : DbgReq) (s : State) : Host.Outcome State Fault Refusal := .next (debugReq r s)

end Sys2Proof.Machine
end

