-- ==== Sys2Proof/Machine/Pcie.lean ====
section
/-! DEFINITION. PCIe root complexes (21 R540-R550): outbound accesses, completions, inbound DMA, AtomicOps and MSI. -/

namespace Sys2Proof.Machine
open Sys2Proof

/-! ## Who owns a function (21 R546) -/

/-- The enclosure of a requester of a root complex, and its stream entry there (21 R546, R547). -/
def requesterOf (s : State) (pe rid : Nat) : Option (Nat × Nat) :=
  match (List.range 32).find? (fun i => let w := objN s 0x3500 (32 * pe + i)
      decide (w ≠ 0xFFFF ∧ nbits w 11 0 = rid)) with
  | none => none
  | some i =>
    let e := nbits (objN s 0x3500 (32 * pe + i)) 15 12
    some (e, streamPos s e pe rid)

/-- The root port that leads to a function. -/
def portOf (s : State) (pe rid : Nat) : Nat :=
  match s.bars.find? (fun b => decide (b.pe = pe ∧ b.rid = rid)) with | some b => b.port | none => 0

/-- The BAR of the issuing enclosure that an access of a window falls in (21 R544). -/
def barOf (s : State) (pe : Nat) (q : ReqFlit) : Option Bar :=
  let a := reqPa q % 2 ^ 46
  s.bars.find? (fun b => decide (b.pe = pe ∧ b.base ≤ a ∧ a + q.len + 1 ≤ b.base + b.size) &&
    (match requesterOf s pe b.rid with | some (e, _) => decide (e = q.encl) | none => false))

/-- The function a configuration address names: bus in bits 25:20, device 19:15, function 14:12 (log 16). -/
def cfgRid (a : Nat) : Nat := nbits a 25 20 * 64 + nbits a 17 15 * 8 + nbits a 14 12

/-- The function of a configuration access, when the access is allowed (21 R543). -/
def cfgTarget (s : State) (pe : Nat) (store : Bool) (q : ReqFlit) : Option Nat :=
  let a := reqPa q % 2 ^ 26
  let reg := a % 4096 / 4 * 4
  let rid := cfgRid a
  let owned : Bool := match requesterOf s pe rid with | some (e, _) => decide (e = q.encl) | none => false
  let guarded : Bool := decide (reg = 4) || (decide (0x10 ≤ reg) && decide (reg < 0x28))
  if q.len = 3 ∧ q.off % 4 = 0 ∧ ¬ q.lp ∧ nbits a 19 18 = 0 ∧ rid / 64 ≠ 0 ∧ owned ∧ ¬ (store ∧ guarded) then some rid else none

/-- Whether an address is in configuration space (01 Table 1.5). -/
def isCfg (pa : Nat) : Bool := decide (0xF000010000000 ≤ pa) && decide (pa < 0xF000020000000)

/-! ## Outbound (21 R543-R545) -/

/-- Whether an atomic's code has an AtomicOp: SWAP, ADD or CAS (21 R544). -/
def hasAtomicOp (op : Nat) : Bool := decide (op = 0 ∨ op = 1 ∨ op = 9)

/-- A request goes on as a non-posted one, which holds a tag (21 R543-R545). -/
def needsTag (s : State) (pe opc : Nat) (q : ReqFlit) : Bool :=
  if isCfg (reqPa q) then decide (opc ≠ 0x12) && (cfgTarget s pe (decide (opc = 0x11)) q).isSome
  else decide (opc ≠ 0x11) && (barOf s pe q).isSome && (decide (opc ≠ 0x12) || hasAtomicOp q.atop)

/-- A request waits at its root complex while no tag is free for it (21 Table 21.2). -/
def waitsForTag (s : State) (opc : Nat) (q : ReqFlit) : Bool :=
  decide (352 ≤ q.dest ∧ q.dest < 356) && needsTag s (q.dest - 352) opc q && (freeTag s (q.dest - 352)).isNone

/-- Send a non-posted request and hold its tag for 16,000,000 ticks. -/
def nonPosted (pe rid kind addr : Nat) (bs : List Byte) (q : ReqFlit) (s : State) : State :=
  match freeTag s pe with
  | none => s
  | some t =>
    let s := { s with ptags := s.ptags ++ [{ pe := pe, tag := t, q := q, kind := kind, deadline := s.stamp + 16000000 }] }
    bwAdd 0x9410 pe bs.length (emit (.tlp pe rid t kind addr bs) s)

/-- A device load at a root complex. -/
def pcieLoad (pe : Nat) (q : ReqFlit) (s : State) : State :=
  if isCfg (reqPa q) then
    match cfgTarget s pe false q with
    | some rid => nonPosted pe rid 0 (reqPa q % 4096) [] q s
    | none => send (devData (352 + pe) q 0 s) (refuseDev (352 + pe) 0x0C q s)
  else match barOf s pe q with
    | some b => nonPosted pe b.rid 2 (reqPa q % 2 ^ 46) [] q s
    | none => refuseLoad (352 + pe) q s

/-- A posted write leaves a root port; it is kept through its tick, in which the port may go down (09 R228). -/
def postWrite (pe : Nat) (b : Bar) (q : ReqFlit) (bs : List Byte) (s : State) : State :=
  let p : Posted := { at_ := s.stamp, pe := pe, port := b.port, src := coreNum s q.src, addr := reqPa q, rid := b.rid, octets := bs }
  bwAdd 0x9410 pe bs.length (emit (.tlp pe b.rid 0 3 (reqPa q % 2 ^ 46) bs)
    { s with posted := s.posted.filter (fun x => x.at_ = s.stamp) ++ [p] })

/-- A device store at a root complex: a window store is posted and accepted; on a port that is down it is dropped (09 R228). -/
def pcieStore (pe : Nat) (q : ReqFlit) (s : State) : State :=
  let bs := leBytes (q.len + 1) q.data.toNat
  if isCfg (reqPa q) then
    match cfgTarget s pe true q with
    | some rid => nonPosted pe rid 1 (reqPa q % 4096) bs q s
    | none => send (rspTo 0x06 (352 + pe) 0 q s) (refuseDev (352 + pe) 0x0C q s)
  else match barOf s pe q with
    | some b =>
      let s := send (rspTo 0x06 (352 + pe) 0 q s) s
      if portUp s pe b.port then postWrite pe b q bs s else postedDrop pe b.port (coreNum s q.src) (reqPa q) s
    | none => refuseStore (352 + pe) q s

/-- An atomic to a PCIe window goes as an AtomicOp when its code is SWAP, ADD or CAS (21 R544). -/
def pcieAtomic (pe : Nat) (q : ReqFlit) (s : State) : State :=
  let n := q.len + 1
  match (if isCfg (reqPa q) then none else barOf s pe q) with
  | some b =>
    if hasAtomicOp q.atop then
      nonPosted pe b.rid 4 (reqPa q % 2 ^ 46) ((if q.atop = 9 then leBytes n q.expd.toNat else []) ++ leBytes n q.data.toNat) q s
    else refuseAtomic (352 + pe) q s
  | none => refuseAtomic (352 + pe) q s

/-- A completion for a held tag (21 R545): late ones are discarded and recorded; an error ends the access as its timeout would. -/
def pcieCompletion (pe tag : Nat) (ok : Bool) (v : Nat) (s : State) : State :=
  match s.ptags.find? (fun t => decide (t.pe = pe ∧ t.tag = tag)) with
  | none => s
  | some t =>
    let s := bwAdd 0x9411 pe (t.q.len + 1) { s with ptags := s.ptags.erase t }
    let u := 352 + pe
    if t.late then
      report { stamp := 0, useq := 0, unit := u, cls := 0x0602, sev := 0, late := true, encl := t.q.encl, core := coreNum s t.q.src,
               addr := reqPa t.q, d0 := u } s
    else if t.kind = 1 then
      let s := match hartOf s t.q.src with
        | some h =>
          if ok then noteEnded h (reqPa t.q) u (t.deadline + fld (sysReg (cpuOf s h) 0xC11) 20 0 - 16000000) s
          else timeoutRecord h u (reqPa t.q) s
        | none => s
      send (rspTo 0x06 u 0 t.q s) s
    else if ok then
      send (match devData u t.q v s with
        | .dat _ d => if t.kind = 4 then .dat 0xD d else .dat 7 d
        | m => m) s
    else match hartOf s t.q.src with
      | some h => if (waitDeadline (cpuOf s h)).isSome ∧ waitTx (cpuOf s h) = t.q.txid then endTimedOut h s else s
      | none => s

/-- A tag reaches the end of its life (21 R545). -/
def completionTimeout (pe tag : Nat) (s : State) : State :=
  { s with ptags := s.ptags.filter (fun t => !(decide (t.pe = pe ∧ t.tag = tag ∧ t.deadline ≤ s.stamp))) }

/-- A write accepted in the tick in which its port goes down is treated as dropped (09 R228): it did not leave. -/
def dropPosted (p : Posted) (s : State) : State :=
  postedDrop p.pe p.port p.src p.addr
    { s with out := ((s.out.reverse).erase (.tlp p.pe p.rid 0 3 (p.addr % 2 ^ 46) p.octets)).reverse, posted := s.posted.erase p }

/-- A port's link goes down (21 Table 21.9, 09 R228): the writes accepted in this tick are dropped, and `lost`, those accepted earlier that it
had not delivered: source core and address. -/
def pcieLinkDown (pe port : Nat) (lost : List (Nat × Nat)) (s : State) : State :=
  if ¬ portUp s pe port then s
  else
    let k := 4 * pe + port
    let s := raiseBits 0xC010 k 0x200 <| setObjFld 0xC010 k 9 9 1 (setObjFld 0xC010 k 8 4 0 (setObjFld 0xC010 k 2 0 0 s))
    let now := s.posted.filter (fun p => decide (p.at_ = s.stamp ∧ p.pe = pe ∧ p.port = port))
    lost.foldl (fun s p => postedDrop pe port p.1 p.2 s) (now.foldl (fun s p => dropPosted p s) s)

/-! ## Inbound (21 R546-R550) -/

/-- A record of a refused inbound request. -/
def dmaRefused (pe cls kind encl addr : Nat) (s : State) : State :=
  report { stamp := 0, useq := 0, unit := 352 + pe, cls := cls, sev := 2, encl := encl, addr := addr, d0 := kind } s

/-- How an inbound access's address resolves. -/
inductive DmaTo where
  /-- memory of the requester's enclosure -/
  | mem (encl pa : Nat)
  /-- an unbacked address -/
  | none (encl pa : Nat)
  /-- a translation failure -/
  | fail (encl : Nat)
  /-- no PROT_STREAM entry -/
  | unknown
deriving DecidableEq, Repr

/-- Translate and check an inbound access (21 R547, R548, 07 R190). -/
def dmaResolve (pe rid : Nat) (va : Word) (len : Nat) (store : Bool) (s : State) : DmaTo × State :=
  match requesterOf s pe rid with
  | none => (.unknown, s)
  | some (e, i) =>
    let k := e * 32 + i
    let ctl := mGet 0 s.sctl k
    if ¬ flag ctl 63 then (.fail e, s)
    else match ioTranslate (352 + pe) (streamTag e i) e ⟨mGet 0 s.sroot k, fld ctl 11 0⟩ va store s with
      | (Option.none, s) => (.fail e, s)
      | (some pa, s) =>
        match placeOf s e pa, placeOf s e (pa + (len - 1)) with
        | .mem, .mem => (.mem e pa, s)
        | .unbacked, _ => (if unbackedAt s e pa then .none e pa else .fail e, s)
        | _, _ => (.fail e, s)

/-- The MSI address (21 R550). -/
def msiAddr : Nat := 0xFF000000

/-- An MSI: the data's source becomes pending in the requester's enclosure (21 R550). -/
def msi (pe rid size data : Nat) (s : State) : State :=
  match requesterOf s pe rid with
  | none => dmaRefused pe 0x0604 0x10 0xFF msiAddr s
  | some (e, _) =>
    if size = 4 ∧ data < 1024 then setPend e data s else dmaRefused pe 0x0604 0x13 e msiAddr s

/-- Whether a write touches the MSI address. -/
def touchesMsi (va len : Nat) : Bool := decide (va < msiAddr + 4) && decide (msiAddr < va + len)

/-- A memory write (21 R548): EP set stores every touched word as 0 tagged POIS. -/
def inboundWrite (pe rid : Nat) (ep : Bool) (va : Word) (bs : List Byte) (s : State) : State :=
  let s := bwAdd 0x9411 pe bs.length s
  if touchesMsi va.toNat bs.length then
    if va.toNat = msiAddr then msi pe rid bs.length (leNat bs) s
    else match requesterOf s pe rid with
      | some (e, _) => dmaRefused pe 0x0604 0x13 e va.toNat s
      | none => dmaRefused pe 0x0604 0x10 0xFF va.toNat s
  else match dmaResolve pe rid va bs.length true s with
    | (.unknown, s) => dmaRefused pe 0x0604 0x10 0xFF va.toNat s
    | (.fail e, s) => dmaRefused pe 0x0604 0x12 e va.toNat s
    | (.none e pa, s) => dmaRefused pe 0x0305 0x15 e pa s
    | (.mem _ pa, s) =>
      if ep then
        (wordsOf pa bs.length).foldl (fun s w => putTag w .pois (putBytes w (List.replicate 8 0) s))
          (dmaStore pa bs s)
      else dmaStore pa bs s

/-- A memory read (21 R548, 11 Table 11.4): HNDL aborts, POIS poisons the completion. -/
def inboundRead (pe rid tag : Nat) (va : Word) (len : Nat) (s : State) : State :=
  let answer (st : Nat) (ep : Bool) (bs : List Byte) (s : State) : State := bwAdd 0x9410 pe bs.length (emit (.cpl pe rid tag st ep bs) s)
  match dmaResolve pe rid va len false s with
  | (.unknown, s) => answer 1 false [] (dmaRefused pe 0x0604 0x10 0xFF va.toNat s)
  | (.fail e, s) => answer 4 false [] (dmaRefused pe 0x0604 0x11 e va.toNat s)
  | (.none e pa, s) => answer 0 true (List.replicate len 0) (dmaRefused pe 0x0305 0x14 e pa s)
  | (.mem _ pa, s) =>
    if (wordsOf pa len).any (fun w => decide (memTag s w = .hndl)) then answer 4 false [] s
    else answer 0 (anyPois s pa len) (memBytes s pa len) s

/-- An AtomicOp to memory, performed as AtomFar with LP = 1 (21 R548, 10 R261, R263); one that faults writes nothing and is aborted (log 17). -/
def inboundAtomic (pe rid tag : Nat) (op len : Nat) (va opnd expd : Word) (s : State) : State :=
  let answer (st : Nat) (bs : List Byte) (s : State) : State := emit (.cpl pe rid tag st false bs) s
  let d := decide (len = 8)
  if ¬ (len = 4 ∨ len = 8) ∨ ¬ (op = 0 ∨ op = 1 ∨ op = 9) then answer 1 [] s
  else match dmaResolve pe rid va len true s with
    | (.unknown, s) => answer 1 [] (dmaRefused pe 0x0604 0x10 0xFF va.toNat s)
    | (.fail e, s) => answer 4 [] (dmaRefused pe 0x0604 0x12 e va.toNat s)
    | (.none e pa, s) => answer 4 [] (dmaRefused pe 0x0305 0x15 e pa s)
    | (.mem _ pa, s) =>
      let old := atomOld s pa d
      let s := noteFar (lineOf pa) (homeClear (lineOf pa) false s)
      match atomApply op d true old ⟨opnd, .data⟩ ⟨expd, .data⟩ with
      | .error _ => answer 4 [] s
      | .ok r => answer 0 (leBytes len old.v.toNat) (match r with | some x => atomStore pa d x (homePut (lineOf pa) false s) | none => s)

/-! ## Meanings: inbound traffic wakes the package from PK4 (17 R480) -/

/-- PCIE_COMPLETION (21 R545). -/
def execPcieCompletion (pe tag : Nat) (ok : Bool) (data : Nat) (s : State) : Host.Outcome State Fault Refusal :=
  .next (pcieCompletion pe tag ok data s)

/-- COMPLETION_TIMEOUT (21 R545). -/
def execCompletionTimeout (pe tag : Nat) (s : State) : Host.Outcome State Fault Refusal := .next (completionTimeout pe tag s)

/-- PCIE_LINK_DOWN (09 R228, 21 Table 21.9). -/
def execPcieLinkDown (pe port : Nat) (lost : List (Nat × Nat)) (s : State) : Host.Outcome State Fault Refusal :=
  .next (if pe < 4 ∧ port < 4 then pcieLinkDown pe port lost s else s)

/-- INBOUND_DMA_WRITE (21 R548). -/
def execInboundDmaWrite (pe rid : Nat) (ep : Bool) (va : Word) (bs : List Byte) (s : State) : Host.Outcome State Fault Refusal :=
  .next (if pe < 4 ∧ bs ≠ [] then inboundWrite pe rid ep va bs (wakes 4 (352 + pe) s) else s)

/-- INBOUND_DMA_READ (21 R548). -/
def execInboundDmaRead (pe rid tag : Nat) (va : Word) (len : Nat) (s : State) : Host.Outcome State Fault Refusal :=
  .next (if pe < 4 ∧ 0 < len then inboundRead pe rid tag va len (wakes 4 (352 + pe) s) else s)

/-- INBOUND_ATOMICOP (21 R548). -/
def execInboundAtomicop (pe rid tag op len : Nat) (va opnd expd : Word) (s : State) : Host.Outcome State Fault Refusal :=
  .next (if pe < 4 then inboundAtomic pe rid tag op len va opnd expd (wakes 4 (352 + pe) s) else s)

/-- MSI: a 4-byte write to the MSI address (21 R550). -/
def execMsi (pe rid data : Nat) (s : State) : Host.Outcome State Fault Refusal := .next (if pe < 4 then msi pe rid 4 data (wakes 4 (352 + pe) s) else s)

/-- AER_ERROR_MESSAGE (21 R541, Table 21.9). -/
def execAerErrorMessage (pe port : Nat) (uncor : Bool) (s : State) : Host.Outcome State Fault Refusal :=
  .next (if pe < 4 ∧ port < 4 then (let b := if uncor then 11 else 10
    raiseBits 0xC010 (4 * pe + port) (BitVec.ofNat 64 (2 ^ b)) (setObjFld 0xC010 (4 * pe + port) b b 1 s)) else s)

end Sys2Proof.Machine
end

