-- ==== Sys2Proof/Machine/Boot.lean ====
section
/-! DEFINITION. Power-up, the boot chain and module reset (12 R299-R308, 23 R577-R583, 01 R36). Each stage's work is done as it is left
(log 25). -/

namespace Sys2Proof.Machine
open Sys2Proof

/-! ## Stages (12 Table 12.2) -/

/-- STAGE changes: a heartbeat marks it (23 R580). -/
def setStage (k : Nat) (s : State) : State := heartbeat (setObjFld 0x3000 1 3 0 k s)

/-- A stage begins. -/
def enterStage (k : Nat) (s : State) : State := setStage k { s with phase := .boot k, stageAt := s.stamp }

/-- The boot stops at a stage with FAIL and ENCL (12 Table 12.3) and a BOOT_FAIL record. -/
def bootStop (k fail e : Nat) (s : State) : State :=
  let s := setObjFld 0x3000 1 31 24 fail (setObjFld 0x3000 1 23 16 e s)
  { noteNone 360 0x0801 4 (fld (obj s 0x3000 1) 31 0) e s with phase := .failed k }

/-! ## The start (23 Table 23.6 steps 4 and 5) -/

/-- Logical, spare and defective tiles: the 48 lowest good tiles of each die are logical (01 R36). -/
def tileCode (defective : List Nat) (t : Nat) : Nat :=
  if defective.contains t then 3
  else if ((List.range t).filter (fun k => decide (dieOfTile k = dieOfTile t) && !(defective.contains k))).length < 48 then 0 else 1

/-- The tile assigned to logical core Cn at module reset (01 R36). -/
def firstTile (defective : List Nat) (n : Nat) : Nat :=
  ((List.range 216).filter (fun t => decide (dieOfTile t = n / 48) && decide (tileCode defective t = 0))).getD (n % 48) 0xFF

/-- Assign the tiles. -/
def assignTiles (s : State) : State :=
  let s := (List.range 216).foldl (fun s t => setObj 0x5020 t (BitVec.ofNat 64 (tileCode s.yew.defective t)) s) s
  setObj 0x5010 1 (BitVec.ofNat 64 ((List.range 216).filter (fun t => decide (tileCode s.yew.defective t = 1))).length) s

/-- What a module reset keeps: the objects of classes FUSED and BOX, and RETAINED ones with the logs unless the input or STOPPED took them
(19 Table 19.7, R528; 22 R570), Box, the fuses, and what has left the module. -/
def bootBase (powerLoss : Bool) (socket : Nat) (s : State) : State :=
  { phase := .boot 1
    socket := socket
    objs := s.objs.filter (fun p => survives powerLoss p.1)
    octets := (mDel s.octets (okey 0x0000 3)).filter (fun p => survives powerLoss p.1)
    ras := if powerLoss then {} else { mlog := s.ras.mlog, mlogN := s.ras.mlogN, logLost := s.ras.logLost }
    sdp := if powerLoss then {} else { saved := s.sdp.saved.map (fun r => { r with till := r.till - s.stamp }), clog := s.sdp.clog }
    yew := { rootHash := s.yew.rootHash, dbgHash := s.yew.dbgHash, dbgRevoked := s.yew.dbgRevoked, lifecycle := s.yew.lifecycle, defective := s.yew.defective }
    pwr := { vin := s.pwr.vin, low := s.pwr.low, lowest := s.pwr.lowest, high := s.pwr.high, ok := true }
    box := s.box
    out := s.out
    pending := s.pending
    free := s.free }

/-- Stamp 0 and STAGE 0x1: straps sampled, root locked, lifecycle shown. In RMA the module is at D2 from its reset (12 R324). -/
def bootStart (powerLoss : Bool) (x : Straps) (s : State) : State :=
  let node := if powerLoss then x.node % 64 else fld (obj s 0x0000 4) 13 8
  let sock := x.socket % 8
  let life := s.yew.lifecycle
  let s := assignTiles (bootBase powerLoss sock s)
  let s := setObj 0x0000 4 (BitVec.ofNat 64 (sock * 2 ^ 16 + node * 256 + x.bifur % 256)) (setObj 0xA000 1 (BitVec.ofNat 64 node) s)
  let s := (List.range 4).foldl (fun s k => setObj 0xC000 k (BitVec.ofNat 64 (nbits x.bifur (2 * k + 1) (2 * k))) s) s
  let s := setObj 0x1000 1 1 (setObj 0x1110 1 (BitVec.ofNat 64 (sock * 2 ^ 16 + 3)) s)
  let s := setObjFld 0x3000 2 15 12 life s
  let s := if life = 3 then showDebug { s with yew := { s.yew with sess := [⟨2, 0xFF, 2 ^ 64⟩], stopped := true } } else s
  let s := enterStage 1 s
  if 5 ≤ sock then bootStop 1 0x83 0xFF s else s

/-! ## Stage 0x2: firmware (12 R301) -/

/-- The first check that a firmware image fails, 0 when it is accepted. -/
def fwCheck (s : State) (f : Option FwImage) : Nat :=
  match f with
  | none => 0x80
  | some f =>
    if ¬ (f.sig.mldsa ∧ f.sig.ecdsa) then 0x80
    else if (List.range 4).all (fun n => decide (mFind s.yew.rootHash n ≠ some f.sig.keyHash) || flag (obj s 0x3031 2) n) = true then 0x81
    else if f.secver < objN s 0x0020 2 then 0x82
    else 0

/-- Run an accepted image; the fused minimum version rises when it asks for it. -/
def runFw (slotB : Bool) (f : FwImage) (s : State) : State :=
  let s := setObj 0x0020 1 (BitVec.ofNat 64 (f.secver % 2 ^ 32 * 2 ^ 32 + f.version % 2 ^ 32)) s
  let s := setObj 0x0020 2 (BitVec.ofNat 64 (max (objN s 0x0020 2) (f.minver % 2 ^ 32))) s
  let s := setObjFld 0x3000 1 8 8 slotB.toNat s
  { s with octets := mPut [] s.octets (okey 0x0020 3) f.digest }

/-- Slot A, then slot B. -/
def stageFw (b : BootIn) (s : State) : State :=
  match b.fwA, b.fwB with
  | some f, g => if fwCheck s (some f) = 0 then enterStage 3 (runFw false f s)
    else (match g with
      | some h => if fwCheck s (some h) = 0 then enterStage 3 (runFw true h s) else bootStop 2 (fwCheck s (some h)) 0xFF s
      | none => bootStop 2 0x80 0xFF s)
  | none, some h => if fwCheck s (some h) = 0 then enterStage 3 (runFw true h s) else bootStop 2 (fwCheck s (some h)) 0xFF s
  | none, none => bootStop 2 0x80 0xFF s

/-! ## Stage 0x3: memory (11 R271, R291, R292) -/

/-- GiB of a DIMM: two subchannels of eight x4 data devices a rank (11 R270). -/
def dimmGiB (d : Dimm) : Nat := 2 * d.gbit * d.ranks * d.stack

/-- The cause for which training refuses a channel's DIMMs, 0 for none (11 R271, log 102); `first` are those of channel 0. -/
def dimmCause (first ds : List Dimm) : Nat :=
  if ds.length ≠ 1 ∧ ds.length ≠ 2 then 1
  else if ds.any (fun d => !d.rdimm || decide (d.width ≠ 4) || decide (d.ranks ≠ 1 ∧ d.ranks ≠ 2) || decide (d.stack ≠ 1 ∧ d.stack ≠ 2) ||
      decide (d.gbit ≠ 16 ∧ d.gbit ≠ 24 ∧ d.gbit ≠ 32)) then 2
  else if ds.any (fun d => decide (d.speed ≠ 6400)) then 3
  else if ds.length ≠ first.length ∨ ds.any (fun d => decide (some d ≠ first.head?)) then 4
  else 0

/-- The lowest channel whose DIMMs training refuses, with its cause (11 R271). -/
def dimmFail (b : BootIn) : Option (Nat × Nat) :=
  ((List.range 16).map (fun c => (c, dimmCause (b.dimms.getD 0 []) (b.dimms.getD c [])))).find? (fun x => decide (x.2 ≠ 0))

/-- The channel that fails training, with its cause: its DIMMs, or what training itself finds. -/
def trainFails (b : BootIn) : Option (Nat × Nat) := match dimmFail b with | some x => some x | none => b.trainFail

/-- Every channel trains and passes its self-test, or the boot stops at this stage with the channel's record. -/
def stageMem (b : BootIn) (s : State) : State :=
  let mc (c : Nat) : Nat := 256 + c
  let marks (c : Nat) : Nat := ((List.range 16).filter (fun k => flag (obj s 0x4030 (16 * c + k)) 7)).length
  let ranks (c : Nat) : Nat := ((b.dimms.getD c []).map (fun d => d.ranks * d.stack)).foldl (· + ·) 0
  let s := (List.range 16).foldl (fun s c => setObjFld 0x4000 c 19 16 (min (marks c) 15) (setObjFld 0x4000 c 11 8 (ranks c) (setObjFld 0x4000 c 0 0 1 s))) s
  match trainFails b, b.bistFail with
  | some (c, cause), _ => { noteDev (mc (c % 16)) 0x0303 4 (c % 16) cause (setObjFld 0x4000 (c % 16) 0 0 0 s) with phase := .failed 3 }
  | none, some (c, result) =>
    let s := setObj 0x4110 (c % 16) (BitVec.ofNat 64 (result % 2 ^ 16)) (setObjFld 0x4000 (c % 16) 4 4 1 s)
    { noteDev (mc (c % 16)) 0x0304 4 (result % 2 ^ 16) 0 s with phase := .failed 3 }
  | none, none =>
    enterStage 4 { s with dram := { s.dram with dimms := b.dimms.take 16, capGiB := ((b.dimms.getD 0 []).map dimmGiB).foldl (· + ·) 0 } }

/-! ## Stage 0x4: the layout (12 R302, R304, R305) -/

/-- Fields of a record (12 Table 12.4a). -/
def lrSocket (r : List Byte) : Nat := lrNat r 1 1
def lrBoot (r : List Byte) : Bool := decide (lrNat r 2 1 % 2 = 1)
def lrEntry (r : List Byte) : Nat := lrNat r 0x100 8

/-- The granule ranges before the first of count 0: first granule and count. -/
def lrRanges (r : List Byte) : List (Nat × Nat) :=
  ((List.range 16).map (fun i => (lrNat r (0x40 + 8 * i) 4, lrNat r (0x44 + 8 * i) 4))).takeWhile (fun g => decide (g.2 ≠ 0))

/-- The requester entries in use: root complex in bits 13:12, bus, device and function as 21 R546 numbers them (log 26). -/
def lrStreams (r : List Byte) : List Nat :=
  ((List.range 32).map (fun i => lrNat r (0xC0 + 2 * i) 2)).filter (fun w => decide (w ≠ 0xFFFF))

/-- Whether two spans (first, count) meet. -/
def spansMeet (a b : Nat × Nat) : Bool := decide (a.1 < b.1 + b.2) && decide (b.1 < a.1 + a.2) && decide (a.2 ≠ 0) && decide (b.2 ≠ 0)

/-- Whether two records name one core, port, granule, requester, subchannel or way (check 0x02). -/
def lrClash (a b : List Byte) : Bool :=
  decide (lrNat a 0x04 24 &&& lrNat b 0x04 24 ≠ 0) || decide (lrNat a 0x1C 18 &&& lrNat b 0x1C 18 ≠ 0) || decide (lrNat a 3 1 &&& lrNat b 3 1 ≠ 0) ||
  (lrRanges a).any (fun x => (lrRanges b).any (spansMeet x)) || (lrStreams a).any (fun x => (lrStreams b).contains x) ||
  spansMeet (lrNat a 0x30 4, lrNat a 0x34 4) (lrNat b 0x30 4, lrNat b 0x34 4)

/-- Whether the image fits the first granule range from ENTRY upward. -/
def lrFits (r : List Byte) : Bool :=
  let a := lrEntry r % 2 ^ 48
  let g := (lrRanges r).headD (0, 0)
  decide (g.1 * 2 ^ 30 ≤ a ∧ a + lrNat r 0x10C 4 ≤ (g.1 + g.2) * 2 ^ 30)

/-- Check 0x07 on a boot record. -/
def lrImageOk (flash : Nat) (r : List Byte) : Bool :=
  let off := lrNat r 0x108 4
  let len := lrNat r 0x10C 4
  decide (0x1000000 ≤ off ∧ len ≠ 0 ∧ len ≤ 2 ^ 26 ∧ off + len ≤ flash) && lrFits r

/-- Whether a record passes a check of 12 Table 12.4; `own` are this socket's records, `i` its place among them. -/
def lrPasses (s : State) (lay : Layout) (flash : Nat) (own : List (List Byte)) (check i : Nat) (r : List Byte) : Bool :=
  if check = 1 then
    decide (own.length ≤ 16) && decide (lrEncl r < 16) && decide ((own.filter (fun x => decide (lrEncl x = lrEncl r))).length = 1) &&
    decide ((lay.recs.filter (fun x => decide (lrEncl x = lrEncl r) && lrBoot x)).length = 1)
  else if check = 2 then (own.take i).all (fun x => !(lrClash x r)) && decide (lrNat r 3 1 &&& lay.chnWays = 0)
  else if check = 3 then (lrRanges r).all (fun g => decide (g.1 + g.2 ≤ 15 * s.dram.capGiB - lay.csaGiB))
  else if check = 4 then
    !(lrBoot r) || (decide (lrNat r 0x04 24 ≠ 0) && decide (lrEntry r / 2 ^ 48 = s.socket) &&
      (lrRanges r).any (fun g => decide (g.1 ≤ lrEntry r % 2 ^ 48 / 2 ^ 30) && decide (lrEntry r % 2 ^ 48 / 2 ^ 30 < g.1 + g.2)))
  else if check = 5 then decide (lrNat r 0x30 4 + lrNat r 0x34 4 ≤ 262144)
  else if check = 7 then !(lrBoot r) || lrImageOk flash r
  else if check = 8 then decide (lrNat r 2 1 < 4) && decide (lrNat r 0x2E 2 = 0) && decide (lrNat r 0x3E 2 = 0) && decide (lrNat r 0x170 144 = 0)
  else true

/-- Check 0x06: the slots of 13 R333 and 15 R398. -/
def slotsFit (own : List (List Byte)) : Bool :=
  let sum (off : Nat) : Nat := (own.map (fun r => lrNat r off 2)).foldl (· + ·) 0
  decide (sum 0x38 ≤ 512) && decide (sum 0x3A ≤ 256) && decide (sum 0x3C ≤ 256)

/-- The first check that fails and the record's enclosure, 0 when all pass; the checks run in table order, each over every record. -/
def layoutChecks (s : State) (lay : Layout) (flash : Nat) (own : List (List Byte)) : Nat × Nat :=
  ((List.range 9).drop 1).foldl (fun acc c =>
    if acc.1 ≠ 0 then acc
    else if c = 6 then (if slotsFit own then acc else (6, 0xFF))
    else match (List.range own.length).find? (fun i => !(lrPasses s lay flash own c i (own.getD i []))) with
      | some i => (c, lrEncl (own.getD i []))
      | none => acc) (0, 0xFF)

/-- The first check that a layout fails, 0 when it is accepted: the two signatures under an owner key (12 R302), then Table 12.4. -/
def layoutCheck (s : State) (flash : Nat) (l : Option Layout) : Nat × Nat :=
  match l with
  | none => (0x80, 0xFF)
  | some l =>
    if ¬ (l.sig.mldsa ∧ l.sig.ecdsa) then (0x80, 0xFF)
    else if (List.range 4).all (fun n => !(flag (obj s 0x3031 1) n) || flag (obj s 0x3031 1) (4 + n) || decide (mGet [] s.octets (okey 0x3030 n) ≠ l.sig.keyHash)) = true then (0x81, 0xFF)
    else layoutChecks s l flash (l.recs.filter (fun r => decide (lrSocket r = s.socket)))

/-- Take a layout: its records for this socket, its digest, its channel state area. -/
def runLayout (slotB : Bool) (l : Layout) (s : State) : State :=
  let s := setObjFld 0x3000 1 9 9 slotB.toNat s
  { s with
    octets := mPut [] s.octets (okey 0x0020 4) l.digest
    dram := { s.dram with csaGiB := l.csaGiB }
    yew := { s.yew with recs := l.recs.filter (fun r => decide (lrSocket r = s.socket)), csaGiB := l.csaGiB } }

/-- The layout accepted: slot A, then slot B. -/
def pickLayout (b : BootIn) (s : State) : Option (Bool × Layout) :=
  let ok (l : Option Layout) : Bool := decide ((layoutCheck s b.flashSize l).1 = 0)
  if ok b.layA then b.layA.map (fun l => (false, l)) else if ok b.layB then b.layB.map (fun l => (true, l)) else none

/-- Stage 0x4. -/
def stageLayout (b : BootIn) (s : State) : State :=
  match pickLayout b s with
  | some x => enterStage 5 (runLayout x.1 x.2 s)
  | none =>
    let f := layoutCheck s b.flashSize b.layB
    bootStop 4 f.1 f.2 s

/-! ## Stage 0x5: keys and memory (11 R297, 12 R313, 15 R431) -/

/-- Keys drawn, memory cleared, RUN drawn (14 R392), DRBG instances instantiated (15 R428). In RMA no key is made (12 R324). -/
def stageKeys (b : BootIn) (s : State) : State :=
  let s := b.noiseFail.foldl (fun s f => sourceFail f.1 f.2 s) s
  if s.yew.lifecycle = 3 then enterStage 6 { setObjFld 0x3000 2 7 7 1 s with mem := { noKeys := true } }
  else if fld (obj s 0x8300 1) 1 0 = 3 then bootStop 5 0x85 0xFF s
  else
    let f := takeFree s
    let s := { f.2 with
      runId := f.1 % 2 ^ 64
      mem := {}
      accel := { f.2.accel with drbg := (List.range 256).foldl (fun m k => if k % 32 ≤ 16 then mPut {} m k ⟨0, f.2.stamp⟩ else m) [] } }
    enterStage 6 ((List.range 16).foldl (fun s c => setObjFld 0x4000 c 1 1 1 s) s)

/-! ## Stage 0x6: protection registers (12 Table 12.5) and PCIe (21 R542) -/

/-- The owner byte of granule g. -/
def protOwner (s : State) (g : Nat) : Nat :=
  match s.yew.recs.find? (fun r => (lrRanges r).any (fun x => decide (x.1 ≤ g ∧ g < x.1 + x.2))) with
  | some r => lrEncl r
  | none => if mappedGiB s ≤ g ∧ g < 15 * s.dram.capGiB then 0x10 else 0xFF

/-- The enclosure whose record sets bit n of a field. -/
def protBit (s : State) (off len n : Nat) : Nat :=
  match s.yew.recs.find? (fun r => (lrNat r off len).testBit n) with
  | some r => lrEncl r
  | none => 0xFF

/-- LLC_WAY_OWNER of every slice (08 R210). -/
def protWays (s : State) (chnWays : Nat) : Nat :=
  (List.range 8).foldl (fun a i => a + (if chnWays.testBit i then 0x10 else protBit s 3 1 i) * 256 ^ i) 0

/-- PROT_STREAM entry i: the requesters of PE(i div 32) in the order of their records (21 R546). -/
def protStream (s : State) (i : Nat) : Nat :=
  let all := s.yew.recs.flatMap (fun r => (lrStreams r).map (fun w => (lrEncl r, w)))
  match (all.filter (fun p => decide (nbits p.2 13 12 = i / 32)))[i % 32]? with
  | some p => p.1 * 4096 + p.2 % 4096
  | none => 0xFFFF

/-- Write the objects of 12 Table 12.5; ENTRY comes from the enclosure's boot record (03 R59). -/
def protect (lay : Layout) (s : State) : State :=
  let put (idx sub v : Nat) (s : State) : State := setObj idx sub (BitVec.ofNat 64 v) s
  let t := s
  let s := (List.range ((15 * t.dram.capGiB + 7) / 8)).foldl (fun s k =>
    put (0x3100 + k / 256) (k % 256) ((List.range 8).foldl (fun a i => a + protOwner t (8 * k + i) * 256 ^ i) 0) s) s
  let s := (List.range 192).foldl (fun s n => put 0x3200 n (protBit t 0x04 24 n) s) s
  let s := (List.range 144).foldl (fun s n => put 0x3300 n (protBit t 0x1C 18 n) s) s
  let s := (List.range 128).foldl (fun s i => put 0x3500 i (protStream t i) s) s
  let s := (List.range 216).foldl (fun s p => put 0x4300 p (protWays t lay.chnWays) s) s
  let s := t.yew.recs.foldl (fun s r =>
    let e := lrEncl r
    let entry := match lay.recs.find? (fun x => decide (lrEncl x = e) && lrBoot x) with | some x => lrEntry x | none => 0
    put 0x3010 e entry (put 0x3400 e (lrNat r 0x34 4 * 2 ^ 32 + lrNat r 0x30 4) (put 0x3600 e (lrNat r 0x38 2 + lrNat r 0x3A 2 * 2 ^ 16 + lrNat r 0x3C 2 * 2 ^ 32) s))) s
  (List.range 192).foldl (fun s n => if objN s 0x3200 n < 16 then put 0x5030 n (firstTile t.yew.defective n) s else s) s

/-- Links trained, BARs of the functions that the layout names programmed, a BOOT_FAIL record for each function not found (21 R542). -/
def pcieUp (b : BootIn) (s : State) : State :=
  let s := b.pciePorts.foldl (fun s p => if p.1 < 16 then setObjFld 0xC010 p.1 8 0 (256 + nbits p.2 7 4 * 16 + p.2 % 8) s else s) s
  let s := { s with bars := b.bars.filterMap (fun x => if (requesterOf s x.pe x.rid).isSome then some ⟨x.pe, x.port, x.rid, x.base, x.size⟩ else none) }
  b.missing.foldl (fun s i => if objN s 0x3500 i ≠ 0xFFFF ∧ i < 128 then noteBootFail 0x07 (nbits (objN s 0x3500 i) 15 12) s else s) s

/-- Stage 0x6, with the layout's change-log record (19 R526, R527). -/
def stageProt (b : BootIn) (s : State) : State :=
  let lay := match pickLayout b s with | some x => x.2 | none => {sig := ⟨false, false, []⟩}
  let s := pcieUp b (protect lay s)
  enterStage 7 (clogAdd { stamp := s.stamp, origin := 3, principal := 0x11, result := 0, flags := 6, new := leNat (lay.digest.take 8) } s)

/-! ## Stages 0x7 and 0x8 -/

/-- Images copied and measured (12 R308); at D2 nothing is copied (12 R322). -/
def stageImages (b : BootIn) (s : State) : State :=
  let s := if s.yew.stopped then s
    else s.yew.recs.foldl (fun s r => (copyImage (lrEncl r) ((mFind b.images (lrEncl r)).getD []) s).2) s
  enterStage 8 s

/-- Cores powered and gated, Privet engines started, the lock set, boot cores released (12 R307, 03 R59). -/
def stageRun (s : State) : State :=
  let s := (List.range 192).foldl (fun s n => if objN s 0x3200 n < 16 then modCpu (.core n) (fun c => { c with run := .gated }) s else s) s
  let s := (List.range 64).foldl (fun s n => modCpu (.prv n) (fun c => { c with run := .running }) s) s
  let s := setStage 0xF { setObjFld 0x3000 2 0 0 1 s with phase := .running }
  s.yew.recs.foldl (fun s r => bootEncl (lrEncl r) s) s

/-- Leave a stage: its work, then the next stage or a stop. -/
def leaveStage (b : BootIn) (k : Nat) (s : State) : State :=
  if k = 1 then
    let s := if s.yew.lifecycle = 3 then s else { s with octets := mIns s.octets (okey 0x0000 3) (Config.document "DeviceID digest") }
    enterStage 2 s
  else if k = 2 then stageFw b s
  else if k = 3 then stageMem b s
  else if k = 4 then stageLayout b s
  else if k = 5 then stageKeys b s
  else if k = 6 then stageProt b s
  else if k = 7 then stageImages b s
  else stageRun s

/-- Run the boot until a stage, a stop or the end. -/
def bootRun (b : BootIn) : Nat → State → State
  | 0, s => s
  | fuel + 1, s =>
    match s.phase with
    | .boot k => if b.upto ≤ k then s else bootRun b fuel (leaveStage b k s)
    | _ => s

/-! ## Commands -/

/-- POWER_UP (23 R580): from no power the whole of Table 23.6; during a boot, the stages that remain. -/
def powerUp (b : BootIn) (s : State) : State :=
  match s.phase with
  | .off => bootRun b 9 (bootStart true b.straps s)
  | .boot _ => bootRun b 9 s
  | _ => s

/-- The input stays at the start threshold for 10 ms (17 R467): from STOPPED only once it fell below 30 V (17 R489). -/
def startThreshold (x : Straps) (s : State) : State :=
  match s.phase with
  | .off => bootStart true x s
  | .stopped => if s.pwr.fell then bootStart true x s else s
  | _ => s

/-- A module reset (23 R582); in STOPPED, MOD_RESET cannot arrive and a pulse of MOD_RST_N powers the module up (17 R489). -/
def moduleReset (land : Bool) (x : Straps) (s : State) : State :=
  match s.phase with
  | .off => s
  | .stopped => if land then bootStart true x s else s
  | _ => bootStart false x s

/-- The bound of a stage in stamp ticks (23 Table 23.6), reading at 20 ticks an octet: the firmware and layout slots whole (log 107). -/
def stageTicks (s : State) (k : Nat) : Nat :=
  if k = 1 then 3200000
  else if k = 2 then 2 * (20 * 2 ^ 22 + 12800000)
  else if k = 3 then 960000000
  else if k = 4 then 2 * (20 * 2 ^ 20 + 12800000)
  else if k = 5 then 38062500 * s.dram.capGiB
  else if k = 6 then 320000000
  else if k = 7 then 21 * ((s.yew.recs.filter lrBoot).map (fun r => lrNat r 0x10C 4)).foldl (· + ·) 0
  else 16000000

/-- A stage exceeds its bound, counted from the stamp at which it began (23 R580, 02 R55). -/
def stageBound (s : State) : State :=
  match s.phase with
  | .boot k => if s.stageAt + stageTicks s k < s.stamp then bootStop k 0x84 0xFF s else s
  | _ => s

/-! ## Meanings -/

/-- POWER_UP (23 R580). -/
def execPowerUp (b : BootIn) (s : State) : Host.Outcome State Fault Refusal := .next (powerUp b s)

/-- STAGE_BOUND_EXCEEDED (23 R580). -/
def execStageBoundExceeded (s : State) : Host.Outcome State Fault Refusal := .next (stageBound s)

/-- MOD_RESET (23 R582). -/
def execModReset (x : Straps) (s : State) : Host.Outcome State Fault Refusal := .next (moduleReset false x s)

/-- MOD_RST_N (23 R578). -/
def execModRstN (x : Straps) (s : State) : Host.Outcome State Fault Refusal := .next (moduleReset true x s)

/-- INPUT_START_THRESHOLD (23 R580). -/
def execInputStartThreshold (x : Straps) (s : State) : Host.Outcome State Fault Refusal := .next (startThreshold x s)

end Sys2Proof.Machine
end

