-- ==== Sys2Proof/Machine/Tick.lean ====
section
/-! DEFINITION. Clocks: the core cycles of a stamp tick, and whether the root has locked (02 R44, 20 R530). -/

namespace Sys2Proof.Machine
open Sys2Proof

/-- Root divisor of the core clock at an operating point (02 Table 2.1, 17 Table 17.2). -/
def coreDivisor (opp : Nat) : Nat := min opp 4 + 2

/-- Core cycles that end between two successive stamps: the root runs four cycles to the tick (02 Table 2.1). -/
def cyclesIn (opp stamp : Nat) : Nat := 4 * (stamp + 1) / coreDivisor opp - 4 * stamp / coreDivisor opp

/-- CYCLE of a core in CS0 advances (20 Table 20.1). -/
def tickCpu (stamp : Nat) (c : Cpu) : Cpu :=
  if inCs0 c then setSys 0x440 (sysReg c 0x440 + BitVec.ofNat 64 (cyclesIn c.opp stamp)) c else c

/-- Whether the root PLL has locked (02 R44): from boot stage 0x1 on, until the stop. -/
def rootLocked (s : State) : Bool :=
  match s.phase with
  | .off => false
  | .stopped => false
  | .boot _ => true
  | .failed _ => true
  | .running => true

end Sys2Proof.Machine
end

