-- ==== Sys2Proof/Machine/Box.lean ====
section
/-! DEFINITION. Box, the metrology die (18): register, commits, log, seal and the maintenance port. -/

namespace Sys2Proof.Machine
open Sys2Proof

/-! ## Status and log (18 R498, R500, Tables 18.1, 18.2, 18.5) -/

/-- Box is sealed while more SEAL fuses than BREAK fuses are blown (18 R500). -/
def boxSealed (b : Box) : Bool := decide (b.breaks < b.seals)

/-- Codes whose records are never overwritten (18 R498). -/
def boxProtected (r : BoxRec) : Bool := decide (0x10 ≤ r.code ∧ r.code ≤ 0x12)

/-- Protected records held. -/
def boxProtCount (b : Box) : Nat := (b.log.filter (fun x => boxProtected x.2)).length

/-- BOX_STATUS (18 Table 18.5). -/
def boxStatus (s : State) : Nat :=
  let b := s.box
  b.seals * 2 ^ 28 + b.breaks * 2 ^ 24 + boxProtCount b * 2 ^ 16 + (!(rootLocked s)).toNat * 32 + b.reverse.toNat * 16 +
  (b.outV || b.outI).toNat * 8 + b.fault.toNat * 4 + b.maint.toNat * 2 + (boxSealed b).toNat

/-- The stamp of a record of Box, and the last stamp it received. -/
def boxStamp (s : State) : Nat := if rootLocked s then s.stamp else s.box.lastStamp

/-- The ring position a new record takes: the first one never written, else that of the oldest unprotected record. -/
def boxPlace (b : Box) : Option Nat :=
  match (List.range 1024).find? (fun p => (mFind b.log p).isNone) with
  | some p => some p
  | none => ((b.log.filter (fun x => !(boxProtected x.2))).foldl (fun (a : Option (Nat × BoxRec)) x =>
      match a with
      | none => some x
      | some y => if x.2.bseq < y.2.bseq then some x else some y) none).map (·.1)

/-- Log a record; BSEQ starts at 1. -/
def boxLog (code flags value value2 : Nat) (s : State) : State :=
  let b := s.box
  match boxPlace b with
  | none => s
  | some p =>
    let r : BoxRec := { stamp := boxStamp s, bseq := b.bseq + 1, code := code, flags := flags + (!(rootLocked s)).toNat,
                        boots := b.boots, energy := b.energy, value := value % 2 ^ 32, value2 := value2 % 2 ^ 32 }
    { s with box := { b with log := mIns b.log p r, bseq := b.bseq + 1 } }

/-- A record's 32 octets. -/
def boxRecOctets (r : BoxRec) : List Byte :=
  leBytes 8 r.stamp ++ leBytes 4 r.bseq ++ leBytes 1 r.code ++ leBytes 1 r.flags ++ leBytes 2 r.boots ++ leBytes 8 r.energy ++
  leBytes 4 r.value ++ leBytes 4 r.value2

/-! ## Commits (18 R496) -/

/-- The copy written next: the one that is not the newest valid one. -/
def boxTurn (b : Box) : Nat :=
  if ¬ b.copy0.valid then 0 else if ¬ b.copy1.valid then 1 else if b.copy1.seq < b.copy0.seq then 1 else 0

/-- Write the register into the next copy. -/
def boxWriteCopy (s : State) : State :=
  let b := s.box
  let c : BoxCopy := { energy := b.energy, fine := b.fine, boots := b.boots, seq := max b.copy0.seq b.copy1.seq + 1, valid := true }
  { s with box := if boxTurn b = 0 then { b with copy0 := c } else { b with copy1 := c } }

/-- Add a cause to the log record of a commit already made in this update. -/
def boxAddCause (bseq cause : Nat) (s : State) : State :=
  { s with box := { s.box with log := s.box.log.map (fun x => if x.2.bseq = bseq then (x.1, { x.2 with flags := x.2.flags ||| cause }) else x) } }

/-- A cause of commit: 4 emergency, 8 supply fail, 16 periodic. Two causes in one update make one commit whose record carries both; a
periodic commit alone is not logged (18 R496, Table 18.2). -/
def boxCommit (cause v : Nat) (s : State) : State :=
  if ¬ s.box.on then s
  else
    let t := boxTurn s.box
    let first := decide (s.box.cflags = 0)
    let s := if first then boxWriteCopy s else s
    let copy := if first then t else 1 - t
    let causes := s.box.cflags ||| cause
    let s := { s with box := { s.box with cflags := causes } }
    match s.box.cseq with
    | some q => boxAddCause q cause s
    | none =>
      if cause = 16 then s
      else
        let s := boxLog 0x02 causes v copy s
        { s with box := { s.box with cseq := some s.box.bseq } }

/-! ## Start (18 R497) -/

/-- The newest valid copy. -/
def boxNewest (b : Box) : Option Nat :=
  match b.copy0.valid, b.copy1.valid with
  | true, true => some (if b.copy0.seq < b.copy1.seq then 1 else 0)
  | true, false => some 0
  | false, true => some 1
  | false, false => none

/-- Box starts: it takes the newer valid copy and logs its start; a failed check freezes the register at the last valid value. -/
def boxStart (v : Nat) (cal ref bad0 bad1 : Bool) (s : State) : State :=
  if s.box.on then s
  else
    let b := s.box
    let b := { b with
      copy0 := { b.copy0 with valid := b.copy0.valid && !bad0 }
      copy1 := { b.copy1 with valid := b.copy1.valid && !bad1 } }
    let k := boxNewest b
    let c := match k with | some 0 => b.copy0 | some _ => b.copy1 | none => { energy := b.energy, fine := b.fine, boots := b.boots }
    let check := if ¬ cal then 1 else if ¬ ref then 2 else if k = none then 3 else 0
    let b := { b with
      on := true
      energy := c.energy
      fine := c.fine
      boots := c.boots + 1
      fault := decide (check ≠ 0)
      lastStamp := if rootLocked s then s.stamp else 0
      reverse := false
      outV := false
      outI := false
      cmd := none
      cflags := 0
      cseq := none
      snap := {} }
    let s := boxLog 0x01 0 v (k.getD 0) { s with box := b }
    if check = 0 then s else boxLog 0x06 0 check 0 s

/-! ## Updates (18 R493-R495) -/

/-- A condition's start and end are logged. -/
def boxEdge (code : Nat) (was now : Bool) (v : Nat) (s : State) : State := if was = now then s else boxLog code (if now then 2 else 0) v 0 s

/-- One update: `e` nWh integrated since the last one, input in 10 mV and current in 10 mA, and whether power flows back (18 R492-R495). -/
def boxUpdate (e v i : Nat) (rev : Bool) (s : State) : State :=
  if ¬ s.box.on then s
  else
    let b := s.box
    let add := if rev ∨ i < 10 ∨ b.fault then 0 else e
    let units := (b.fine + add) / 1000000
    let pulses := (b.energy + units) / 100 - b.energy / 100
    let outV := decide (v < 3600 ∨ 7500 < v)
    let outI := decide (i < 200 ∨ 3000 < i)
    let s := { s with box := { b with
      energy := b.energy + units
      fine := (b.fine + add) % 1000000
      cflags := 0
      cseq := none
      lastStamp := boxStamp s } }
    let s := boxEdge 0x05 b.reverse rev i (boxEdge 0x04 b.outI outI i (boxEdge 0x03 b.outV outV v s))
    let s := { s with box := { s.box with reverse := rev, outV := outV, outI := outI } }
    let s := { s with box := { s.box with snap := { energy := s.box.energy, stamp := boxStamp s, boots := s.box.boots, status := boxStatus s, volts := v, amps := i } } }
    if pulses = 0 then s else emit (.pulse pulses) s

/-! ## Maintenance (18 R501-R503) -/

/-- A command that fails its condition, or is abandoned: 1 UNSEAL, 2 LOAD, 3 SEAL (log 27). -/
def maintRefused (cmd reason : Nat) (s : State) : State :=
  let s := boxLog 0x14 0 cmd reason s
  { s with box := { s.box with cmd := none } }

/-- A command under way is abandoned. -/
def maintAbandon (reason : Nat) (s : State) : State :=
  match s.box.cmd with
  | some c => maintRefused c reason s
  | none => s

/-- The condition of a command, 0 when it holds (18 Table 18.3, Table 18.2 reasons). -/
def unsealCheck (b : Box) : Nat := if ¬ boxSealed b then 1 else if 8 ≤ b.breaks then 2 else 0
def sealCheck (b : Box) : Nat := if boxSealed b then 1 else if 8 ≤ b.seals then 2 else 0
def loadCheck (b : Box) (img : BoxImage) : Nat :=
  if boxSealed b then 1 else if ¬ (img.mldsa ∧ img.ecdsa ∧ img.keyOk) then 3 else if img.version < b.minver then 4
  else if 32 ≤ boxProtCount b then 5 else 0

/-- Blow the next BREAK fuse; the record names it. -/
def unsealDo (s : State) : State :=
  let k := s.box.breaks
  boxLog 0x10 0 k s.box.version { s with box := { s.box with breaks := k + 1, cmd := none } }

/-- Blow the next SEAL fuse. -/
def sealDo (s : State) : State :=
  let k := s.box.seals
  boxLog 0x12 0 k s.box.version { s with box := { s.box with seals := k + 1, cmd := none } }

/-- The image goes to the inactive slot and Box restarts on it, with the checks of a start; the register runs on in hardware (18 R497, R503). -/
def loadDo (img : BoxImage) (s : State) : State :=
  let s := { s with box := { s.box with
    version := img.version % 2 ^ 16
    digest := img.digest
    slot := 1 - s.box.slot
    boots := s.box.boots + 1
    minver := max s.box.minver img.minver
    fault := decide (img.check ≠ 0)
    cmd := none } }
  let s := boxLog 0x01 0 s.box.snap.volts ((boxNewest s.box).getD 0) s
  let s := if img.check = 0 then s else boxLog 0x06 0 img.check 0 s
  boxLog 0x11 0 s.box.version (leNat (img.digest.take 4)) s

/-- A maintenance command, taken only while BOX_MAINT_N is low. `go` is false while it is under way, before its effect. -/
def maintCmd (cmd check : Nat) (go : Bool) (act : State → State) (s : State) : State :=
  if ¬ s.box.on ∨ ¬ s.box.maint ∨ ¬ (s.box.cmd = none ∨ s.box.cmd = some cmd) then s
  else if check ≠ 0 then maintRefused cmd check s
  else if go then act s
  else { s with box := { s.box with cmd := some cmd } }

/-- The land goes low or is released. -/
def maintLand (low : Bool) (s : State) : State :=
  if low then { s with box := { s.box with maint := true } }
  else let s := maintAbandon 7 s
       { s with box := { s.box with maint := false } }

/-- The input falls below 24 V: the register is committed, a command is abandoned, and Box stops (18 R496, R503). -/
def supplyFail (v : Nat) (s : State) : State :=
  if ¬ s.box.on then s
  else
    let s := maintAbandon 6 (boxCommit 8 v s)
    { s with box := { s.box with on := false } }

/-! ## Meanings -/

/-- BOX_START (18 R497). -/
def execBoxStart (v : Nat) (cal ref bad0 bad1 : Bool) (s : State) : Host.Outcome State Fault Refusal := .next (boxStart v cal ref bad0 bad1 s)

/-- BOX_UPDATE (18 R494). -/
def execBoxUpdate (e v i : Nat) (rev : Bool) (s : State) : Host.Outcome State Fault Refusal := .next (boxUpdate e v i rev s)

/-- COMMIT_PERIODIC (18 R496). -/
def execCommitPeriodic (s : State) : Host.Outcome State Fault Refusal := .next (boxCommit 16 s.box.snap.volts s)

/-- SUPPLY_FAIL (18 R496). -/
def execSupplyFail (v : Nat) (s : State) : Host.Outcome State Fault Refusal := .next (supplyFail v s)

/-- UNSEAL (18 R501). -/
def execBoxUnseal (go : Bool) (s : State) : Host.Outcome State Fault Refusal := .next (maintCmd 1 (unsealCheck s.box) go unsealDo s)

/-- LOAD (18 R501). -/
def execBoxLoad (img : BoxImage) (go : Bool) (s : State) : Host.Outcome State Fault Refusal := .next (maintCmd 2 (loadCheck s.box img) go (loadDo img) s)

/-- SEAL (18 R501). -/
def execBoxSeal (go : Bool) (s : State) : Host.Outcome State Fault Refusal := .next (maintCmd 3 (sealCheck s.box) go sealDo s)

/-- MAINT_RELEASED (18 R503). -/
def execMaintReleased (s : State) : Host.Outcome State Fault Refusal := .next (maintLand false s)

/-- BOX_MAINT_N_LOW (18 R501). -/
def execBoxMaintNLow (s : State) : Host.Outcome State Fault Refusal := .next (maintLand true s)

end Sys2Proof.Machine
end

