-- ==== Sys2Proof/Machine/Clock.lean ====
section
/-! DEFINITION. The clock root, the stamp and the wrap bit (02). -/

namespace Sys2Proof.Machine
open Sys2Proof

/-- Ticks in which the reference may return (02 R42). -/
def holdoverTicks : Nat := 1600000

/-- REFERENCE_LOST: the root holds over, and a record is written (02 R42). The stamp keeps counting. -/
def referenceLost (s : State) : State :=
  if ¬ rootLocked s ∨ s.clk.refLostAt.isSome then s
  else noteDev 364 0x0701 4 0 0
    (raiseBits 0x1000 1 2 <| setObjFld 0x1000 1 2 0 6 { s with clk := { s.clk with refLostAt := some s.stamp } })

/-- REFERENCE_RETURN within the bound resumes lock; in the tick of the bound the return is evaluated first (02 R42, R54). -/
def referenceReturn (s : State) : State :=
  match s.clk.refLostAt with
  | none => s
  | some t =>
    if s.stamp ≤ t + holdoverTicks then
      setObjFld 0x1000 1 2 2 0 (setObjFld 0x1000 1 0 0 1 { s with clk := { s.clk with refLostAt := none } })
    else s

/-- Set the wrap bit of a message whose low stamp the stamp shows. -/
def wrapMsg (low : Nat) : Msg → Msg
  | .req o q => .req o { q with wrap := q.wrap || decide (q.lstamp = low) }
  | .snp o q => .snp o { q with wrap := q.wrap || decide (q.lstamp = low) }
  | .rsp o q => .rsp o { q with wrap := q.wrap || decide (q.lstamp = low) }
  | .dat o q => .dat o { q with wrap := q.wrap || decide (q.lstamp = low) }

/-- The wrap bit of a packet (02 R47): set once its injection tick has passed and the stamp shows its low bits again. -/
def wrapFlit (stamp : Nat) (f : Flit) : Flit := if f.at_ < stamp then { f with msg := wrapMsg (stamp % 4096) f.msg } else f

/-- Every path to the master is lost (02 R51). -/
def stampLinkLost (s : State) : State :=
  if isMaster s ∨ (linkTo s (masterOf s)).isSome ∨ (¬ aligned s ∧ flag (obj s 0x1110 1) 2 = true) then s
  else noteDev 364 0x0702 1 (masterOf s) 0
    (raiseBits 0x1110 1 4 <| setObjFld 0x1110 1 2 1 2 { s with clk := { s.clk with t1 := none, slew := 0 } })

/-- REFERENCE_LOST (02 R42). -/
def execReferenceLost (s : State) : Host.Outcome State Fault Refusal := .next (referenceLost s)

/-- REFERENCE_RETURN (02 R42). -/
def execReferenceReturn (s : State) : Host.Outcome State Fault Refusal := .next (referenceReturn s)

/-- WRAP_BIT_SET of the k-th message under way (02 R47). -/
def execWrapBitSet (k : Nat) (s : State) : Host.Outcome State Fault Refusal :=
  .next { s with net := s.net.modify k (wrapFlit s.stamp) }

/-- STAMP_LINK_LOST (02 R51). -/
def execStampLinkLost (s : State) : Host.Outcome State Fault Refusal := .next (stampLinkLost s)

end Sys2Proof.Machine
end

