-- ==== Sys2Proof/Machine/Float.lean ====
section
/-! DEFINITION. IEEE 754 arithmetic in binary32 and binary64 (05), on encodings as numbers, computed exactly and rounded once. -/

namespace Sys2Proof.Machine
open Sys2Proof

/-! ## Formats (05 R121): `d` false is binary32, true binary64 -/

/-- Precision p. -/
def fP (d : Bool) : Nat := if d then 53 else 24
/-- Width of the encoding. -/
def fW (d : Bool) : Nat := if d then 64 else 32
/-- Largest exponent of a finite number. -/
def fEmax (d : Bool) : Int := if d then 1023 else 127
/-- Smallest exponent of a normal number. -/
def fEmin (d : Bool) : Int := if d then -1022 else -126
/-- The exponent field of infinities and NaNs. -/
def fExpMax (d : Bool) : Nat := if d then 2047 else 255
/-- The canonical quiet NaN (05 R129). -/
def fNan (d : Bool) : Nat := if d then 0x7FF8000000000000 else 0x7FC00000
/-- An infinity. -/
def fInf (d sign : Bool) : Nat := sign.toNat * 2 ^ (fW d - 1) + fExpMax d * 2 ^ (fP d - 1)
/-- A zero. -/
def fZero (d sign : Bool) : Nat := sign.toNat * 2 ^ (fW d - 1)
/-- The largest finite value. -/
def fMax (d sign : Bool) : Nat := fInf d sign - 1

/-- What an encoding stands for: a finite value is (-1)^sign * m * 2^e with m > 0. -/
inductive FNum where
  | nan (signalling : Bool)
  | inf (sign : Bool)
  | zero (sign : Bool)
  | fin (sign : Bool) (m : Nat) (e : Int)
deriving DecidableEq, Repr

/-- Sign, exponent field and fraction of an encoding. -/
def fSign (d : Bool) (x : Nat) : Bool := x.testBit (fW d - 1)
def fExp (d : Bool) (x : Nat) : Nat := x / 2 ^ (fP d - 1) % (fExpMax d + 1)
def fFrac (d : Bool) (x : Nat) : Nat := x % 2 ^ (fP d - 1)

/-- Read an encoding. -/
def fUnpack (d : Bool) (x : Nat) : FNum :=
  let s := fSign d x
  let e := fExp d x
  let f := fFrac d x
  if e = fExpMax d then (if f = 0 then .inf s else .nan (!(f.testBit (fP d - 2))))
  else if e = 0 then (if f = 0 then .zero s else .fin s f (fEmin d - (fP d - 1)))
  else .fin s (f + 2 ^ (fP d - 1)) ((e : Int) - fEmax d - (fP d - 1))

/-! ## Rounding (05 Table 5.2, R128) -/

/-- Whether a quotient with remainder `r` of `den` rounds away, given its parity and sign. -/
def roundsUp (rm : Nat) (sign odd : Bool) (r den : Nat) : Bool :=
  if r = 0 then false
  else if rm = 0 then decide (den < 2 * r) || (decide (2 * r = den) && odd)
  else if rm = 1 then false
  else if rm = 2 then !sign
  else if rm = 3 then sign
  else decide (den ≤ 2 * r)

/-- num/den × 2^k rounded to an integer: the integer and whether it is inexact. -/
def roundScaled (rm : Nat) (sign : Bool) (num den : Nat) (k : Int) : Nat × Bool :=
  let n := if 0 ≤ k then num * 2 ^ k.toNat else num
  let m := if 0 ≤ k then den else den * 2 ^ (-k).toNat
  let q := n / m
  let r := n % m
  (if roundsUp rm sign (q % 2 = 1) r m then q + 1 else q, decide (r ≠ 0))

/-- The exponent E with 2^E ≤ num/den × 2^e < 2^(E+1). -/
def fLog (num den : Nat) (e : Int) : Int :=
  let g : Int := (Nat.log2 num : Int) - (Nat.log2 den : Int)
  let below := if 0 ≤ g then decide (num < den * 2 ^ g.toNat) else decide (num * 2 ^ (-g).toNat < den)
  e + (if below then g - 1 else g)

/-- Round the exact nonzero value (-1)^sign * num/den * 2^e into a format, with its flags. -/
def fRound (d : Bool) (rm : Nat) (sign : Bool) (num den : Nat) (e : Int) : Nat × FFlags :=
  let p : Int := fP d
  let E := fLog num den e
  let q := max (E - (p - 1)) (fEmin d - (p - 1))
  let r := roundScaled rm sign num den (e - q)
  let tiny := decide (E < fEmin d) && !(decide (E = fEmin d - 1) &&
    decide ((roundScaled rm sign num den (e - (E - (p - 1)))).1 = 2 ^ fP d))
  let m := r.1
  let inx := r.2
  let big := decide (m = 2 ^ fP d)
  let m' := if big then m / 2 else m
  let q' := if big then q + 1 else q
  if 2 ^ (fP d - 1) ≤ m' ∧ fEmax d < q' + (p - 1) then
    let toInf := rm = 0 ∨ rm = 4 ∨ (rm = 2 ∧ ¬ sign) ∨ (rm = 3 ∧ sign)
    (if toInf then fInf d sign else fMax d sign, { of := true, nx := true })
  else
    let ex := if m' < 2 ^ (fP d - 1) then 0 else (q' + (p - 1) + fEmax d).toNat
    let fr := m' % 2 ^ (fP d - 1)
    (sign.toNat * 2 ^ (fW d - 1) + ex * 2 ^ (fP d - 1) + fr, { uf := tiny && inx, nx := inx })

/-! ## Arithmetic (05 Table 5.1, Table 5.6) -/

/-- Invalid operation. -/
def fInvalid (d : Bool) : Nat × FFlags := (fNan d, { nv := true })

/-- The result when an operand is a NaN: canonical, with NV for a signalling one (05 Table 5.6). -/
def nanOf (d : Bool) (xs : List FNum) : Option (Nat × FFlags) :=
  if xs.any (fun x => decide (x = .nan true)) then some (fInvalid d)
  else if xs.any (fun x => decide (x = .nan false)) then some (fNan d, {}) else none

/-- The sign of an exact zero sum of addends that are not both zeros of one sign. -/
def zeroSumSign (rm : Nat) : Bool := decide (rm = 3)

/-- The sum of two numbers, neither a NaN. -/
def fAddNum (d : Bool) (rm : Nat) (x y : FNum) : Nat × FFlags :=
  match x, y with
  | .inf a, .inf b => if a = b then (fInf d a, {}) else fInvalid d
  | .inf a, _ => (fInf d a, {})
  | _, .inf b => (fInf d b, {})
  | .zero a, .zero b => (fZero d (if a = b then a else zeroSumSign rm), {})
  | .zero _, .fin s m e => fRound d rm s m 1 e
  | .fin s m e, .zero _ => fRound d rm s m 1 e
  | .fin s m e, .fin t n f =>
    let k := min e f
    let a : Int := (m * 2 ^ (e - k).toNat : Nat)
    let b : Int := (n * 2 ^ (f - k).toNat : Nat)
    let z : Int := (if s then -a else a) + (if t then -b else b)
    if z = 0 then (fZero d (zeroSumSign rm), {}) else fRound d rm (decide (z < 0)) z.natAbs 1 k
  | _, _ => fInvalid d

/-- A number with its sign inverted. -/
def fFlip : FNum → FNum
  | .nan s => .nan s
  | .inf s => .inf (!s)
  | .zero s => .zero (!s)
  | .fin s m e => .fin (!s) m e

/-- The exact product of two numbers, neither a NaN; none for 0 × ∞. -/
def fMulNum (x y : FNum) : Option FNum :=
  match x, y with
  | .inf a, .inf b => some (.inf (a != b))
  | .inf _, .zero _ => none
  | .zero _, .inf _ => none
  | .inf a, .fin b _ _ => some (.inf (a != b))
  | .fin a _ _, .inf b => some (.inf (a != b))
  | .zero a, .zero b => some (.zero (a != b))
  | .zero a, .fin b _ _ => some (.zero (a != b))
  | .fin a _ _, .zero b => some (.zero (a != b))
  | .fin a m e, .fin b n f => some (.fin (a != b) (m * n) (e + f))
  | _, _ => none

/-- A number rounded into a format. -/
def fPack (d : Bool) (rm : Nat) (x : FNum) : Nat × FFlags :=
  match x with
  | .nan s => (fNan d, { nv := s })
  | .inf s => (fInf d s, {})
  | .zero s => (fZero d s, {})
  | .fin s m e => fRound d rm s m 1 e

/-- FADD. -/
def fAdd (d : Bool) (rm x y : Nat) : Nat × FFlags :=
  let a := fUnpack d x
  let b := fUnpack d y
  (nanOf d [a, b]).getD (fAddNum d rm a b)

/-- FSUB. -/
def fSub (d : Bool) (rm x y : Nat) : Nat × FFlags :=
  let a := fUnpack d x
  let b := fUnpack d y
  (nanOf d [a, b]).getD (fAddNum d rm a (fFlip b))

/-- FMUL. -/
def fMul (d : Bool) (rm x y : Nat) : Nat × FFlags :=
  let a := fUnpack d x
  let b := fUnpack d y
  (nanOf d [a, b]).getD (match fMulNum a b with | some z => fPack d rm z | none => fInvalid d)

/-- FDIV. -/
def fDiv (d : Bool) (rm x y : Nat) : Nat × FFlags :=
  let a := fUnpack d x
  let b := fUnpack d y
  (nanOf d [a, b]).getD (match a, b with
    | .inf _, .inf _ => fInvalid d
    | .zero _, .zero _ => fInvalid d
    | .inf s, .zero t => (fInf d (s != t), {})
    | .inf s, .fin t _ _ => (fInf d (s != t), {})
    | .fin s _ _, .zero t => (fInf d (s != t), { dz := true })
    | .zero s, .fin t _ _ => (fZero d (s != t), {})
    | .zero s, .inf t => (fZero d (s != t), {})
    | .fin s _ _, .inf t => (fZero d (s != t), {})
    | .fin s m e, .fin t n f => fRound d rm (s != t) m n (e - f)
    | _, _ => fInvalid d)

/-- Integer square root, from bit `k` - 1 down. -/
def isqrt (n : Nat) : Nat → Nat → Nat
  | 0, r => r
  | k + 1, r => if (r + 2 ^ k) * (r + 2 ^ k) ≤ n then isqrt n k (r + 2 ^ k) else isqrt n k r

/-- FSQRT: enough bits of the root, the rest as one sticky bit. -/
def fSqrt (d : Bool) (rm x : Nat) : Nat × FFlags :=
  let a := fUnpack d x
  (nanOf d [a]).getD (match a with
    | .zero s => (fZero d s, {})
    | .inf false => (fInf d false, {})
    | .fin false m e =>
      let m := if e % 2 = 0 then m else 2 * m
      let e := if e % 2 = 0 then e else e - 1
      let n := m * 2 ^ 120
      let r := isqrt n 90 0
      fRound d rm false (2 * r + (if r * r = n then 0 else 1)) 1 (e / 2 - 61)
    | _ => fInvalid d)

/-- The FMADD family: ±(x × y ± z) rounded once (05 R124). -/
def fFma (d : Bool) (rm : Nat) (subZ neg : Bool) (x y z : Nat) : Nat × FFlags :=
  let a := fUnpack d x
  let b := fUnpack d y
  let c := fUnpack d z
  let zeroInf := match a, b with | .zero _, .inf _ => true | .inf _, .zero _ => true | _, _ => false
  if zeroInf then fInvalid d
  else (nanOf d [a, b, c]).getD (
    let c := if subZ then fFlip c else c
    match fMulNum a b with
    | none => fInvalid d
    | some p =>
      -- the negated forms round the negated expression
      let zeros := match p, c with
        | .zero s, .zero t => some (if s = t then s else zeroSumSign rm)
        | .fin s m e, .fin t n f =>
          if s ≠ t ∧ m * 2 ^ (e - min e f).toNat = n * 2 ^ (f - min e f).toNat then some (zeroSumSign rm) else none
        | _, _ => none
      match zeros with
      | some s => (fZero d (if neg then !s else s), {})
      | none => if neg then fAddNum d rm (fFlip p) (fFlip c) else fAddNum d rm p c)

/-! ## Comparisons, minima, classes -/

/-- Order of two numbers, neither a NaN: less, equal or greater as -1, 0, 1. -/
def fCmp (x y : FNum) : Int :=
  let key : FNum → Int × Bool × Nat × Int
    | .inf s => (if s then -2 else 2, s, 0, 0)
    | .zero _ => (0, false, 0, 0)
    | .fin s m e => (if s then -1 else 1, s, m, e)
    | .nan _ => (0, false, 0, 0)
  let a := key x
  let b := key y
  if a.1 ≠ b.1 then (if a.1 < b.1 then -1 else 1)
  else if a.1 = 1 ∨ a.1 = -1 then
    let k := min a.2.2.2 b.2.2.2
    let m : Int := (a.2.2.1 * 2 ^ (a.2.2.2 - k).toNat : Nat)
    let n : Int := (b.2.2.1 * 2 ^ (b.2.2.2 - k).toNat : Nat)
    let c : Int := if m < n then -1 else if m = n then 0 else 1
    if a.2.1 then -c else c
  else 0

/-- Whether a number is a NaN, and a signalling one. -/
def isNan : FNum → Bool
  | .nan _ => true
  | _ => false
def isSnan (x : FNum) : Bool := decide (x = .nan true)

/-- FMIN and FMAX (05 Table 5.6): minimumNumber and maximumNumber. -/
def fMinMax (d mx : Bool) (x y : Nat) : Nat × FFlags :=
  let a := fUnpack d x
  let b := fUnpack d y
  let fl : FFlags := { nv := isSnan a || isSnan b }
  if isNan a ∧ isNan b then (fNan d, fl)
  else if isNan a then (y % 2 ^ fW d, fl)
  else if isNan b then (x % 2 ^ fW d, fl)
  else
    let c := fCmp a b
    let x := x % 2 ^ fW d
    let y := y % 2 ^ fW d
    if c = 0 then
      let pick := if fSign d x = mx then y else x
      (pick, {})
    else (if (decide (c < 0)) = mx then y else x, {})

/-- FCEQ, FCLT and FCLE (05 Table 5.6): 0 equal, 1 less, 2 less or equal. -/
def fCompare (d : Bool) (k x y : Nat) : Bool × FFlags :=
  let a := fUnpack d x
  let b := fUnpack d y
  if isNan a ∨ isNan b then (false, { nv := decide (k ≠ 0) || isSnan a || isSnan b })
  else
    let c := fCmp a b
    (if k = 0 then decide (c = 0) else if k = 1 then decide (c < 0) else decide (c ≤ 0), {})

/-- FKIND (05 Table 5.3). -/
def fKind (d : Bool) (x : Nat) : Nat :=
  match fUnpack d x with
  | .zero s => if s then 2 else 1
  | .fin s _ _ => if fExp d x = 0 then (if s then 8 else 4) else (if s then 32 else 16)
  | .inf s => if s then 128 else 64
  | .nan sg => if sg then 512 else 256

/-! ## Conversions (05 R131) -/

/-- FCVT.F into format `d` from the other one. -/
def fCvt (d : Bool) (rm x : Nat) : Nat × FFlags :=
  let a := fUnpack (!d) x
  (nanOf d [a]).getD (fPack d rm a)

/-- FTOI into a signed or unsigned integer of `w` bits: its value modulo 2^w. -/
def fToI (d : Bool) (rm w : Nat) (signed : Bool) (x : Nat) : Nat × FFlags :=
  let hi : Int := if signed then 2 ^ (w - 1) - 1 else 2 ^ w - 1
  let lo : Int := if signed then -(2 ^ (w - 1)) else 0
  let pack (z : Int) : Nat := (BitVec.ofInt w z).toNat
  match fUnpack d x with
  | .nan _ => (pack hi, { nv := true })
  | .inf s => (pack (if s then lo else hi), { nv := true })
  | .zero _ => (0, {})
  | .fin s m e =>
    let r := roundScaled rm s m 1 e
    let z : Int := if s then -(r.1 : Int) else r.1
    if hi < z then (pack hi, { nv := true })
    else if z < lo then (pack lo, { nv := true })
    else (pack z, { nx := r.2 })

/-- FFROMI of an integer. -/
def fFromI (d : Bool) (rm : Nat) (z : Int) : Nat × FFlags :=
  if z = 0 then (fZero d false, {}) else fRound d rm (decide (z < 0)) z.natAbs 1 0

/-! ## Forms -/

/-- A binary32 operand ignores bits 63:32 (05 R121). -/
def fOpnd (d : Bool) (w : Word) : Nat := if d then w.toNat else w.toNat % 2 ^ 32

/-- An instruction that writes an f register, with its flags (05 R121, R127). -/
def fpToF (h : Hart) (rd : Reg) (r : Nat × FFlags) (s : State) : State × Done :=
  (modCpu h (fun c => raiseFlags r.2 (setFpr rd (BitVec.ofNat 64 r.1) c)) s, .seq)

/-- An instruction that writes a g register, with its flags. -/
def fpToG (h : Hart) (rd : Reg) (v : Word) (fl : FFlags) (s : State) : State × Done :=
  (modCpu h (fun c => raiseFlags fl (setGpr rd ⟨v, .data⟩ c)) s, .seq)

/-- Two f operands. -/
def fp2 (h : Hart) (rd ra rb : Reg) (d : Bool) (rm : BitVec 3) (f : Bool → Nat → Nat → Nat → Nat × FFlags) (s : State) : State × Done :=
  let c := cpuOf s h
  fpToF h rd (f d (rmOf c rm) (fOpnd d (fpr c ra)) (fOpnd d (fpr c rb))) s

/-- Three f operands. -/
def fp3 (h : Hart) (rd ra rb rc : Reg) (d : Bool) (rm : BitVec 3) (subZ neg : Bool) (s : State) : State × Done :=
  let c := cpuOf s h
  fpToF h rd (fFma d (rmOf c rm) subZ neg (fOpnd d (fpr c ra)) (fOpnd d (fpr c rb)) (fOpnd d (fpr c rc))) s

/-- One f operand, no rounding: bits only. -/
def fpBits (h : Hart) (rd ra : Reg) (d : Bool) (f : Nat → Nat) (s : State) : State × Done :=
  fpToF h rd (f (fOpnd d (fpr (cpuOf s h) ra)), {}) s

/-- A comparison into g. -/
def fpCmp (h : Hart) (rd ra rb : Reg) (d : Bool) (k : Nat) (s : State) : State × Done :=
  let c := cpuOf s h
  let r := fCompare d k (fOpnd d (fpr c ra)) (fOpnd d (fpr c rb))
  fpToG h rd (ofBool r.1) r.2 s

/-- FTOI into g: 32-bit results sign- or zero-extended (05 R123). -/
def fpToI (h : Hart) (rd ra : Reg) (d : Bool) (rm : BitVec 3) (w : Nat) (signed : Bool) (s : State) : State × Done :=
  let c := cpuOf s h
  let r := fToI d (rmOf c rm) w signed (fOpnd d (fpr c ra))
  fpToG h rd (if signed then sext w r.1 else BitVec.ofNat 64 r.1) r.2 s

/-- FFROMI from g, with the tag checks of a move from g to f (05 R132). -/
def fpFromI (h : Hart) (rd ra : Reg) (d : Bool) (rm : BitVec 3) (w : Nat) (signed : Bool) (s : State) : State × Done :=
  let c := cpuOf s h
  let x := gpr c ra
  match srcExc c [x] with
  | some e => (s, .exc e)
  | none =>
    let n := BitVec.ofNat w x.v.toNat
    fpToF h rd (fFromI d (rmOf c rm) (if signed then n.toInt else n.toNat)) s

/-! ## Meanings -/

/-- FADD (05 Table 5.1). -/
def execFadd (h : Hart) (rd ra rb : Reg) (d : Bool) (rm : BitVec 3) (s : State) : Host.Outcome State Fault Refusal :=
  run h (.fadd h rd ra rb d rm) (fp2 h rd ra rb d rm fAdd) s

/-- FSUB (05 Table 5.1). -/
def execFsub (h : Hart) (rd ra rb : Reg) (d : Bool) (rm : BitVec 3) (s : State) : Host.Outcome State Fault Refusal :=
  run h (.fsub h rd ra rb d rm) (fp2 h rd ra rb d rm fSub) s

/-- FMUL (05 Table 5.1). -/
def execFmul (h : Hart) (rd ra rb : Reg) (d : Bool) (rm : BitVec 3) (s : State) : Host.Outcome State Fault Refusal :=
  run h (.fmul h rd ra rb d rm) (fp2 h rd ra rb d rm fMul) s

/-- FDIV (05 Table 5.1). -/
def execFdiv (h : Hart) (rd ra rb : Reg) (d : Bool) (rm : BitVec 3) (s : State) : Host.Outcome State Fault Refusal :=
  run h (.fdiv h rd ra rb d rm) (fp2 h rd ra rb d rm fDiv) s

/-- FSQRT (05 Table 5.1). -/
def execFsqrt (h : Hart) (rd ra : Reg) (d : Bool) (rm : BitVec 3) (s : State) : Host.Outcome State Fault Refusal :=
  run h (.fsqrt h rd ra d rm) (fp2 h rd ra ra d rm (fun d rm x _ => fSqrt d rm x)) s

/-- FMIN (05 Table 5.1). -/
def execFmin (h : Hart) (rd ra rb : Reg) (d : Bool) (s : State) : Host.Outcome State Fault Refusal :=
  run h (.fmin h rd ra rb d) (fp2 h rd ra rb d 0 (fun d _ x y => fMinMax d false x y)) s

/-- FMAX (05 Table 5.1). -/
def execFmax (h : Hart) (rd ra rb : Reg) (d : Bool) (s : State) : Host.Outcome State Fault Refusal :=
  run h (.fmax h rd ra rb d) (fp2 h rd ra rb d 0 (fun d _ x y => fMinMax d true x y)) s

/-- FCOPYSIGN (05 Table 5.1). -/
def execFcopysign (h : Hart) (rd ra rb : Reg) (d : Bool) (s : State) : Host.Outcome State Fault Refusal :=
  run h (.fcopysign h rd ra rb d) (fp2 h rd ra rb d 0 (fun d _ x y =>
    (x % 2 ^ (fW d - 1) + (fSign d y).toNat * 2 ^ (fW d - 1), {}))) s

/-- FNEG (05 Table 5.1). -/
def execFneg (h : Hart) (rd ra : Reg) (d : Bool) (s : State) : Host.Outcome State Fault Refusal :=
  run h (.fneg h rd ra d) (fpBits h rd ra d (fun x => if fSign d x then x - 2 ^ (fW d - 1) else x + 2 ^ (fW d - 1))) s

/-- FABS (05 Table 5.1). -/
def execFabs (h : Hart) (rd ra : Reg) (d : Bool) (s : State) : Host.Outcome State Fault Refusal :=
  run h (.fabs h rd ra d) (fpBits h rd ra d (fun x => x % 2 ^ (fW d - 1))) s

/-- FCEQ (05 Table 5.1). -/
def execFceq (h : Hart) (rd ra rb : Reg) (d : Bool) (s : State) : Host.Outcome State Fault Refusal :=
  run h (.fceq h rd ra rb d) (fpCmp h rd ra rb d 0) s

/-- FCLT (05 Table 5.1). -/
def execFclt (h : Hart) (rd ra rb : Reg) (d : Bool) (s : State) : Host.Outcome State Fault Refusal :=
  run h (.fclt h rd ra rb d) (fpCmp h rd ra rb d 1) s

/-- FCLE (05 Table 5.1). -/
def execFcle (h : Hart) (rd ra rb : Reg) (d : Bool) (s : State) : Host.Outcome State Fault Refusal :=
  run h (.fcle h rd ra rb d) (fpCmp h rd ra rb d 2) s

/-- FKIND (05 Table 5.3). -/
def execFkind (h : Hart) (rd ra : Reg) (d : Bool) (s : State) : Host.Outcome State Fault Refusal :=
  run h (.fkind h rd ra d) (fun s => fpToG h rd (BitVec.ofNat 64 (fKind d (fOpnd d (fpr (cpuOf s h) ra)))) {} s) s

/-- FCVT.F: the operand is in the other format (05 Table 5.1). -/
def execFcvtF (h : Hart) (rd ra : Reg) (d : Bool) (rm : BitVec 3) (s : State) : Host.Outcome State Fault Refusal :=
  run h (.fcvtF h rd ra d rm) (fun s => fpToF h rd (fCvt d (rmOf (cpuOf s h) rm) (fOpnd (!d) (fpr (cpuOf s h) ra))) s) s

/-- FTOI.W (05 R131). -/
def execFtoiW (h : Hart) (rd ra : Reg) (d : Bool) (rm : BitVec 3) (s : State) : Host.Outcome State Fault Refusal :=
  run h (.ftoiW h rd ra d rm) (fpToI h rd ra d rm 32 true) s

/-- FTOI.WU (05 R131). -/
def execFtoiWu (h : Hart) (rd ra : Reg) (d : Bool) (rm : BitVec 3) (s : State) : Host.Outcome State Fault Refusal :=
  run h (.ftoiWu h rd ra d rm) (fpToI h rd ra d rm 32 false) s

/-- FTOI.L (05 R131). -/
def execFtoiL (h : Hart) (rd ra : Reg) (d : Bool) (rm : BitVec 3) (s : State) : Host.Outcome State Fault Refusal :=
  run h (.ftoiL h rd ra d rm) (fpToI h rd ra d rm 64 true) s

/-- FTOI.LU (05 R131). -/
def execFtoiLu (h : Hart) (rd ra : Reg) (d : Bool) (rm : BitVec 3) (s : State) : Host.Outcome State Fault Refusal :=
  run h (.ftoiLu h rd ra d rm) (fpToI h rd ra d rm 64 false) s

/-- FFROMI.W (05 R131). -/
def execFfromiW (h : Hart) (rd ra : Reg) (d : Bool) (rm : BitVec 3) (s : State) : Host.Outcome State Fault Refusal :=
  run h (.ffromiW h rd ra d rm) (fpFromI h rd ra d rm 32 true) s

/-- FFROMI.WU (05 R131). -/
def execFfromiWu (h : Hart) (rd ra : Reg) (d : Bool) (rm : BitVec 3) (s : State) : Host.Outcome State Fault Refusal :=
  run h (.ffromiWu h rd ra d rm) (fpFromI h rd ra d rm 32 false) s

/-- FFROMI.L (05 R131). -/
def execFfromiL (h : Hart) (rd ra : Reg) (d : Bool) (rm : BitVec 3) (s : State) : Host.Outcome State Fault Refusal :=
  run h (.ffromiL h rd ra d rm) (fpFromI h rd ra d rm 64 true) s

/-- FFROMI.LU (05 R131). -/
def execFfromiLu (h : Hart) (rd ra : Reg) (d : Bool) (rm : BitVec 3) (s : State) : Host.Outcome State Fault Refusal :=
  run h (.ffromiLu h rd ra d rm) (fpFromI h rd ra d rm 64 false) s

/-- FMV.TOG (05 Table 5.1). -/
def execFmvTog (h : Hart) (rd ra : Reg) (d : Bool) (s : State) : Host.Outcome State Fault Refusal :=
  run h (.fmvTog h rd ra d) (fun s => fpToG h rd (BitVec.ofNat 64 (fOpnd d (fpr (cpuOf s h) ra))) {} s) s

/-- FMV.FROMG, with the tag checks of a move from g to f (05 R132). -/
def execFmvFromg (h : Hart) (rd ra : Reg) (d : Bool) (s : State) : Host.Outcome State Fault Refusal :=
  run h (.fmvFromg h rd ra d) (fun s =>
    let x := gpr (cpuOf s h) ra
    match srcExc (cpuOf s h) [x] with
    | some e => (s, .exc e)
    | none => fpToF h rd (fOpnd d x.v, {}) s) s

/-- FMADD (05 R124). -/
def execFmadd (h : Hart) (rd ra rb rc : Reg) (d : Bool) (rm : BitVec 3) (s : State) : Host.Outcome State Fault Refusal :=
  run h (.fmadd h rd ra rb rc d rm) (fp3 h rd ra rb rc d rm false false) s

/-- FMSUB (05 R124). -/
def execFmsub (h : Hart) (rd ra rb rc : Reg) (d : Bool) (rm : BitVec 3) (s : State) : Host.Outcome State Fault Refusal :=
  run h (.fmsub h rd ra rb rc d rm) (fp3 h rd ra rb rc d rm true false) s

/-- FNMADD (05 R124). -/
def execFnmadd (h : Hart) (rd ra rb rc : Reg) (d : Bool) (rm : BitVec 3) (s : State) : Host.Outcome State Fault Refusal :=
  run h (.fnmadd h rd ra rb rc d rm) (fp3 h rd ra rb rc d rm false true) s

/-- FNMSUB (05 R124). -/
def execFnmsub (h : Hart) (rd ra rb rc : Reg) (d : Bool) (rm : BitVec 3) (s : State) : Host.Outcome State Fault Refusal :=
  run h (.fnmsub h rd ra rb rc d rm) (fp3 h rd ra rb rc d rm true true) s

end Sys2Proof.Machine
end

