-- ==== Sys2Proof/Machine/Power.lean ====
section
/-! DEFINITION. Power (17): input supervision, emergency stop, limiters, operating points, CS3 and the package states. -/

namespace Sys2Proof.Machine
open Sys2Proof

/-! ## Emergency save and stop (17 R487-R489) -/

/-- STOPPED: every state of 12 Table 12.14's last row is lost, with the logs and the RETAINED objects; fuses and Box stay. -/
def stoppedState (cause : Nat) (s : State) : State :=
  { phase := .stopped
    socket := s.socket
    objs := s.objs.filter (fun p => survives true p.1)
    octets := s.octets.filter (fun p => survives true p.1)
    yew := { rootHash := s.yew.rootHash, dbgHash := s.yew.dbgHash, dbgRevoked := s.yew.dbgRevoked, lifecycle := s.yew.lifecycle, defective := s.yew.defective }
    pwr := { vin := s.pwr.vin, stopLow := true, cause := some cause }
    box := { s.box with lastStamp := s.stamp }
    out := s.out
    pending := s.pending
    free := s.free }

/-- The steps of 17 Table 17.12, from step 5 of the power-up on; before it, the converters are only switched off (23 Table 23.7). -/
def emergency (cause value : Nat) (s : State) : State :=
  if ¬ rootLocked s ∨ cause < 2 ∨ 6 < cause then s
  else
    let s := recordsArrive (powerEvent cause value s)
    let s := boxCommit 4 s.pwr.vin s
    stoppedState cause (emergencyFrame cause s.pwr.vin s)

/-- A sample of the input in 10 mV, every 1 µs (17 R487). -/
def inputSample (v : Nat) (s : State) : State :=
  let p := s.pwr
  if s.phase = .off then { s with pwr := { p with vin := v } }
  else if s.phase = .stopped then
    let low := if v < 3000 then p.low + 1 else 0
    { s with pwr := { p with vin := v, low := low, fell := p.fell || decide (10000 ≤ low) } }
  else if v < 3400 then
    let lowest := if p.low = 0 then v else min p.lowest v
    let s := { s with pwr := { p with vin := v, low := p.low + 1, lowest := lowest, high := 0, highest := 0 } }
    if 50 ≤ p.low + 1 then emergency 2 lowest s else s
  else
    let s := if p.low = 0 then s else powerEvent 1 p.low s
    let p := { p with vin := v, low := 0, lowest := 0 }
    if v ≤ 7700 then { s with pwr := { p with high := 0, highest := 0 } }
    else
      let s := { s with pwr := { p with high := p.high + 1, highest := max p.highest v } }
      if 10 ≤ p.high + 1 then emergency 3 (max p.highest v) s else s

/-- The reference has been lost for 1 ms (02 R42). -/
def holdoverTimeout (s : State) : State :=
  match s.clk.refLostAt with
  | some t => if t + holdoverTicks ≤ s.stamp then emergency 4 0 s else s
  | none => s

/-! ## Limiters (17 R470, R472) -/

/-- What a limiter's point becomes when it is lowered or raised by one; at or below the core's request it no longer holds the core. -/
def lowerBy (lim : Nat) (c : Cpu) : Nat := if inCs0 c ∧ c.opp < 4 then c.opp + 1 else lim
def raiseBy (lim : Nat) (c : Cpu) : Nat := if lim - 1 ≤ fld (sysReg c 0xC30) 2 0 then 0 else lim - 1

/-- Apply a function to the cores for which a test holds. -/
def mapCores (p : Nat → Bool) (f : Cpu → Cpu) (s : State) : State :=
  (List.range 192).foldl (fun s n => if p n then modCpu (.core n) f s else s) s

/-- The cores of a compute die. -/
def onDie (s : State) (die n : Nat) : Bool := decide (tileOf s n < 216 ∧ dieOfTile (tileOf s n) = die)

/-- Share one millisecond's input energy of `left` × 0.1 mJ among the enclosures that run and the rest: the shares are free, their sum is
the energy measured (17 R505, log 29). -/
def shareEnergy (left : Nat) (s : State) : State :=
  let r := (List.range 16).foldl (fun (a : Nat × State) e =>
    if enclKnown a.2 e then
      let f := takeFree a.2
      let x := f.1 % (a.1 + 1)
      (a.1 - x, { f.2 with pwr := { f.2.pwr with energy := mPut 0 f.2.pwr.energy e (mGet 0 f.2.pwr.energy e + x) } })
    else a) (left, s)
  { r.2 with pwr := { r.2.pwr with energy := mPut 0 r.2.pwr.energy 16 (mGet 0 r.2.pwr.energy 16 + r.1) } }

/-- A 1 ms average: power in 0.1 W, input in 10 mV and 10 mA. -/
def powerCheck (avg v i : Nat) (s : State) : State :=
  if ¬ rootLocked s then s
  else
    let limit := 10 * objN s 0x2010 1
    let s := setObj 0x2000 2 (BitVec.ofNat 64 (min avg 0xFFFF)) (setObj 0x2000 1 (BitVec.ofNat 64 (v % 2 ^ 16 * 2 ^ 16 + i % 2 ^ 16)) s)
    let s := shareEnergy avg s
    if limit < avg then
      let s := if s.pwr.limit then s else powerEvent 0x10 avg s
      mapCores (fun _ => true) (fun c => retarget { c with powerLim := lowerBy c.powerLim c }) { s with pwr := { s.pwr with limit := true, under := 0 } }
    else if ¬ s.pwr.limit ∨ limit * 95 ≤ avg * 100 then { s with pwr := { s.pwr with under := 0 } }
    else if s.pwr.under + 1 < 10 then { s with pwr := { s.pwr with under := s.pwr.under + 1 } }
    else
      let s := mapCores (fun _ => true) (fun c => retarget { c with powerLim := raiseBy c.powerLim c }) { s with pwr := { s.pwr with under := 0 } }
      if s.cores.all (fun c => decide (c.2.powerLim = 0)) then powerEvent 0x11 avg { s with pwr := { s.pwr with limit := false } } else s

/-- A die's temperature in 0.1 °C, once per 1 ms (17 R472, 23 Table 23.5); Box has no limiter. -/
def thermalCheck (die : Nat) (temp : Int) (s : State) : State :=
  if ¬ rootLocked s ∨ 7 ≤ die then s
  else
    let s := setObj 0x2080 die (BitVec.ofInt 64 (temp % 65536)) s
    let on := mGet false s.pwr.therm die
    let set (b : Bool) (k : Nat) (s : State) : State := { s with pwr := { s.pwr with therm := mPut false s.pwr.therm die b, cool := mPut 0 s.pwr.cool die k } }
    if die = 6 then s
    else if 1000 ≤ temp then
      let s := if on then s else powerEvent 0x12 die s
      mapCores (onDie s die) (fun c => retarget { c with thermalLim := lowerBy c.thermalLim c }) (set true 0 s)
    else if ¬ on ∨ 950 ≤ temp then set on 0 s
    else if mGet 0 s.pwr.cool die + 1 < 10 then set on (mGet 0 s.pwr.cool die + 1) s
    else
      let s := mapCores (onDie s die) (fun c => retarget { c with thermalLim := raiseBy c.thermalLim c }) (set on 0 s)
      if (List.range 192).all (fun n => !(onDie s die n) || decide ((coreOf s n).thermalLim = 0)) then powerEvent 0x13 die (set false 0 s) else s

/-- The di/dt guard engages on a compute die or releases it; engagements are counted (17 R470, 20 Table 20.7). -/
def guardSet (die : Nat) (on : Bool) (s : State) : State :=
  if 4 ≤ die ∨ ¬ rootLocked s ∨ mGet false s.guard die = on then s
  else
    let s := if on then bumpObj 0x9700 die 32 1 s else s
    { s with guard := mPut false s.guard die on }

/-- The voltage that a core's rising operating point needs has arrived: the clock switches, then the next target is met (17 R474, R475). -/
def voltageReached (c : Cpu) : Cpu :=
  match c.moving with
  | some k => retarget { c with opp := k, moving := none }
  | none => c

/-! ## Package conditions (17 Table 17.7, log 30) -/

/-- Every logical core in CS1 or CS3; one that does not run (17 Table 17.9) prevents nothing. -/
def allIdle (s : State) : Bool :=
  s.cores.all (fun c => match c.2.run with | .running => c.2.halted | .failover => false | _ => true)

/-- Every logical core in CS3. -/
def allCs3 (s : State) : Bool :=
  s.cores.all (fun c => match c.2.run with | .running => false | .wfi => false | .failover => false | _ => true)

/-- Whether a coherent socket link is admitted. -/
def anyLinked (s : State) : Bool := (List.range 4).any (fun l => decide (fld (obj s 0xC100 l) 2 0 = 3))

/-- Whether an enclosure holds a locked LLC entry. -/
def anyLocked (s : State) : Bool := s.slices.any (fun p => p.2.llc.any (fun q => q.2.ways.any (fun w => w.2.lock)))

/-- Entry condition of PK2, PK4 or PK6. -/
def packCond (s : State) (k : Nat) : Bool :=
  if k = 2 then allIdle s
  else
    allCs3 s && s.queues.all (fun q => !(flag q.2.cfg 63) || decide (q.2.sqHead = q.2.sqTail)) && decide (s.work = []) &&
    s.journal.all (fun r => decide (r.st = .ended ∨ r.st = .suspended)) && decide (s.accel.jobs = []) && !(anyLinked s) &&
    (decide (k ≠ 6) || !(anyLocked s))

/-- PK_MAX permits a state. -/
def packPermitted (s : State) (k : Nat) : Bool := decide ((k = 2 ∨ k = 4 ∨ k = 6) ∧ k ≤ objN s 0x2020 1)

/-- The deepest permitted state whose condition holds. -/
def deepest (s : State) : Option Nat := [6, 4, 2].find? (fun k => packPermitted s k && packCond s k)

/-! ## The entry handshake (17 R481-R484) -/

/-- The units a package state asks: memory controllers, engines, root complexes and links, and from PK4 on the tiles (log 30). -/
def packUnits (k : Nat) : List Nat := (if k = 2 then [] else List.range 216) ++ (List.range 104).map (fun i => 256 + i)

/-- Attempts are kept by core number for CS3 and by 192 + k for PK k; the target that PWR_REFUSE shows. -/
def tryTarget (key : Nat) : Nat := if key < 192 then 3 else key - 192

/-- Whether any core is halted by a debug session. -/
def anyHalted (s : State) : Bool := s.cores.any (fun c => c.2.halted)

/-- The reason for which a unit must refuse, 0 for none (17 Table 17.8, 12 Table 12.15). -/
def mustRefuse (s : State) (key unit : Nat) : Nat :=
  if key < 192 then
    let c := coreOf s key
    if c.halted then 3 else if c.devSent ≠ 0 ∨ c.wait ≠ .none ∨ requestsOut s (tileOf s key) ≠ 0 then 1 else 0
  else if s.yew.d2At.isSome ∧ (s.yew.d2At = some s.stamp ∨ s.yew.d2At = (mFind s.pwr.tries key).map (·.at_)) then 4
  else if key < 196 then 0
  else if anyHalted s then 3
  else if 356 ≤ unit ∧ unit < 360 ∧ fld (obj s 0xC100 (unit - 356)) 2 0 = 3 then 5
  else if key = 198 ∧ unit < 216 ∧ anyLocked s then 6
  else 0

/-- A refusal ends the attempt, is stored and counted; debug refusals are recorded; the condition must hold anew (17 R481, R482). -/
def tryRefused (key unit reason : Nat) (s : State) : State :=
  let s := tryEnd key s
  let s := bumpObj 0x2050 2 32 1 (setObj 0x2050 1 (BitVec.ofNat 64 (tryTarget key * 2 ^ 28 + unit % 1024 * 2 ^ 16 + reason % 256)) s)
  let s := if key < 192 then modCpu (.core key) (fun c => { c with cs1At := s.stamp }) s
    else { s with pwr := { s.pwr with dwell := none } }
  if reason = 3 ∨ reason = 4 then powerEvent 0x20 reason s else s

/-- CS3 entry (17 R477), once the core's stores are written: what was fetched goes, the save slot is written, and the lines leave; those that
wait for an answer leave while the domain powers down (17 R484). Shadow entries are freed. -/
def enterCs3 (n : Nat) (s : State) : State :=
  let s := flushAll n false s
  let s := { s with ras := { s.ras with saves := mPut {} s.ras.saves n (saveCpu (coreOf s n)) } }
  let s := tileDrain (tileOf s n) (modTile (tileOf s n) (fun x => { x with shadow := [] }) s)
  noteD2 3 (modCpu (.core n) (fun c => { emptyCore c with run := .cs3 }) s)

/-- Lines of cores in CS3 whose eviction had to wait leave their tiles (17 R477). -/
def cs3Drain (s : State) : State :=
  (s.cores.filter (fun p => decide (p.2.run = .cs3) && !(tileAt s (tileOf s p.1)).l2.isEmpty)).foldl (fun s p => tileDrain (tileOf s p.1) s) s

/-- Every LLC sector is written back and dropped (17 Table 17.7, PK6). -/
def llcDropAll (s : State) : State :=
  let entries := s.slices.flatMap (fun p => p.2.llc.flatMap (fun q => (q.2.ways.filter (fun w => !w.2.empty)).map (·.2)))
  let s := entries.foldl (fun s e => entryWriteBack e s) s
  { s with slices := s.slices.map (fun p => (p.1, { p.2 with llc := [] })) }

/-- Each tag cache is written back (11 R277). -/
def tagsBack (s : State) : State :=
  { s with dram := { s.dram with tagc := s.dram.tagc.map (fun p => (p.1, psMap (fun _ => true) (fun x => some { x with dirty := false }) p.2)) } }

/-- Package state entry (17 Table 17.7). -/
def enterPack (k : Nat) (s : State) : State :=
  noteD2 k (setObj 0x2030 1 (BitVec.ofNat 64 k) { s with pwr := { s.pwr with entered := some s.stamp } })

/-- The package state entered in a tick that now ends is in force (17 Table 17.7, R482): tag caches are written back; in PK6 the LLC is dropped, the
channel ports are down and Privet is off. -/
def packSettle (s : State) : State :=
  if s.pwr.entered.isNone then s
  else
    let k := objN s 0x2030 1
    let s := { s with pwr := { s.pwr with entered := none } }
    let s := if 4 ≤ k then tagsBack s else s
    if k = 6 then (List.range 144).foldl (fun s p => if flag (obj s 0x7020 p) 8 then linkGone p s else s) (llcDropAll s) else s

/-- The last ACCEPT commits, unless the condition went meanwhile (17 R482); a core whose stores cannot all be written yet is busy. -/
def tryCommit (key : Nat) (s : State) : State :=
  let s := tryEnd key s
  if key < 192 then
    (if (coreOf s key).run = .wfi ∧ ¬ intPending s key true ∧ ¬ intPending s key false then
      (let r := fenceAll (.core key) s
       if r.2 then enterCs3 key r.1 else tryRefused key (tileOf s key) 1 r.1)
     else s)
  else if packPermitted s (key - 192) ∧ packCond s (key - 192) then enterPack (key - 192) s else s

/-- Cores whose last ACCEPT arrived in a tick that now ends enter CS3, unless an interrupt of the tick woke them (17 R482). -/
def coresCommit (s : State) : State :=
  (s.pwr.tries.filter (fun a => decide (a.1 < 192 ∧ a.2.waits = []))).foldl (fun s a => tryCommit a.1 s) s

/-- How long the deepest permitted package state's condition has held at the end of a tick (17 R479, R481). -/
def dwellOn (s : State) : State :=
  let d : Option (Nat × Nat) := match deepest s with
    | none => none
    | some k => match s.pwr.dwell with
      | some (j, t) => if j = k then some (j, t) else some (k, s.stamp)
      | none => some (k, s.stamp)
  if d = s.pwr.dwell then s else { s with pwr := { s.pwr with dwell := d } }

/-- A block answers ACCEPT; one that 17 Table 17.8 makes refuse, refuses. The core's entry commits at the end of the tick. -/
def tryAccept (key unit : Nat) (s : State) : State :=
  match mFind s.pwr.tries key with
  | none => s
  | some a =>
    if ¬ a.waits.contains unit then s
    else if mustRefuse s key unit ≠ 0 then tryRefused key unit (mustRefuse s key unit) s
    else
      let w := a.waits.filter (fun u => decide (u ≠ unit))
      if w = [] ∧ 192 ≤ key then tryCommit key s else { s with pwr := { s.pwr with tries := mIns s.pwr.tries key { a with waits := w } } }

/-- A block answers DELAY d: past 800,000 ticks from the first ASK it counts as REFUSE with reason DELAY. -/
def tryDelay (key unit d : Nat) (s : State) : State :=
  match mFind s.pwr.tries key with
  | none => s
  | some a => if a.waits.contains unit ∧ a.at_ + 800000 < s.stamp + d then tryRefused key unit 2 s else s

/-- A block has not answered within 800,000 ticks. -/
def tryTimeout (key unit : Nat) (s : State) : State :=
  match mFind s.pwr.tries key with
  | none => s
  | some a => if a.waits.contains unit ∧ a.at_ + 800000 ≤ s.stamp then tryRefused key unit 2 s else s

/-- A block answers REFUSE. -/
def tryRefuse (key unit reason : Nat) (s : State) : State :=
  match mFind s.pwr.tries key with
  | none => s
  | some a => if a.waits.contains unit then tryRefused key unit reason s else s

/-- An attempt is still under way: a core's is over when the core has left the CS1 it was asked in. -/
def tryLive (s : State) (key : Nat) : Bool :=
  match mFind s.pwr.tries key with
  | none => false
  | some a => decide (192 ≤ key) || (decide ((coreOf s key).run = .wfi) && decide ((coreOf s key).cs1At ≤ a.at_))

/-- ASK is sent: an attempt starts. -/
def tryStart (key : Nat) (units : List Nat) (s : State) : State :=
  if tryLive s key then s else { s with pwr := { s.pwr with tries := mIns s.pwr.tries key ⟨s.stamp, units⟩ } }

/-- CS3_DELAY has passed in CS1 under WFI (17 Table 17.6). -/
def cs3Delay (n : Nat) (s : State) : State :=
  let c := coreOf s n
  if n < 192 ∧ c.run = .wfi ∧ flag (sysReg c 0xC30) 4 ∧ c.cs1At + fld (sysReg c 0xC30) 39 8 ≤ s.stamp then tryStart n [tileOf s n] s else s

/-- A package state's condition has held for PK_DWELL ticks: the deepest state permitted is asked for (17 R479). -/
def pkDwell (k : Nat) (s : State) : State :=
  match s.pwr.dwell with
  | some (j, t) =>
    if rootLocked s ∧ j = k ∧ deepest s = some k ∧ objN s 0x2030 1 < k ∧ t + objN s 0x2020 2 ≤ s.stamp then tryStart (192 + k) (packUnits k) s else s
  | none => s

/-- A pending interrupt wakes a core from CS3: restored from its save slot, its WFI retires (17 R477, R478); an entry that is not complete
completes first; a slot that cannot be read loses the core (16 R450). -/
def cs3Exit (n : Nat) (ok : Bool) (s : State) : State :=
  if (coreOf s n).run ≠ .cs3 ∨ ¬ (intPending s n true ∨ intPending s n false) then s
  else if tileDrained s (tileOf s n) = false then tileDrain (tileOf s n) s
  else if ¬ ok then coreLost n 0 0 s
  else
    let x := mGet {} s.ras.saves n
    let s := retire (.core n) none (modCpu (.core n) (fun c => { loadCpu x c with run := .running }) s)
    noteD2 0 (deliver n false (deliver n true s))

/-! ## Meanings -/

/-- HOLDOVER_TIMEOUT (02 R42). -/
def execHoldoverTimeout (s : State) : Host.Outcome State Fault Refusal := .next (holdoverTimeout s)

/-- INPUT_SAMPLE (17 R487). -/
def execInputSample (v : Nat) (s : State) : Host.Outcome State Fault Refusal := .next (inputSample v s)

/-- EMERGENCY_SAVE_AND_STOP (17 R488). -/
def execEmergencySaveAndStop (cause value : Nat) (s : State) : Host.Outcome State Fault Refusal := .next (emergency cause value s)

/-- THERMAL_TRIP (23 R579): a compute or I/O die. -/
def execThermalTrip (die : Nat) (s : State) : Host.Outcome State Fault Refusal := .next (if die < 6 then emergency 5 die s else s)

/-- POWER_LIMIT_CHECK (17 R472). -/
def execPowerLimitCheck (avg v i : Nat) (s : State) : Host.Outcome State Fault Refusal := .next (powerCheck avg v i s)

/-- THERMAL_LIMIT (17 R472). -/
def execThermalLimit (die : Nat) (temp : Int) (s : State) : Host.Outcome State Fault Refusal := .next (thermalCheck die temp s)

/-- DI_DT_GUARD (17 R470). -/
def execDiDtGuard (die : Nat) (on : Bool) (s : State) : Host.Outcome State Fault Refusal := .next (guardSet die on s)

/-- OPP_VOLTAGE_REACHED (17 R474). -/
def execOppVoltageReached (n : Nat) (s : State) : Host.Outcome State Fault Refusal := .next (if n < 192 then modCpu (.core n) voltageReached s else s)

/-- CS3_DELAY_EXPIRY (17 R476). -/
def execCs3DelayExpiry (n : Nat) (s : State) : Host.Outcome State Fault Refusal := .next (cs3Delay n s)

/-- PK_DWELL_EXPIRY (17 R479). -/
def execPkDwellExpiry (k : Nat) (s : State) : Host.Outcome State Fault Refusal := .next (pkDwell k s)

/-- HANDSHAKE_ACCEPT (17 R481). -/
def execHandshakeAccept (key unit : Nat) (s : State) : Host.Outcome State Fault Refusal := .next (tryAccept key unit s)

/-- HANDSHAKE_DELAY (17 R481). -/
def execHandshakeDelay (key unit d : Nat) (s : State) : Host.Outcome State Fault Refusal := .next (tryDelay key unit d s)

/-- HANDSHAKE_REFUSE (17 R482). -/
def execHandshakeRefuse (key unit reason : Nat) (s : State) : Host.Outcome State Fault Refusal := .next (tryRefuse key unit reason s)

/-- HANDSHAKE_TIMEOUT (17 R481). -/
def execHandshakeTimeout (key unit : Nat) (s : State) : Host.Outcome State Fault Refusal := .next (tryTimeout key unit s)

/-- WAKE_SOURCE (17 R486). -/
def execWakeSource (src unit core : Nat) (s : State) : Host.Outcome State Fault Refusal := .next (if 1 ≤ src ∧ src ≤ 6 then wake src unit core s else s)

/-- CS3_EXIT (17 R477). -/
def execCs3Exit (n : Nat) (ok : Bool) (s : State) : Host.Outcome State Fault Refusal := .next (cs3Exit n ok s)

/-- STAMP has reached TIMECMP (21 R552): the timer is delivered; for a core in CS3 it is held, and is a wake source (21 R554). -/
def timerPending (n : Nat) (s : State) : State :=
  if ¬ localPending s n 0 then s
  else
    let asleep := decide ((coreOf s n).run = .cs3) && (intPending s n true || intPending s n false)
    deliver n false (deliver n true (if asleep then wake 2 363 n s else s))

/-- TIMER_PENDING (21 R552). -/
def execTimerPending (n : Nat) (s : State) : Host.Outcome State Fault Refusal := .next (timerPending n s)

end Sys2Proof.Machine
end

