-- ==== Sys2Proof/Machine/Objects.lean ====
section
/-! DEFINITION. The object dictionary as it is read and written (19 R516-R523, 22): values, access, ranges and effects. Principals are
enclosures 0 to 15 and management 0x10 (19 Table 19.12). -/

namespace Sys2Proof.Machine
open Sys2Proof

/-! ## Values -/

/-- CORE_PSTATE (17 Table 17.9). -/
def corePstate (s : State) (n : Nat) : Nat :=
  let c := coreOf s n
  let st := if 16 ≤ enclOfCore s n then 2 else match c.run with
    | .running => if c.halted then 1 else 0
    | .wfi => 1
    | .cs3 => 3
    | _ => 2
  if st = 2 then 2 else st + 16 * c.opp

/-- Open sessions of a port (14 Table 14.3). -/
def openSessions (s : State) (p : Nat) : Nat := min 255 (s.sess.filter (fun q => decide (q.1 / 2 ^ 32 = p ∧ q.2.st = .open))).length

/-- Root ports that the bifurcation of a root complex creates (21 Table 21.1). -/
def portCreated (s : State) (k : Nat) : Bool := decide (k % 4 ≤ fld (obj s 0xC000 (k / 4)) 1 0)

/-- BOX_SNAPSHOT (18 Table 18.4). -/
def boxSnapshot (b : BoxSnap) : List Byte :=
  leBytes 8 b.energy ++ leBytes 8 b.stamp ++ leBytes 2 b.boots ++ leBytes 4 b.status ++ leBytes 4 b.volts ++ leBytes 4 b.amps ++ leBytes 2 0

/-- The value of an object that is not stored as it reads. -/
def liveValue (s : State) (idx sub : Nat) : Option Nat :=
  let w := (obj s idx sub).toNat
  if idx = 0x1100 then some s.stamp
  else if idx = 0x2060 then some (corePstate s sub)
  else if idx = 0x2070 then some (mGet 0 s.pwr.energy sub / 36000)
  else if idx = 0x5070 ∨ idx = 0xA100 then some 0
  else if idx = 0x6000 then
    some (min 0xFFFF (s.journal.filter (fun r => decide (r.encl = sub ∧ r.st ≠ .ended))).length * 2 ^ 16 + (chnOf s sub).ok.toNat)
  else if idx = 0x6100 then
    some (nbits w 47 32 * 2 ^ 32 + (prvOf s sub).failed.toNat * 2 ^ 63 +
      min 0xFFFF (s.journal.filter (fun r => decide (r.engine = sub ∧ r.st ≠ .ended))).length)
  else if idx = 0x7020 then some (w + openSessions s sub * 2 ^ 16)
  else if idx = 0x8000 then some (w + min 7 (jobsOf s (336 + sub)).length)
  else if idx = 0x8100 then some (w + min 63 (jobsOf s (344 + sub)).length)
  else if idx = 0x8200 then some (keyQuota s sub / 16 * 2 ^ 16 + keysOf s sub)
  else if idx = 0xB000 ∧ sub = 1 then some s.box.energy
  else if idx = 0xB020 then some (boxStatus s)
  else if idx = 0xB110 then some s.box.bseq
  else if idx = 0xC010 ∧ ¬ portCreated s sub then some 0
  else none

/-- The value of an object of class OCTETS. -/
def octetsValue (s : State) (idx sub : Nat) : List Byte :=
  if idx = 0xB000 then boxSnapshot s.box.snap
  else if idx = 0xB010 then (if sub = 1 then (s.box.digest ++ List.replicate 8 0).take 8 ++ leBytes 2 s.box.version else s.box.digest)
  else if 0xB100 ≤ idx ∧ idx ≤ 0xB103 then
    match mFind s.box.log (256 * (idx - 0xB100) + sub) with | some r => boxRecOctets r | none => []
  else mGet [] s.octets (okey idx sub)

/-- The value of an object of at most 56 octets, little-endian (19 R517). -/
def objValue (s : State) (r : DictRow) (idx sub : Nat) : List Byte :=
  if r.ty = 4 then (octetsValue s idx sub ++ List.replicate r.size 0).take r.size
  else leBytes r.size ((liveValue s idx sub).getD (obj s idx sub).toNat)

/-- The octets of a change-log record (19 Table 19.12). -/
def clogOctets (r : ClogRec) (lost : Bool) : List Byte :=
  leBytes 8 r.stamp ++ leBytes 2 r.idx ++ leBytes 1 r.sub ++ leBytes 1 r.origin ++ leBytes 1 r.principal ++ leBytes 1 r.result ++
  leBytes 1 (r.flags + 8 * lost.toNat) ++ leBytes 1 r.len ++ leBytes 8 r.old ++ leBytes 8 r.new

/-- Octet `off` of record position `pos` of a ring of `size` records, of which `total` were written in all. -/
def ringPick (l : List α) (size total pos : Nat) : Option α :=
  let first := total - l.length
  if l = [] then none else if pos < total % size then (if first ≤ total / size * size + pos then l[total / size * size + pos - first]? else none)
  else if size ≤ total ∧ first ≤ (total / size - 1) * size + pos then l[(total / size - 1) * size + pos - first]? else none

/-- One octet of a DOMAIN object; a ring position never written reads 0 (log 32). -/
def domainOctet (s : State) (idx k : Nat) : Byte :=
  if idx = 0x3020 then (Config.document "DEVICE_CERT").getD k 0
  else if idx = 0x5210 then
    let p := k / 64
    if s.ras.logLost.contains p then Config.lostOctet p (k % 64)
    else match ringPick s.ras.mlog 8192 s.ras.mlogN p with
      | some r => (recOctets s.socket r.1 r.2 false).getD (k % 64) 0
      | none => 0
  else
    let p := k / 32
    let lost := s.ras.logLost.contains (8192 + p)
    if lost ∧ k % 32 ≠ 14 then Config.lostOctet (8192 + p) (k % 32)
    else match ringPick s.sdp.clog 65536 (objN s 0xA200 1) p with
      | some r => (clogOctets r lost).getD (k % 32) 0
      | none => 0

/-- The size of an object (22 Tables 22.3-22.15). -/
def objSize (r : DictRow) : Nat := if r.size = 0 then (Config.document "DEVICE_CERT").length else r.size

/-! ## Who reaches what (19 R522, R523) -/

/-- Whether a tile carries a core of the enclosure. -/
def ownTile (s : State) (e t : Nat) : Bool := (coresOf s e).any (fun n => decide (tileOf s n = t))

/-- What an enclosure may read and write of the dictionary (19 Table 19.11); none for what is not reached. -/
def inBand (s : State) (e idx sub : Nat) : Option (Bool × Bool) :=
  let ro (p : Bool) : Option (Bool × Bool) := if p then some (true, false) else none
  let rw (p : Bool) : Option (Bool × Bool) := if p then some (true, true) else none
  if idx < 0x1000 then ro true
  else if idx = 0x1100 ∨ idx = 0xB010 ∨ idx = 0xB020 then ro (decide (sub ≤ 1))
  else if idx = 0xB000 then ro (decide (sub ≤ 2))
  else if idx = 0x2070 ∨ idx = 0x5120 ∨ idx = 0x6000 ∨ idx = 0x8200 then ro (decide (sub = e))
  else if idx = 0x2060 ∨ idx = 0x5030 ∨ idx = 0x5060 then ro (decide (sub < 192 ∧ enclOfCore s sub = e))
  else if idx = 0x7010 then rw (decide (sub < 144 ∧ objN s 0x3300 sub = e))
  else if idx = 0x7020 ∨ idx = 0x7030 then ro (decide (sub < 144 ∧ objN s 0x3300 sub = e))
  else if idx = 0x4400 ∨ idx = 0x4404 then rw (decide (sub < 216) && ownTile s e sub)
  else if idx = 0x5100 ∨ idx = 0x5110 then rw (decide (sub = e))
  else if idx = 0xA100 ∨ idx = 0xA110 then (if sub = e then some (false, true) else none)
  else none

/-! ## Reads (19 R516, R517) -/

/-- A read of a whole object: status and octets. -/
def readObj (prin idx sub : Nat) (s : State) : Nat × List Byte :=
  let go : Nat × List Byte := match named idx sub with
    | .noObject => (1, [])
    | .noSub => (2, [])
    | .count n => (0, leBytes 1 n)
    | .row r => if r.access = 3 then (4, []) else if r.ty = 5 then (8, []) else (0, objValue s r idx sub)
  if prin < 16 then (match inBand s prin idx sub with
    | none => (1, [])
    | some (false, _) => (4, [])
    | some (true, _) => go)
  else go

/-- A segment of an object: status, whether it starts at 0, whether the object ends within it, and the octets after the offset (19 R511). -/
def readSeg (idx sub off n : Nat) (s : State) : Nat × Bool × List Byte :=
  let cut (size : Nat) (f : Nat → Byte) : Nat × Bool × List Byte :=
    (0, decide (size ≤ off + n), (List.range (min n (size - off))).map (fun i => f (off + i)))
  match named idx sub with
  | .noObject => (1, false, [])
  | .noSub => (2, false, [])
  | .count k => cut 1 (fun i => (leBytes 1 k).getD i 0)
  | .row r =>
    if r.access = 3 then (4, false, [])
    else if r.ty = 5 then cut (objSize r) (fun i => domainOctet s idx i)
    else cut r.size (fun i => (objValue s r idx sub).getD i 0)

/-- INFO (19 R518, Table 19.6; 22 R564, R565). -/
def infoObj (prin idx sub : Nat) (s : State) : Nat × List Byte :=
  let desc (ty access writers persist size dflt : Nat) : List Byte :=
    leBytes 1 ty ++ leBytes 1 access ++ leBytes 1 writers ++ leBytes 1 persist ++ leBytes 4 size ++ leBytes 8 dflt
  if prin < 16 ∧ inBand s prin idx sub = none then (1, [])
  else match named idx sub with
    | .noObject => (1, [])
    | .noSub => (2, [])
    | .count n => (0, desc 1 0 0 0 1 n)
    | .row r => (0, desc r.ty r.access r.writers r.persist (objSize r) (if r.src ∨ 4 ≤ r.ty then 0 else (objDefault (okey idx sub)).toNat))

/-! ## Effects of writes -/

/-- Clear the W1C bits of a mask that are written 1; one that the SGN9 set in this tick stays set (00 R16, 19 R524). -/
def clearBits (idx sub mask v : Nat) (s : State) : State :=
  setObj idx sub (obj s idx sub &&& ~~~(BitVec.ofNat 64 (mask &&& v) &&& ~~~mGet 0 s.raised (okey idx sub))) s

/-- A value in a range is stored; else RANGE. -/
def storeIf (ok : Bool) (idx sub v : Nat) (s : State) : Nat × State := if ok then (0, setObj idx sub (BitVec.ofNat 64 v) s) else (7, s)

/-- A flip mask's write (11 R294, Table 11.7): FIRED is W1C. -/
def writeFlip (idx sub v : Nat) (s : State) : Nat × State :=
  let field := nbits v 61 60
  let unit := nbits v 50 48
  let twin := decide (0x4404 ≤ idx ∧ idx ≤ 0x4406)
  if field = 3 ∨ (0x4404 ≤ idx ∧ field = 2) ∨ (twin ∧ 3 ≤ unit) then (7, s)
  else
    let fired := flag (obj s idx sub) 62 && !(v.testBit 62 && !flag (mGet 0 s.raised (okey idx sub)) 62)
    (0, setObj idx sub (BitVec.ofNat 64 ((nbits v 63 63) * 2 ^ 63 + fired.toNat * 2 ^ 62 + field * 2 ^ 60 + unit * 2 ^ 48 + v % 2 ^ 32)) s)

/-- RAS_FORCE (16 Table 16.8): a core that cannot fail over now, or a number out of range, is answered RANGE (log 33). -/
def rasForce (v : Nat) (s : State) : Nat × State :=
  let n := v % 512
  let kind := nbits v 31 28
  if kind = 0 then
    let t := startFailover n 2 s
    if (mFind s.ras.fail n).isNone ∧ (mFind t.ras.fail n).isSome then (0, t) else (7, s)
  else if kind = 1 ∧ n < 216 then (0, substDue n s)
  else if kind = 2 ∧ 272 ≤ n ∧ n < 336 then (0, if prvRuns s (n - 272) then engineFail (n - 272) 4 s else s)
  else if kind = 2 ∧ 336 ≤ n ∧ n < 352 then (0, accelFail n 4 s)
  else (7, s)

/-- MEM_DEV_MARK: a 1 to MARKED clears the mark (11 R281). -/
def clearMark (sub v : Nat) (s : State) : State :=
  if v.testBit 7 ∧ flag (mGet 0 s.raised (okey 0x4030 sub)) 7 = false then
    let s := setObj 0x4030 sub 0 s
    let n := ((List.range 16).filter (fun k => flag (obj s 0x4030 (16 * (sub / 16) + k)) 7)).length
    setObjFld 0x4000 (sub / 16) 19 16 (min n 15) s
  else s

/-- The effect of a write that is permitted and has the object's size: its status and the state. -/
def applyWrite (idx sub : Nat) (data img : List Byte) (s : State) : Nat × State :=
  let v := leNat data
  let w := BitVec.ofNat 64 v
  if idx = 0x1000 then (0, clearBits idx sub 0x2 v s)
  else if idx = 0x1110 then (0, clearBits idx sub 0xC v s)
  else if idx = 0x2010 then storeIf (decide (300 ≤ v ∧ v ≤ 1050)) idx sub v s
  else if idx = 0x2020 ∧ sub = 1 then storeIf (decide (v = 0 ∨ v = 2 ∨ v = 4 ∨ v = 6)) idx sub v s
  else if idx = 0x2020 then storeIf (decide (1600 ≤ v ∧ v ≤ 1600000000)) idx sub v s
  else if idx = 0x4000 then (0, clearBits idx sub 0x8C v s)
  else if idx = 0x4030 then (0, clearMark sub v s)
  else if idx = 0x4100 then storeIf (decide (v ≤ 168)) idx sub v s
  else if 0x4400 ≤ idx ∧ idx ≤ 0x4409 then writeFlip idx sub v s
  else if idx = 0x5070 then rasForce v s
  else if idx = 0x5100 then (let r := writeFltRing sub w s; (if r.1 then 0 else 7, r.2))
  else if idx = 0x5110 then (let r := writeFltHead sub w s; (if r.1 then 0 else 7, r.2))
  else if idx = 0x6120 then
    storeIf (if sub = 1 then decide (1600 ≤ v ∧ v ≤ 1600000000) else if sub = 2 then decide (1 ≤ v ∧ v ≤ 15)
      else if sub = 3 then decide (16000 ≤ v ∧ v ≤ 4000000000) else decide (1600 ≤ v ∧ v ≤ 2 ^ 40)) idx sub v s
  else if idx = 0x7000 then
    if sub = 1 then (0, writeQctNode sub w s)
    else if sub = 2 then (if 0x600 ≤ v then (0, writeQctNode sub w s) else (7, s))
    else storeIf (if sub = 3 then decide (1600 ≤ v ∧ v ≤ 1600000) else if sub = 4 then decide (1 ≤ v ∧ v ≤ 15)
      else decide (16000 ≤ v ∧ v ≤ 160000000)) idx sub v s
  else if idx = 0x7010 then (if portCfgOk s sub w then (0, writePortCfg sub w s) else (7, s))
  else if idx = 0x7020 then (0, clearBits idx sub 0x200 v s)
  else if idx = 0x9000 then storeIf (decide (10 ≤ v ∧ v ≤ 34)) idx sub v s
  else if idx = 0xA000 then (if v = 1 then 0 else 7, s)
  else if idx = 0xA020 then storeIf (decide (v = 0 ∨ (10 ≤ v ∧ v ≤ 10000))) idx sub v s
  else if idx = 0xA100 then (if v = 1 then (0, enclReset sub img s) else (7, s))
  else if idx = 0xA110 then attest sub (data.take 32) (leNat (data.drop 32)) s
  else if idx = 0xC010 then (0, clearBits idx sub 0xE00 v s)
  else (0, clearBits idx sub 0x8 v s)

/-- A refused write to a LOCK field after the lock (12 R307). -/
def lockDenied (prin idx sub : Nat) (s : State) : State :=
  noteNone 360 0x0802 0 (idx * 256 + sub) prin (setObjFld 0x3000 2 31 16 (min 0xFFFF (fld (obj s 0x3000 2) 31 16 + 1)) s)

/-- Whether the principal is a writer of an object (19 Table 19.6, 22 Table 22.7). -/
def mayWrite (s : State) (prin idx : Nat) (r : DictRow) : Bool :=
  if prin < 16 then r.writers.testBit 1
  else r.writers.testBit 0 && (decide (idx ≠ 0x4403 ∧ idx ≠ 0x4409) || decide (fld (obj s 0x3000 2) 9 8 = 2))

/-- A write of a row's object: status and state (19 R516, R517; 22 R566). -/
def writeRow (prin idx sub : Nat) (r : DictRow) (data img : List Byte) (s : State) : Nat × State :=
  if r.access = 0 ∨ (idx = 0xC010 ∧ ¬ portCreated s sub) then (3, s)
  else if r.access = 4 then (if flag (obj s 0x3000 2) 0 then (6, lockDenied prin idx sub s) else (5, s))
  else if ¬ mayWrite s prin idx r then (5, s)
  else if data.length ≠ r.size then (8, s)
  else applyWrite idx sub data img s

/-- A write that an enclosure may not make, of a LOCK object after the lock, is counted and recorded as every such write is (12 R307, 00 R18). -/
def inBandDenied (prin idx sub : Nat) (s : State) : State :=
  match named idx sub with
  | .row r => if r.access = 4 ∧ flag (obj s 0x3000 2) 0 = true then lockDenied prin idx sub s else s
  | _ => s

/-- A write by a principal, before its change-log record. -/
def tryWrite (prin idx sub : Nat) (data img : List Byte) (s : State) : Nat × State :=
  let go : Nat × State := match named idx sub with
    | .noObject => (1, s)
    | .noSub => (2, s)
    | .count _ => (3, s)
    | .row r => writeRow prin idx sub r data img s
  if prin < 16 then (match inBand s prin idx sub with
    | none => (1, inBandDenied prin idx sub s)
    | some (_, false) => (3, inBandDenied prin idx sub s)
    | some (_, true) => go)
  else go

/-- What the change log holds of a value (19 R527). -/
def logValue (bs : List Byte) (wide : Bool) : Nat := if wide then digest8 bs else leNat bs

/-- A write with its change-log record (19 R525-R527, 22 R566): OLD and NEW hold a FIELDS object whole, NEW the value offered when it is
refused. -/
def writeObj (origin prin idx sub : Nat) (data img : List Byte) (s : State) : Nat × State :=
  let val (t : State) : List Byte := match named idx sub with
    | .row r => if r.ty = 5 then [] else objValue t r idx sub
    | _ => []
  let fields : Bool := match named idx sub with | .row r => decide (r.ty = 3) && decide (r.access ≠ 3) | _ => false
  let old := val s
  let w := tryWrite prin idx sub data img s
  let new := if w.1 = 0 ∧ fields then val w.2 else data
  let wide := decide (8 < old.length) || decide (8 < new.length)
  (w.1, clogAdd { stamp := w.2.stamp, idx := idx, sub := sub, origin := origin, principal := prin, result := w.1,
                  flags := if wide then 4 else 0, len := data.length % 256, old := logValue old wide, new := logValue new wide } w.2)

end Sys2Proof.Machine
end

