-- ==== Sys2Proof/Machine/Sdp.lean ====
section
/-! DEFINITION. SDP (19): the services of the object server on the CAN ports, owner enrolment and debug tokens (12 R302, R321), mailboxes. -/

namespace Sys2Proof.Machine
open Sys2Proof

/-! ## Owner service (12 R302) -/

/-- The keys of a signed request hash to a programmed, unrevoked owner slot, and both signatures verify. -/
def ownerSigned (s : State) (g : Signed) : Bool :=
  g.mldsa && g.ecdsa && (List.range 4).any (fun n => flag (obj s 0x3031 1) n && !(flag (obj s 0x3031 1) (4 + n)) && decide (mGet [] s.octets (okey 0x3030 n) = g.keyHash))

/-- Program an owner slot. -/
def programOwner (n : Nat) (hash : List Byte) (s : State) : State :=
  setObj 0x3031 1 (setBit (obj s 0x3031 1) n true) { s with octets := mPut [] s.octets (okey 0x3030 n) hash }

/-- OWNER: status, response data and state. SUB 1 enrols slot 0, 2 a further slot, 3 revokes one. -/
def ownerReq (sub : Nat) (data : List Byte) (o : OwnerIn) (s : State) : Nat × List Byte × State :=
  let used := fld (obj s 0x3031 1) 3 0
  if sub = 1 then
    if data.length ≠ 48 then (0x08, [], s) else if used ≠ 0 then (0x0E, [], s) else (0, [0], programOwner 0 data s)
  else if sub = 2 then
    if ¬ ownerSigned s o.sig then (0x0C, [], s)
    else if o.hash.length ≠ 48 then (0x08, [], s)
    else match (List.range 4).find? (fun n => !(flag (obj s 0x3031 1) n)) with
      | some n => (0, leBytes 1 n, programOwner n o.hash s)
      | none => (0x0E, [], s)
  else if sub = 3 then
    if ¬ ownerSigned s o.sig then (0x0C, [], s)
    else if 4 ≤ o.slot then (0x07, [], s)
    else if ¬ flag (obj s 0x3031 1) o.slot then (0x0E, [], s)
    else (0, leBytes 1 o.slot, setObj 0x3031 1 (setBit (obj s 0x3031 1) (4 + o.slot) true) s)
  else (0x0A, [], s)

/-! ## Debug service (12 R320-R323) -/

/-- Who a token speaks for (19 Table 19.12 PRINCIPAL). -/
def tokenPrincipal (t : TokenIn) : Nat := if t.level = 1 then 0x20 + t.encl % 16 else 0x12

/-- Whether Yew takes a token, 0 when it does (12 R321; 23 Table 23.7: one for D2 waits for STAGE 0xF; 12 R327: one for an enclosure reset in
this tick is refused, 19 Table 19.4; log 34 for the order and the codes of what the spec names no code for). -/
def tokenCheck (s : State) (t : TokenIn) : Nat :=
  if t.level = 2 ∧ s.phase ≠ .running then 0x0E
  else if t.level = 1 ∧ mFind s.yew.resetAt t.encl = some s.stamp then 0x0D
  else if (match s.yew.nonce with | some (n, at_) => decide (n = t.nonce ∧ s.stamp < at_ + 960000000) | none => false) = false then 0x0D
  else if ¬ (t.sig.mldsa ∧ t.sig.ecdsa) ∨ t.digest ≠ mGet [] s.octets (okey 0x0000 3) then 0x0C
  else if 5760000000 < t.length then 0x07
  else if t.level = 1 then
    match recOfEncl s t.encl with
    | none => 0x0E
    | some r => if lrHash r 0x140 ≠ t.sig.keyHash then 0x0C else if (lrNat r 2 1).testBit 1 then 0 else 0x0E
  else if t.level = 2 then
    if s.yew.dbgHash.any (fun h => decide (h.2 = t.sig.keyHash) && !(s.yew.dbgRevoked.contains h.1)) then 0 else 0x0C
  else 0x07

/-- A nonce request: 32 octets of Yew's DRBG, which take the place of the nonce before (12 R321). -/
def nonceReq (origin : Nat) (s : State) : Nat × List Byte × State :=
  let d := draw 344 16 32 false s
  match d.1 with
  | none => (0x0E, [], d.2)
  | some bs => (0, bs, debugEvent 1 origin 0x10 0 0xFF [] { d.2 with yew := { d.2.yew with nonce := some (bs, d.2.stamp) } })

/-- A token: the session opens, and at level 2 D2 is entered first; a refused token has no effect but its records (12 R322, R323). -/
def tokenReq (origin : Nat) (data : List Byte) (t : TokenIn) (s : State) : Nat × State :=
  let st := tokenCheck s t
  let e := if t.level = 1 then t.encl else 0xFF
  if st ≠ 0 then (st, debugEvent 3 origin (tokenPrincipal t) st e data s)
  else
    let s := { s with yew := { s.yew with nonce := none } }
    let s := debugEvent 2 origin (tokenPrincipal t) 0 e data s
    let s := if t.level = 2 then debugEvent 5 origin (tokenPrincipal t) 0 e [] (enterD2 s)
      else { s with yew := { s.yew with d1Since := mPut false s.yew.d1Since e true } }
    (0, showDebug { s with yew := { s.yew with sess := s.yew.sess ++ [⟨t.level, e, s.stamp + t.length⟩] } })

/-- A release token ends the sessions of its level and enclosure (12 R321, log 34). -/
def releaseReq (origin : Nat) (t : TokenIn) (s : State) : Nat × State :=
  let st := tokenCheck s t
  let mine := s.yew.sess.filter (fun x => decide (x.level = t.level ∧ (t.level = 2 ∨ x.encl = t.encl)))
  if st ≠ 0 then (st, s)
  else if mine = [] then (0x0E, s)
  else (0, mine.foldl (fun s x => endSession x origin (tokenPrincipal t) s) { s with yew := { s.yew with nonce := none } })

/-! ## Requests and responses (19 R508-R516) -/

/-- Whether a CAN port takes requests: the always-on domain runs, the node number is not 0, and the port is not in bus-off. -/
def hears (s : State) (port : Nat) : Bool :=
  rootLocked s && decide (port < 2) && decide (objN s 0xA000 1 ≠ 0) && !(flag (obj s 0xA010 port) 15)

/-- A frame that breaks 19 R510. -/
def badFrame (f : SdpFrame) : Bool :=
  decide (56 < f.len ∨ f.data.length < f.len ∨ 128 ≤ f.flags ∨ f.flags % 16 ≠ 0 ∨ f.status ≠ 0)

/-- Send a response and keep it for repeats: the last 32, for 100 ms from the handling (19 R515). -/
def answer (svc : Nat) (f : SdpFrame) (req : List Byte) (flags status : Nat) (out : List Byte) (s : State) : State :=
  let bs := sdpHeader svc (128 + flags) f.tid status f.idx f.sub out.length ++ out
  let r : Saved := { svc := svc, tid := f.tid, idx := f.idx, sub := f.sub, data := req, till := s.stamp + 160000000, octets := bs }
  let l := s.sdp.saved ++ [r]
  canSend f.port 0x180 bs { s with sdp := { s.sdp with saved := l.drop (l.length - 32) } }

/-- A module reset asked for over SDP: the straps read as they were sampled (22 R582). -/
def resetBySdp (s : State) : State :=
  moduleReset false { socket := fld (obj s 0x0000 4) 18 16, node := fld (obj s 0x0000 4) 13 8, bifur := fld (obj s 0x0000 4) 7 0 } s

/-- A segmented read (19 R511): offset, then the octets wanted. -/
def segRead (f : SdpFrame) (data : List Byte) (s : State) : State :=
  let off := leNat (data.take 4)
  let n := leNat ((data.drop 4).take 1)
  if data.length < 5 then answer 1 f data 0 0x09 [] s
  else if n = 0 ∨ 52 < n then answer 1 f data 0 0x07 [] s
  else
    let r := readSeg f.idx f.sub off n s
    if r.1 ≠ 0 then answer 1 f data 0 r.1 [] s
    else answer 1 f data (64 + (decide (off = 0)).toNat * 32 + r.2.1.toNat * 16) 0 (leBytes 4 off ++ r.2.2) s

/-- Handle a whole request of the principal management (19 Table 19.3); a write to an object of a unit that is powered off wakes the package first
(19 R513). -/
def handle (svc : Nat) (f : SdpFrame) (data : List Byte) (x : SvcIn) (s : State) : State :=
  if svc = 1 then
    if f.flags.testBit 6 then segRead f data s
    else let r := readObj 0x10 f.idx f.sub s
         answer 1 f data 0 r.1 r.2 s
  else if svc = 2 then
    let s := if heldOff s f.idx ∧ (writeObj f.port 0x10 f.idx f.sub data x.img s).1 = 0 then wake 5 361 0 s else s
    let r := writeObj f.port 0x10 f.idx f.sub data x.img s
    let s := answer 2 f data 0 r.1 [] r.2
    if r.1 = 0 ∧ f.idx = 0xA000 then resetBySdp s else s
  else if svc = 3 then
    let r := infoObj 0x10 f.idx f.sub s
    answer 3 f data 0 r.1 r.2 s
  else if svc = 0x10 then
    let r := ownerReq f.sub data x.own s
    answer svc f data 0 r.1 r.2.1 (clogEvent (f.sub % 16) f.port 0x10 r.1 data r.2.2)
  else if svc = 0x11 then
    let r : Nat × List Byte × State :=
      if f.sub = 1 then nonceReq f.port s
      else if f.sub = 2 then (let t := tokenReq f.port data x.tok s; (t.1, [], t.2))
      else if f.sub = 3 then (let t := releaseReq f.port x.tok s; (t.1, [], t.2))
      else (0x0A, [], s)
    answer svc f data 0 r.1 r.2.1 (clogEvent (16 + f.sub % 16) f.port 0x10 r.1 data r.2.2)
  else answer svc f data 0 0x0A [] s

/-- A repeat is answered with the saved response on its own port, and is not executed (19 R515). -/
def serveSdp (svc : Nat) (f : SdpFrame) (data : List Byte) (x : SvcIn) (s : State) : State :=
  match s.sdp.saved.find? (fun r => decide (r.svc = svc ∧ r.tid = f.tid ∧ r.idx = f.idx ∧ r.sub = f.sub ∧ r.data = data ∧ s.stamp ≤ r.till)) with
  | some r => canSend f.port 0x180 r.octets s
  | none => handle svc f data x s

/-- Staging of a port. -/
def setStaged (port : Nat) (g : Option Staged) (s : State) : State :=
  { s with sdp := { s.sdp with staged := match g with | some g => mIns s.sdp.staged port g | none => mDel s.sdp.staged port } }

/-- A segment of a request (19 R511). -/
def segment (svc : Nat) (f : SdpFrame) (x : SvcIn) (s : State) : State :=
  let data := f.data.take f.len
  let off := leNat (data.take 4)
  let chunk := data.drop 4
  let old : Option Staged :=
    if f.flags.testBit 5 then some { svc := svc, tid := f.tid, idx := f.idx, sub := f.sub, data := [], at_ := s.stamp }
    else (mFind s.sdp.staged f.port).filter (fun g => decide (g.tid = f.tid))
  match old with
  | none => answer svc f data 0 0x09 [] (setStaged f.port none s)
  | some g =>
    if data.length < 4 ∨ off ≠ g.data.length ∨ 16384 < g.data.length + chunk.length then answer svc f data 0 0x09 [] (setStaged f.port none s)
    else if f.flags.testBit 4 then serveSdp svc f (g.data ++ chunk) x (setStaged f.port none s)
    else setStaged f.port (some { g with data := g.data ++ chunk, at_ := s.stamp }) s

/-- A request frame of a service arrives. -/
def sdpFrame (svc : Nat) (f : SdpFrame) (x : SvcIn) (s : State) : State :=
  if ¬ hears s f.port then s
  else if badFrame f then answer svc f (f.data.take f.len) 0 0x0B [] s
  else if f.flags.testBit 6 ∧ svc ≠ 1 then segment svc f x s
  else serveSdp svc f (f.data.take f.len) x s

/-- Staging is discarded 1 s after its last segment. -/
def stagingTimeout (port : Nat) (s : State) : State :=
  match mFind s.sdp.staged port with
  | some g => if g.at_ + 1600000000 ≤ s.stamp then setStaged port none s else s
  | none => s

/-- A port enters bus-off, which is counted, or recovers; its error counts are shown (19 R506, Table 19.14). -/
def busOff (port : Nat) (off : Bool) (tec rec_ : Nat) (s : State) : State :=
  if ¬ rootLocked s ∨ 2 ≤ port then s
  else
    let w := obj s 0xA010 port
    let n := if off ∧ ¬ flag w 15 then min 255 (fld w 31 24 + 1) else fld w 31 24
    setObj 0xA010 port (BitVec.ofNat 64 (n * 2 ^ 24 + rec_ % 256 * 2 ^ 16 + off.toNat * 2 ^ 15 + tec % 512)) s

/-! ## Mailboxes (19 R520-R523) -/

/-- A mailbox by enclosure × 16 + number. -/
def mboxAt (s : State) (k : Nat) : Mbox := mGet {} s.sdp.mbox k
def setMbox (k : Nat) (b : Mbox) (s : State) : State := { s with sdp := { s.sdp with mbox := mPut {} s.sdp.mbox k b } }

/-- The 56 octets of DATA. -/
def mboxData (b : Mbox) : List Byte := (b.data ++ List.replicate 56 0).take 56

/-- A store to CMD: it starts the request, or sets OVERRUN while one is handled; an unknown OP is answered at once. -/
def mboxCmd (k : Nat) (v : Word) (s : State) : State :=
  let b := mboxAt s k
  let op := fld v 63 56
  if b.cmd.isSome then setMbox k { b with overrun := true } s
  else if op = 1 ∨ op = 2 ∨ op = 3 then setMbox k { b with cmd := some v, overrun := false } s
  else setMbox k { b with overrun := false, len := 0, status := 0x0A } s

/-- STAT (19 Table 19.10). -/
def mboxStat (b : Mbox) : Nat := b.cmd.isSome.toNat * 2 ^ 63 + b.overrun.toNat * 2 ^ 62 + b.len * 2 ^ 48 + b.status

/-- The result of a request; an enclosure reset in between has ended it (19 R521). -/
def mboxDone (k status : Nat) (out : List Byte) (s : State) : State :=
  let b := mboxAt s k
  if b.cmd.isNone then s
  else if status ≠ 0 then setMbox k { b with cmd := none, len := 0, status := status } s
  else setMbox k { b with cmd := none, len := out.length, status := 0, data := out ++ (mboxData b).drop out.length } s

/-- The object server handles the request that a mailbox holds, when its OP is the one named. -/
def mboxServe (op e m : Nat) (img : List Byte) (s : State) : State :=
  let k := e * 16 + m
  match (mboxAt s k).cmd with
  | none => s
  | some w =>
    let idx := fld w 31 16
    let sub := fld w 15 8
    if fld w 63 56 ≠ op ∨ 16 ≤ e ∨ 16 ≤ m then s
    else if op = 1 then (let r := readObj e idx sub s; mboxDone k r.1 r.2 s)
    else if op = 2 then
      let n := fld w 55 48
      let data := (mboxData (mboxAt s k) ++ List.replicate 200 0).take n
      let r := writeObj 2 e idx sub data img s
      mboxDone k r.1 data r.2
    else (let r := infoObj e idx sub s; mboxDone k r.1 r.2 s)

/-! ## Meanings -/

/-- READ (19 R512). -/
def execRead (f : SdpFrame) (s : State) : Host.Outcome State Fault Refusal := .next (sdpFrame 1 f {} s)

/-- WRITE (19 R512). -/
def execWrite (f : SdpFrame) (x : SvcIn) (s : State) : Host.Outcome State Fault Refusal := .next (sdpFrame 2 f x s)

/-- INFO (19 R518). -/
def execInfo (f : SdpFrame) (s : State) : Host.Outcome State Fault Refusal := .next (sdpFrame 3 f {} s)

/-- ENROL_SLOT_0 (12 R302). -/
def execEnrolSlot0 (f : SdpFrame) (s : State) : Host.Outcome State Fault Refusal := .next (sdpFrame 0x10 { f with sub := 1 } {} s)

/-- ENROL_SLOT (12 R302). -/
def execEnrolSlot (f : SdpFrame) (x : SvcIn) (s : State) : Host.Outcome State Fault Refusal := .next (sdpFrame 0x10 { f with sub := 2 } x s)

/-- REVOKE_SLOT (12 R302). -/
def execRevokeSlot (f : SdpFrame) (x : SvcIn) (s : State) : Host.Outcome State Fault Refusal := .next (sdpFrame 0x10 { f with sub := 3 } x s)

/-- NONCE_REQUEST (12 R321). -/
def execNonceRequest (f : SdpFrame) (s : State) : Host.Outcome State Fault Refusal := .next (sdpFrame 0x11 { f with sub := 1 } {} s)

/-- TOKEN (12 R321): over SDP, or through the JTAG token instructions. -/
def execToken (jtag : Bool) (f : SdpFrame) (x : SvcIn) (s : State) : Host.Outcome State Fault Refusal :=
  .next (if jtag then (if rootLocked s then (tokenReq 4 f.data x.tok s).2 else s) else sdpFrame 0x11 { f with sub := 2 } x s)

/-- RELEASE_TOKEN (12 R321). -/
def execReleaseToken (f : SdpFrame) (x : SvcIn) (s : State) : Host.Outcome State Fault Refusal := .next (sdpFrame 0x11 { f with sub := 3 } x s)

/-- SEGMENT (19 R511): a segment of a request of any service; for READ a segmented read. -/
def execSegment (svc : Nat) (f : SdpFrame) (x : SvcIn) (s : State) : Host.Outcome State Fault Refusal :=
  .next (sdpFrame svc { f with flags := f.flags ||| 64 } x s)

/-- STAGING_TIMEOUT (19 R511). -/
def execStagingTimeout (port : Nat) (s : State) : Host.Outcome State Fault Refusal := .next (stagingTimeout port s)

/-- HEARTBEAT (19 R512): one for each SDP_HB_PERIOD that has passed, in ms; none with a period of 0. -/
def execHeartbeat (s : State) : Host.Outcome State Fault Refusal :=
  .next (if rootLocked s ∧ objN s 0xA020 1 ≠ 0 ∧ s.sdp.hbAt + objN s 0xA020 1 * 1600000 ≤ s.stamp
    then heartbeat { s with sdp := { s.sdp with hbAt := s.stamp } } else s)

/-- BUS_OFF (19 R506). -/
def execBusOff (port : Nat) (off : Bool) (tec rec_ : Nat) (s : State) : Host.Outcome State Fault Refusal := .next (busOff port off tec rec_ s)

/-- MAILBOX_READ (19 R521). -/
def execMailboxRead (e m : Nat) (s : State) : Host.Outcome State Fault Refusal := .next (mboxServe 1 e m [] s)

/-- MAILBOX_WRITE (19 R521). -/
def execMailboxWrite (e m : Nat) (img : List Byte) (s : State) : Host.Outcome State Fault Refusal := .next (mboxServe 2 e m img s)

/-- MAILBOX_INFO (19 R521). -/
def execMailboxInfo (e m : Nat) (s : State) : Host.Outcome State Fault Refusal := .next (mboxServe 3 e m [] s)

end Sys2Proof.Machine
end

