-- ==== Sys2Proof/Machine/Targets.lean ====
section
/-! DEFINITION. What the I/O units do with the device accesses they receive (09 R225, 01 R33, R34, 04 R104), and the doorbell unit's
registers (13 R332-R336, R342-R346, 15 R397). -/

namespace Sys2Proof.Machine
open Sys2Proof

/-! ## The doorbell window -/

/-- A store to SQ_TAIL: it is latched, and what may now be read is read (13 R336, 15 R398). -/
def tailStore (k : Nat) (v : Word) (s : State) : State :=
  let s := sqTail k v s
  if qkKind k = 0 then readQueue k s else accelReads k (sqLen (queueAt s k)) s

/-- A store to QCFG (13 R334, R335). -/
def cfgStore (k : Nat) (v : Word) (s : State) : State := if flag v 63 then queueEnable k v s else queueDisable k v s

/-- A store to a queue block (13 Table 13.3); reserved and read-only registers keep their value. -/
def queueStore (k off : Nat) (v : Word) (s : State) : State :=
  let base : Word := v &&& 0xFFFFFFFFFFFC0
  if off = 0x00 then tailStore k v s
  else if off = 0x08 then cqHead k v s
  else if off = 0x10 then modQueue k (fun q => if flag q.cfg 63 then q else { q with sqBase := base }) s
  else if off = 0x18 then modQueue k (fun q => if flag q.cfg 63 then q else { q with cqBase := base }) s
  else if off = 0x20 then cfgStore k v s
  else if off = 0x28 then
    modQueue k (fun q => { q with
      cfgErr := q.cfgErr && !flag v 16
      tailErr := q.tailErr && !flag v 17
      headErr := q.headErr && !flag v 18 }) s
  else s

/-- A store to a channel control block (13 R342, Table 13.9). -/
def chnStore (e off : Nat) (v : Word) (s : State) : State :=
  let ok := (chnOf s e).ok
  if off = 0x20 then chnCtl e v s
  else if off = 0x28 then modChn e (fun c => { c with fail := c.fail && !flag v 2 }) s
  else if ok then s
  else if off = 0x10 then modChn e (fun c => { c with drvLo := v }) s
  else if off = 0x18 then modChn e (fun c => { c with drvHi := v }) s
  else if off = 0x30 then modChn e (fun c => { c with sdt := v &&& 0xFFFFFFFFFFFC0 }) s
  else if off = 0x38 then { s with ioRoots := mPut 0 s.ioRoots e (v &&& 0xFFFFFFFFFF006) }
  else if off = 0x40 then { s with ioAsids := mPut 0 s.ioAsids e (v &&& 0xFFF) }
  else s

/-- A store to a register of an enclosure's doorbell window. -/
def dbStore (e : Nat) (r : DbReg) (v : Word) (s : State) : State :=
  match r with
  | .queue k off => queueStore k off v s
  | .chn off => chnStore e off v s

/-- The doorbell unit has a load. -/
def dbLoad (q : ReqFlit) (s : State) : State :=
  match dbTarget s q with
  | some r => send (devData 366 q (dbRead s q.encl r) s) s
  | none => refuseLoad 366 q s

/-- The doorbell unit has a store: it is accepted when it has been latched or discarded (13 R336). -/
def dbAccess (q : ReqFlit) (s : State) : State :=
  match dbTarget s q with
  | some r => let s := dbStore q.encl r q.data s
    send (rspTo 0x06 366 0 q s) s
  | none => refuseStore 366 q s

/-- A store to the register that a row names arrives; any other store is not that row's. -/
def dbRow (q : ReqFlit) (mine : DbReg → Bool) (s : State) : State :=
  match dbTarget s q with
  | some r => if mine r then arrives (.req 0x11 q) (dbAccess q) s else s
  | none => s

/-! ## The in-band dictionary window (19 R520, R521) -/

/-- The mailbox and the offset in it that an access reaches; every other access is refused. -/
def mboxTarget (s : State) (q : ReqFlit) : Option (Nat × Nat) :=
  let off := reqPa q - 0xF000001000000
  let o := off % 2 ^ 20
  if q.encl < 16 ∧ ¬ s.yew.held.contains q.encl ∧ ¬ s.yew.stopped ∧ 0xF000001000000 ≤ reqPa q ∧ off / 2 ^ 20 = q.encl ∧ word64 q ∧ ¬ q.lp ∧
      q.src < 216 ∧ o / 4096 < 16 ∧ o % 4096 < 0x80 then some (q.encl * 16 + o / 4096, o % 4096) else none

/-- A load of a mailbox register; CMD and reserved registers read 0. -/
def mboxRead (s : State) (k o : Nat) : Nat :=
  let b := mboxAt s k
  if o = 0x008 then mboxStat b
  else if 0x040 ≤ o ∧ o < 0x078 then leNat (((mboxData b).drop (o - 0x040)).take 8)
  else 0

/-- A store to a mailbox register. -/
def mboxStore (k o : Nat) (v : Word) (s : State) : State :=
  let b := mboxAt s k
  if o = 0x000 then mboxCmd k v s
  else if 0x040 ≤ o ∧ o < 0x078 ∧ b.cmd.isNone then
    let d := mboxData b
    setMbox k { b with data := d.take (o - 0x040) ++ leBytes 8 v.toNat ++ d.drop (o - 0x040 + 8) } s
  else s

/-- The dictionary window has a load. -/
def mboxLoad (q : ReqFlit) (s : State) : State :=
  match mboxTarget s q with
  | some (k, o) => send (devData 361 q (mboxRead s k o) s) s
  | none => refuseLoad 361 q s

/-- The dictionary window has a store: accepted when it has taken effect (09 R225). -/
def mboxAccess (q : ReqFlit) (s : State) : State :=
  match mboxTarget s q with
  | some (k, o) => let s := mboxStore k o q.data s
    send (rspTo 0x06 361 0 q s) s
  | none => refuseStore 361 q s

/-! ## The other windows -/

/-- An I/O unit has a device load. -/
def devLoad (q : ReqFlit) (s : State) : State :=
  if q.dest = 366 then dbLoad q s
  else if q.dest = 361 then mboxLoad q s
  else if q.dest = 363 then intLoad q s
  else if 352 ≤ q.dest ∧ q.dest < 356 then pcieLoad (q.dest - 352) q s
  else s

/-- An I/O unit has a device store. -/
def devStore (q : ReqFlit) (s : State) : State :=
  if q.dest = 366 then dbAccess q s
  else if q.dest = 361 then mboxAccess q s
  else if q.dest = 363 then intStore q s
  else if 352 ≤ q.dest ∧ q.dest < 356 then pcieStore (q.dest - 352) q s
  else s

/-- An I/O unit has an atomic: every window but PCIe's refuses it (04 R104, 13 R332, 19 R520). -/
def devAtomic (q : ReqFlit) (s : State) : State :=
  if q.dest = 361 ∨ q.dest = 363 ∨ q.dest = 366 then refuseAtomic q.dest q s
  else if 352 ≤ q.dest ∧ q.dest < 356 then pcieAtomic (q.dest - 352) q s
  else s

/-- Units that device requests go to; a link unit takes those for another socket's PCIe windows (01 Table 1.4, 10 R264). -/
def takesDevice (u : Nat) : Bool := decide (u = 361 ∨ u = 363 ∨ u = 366 ∨ (352 ≤ u ∧ u < 360))

/-- A device request arrives at its unit; at a root complex it may have to wait for a tag. -/
def atDevice (opc : Nat) (q : ReqFlit) (act : State → State) (s : State) : State :=
  if ¬ takesDevice q.dest ∨ waitsForTag s opc q then s else here (.req opc q) act s

/-- The core domain of a tile is off, as in CS3, or its gate is closed: requests to it are answered Retry (17 R484, 16 Table 16.8a). -/
def domainOff (s : State) (t : Nat) : Bool :=
  decide (t < 216) && (decide (coreGate s t = 2) ||
    (match hartOf s t with | some (.core n) => decide ((coreOf s n).run = .cs3) | _ => false))

/-- A Msg that addresses the core of its tile. -/
def forCore : MsgBody → Bool
  | .shootdown t _ => (match t with | .core _ => true | _ => false)
  | .interrupt _ _ => true
  | _ => false

/-- A Msg request arrives (10 Table 10.6): a shootdown at its target, a doorbell at the doorbell unit, an interrupt at a core; a slice's
transfer is sunk into the new slice's reserved buffer (16 R461). -/
def msgArrives (b : MsgBody) (s : State) : State :=
  match b with
  | .shootdown t n => shootdown t n s
  | .doorbell e off v =>
    (match (if e < 16 ∧ off % 8 = 0 then dbReg s e (off % 2 ^ 20) else none) with
     | some r => dbStore e r v s
     | none => s)
  | .interrupt n m => deliver n m s
  | .transfer _ => s

/-! ## Meanings -/

/-- RDDEV (09 R225). -/
def execRddev (q : ReqFlit) (s : State) : Host.Outcome State Fault Refusal := .next (atDevice 0x10 q (devLoad q) s)

/-- WRDEV (09 R225). -/
def execWrdev (q : ReqFlit) (s : State) : Host.Outcome State Fault Refusal := .next (atDevice 0x11 q (devStore q) s)

/-- ATOMDEV (04 R104). -/
def execAtomdev (q : ReqFlit) (s : State) : Host.Outcome State Fault Refusal := .next (atDevice 0x12 q (devAtomic q) s)

/-- MSG (10 R243, 16 R461). -/
def execMsg (q : ReqFlit) (b : MsgBody) (s : State) : Host.Outcome State Fault Refusal :=
  .next (arrives (.req 0x14 q) (fun s =>
    if forCore b ∧ domainOff s q.dest = true then send (rspTo 0x04 q.dest 0 q s) s else msgArrives b s) s)

/-- SQ_TAIL (13 R336). -/
def execSqTail (q : ReqFlit) (s : State) : Host.Outcome State Fault Refusal :=
  .next (dbRow q (fun r => match r with | .queue _ off => off = 0x00 | .chn _ => false) s)

/-- CQ_HEAD (13 R336). -/
def execCqHead (q : ReqFlit) (s : State) : Host.Outcome State Fault Refusal :=
  .next (dbRow q (fun r => match r with | .queue _ off => off = 0x08 | .chn _ => false) s)

/-- QUEUE_ENABLE: a store to QCFG with EN = 1 (13 R334). -/
def execQueueEnable (q : ReqFlit) (s : State) : Host.Outcome State Fault Refusal :=
  .next (if flag q.data 63 then dbRow q (fun r => match r with | .queue _ off => off = 0x20 | .chn _ => false) s else s)

/-- QUEUE_DISABLE: a store to QCFG with EN = 0 (13 R335). -/
def execQueueDisable (q : ReqFlit) (s : State) : Host.Outcome State Fault Refusal :=
  .next (if flag q.data 63 then s else dbRow q (fun r => match r with | .queue _ off => off = 0x20 | .chn _ => false) s)

/-- FEATURES_OK: a store to CHN_CTL with FEATURES_OK = 1 (13 R344). -/
def execFeaturesOk (q : ReqFlit) (s : State) : Host.Outcome State Fault Refusal :=
  .next (if flag q.data 0 then dbRow q (fun r => match r with | .queue _ _ => false | .chn off => off = 0x20) s else s)

/-- CHANNEL_RESET: a store to CHN_CTL with RESET = 1 (13 R346). -/
def execChannelReset (q : ReqFlit) (s : State) : Host.Outcome State Fault Refusal :=
  .next (if flag q.data 1 then dbRow q (fun r => match r with | .queue _ _ => false | .chn off => off = 0x20) s else s)

end Sys2Proof.Machine
end

