-- ==== Sys2Proof/Machine/Idle.lean ====
section
/-! DEFINITION. What the block does while no command waits (log 1): instructions that were held go on, and a stamp tick passes. -/

namespace Sys2Proof.Machine
open Sys2Proof

/-! ## Instructions that go on -/

/-- Every hart of the socket that has been used. -/
def allHarts (s : State) : List Hart := s.cores.map (fun p => Hart.core p.1) ++ s.prv.map (fun p => Hart.prv p.1)

/-- The oldest instruction in the window of a hart that runs, unless it was held in this tick. -/
def headReady (s : State) (h : Hart) : Option Instr :=
  match (cpuOf s h).win with
  | e :: _ => if canRun h s ∧ e.heldAt ≠ some s.stamp then some e.i else none
  | [] => none

/-- The instruction that goes on next. -/
def nextHeld (s : State) : Option Instr := (allHarts s).findSome? (headReady s)

/-! ## One stamp tick (02 R44) -/

/-- Tags of non-posted requests whose life has ended are free (21 R545). -/
def tagsExpire (s : State) : State :=
  if s.ptags.all (fun t => decide (s.stamp < t.deadline)) then s else { s with ptags := s.ptags.filter (fun t => decide (s.stamp < t.deadline)) }

/-- A hart waits for its cache operation. -/
def inCmo (s : State) (h : Hart) : Bool := match (cpuOf s h).wait with | .cmo _ _ _ _ _ _ _ => true | _ => false

/-- Cache operations under way go on (08 R207). -/
def cmosOn (s : State) : State := ((allHarts s).filter (inCmo s)).foldl (fun s h => cmoOn h s) s

/-- What ends with a tick, before the stamp leaves it: timeouts are recognised (02 R54), tags expire, entries of power states that no wake has
aborted are in force (17 R482), and operations that wait for the mesh go on, which moves its flits (10 R240). -/
def tickEnd (s : State) : State :=
  meshTick (dwellOn (packSettle (cs3Drain (coresCommit (cmosOn (tagsExpire (timeoutsDue s)))))))

/-- Core cycles under the di/dt guard are counted (20 Table 20.5, GUARD). -/
def guardCycles (s : State) : State :=
  (s.cores.filter (fun p => inCs0 p.2 && decide (tileOf s p.1 < 216) && mGet false s.guard (dieOfTile (tileOf s p.1)))).foldl
    (fun s p => countEv p.1 0x3A (cyclesIn p.2.opp s.stamp) s) s

/-- A tick passes, and the stamp becomes `next`; the routes that were to change at it change (10 R266). -/
def passTick (next : Nat) (s : State) : State :=
  let s := guardCycles (tickEnd s)
  let s := { s with stamp := next, raised := [], cores := s.cores.map (fun e => (e.1, tickCpu s.stamp e.2)) }
  if switchDue s then switchNow s else s

/-- One stamp tick. -/
def tick (s : State) : State := if rootLocked s then passTick (s.stamp + 1) s else s

/-- The tick of one adjustment (02 R50): ahead, the count is held; behind, it advances by two. -/
def adjustTick (s : State) : State :=
  if ¬ rootLocked s ∨ ¬ adjustDue s then s
  else
    let up := decide (s.clk.slew < 0)
    passTick (if up then s.stamp + 2 else s.stamp)
      { s with clk := { s.clk with slew := if up then s.clk.slew + 1 else s.clk.slew - 1, lastAdjust := some s.stamp } }

/-! ## Meanings -/

/-- STAMP_ADJUST (02 R50). -/
def execStampAdjust (s : State) : Host.Outcome State Fault Refusal := .next (adjustTick s)

end Sys2Proof.Machine
end

