-- ==== Sys2Proof/Machine/Integer.lean ====
section
/-! DEFINITION. Integer operations (04 R82-R86, R94): meanings of the register, immediate, constant and select commands. -/

namespace Sys2Proof.Machine
open Sys2Proof

/-! ## Results -/

/-- Shift or rotate amounts use bits 5:0 (04 R82). -/
def amt (b : Word) : Nat := b.toNat % 64

/-- 1 if the comparison holds, else 0. -/
def cmpW (b : Bool) : Word := ofBool b

/-- High half of a signed product. -/
def mulhS (a b : Word) : Word := BitVec.ofInt 64 (a.toInt * b.toInt / 2 ^ 64)

/-- High half of an unsigned product. -/
def mulhU (a b : Word) : Word := BitVec.ofNat 64 (a.toNat * b.toNat / 2 ^ 64)

/-- DIV (04 R84): rounded toward zero; divisor 0 gives -1; the overflowing quotient wraps. -/
def divS (a b : Word) : Word := if b = 0 then BitVec.allOnes 64 else BitVec.ofInt 64 (a.toInt.tdiv b.toInt)

/-- DIVU (04 R84). -/
def divU (a b : Word) : Word := if b = 0 then BitVec.allOnes 64 else BitVec.ofNat 64 (a.toNat / b.toNat)

/-- REM with the sign of the dividend (04 R84). -/
def remS (a b : Word) : Word := if b = 0 then a else BitVec.ofInt 64 (a.toInt.tmod b.toInt)

/-- REMU (04 R84). -/
def remU (a b : Word) : Word := if b = 0 then a else BitVec.ofNat 64 (a.toNat % b.toNat)

/-- The divide unit's cycles for DIVU and REMU (04 R85); DIV and REM take one more. -/
def divCycles (dividend divisor : Word) : Nat :=
  let q := if divisor = 0 then 1 else clz divisor.toNat 64 - clz dividend.toNat 64 + 1
  4 + (q + 3) / 4

/-- KREP: the immediate in each 16-bit lane. -/
def krep (imm : BitVec 16) : Word := imm ++ imm ++ imm ++ imm

/-- Bits pos+len-1:pos of a word, len - 1 in `len` (04 R83). -/
def extractField (len pos : BitVec 6) (a : Word) : Nat := fld a (pos.toNat + len.toNat) pos.toNat

/-- EXT: sign-extended field. -/
def extS (len pos : BitVec 6) (a : Word) : Word := sext (len.toNat + 1) (extractField len pos a)

/-- EXTU: zero-extended field. -/
def extU (len pos : BitVec 6) (a : Word) : Word := BitVec.ofNat 64 (extractField len pos a)

/-- INS: rd with the field replaced by the low bits of ra. -/
def insField (len pos : BitVec 6) (d a : Word) : Word := setFld d (pos.toNat + len.toNat) pos.toNat a.toNat

/-- SHI's four operations (04 Table 4.4). -/
def shiOp (op : BitVec 2) (a b : Word) : Word :=
  if op = 0 then a <<< amt b else if op = 1 then a >>> amt b else if op = 2 then a.sshiftRight (amt b) else a.rotateRight (amt b)

/-- APC: the instruction's address with bits 11:0 cleared plus the offset in pages (04 R83). -/
def apcValue (pc : Word) (imm : BitVec 21) : Word := (pc &&& ~~~(0xFFF : Word)) + (imm.signExtend 64 <<< 12)

/-! ## Selects and constants -/

/-- SEL, CMOV and CMOVZ: the condition is checked as an operand, the value moved keeps its tag (04 R86). -/
def select (h : Hart) (rd : Reg) (rc : Reg) (x y : GVal) (s : State) : State × Done :=
  let cond := gpr (cpuOf s h) rc
  match srcExc (cpuOf s h) [cond] with
  | some e => (s, .exc e)
  | none => writeG h rd (if cond.v ≠ 0 then x else y) s

/-- The product of MULW and its kin (04 R94): on a core at once, on an engine four instructions later (03 R75). -/
def product (h : Hart) (ra rb : Reg) (signed acc : Bool) (s : State) : State × Done :=
  let c := cpuOf s h
  let a := gpr c ra
  let b := gpr c rb
  match srcExc c [a, b] with
  | some e => (s, .exc e)
  | none =>
    let p : BitVec 128 := if signed then BitVec.ofInt 128 (a.v.toInt * b.v.toInt) else BitVec.ofNat 128 (a.v.toNat * b.v.toNat)
    let r : BitVec 128 := if acc then (c.ph ++ c.pl) + p else p
    let hi := BitVec.ofNat 64 (r.toNat / 2 ^ 64)
    let lo := BitVec.ofNat 64 r.toNat
    match h with
    | .core _ => (modCpu h (fun c => { c with ph := hi, pl := lo }) s, .seq)
    | .prv _ => (modCpu h (fun c => { c with mulq := c.mulq ++ [⟨hi, lo, 0⟩] }) s, .seq)

/-! ## Meanings -/

/-- ADD (04 Table 4.3). -/
def execAdd (h : Hart) (rd ra rb : Reg) (s : State) : Host.Outcome State Fault Refusal :=
  run h (.add h rd ra rb) (intRR h rd ra rb (fun a b => a + b) ptrTag) s

/-- SUB (04 Table 4.3). -/
def execSub (h : Hart) (rd ra rb : Reg) (s : State) : Host.Outcome State Fault Refusal :=
  run h (.sub h rd ra rb) (intRR h rd ra rb (fun a b => a - b) subTag) s

/-- AND (04 Table 4.3). -/
def execAnd (h : Hart) (rd ra rb : Reg) (s : State) : Host.Outcome State Fault Refusal :=
  run h (.and h rd ra rb) (intRR h rd ra rb (fun a b => a &&& b) ptrTag) s

/-- OR (04 Table 4.3). -/
def execOr (h : Hart) (rd ra rb : Reg) (s : State) : Host.Outcome State Fault Refusal :=
  run h (.or h rd ra rb) (intRR h rd ra rb (fun a b => a ||| b) ptrTag) s

/-- XOR (04 Table 4.3). -/
def execXor (h : Hart) (rd ra rb : Reg) (s : State) : Host.Outcome State Fault Refusal :=
  run h (.xor h rd ra rb) (intRR h rd ra rb (fun a b => a ^^^ b) ptrTag) s

/-- ANDN (04 Table 4.3). -/
def execAndn (h : Hart) (rd ra rb : Reg) (s : State) : Host.Outcome State Fault Refusal :=
  run h (.andn h rd ra rb) (intRR h rd ra rb (fun a b => a &&& ~~~b) dataTag) s

/-- SHL (04 Table 4.3). -/
def execShl (h : Hart) (rd ra rb : Reg) (s : State) : Host.Outcome State Fault Refusal :=
  run h (.shl h rd ra rb) (intRR h rd ra rb (fun a b => a <<< amt b) dataTag) s

/-- SHR (04 Table 4.3). -/
def execShr (h : Hart) (rd ra rb : Reg) (s : State) : Host.Outcome State Fault Refusal :=
  run h (.shr h rd ra rb) (intRR h rd ra rb (fun a b => a >>> amt b) dataTag) s

/-- SRA (04 Table 4.3). -/
def execSra (h : Hart) (rd ra rb : Reg) (s : State) : Host.Outcome State Fault Refusal :=
  run h (.sra h rd ra rb) (intRR h rd ra rb (fun a b => a.sshiftRight (amt b)) dataTag) s

/-- ROR (04 Table 4.3). -/
def execRor (h : Hart) (rd ra rb : Reg) (s : State) : Host.Outcome State Fault Refusal :=
  run h (.ror h rd ra rb) (intRR h rd ra rb (fun a b => a.rotateRight (amt b)) dataTag) s

/-- SLT (04 Table 4.3). -/
def execSlt (h : Hart) (rd ra rb : Reg) (s : State) : Host.Outcome State Fault Refusal :=
  run h (.slt h rd ra rb) (intRR h rd ra rb (fun a b => cmpW (a.slt b)) dataTag) s

/-- SLTU (04 Table 4.3). -/
def execSltu (h : Hart) (rd ra rb : Reg) (s : State) : Host.Outcome State Fault Refusal :=
  run h (.sltu h rd ra rb) (intRR h rd ra rb (fun a b => cmpW (a.ult b)) dataTag) s

/-- SEQ (04 Table 4.3). -/
def execSeq (h : Hart) (rd ra rb : Reg) (s : State) : Host.Outcome State Fault Refusal :=
  run h (.seq h rd ra rb) (intRR h rd ra rb (fun a b => cmpW (a == b)) dataTag) s

/-- MUL (04 Table 4.3). -/
def execMul (h : Hart) (rd ra rb : Reg) (s : State) : Host.Outcome State Fault Refusal :=
  run h (.mul h rd ra rb) (intRR h rd ra rb (fun a b => a * b) dataTag) s

/-- MULH (04 Table 4.3). -/
def execMulh (h : Hart) (rd ra rb : Reg) (s : State) : Host.Outcome State Fault Refusal :=
  run h (.mulh h rd ra rb) (intRR h rd ra rb mulhS dataTag) s

/-- MULHU (04 Table 4.3). -/
def execMulhu (h : Hart) (rd ra rb : Reg) (s : State) : Host.Outcome State Fault Refusal :=
  run h (.mulhu h rd ra rb) (intRR h rd ra rb mulhU dataTag) s

/-- DIV (04 Table 4.3, R84). -/
def execDiv (h : Hart) (rd ra rb : Reg) (s : State) : Host.Outcome State Fault Refusal :=
  run h (.div h rd ra rb) (intRR h rd ra rb divS dataTag) s

/-- DIVU (04 Table 4.3, R84). -/
def execDivu (h : Hart) (rd ra rb : Reg) (s : State) : Host.Outcome State Fault Refusal :=
  run h (.divu h rd ra rb) (intRR h rd ra rb divU dataTag) s

/-- REM (04 Table 4.3, R84). -/
def execRem (h : Hart) (rd ra rb : Reg) (s : State) : Host.Outcome State Fault Refusal :=
  run h (.rem h rd ra rb) (intRR h rd ra rb remS dataTag) s

/-- REMU (04 Table 4.3, R84). -/
def execRemu (h : Hart) (rd ra rb : Reg) (s : State) : Host.Outcome State Fault Refusal :=
  run h (.remu h rd ra rb) (intRR h rd ra rb remU dataTag) s

/-- CLZ (04 Table 4.3). -/
def execClz (h : Hart) (rd ra : Reg) (s : State) : Host.Outcome State Fault Refusal :=
  run h (.clz h rd ra) (intR h rd ra (fun a => BitVec.ofNat 64 (clz a.toNat 64))) s

/-- CTZ (04 Table 4.3). -/
def execCtz (h : Hart) (rd ra : Reg) (s : State) : Host.Outcome State Fault Refusal :=
  run h (.ctz h rd ra) (intR h rd ra (fun a => BitVec.ofNat 64 (ctz a.toNat 0 64))) s

/-- POPC (04 Table 4.3). -/
def execPopc (h : Hart) (rd ra : Reg) (s : State) : Host.Outcome State Fault Refusal :=
  run h (.popc h rd ra) (intR h rd ra (fun a => BitVec.ofNat 64 (popcount a.toNat 64))) s

/-- BSWAP (04 Table 4.3). -/
def execBswap (h : Hart) (rd ra : Reg) (s : State) : Host.Outcome State Fault Refusal :=
  run h (.bswap h rd ra) (intR h rd ra (bswap)) s

/-- MV: the value with its tag, whatever it is (03 Table 3.7). -/
def execMv (h : Hart) (rd ra : Reg) (s : State) : Host.Outcome State Fault Refusal :=
  run h (.mv h rd ra) (fun s => writeG h rd (gpr (cpuOf s h) ra) s) s

/-- ADDI (04 Table 4.4). -/
def execAddi (h : Hart) (rd ra : Reg) (imm : BitVec 16) (s : State) : Host.Outcome State Fault Refusal :=
  run h (.addi h rd ra imm) (intRI h rd ra (imm.signExtend 64) (fun a b => a + b) ptrTag) s

/-- ANDI (04 Table 4.4). -/
def execAndi (h : Hart) (rd ra : Reg) (imm : BitVec 16) (s : State) : Host.Outcome State Fault Refusal :=
  run h (.andi h rd ra imm) (intRI h rd ra (imm.zeroExtend 64) (fun a b => a &&& b) ptrTag) s

/-- ORI (04 Table 4.4). -/
def execOri (h : Hart) (rd ra : Reg) (imm : BitVec 16) (s : State) : Host.Outcome State Fault Refusal :=
  run h (.ori h rd ra imm) (intRI h rd ra (imm.zeroExtend 64) (fun a b => a ||| b) ptrTag) s

/-- XORI (04 Table 4.4). -/
def execXori (h : Hart) (rd ra : Reg) (imm : BitVec 16) (s : State) : Host.Outcome State Fault Refusal :=
  run h (.xori h rd ra imm) (intRI h rd ra (imm.zeroExtend 64) (fun a b => a ^^^ b) ptrTag) s

/-- SLTI (04 Table 4.4). -/
def execSlti (h : Hart) (rd ra : Reg) (imm : BitVec 16) (s : State) : Host.Outcome State Fault Refusal :=
  run h (.slti h rd ra imm) (intRI h rd ra (imm.signExtend 64) (fun a b => cmpW (a.slt b)) dataTag) s

/-- SLTIU (04 Table 4.4). -/
def execSltiu (h : Hart) (rd ra : Reg) (imm : BitVec 16) (s : State) : Host.Outcome State Fault Refusal :=
  run h (.sltiu h rd ra imm) (intRI h rd ra (imm.signExtend 64) (fun a b => cmpW (a.ult b)) dataTag) s

/-- SHI (04 Table 4.4). -/
def execShi (h : Hart) (rd ra : Reg) (op : BitVec 2) (amt6 : BitVec 6) (s : State) : Host.Outcome State Fault Refusal :=
  run h (.shi h rd ra op amt6) (intRI h rd ra (amt6.zeroExtend 64) (shiOp op) dataTag) s

/-- KSTART (04 Table 4.4). -/
def execKstart (h : Hart) (rd : Reg) (imm : BitVec 16) (s : State) : Host.Outcome State Fault Refusal :=
  run h (.kstart h rd imm) (fun s => writeG h rd ⟨imm.signExtend 64, .data⟩ s) s

/-- KNEXT: rd is its operand (04 R83). -/
def execKnext (h : Hart) (rd : Reg) (imm : BitVec 16) (s : State) : Host.Outcome State Fault Refusal :=
  run h (.knext h rd imm) (intRI h rd rd (imm.zeroExtend 64) (fun a b => (a <<< 16) ||| b) dataTag) s

/-- KREP (04 Table 4.4). -/
def execKrep (h : Hart) (rd : Reg) (imm : BitVec 16) (s : State) : Host.Outcome State Fault Refusal :=
  run h (.krep h rd imm) (fun s => writeG h rd ⟨krep imm, .data⟩ s) s

/-- APC, giving DATA (04 R83). -/
def execApc (h : Hart) (rd : Reg) (imm : BitVec 21) (s : State) : Host.Outcome State Fault Refusal :=
  run h (.apc h rd imm) (fun s => writeG h rd ⟨apcValue (pcOf s h) imm, .data⟩ s) s

/-- APC, giving DPTR (04 R83). -/
def execApcD (h : Hart) (rd : Reg) (imm : BitVec 21) (s : State) : Host.Outcome State Fault Refusal :=
  run h (.apcD h rd imm) (fun s => writeG h rd ⟨apcValue (pcOf s h) imm, .dptr⟩ s) s

/-- APC, giving CPTR (04 R83). -/
def execApcC (h : Hart) (rd : Reg) (imm : BitVec 21) (s : State) : Host.Outcome State Fault Refusal :=
  run h (.apcC h rd imm) (fun s => writeG h rd ⟨apcValue (pcOf s h) imm, .cptr⟩ s) s

/-- SEL (04 R86). -/
def execSel (h : Hart) (rd ra rb rc : Reg) (s : State) : Host.Outcome State Fault Refusal :=
  run h (.sel h rd ra rb rc) (fun s => select h rd rc (gpr (cpuOf s h) ra) (gpr (cpuOf s h) rb) s) s

/-- CMOV: rd keeps value and tag when the condition is false (04 R86). -/
def execCmov (h : Hart) (rd ra rc : Reg) (s : State) : Host.Outcome State Fault Refusal :=
  run h (.cmov h rd ra rc) (fun s => select h rd rc (gpr (cpuOf s h) ra) (gpr (cpuOf s h) rd) s) s

/-- CMOVZ: rd keeps value and tag when the condition is true (04 R86). -/
def execCmovz (h : Hart) (rd ra rc : Reg) (s : State) : Host.Outcome State Fault Refusal :=
  run h (.cmovz h rd ra rc) (fun s => select h rd rc (gpr (cpuOf s h) rd) (gpr (cpuOf s h) ra) s) s

/-- EXT (04 R83). -/
def execExt (h : Hart) (rd ra : Reg) (len pos : BitVec 6) (s : State) : Host.Outcome State Fault Refusal :=
  run h (.ext h rd ra len pos) (intR h rd ra (extS len pos)) s

/-- EXTU (04 R83). -/
def execExtu (h : Hart) (rd ra : Reg) (len pos : BitVec 6) (s : State) : Host.Outcome State Fault Refusal :=
  run h (.extu h rd ra len pos) (intR h rd ra (extU len pos)) s

/-- INS: rd and ra are its operands (04 R83). -/
def execIns (h : Hart) (rd ra : Reg) (len pos : BitVec 6) (s : State) : Host.Outcome State Fault Refusal :=
  run h (.ins h rd ra len pos) (intRR h rd rd ra (insField len pos) dataTag) s

/-- MULW (04 R94). -/
def execMulw (h : Hart) (ra rb : Reg) (s : State) : Host.Outcome State Fault Refusal :=
  run h (.mulw h ra rb) (product h ra rb true false) s

/-- MULWU (04 R94). -/
def execMulwu (h : Hart) (ra rb : Reg) (s : State) : Host.Outcome State Fault Refusal :=
  run h (.mulwu h ra rb) (product h ra rb false false) s

/-- MACW (04 R94). -/
def execMacw (h : Hart) (ra rb : Reg) (s : State) : Host.Outcome State Fault Refusal :=
  run h (.macw h ra rb) (product h ra rb true true) s

/-- MACWU (04 R94). -/
def execMacwu (h : Hart) (ra rb : Reg) (s : State) : Host.Outcome State Fault Refusal :=
  run h (.macwu h ra rb) (product h ra rb false true) s

end Sys2Proof.Machine
end

