-- ==== Sys2Proof/Machine/Vector.lean ====
section
/-! DEFINITION. Vector instructions (04 R107, R108; 05 R125). -/

namespace Sys2Proof.Machine
open Sys2Proof

/-- Element width in bits of an element type (04 R107). -/
def ewBits (ew : BitVec 3) : Nat := 8 * 2 ^ ew.toNat

/-- Element `i` of width `w`; element 0 holds the lowest-addressed octets. -/
def elem (w : Nat) (x : BitVec 256) (i : Nat) : Nat := x.toNat >>> (w * i) % 2 ^ w

/-- The register whose elements of width `w` are given, element 0 first. -/
def ofElems (w : Nat) : List Nat → Nat
  | [] => 0
  | e :: es => e % 2 ^ w + (ofElems w es <<< w)

/-- The register with element `i` computed by `f`. -/
def vmk (w : Nat) (f : Nat → Nat) : BitVec 256 := BitVec.ofNat 256 (ofElems w ((List.range (256 / w)).map f))

/-- An integer operation element by element, wrapping. -/
def vmap2 (w : Nat) (f : BitVec w → BitVec w → BitVec w) (a b : BitVec 256) : BitVec 256 :=
  vmk w (fun i => (f (BitVec.ofNat w (elem w a i)) (BitVec.ofNat w (elem w b i))).toNat)

/-- All ones if true, else 0. -/
def maskW (w : Nat) (b : Bool) : BitVec w := if b then BitVec.allOnes w else 0

/-- Write a vector register of a hart and fall through. -/
def writeV (h : Hart) (vd : Reg) (x : BitVec 256) (s : State) : State × Done := (modCpu h (setVpr vd x) s, .seq)

/-- An integer operation on two vector registers. -/
def vint (h : Hart) (vd va vb : Reg) (ew : BitVec 3) (f : (w : Nat) → BitVec w → BitVec w → BitVec w) (s : State) : State × Done :=
  writeV h vd (vmap2 (ewBits ew) (f (ewBits ew)) (vpr (cpuOf s h) va) (vpr (cpuOf s h) vb)) s

/-- The element width of a floating-point type. -/
def fpW (d : Bool) : Nat := if d then 64 else 32

/-- A floating-point operation element by element; each flag that any element raises is set (05 R127). -/
def vfp (h : Hart) (vd : Reg) (d : Bool) (f : Nat → Nat × FFlags) (s : State) : State × Done :=
  let w := fpW d
  let rs := (List.range (256 / w)).map f
  (modCpu h (fun c => raiseFlags (rs.foldl (fun fl r => orFlags fl r.2) {}) (setVpr vd (BitVec.ofNat 256 (ofElems w (rs.map (·.1)))) c)) s, .seq)

/-- Two floating-point vector operands, rounding by FCSR.RM (05 R125). -/
def vfp2 (h : Hart) (vd va vb : Reg) (d : Bool) (f : Bool → Nat → Nat → Nat → Nat × FFlags) (s : State) : State × Done :=
  let c := cpuOf s h
  let w := fpW d
  vfp h vd d (fun i => f d (rmOf c 7) (elem w (vpr c va) i) (elem w (vpr c vb) i)) s

/-- A comparison: true gives all ones. -/
def vfpCmp (k : Nat) (d : Bool) (_rm x y : Nat) : Nat × FFlags :=
  let r := fCompare d k x y
  (if r.1 then 2 ^ fpW d - 1 else 0, r.2)

/-- A move from g to v, with its tag checks (04 R108). -/
def vfromG (h : Hart) (vd ra : Reg) (f : Cpu → Word → BitVec 256) (s : State) : State × Done :=
  let c := cpuOf s h
  match srcExc c [gpr c ra] with
  | some e => (s, .exc e)
  | none => writeV h vd (f c (gpr c ra).v) s

/-! ## Meanings -/

/-- VADD (04 Table 4.8). -/
def execVadd (h : Hart) (vd va vb : Reg) (ew : BitVec 3) (s : State) : Host.Outcome State Fault Refusal :=
  run h (.vadd h vd va vb ew) (vint h vd va vb ew (fun _ x y => x + y)) s

/-- VSUB (04 Table 4.8). -/
def execVsub (h : Hart) (vd va vb : Reg) (ew : BitVec 3) (s : State) : Host.Outcome State Fault Refusal :=
  run h (.vsub h vd va vb ew) (vint h vd va vb ew (fun _ x y => x - y)) s

/-- VMUL (04 Table 4.8). -/
def execVmul (h : Hart) (vd va vb : Reg) (ew : BitVec 3) (s : State) : Host.Outcome State Fault Refusal :=
  run h (.vmul h vd va vb ew) (vint h vd va vb ew (fun _ x y => x * y)) s

/-- VMIN (04 Table 4.8). -/
def execVmin (h : Hart) (vd va vb : Reg) (ew : BitVec 3) (s : State) : Host.Outcome State Fault Refusal :=
  run h (.vmin h vd va vb ew) (vint h vd va vb ew (fun _ x y => if x.slt y then x else y)) s

/-- VMAX (04 Table 4.8). -/
def execVmax (h : Hart) (vd va vb : Reg) (ew : BitVec 3) (s : State) : Host.Outcome State Fault Refusal :=
  run h (.vmax h vd va vb ew) (vint h vd va vb ew (fun _ x y => if x.slt y then y else x)) s

/-- VMINU (04 Table 4.8). -/
def execVminu (h : Hart) (vd va vb : Reg) (ew : BitVec 3) (s : State) : Host.Outcome State Fault Refusal :=
  run h (.vminu h vd va vb ew) (vint h vd va vb ew (fun _ x y => if x.ult y then x else y)) s

/-- VMAXU (04 Table 4.8). -/
def execVmaxu (h : Hart) (vd va vb : Reg) (ew : BitVec 3) (s : State) : Host.Outcome State Fault Refusal :=
  run h (.vmaxu h vd va vb ew) (vint h vd va vb ew (fun _ x y => if x.ult y then y else x)) s

/-- VAND (04 Table 4.8). -/
def execVand (h : Hart) (vd va vb : Reg) (ew : BitVec 3) (s : State) : Host.Outcome State Fault Refusal :=
  run h (.vand h vd va vb ew) (vint h vd va vb ew (fun _ x y => x &&& y)) s

/-- VOR (04 Table 4.8). -/
def execVor (h : Hart) (vd va vb : Reg) (ew : BitVec 3) (s : State) : Host.Outcome State Fault Refusal :=
  run h (.vor h vd va vb ew) (vint h vd va vb ew (fun _ x y => x ||| y)) s

/-- VXOR (04 Table 4.8). -/
def execVxor (h : Hart) (vd va vb : Reg) (ew : BitVec 3) (s : State) : Host.Outcome State Fault Refusal :=
  run h (.vxor h vd va vb ew) (vint h vd va vb ew (fun _ x y => x ^^^ y)) s

/-- VANDN (04 Table 4.8). -/
def execVandn (h : Hart) (vd va vb : Reg) (ew : BitVec 3) (s : State) : Host.Outcome State Fault Refusal :=
  run h (.vandn h vd va vb ew) (vint h vd va vb ew (fun _ x y => x &&& ~~~y)) s

/-- VSHL (04 Table 4.8). -/
def execVshl (h : Hart) (vd va vb : Reg) (ew : BitVec 3) (s : State) : Host.Outcome State Fault Refusal :=
  run h (.vshl h vd va vb ew) (vint h vd va vb ew (fun w x y => x <<< (y.toNat % w))) s

/-- VSHR (04 Table 4.8). -/
def execVshr (h : Hart) (vd va vb : Reg) (ew : BitVec 3) (s : State) : Host.Outcome State Fault Refusal :=
  run h (.vshr h vd va vb ew) (vint h vd va vb ew (fun w x y => x >>> (y.toNat % w))) s

/-- VSRA (04 Table 4.8). -/
def execVsra (h : Hart) (vd va vb : Reg) (ew : BitVec 3) (s : State) : Host.Outcome State Fault Refusal :=
  run h (.vsra h vd va vb ew) (vint h vd va vb ew (fun w x y => x.sshiftRight (y.toNat % w))) s

/-- VCMPEQ (04 Table 4.8). -/
def execVcmpeq (h : Hart) (vd va vb : Reg) (ew : BitVec 3) (s : State) : Host.Outcome State Fault Refusal :=
  run h (.vcmpeq h vd va vb ew) (vint h vd va vb ew (fun w x y => maskW w (x == y))) s

/-- VCMPLT (04 Table 4.8). -/
def execVcmplt (h : Hart) (vd va vb : Reg) (ew : BitVec 3) (s : State) : Host.Outcome State Fault Refusal :=
  run h (.vcmplt h vd va vb ew) (vint h vd va vb ew (fun w x y => maskW w (x.slt y))) s

/-- VCMPLTU (04 Table 4.8). -/
def execVcmpltu (h : Hart) (vd va vb : Reg) (ew : BitVec 3) (s : State) : Host.Outcome State Fault Refusal :=
  run h (.vcmpltu h vd va vb ew) (vint h vd va vb ew (fun w x y => maskW w (x.ult y))) s

/-- VPERM: bytes of va chosen by the low five bits of vb's bytes (04 Table 4.8). -/
def execVperm (h : Hart) (vd va vb : Reg) (s : State) : Host.Outcome State Fault Refusal :=
  run h (.vperm h vd va vb) (fun s =>
    let c := cpuOf s h
    writeV h vd (vmk 8 (fun i => elem 8 (vpr c va) (elem 8 (vpr c vb) i % 32))) s) s

/-- VRED: element 0 takes the sum of the elements, the others 0 (04 Table 4.8). -/
def execVred (h : Hart) (vd va : Reg) (ew : BitVec 3) (s : State) : Host.Outcome State Fault Refusal :=
  run h (.vred h vd va ew) (fun s =>
    let x := vpr (cpuOf s h) va
    let w := ewBits ew
    writeV h vd (BitVec.ofNat 256 (((List.range (256 / w)).foldl (fun a i => a + elem w x i) 0) % 2 ^ w)) s) s

/-- VBCAST (04 Table 4.8, R108). -/
def execVbcast (h : Hart) (vd ra : Reg) (ew : BitVec 3) (s : State) : Host.Outcome State Fault Refusal :=
  run h (.vbcast h vd ra ew) (vfromG h vd ra (fun _ x => vmk (ewBits ew) (fun _ => x.toNat))) s

/-- VEXT: an element into g, zero-extended, DATA (04 Table 4.8, R108). -/
def execVext (h : Hart) (rd va idx : Reg) (ew : BitVec 3) (s : State) : Host.Outcome State Fault Refusal :=
  run h (.vext h rd va idx ew) (fun s =>
    writeG h rd ⟨BitVec.ofNat 64 (elem (ewBits ew) (vpr (cpuOf s h) va) idx.toNat), .data⟩ s) s

/-- VINS: one element replaced, the others unchanged (04 Table 4.8, R108). -/
def execVins (h : Hart) (vd ra idx : Reg) (ew : BitVec 3) (s : State) : Host.Outcome State Fault Refusal :=
  run h (.vins h vd ra idx ew) (vfromG h vd ra (fun c x =>
    vmk (ewBits ew) (fun i => if i = idx.toNat then x.toNat else elem (ewBits ew) (vpr c vd) i))) s

/-- VFADD (05 Table 5.4). -/
def execVfadd (h : Hart) (vd va vb : Reg) (d : Bool) (s : State) : Host.Outcome State Fault Refusal :=
  run h (.vfadd h vd va vb d) (vfp2 h vd va vb d (fAdd)) s

/-- VFSUB (05 Table 5.4). -/
def execVfsub (h : Hart) (vd va vb : Reg) (d : Bool) (s : State) : Host.Outcome State Fault Refusal :=
  run h (.vfsub h vd va vb d) (vfp2 h vd va vb d (fSub)) s

/-- VFMUL (05 Table 5.4). -/
def execVfmul (h : Hart) (vd va vb : Reg) (d : Bool) (s : State) : Host.Outcome State Fault Refusal :=
  run h (.vfmul h vd va vb d) (vfp2 h vd va vb d (fMul)) s

/-- VFMIN (05 Table 5.4). -/
def execVfmin (h : Hart) (vd va vb : Reg) (d : Bool) (s : State) : Host.Outcome State Fault Refusal :=
  run h (.vfmin h vd va vb d) (vfp2 h vd va vb d (fun d _ x y => fMinMax d false x y)) s

/-- VFMAX (05 Table 5.4). -/
def execVfmax (h : Hart) (vd va vb : Reg) (d : Bool) (s : State) : Host.Outcome State Fault Refusal :=
  run h (.vfmax h vd va vb d) (vfp2 h vd va vb d (fun d _ x y => fMinMax d true x y)) s

/-- VFCEQ (05 Table 5.4). -/
def execVfceq (h : Hart) (vd va vb : Reg) (d : Bool) (s : State) : Host.Outcome State Fault Refusal :=
  run h (.vfceq h vd va vb d) (vfp2 h vd va vb d (vfpCmp 0)) s

/-- VFCLT (05 Table 5.4). -/
def execVfclt (h : Hart) (vd va vb : Reg) (d : Bool) (s : State) : Host.Outcome State Fault Refusal :=
  run h (.vfclt h vd va vb d) (vfp2 h vd va vb d (vfpCmp 1)) s

/-- VFCLE (05 Table 5.4). -/
def execVfcle (h : Hart) (vd va vb : Reg) (d : Bool) (s : State) : Host.Outcome State Fault Refusal :=
  run h (.vfcle h vd va vb d) (vfp2 h vd va vb d (vfpCmp 2)) s

/-- VFTOI (05 Table 5.4). -/
def execVftoi (h : Hart) (vd va : Reg) (d : Bool) (s : State) : Host.Outcome State Fault Refusal :=
  run h (.vftoi h vd va d) (vfp2 h vd va va d (fun d rm x _ => fToI d rm (fpW d) true x)) s

/-- VFFROMI (05 Table 5.4). -/
def execVffromi (h : Hart) (vd va : Reg) (d : Bool) (s : State) : Host.Outcome State Fault Refusal :=
  run h (.vffromi h vd va d) (vfp2 h vd va va d (fun d rm x _ => fFromI d rm (BitVec.ofNat (fpW d) x).toInt)) s

/-- VFNEG (05 Table 5.4). -/
def execVfneg (h : Hart) (vd va : Reg) (d : Bool) (s : State) : Host.Outcome State Fault Refusal :=
  run h (.vfneg h vd va d) (vfp2 h vd va va d (fun d _ x _ => (if fSign d x then x - 2 ^ (fW d - 1) else x + 2 ^ (fW d - 1), {}))) s

/-- VFABS (05 Table 5.4). -/
def execVfabs (h : Hart) (vd va : Reg) (d : Bool) (s : State) : Host.Outcome State Fault Refusal :=
  run h (.vfabs h vd va d) (vfp2 h vd va va d (fun d _ x _ => (x % 2 ^ (fW d - 1), {}))) s

/-- VFMA: va × vb + vc, rounded once per element (04 R107, 05 R125). -/
def execVfma (h : Hart) (vd va vb vc : Reg) (d : Bool) (s : State) : Host.Outcome State Fault Refusal :=
  run h (.vfma h vd va vb vc d) (fun s =>
    let c := cpuOf s h
    let w := fpW d
    vfp h vd d (fun i => fFma d (rmOf c 7) false false (elem w (vpr c va) i) (elem w (vpr c vb) i) (elem w (vpr c vc) i)) s) s

/-- VSEL: each bit from va where the mask has a 1, else from vb (04 R107). -/
def execVsel (h : Hart) (vd va vb vm : Reg) (s : State) : Host.Outcome State Fault Refusal :=
  run h (.vsel h vd va vb vm) (fun s =>
    let c := cpuOf s h
    let m := vpr c vm
    writeV h vd ((vpr c va &&& m) ||| (vpr c vb &&& ~~~m)) s) s

end Sys2Proof.Machine
end

