-- ==== Sys2Proof/Machine/Dispatch.lean ====
section
/-! DEFINITION. One arm per command: each calls the meaning of its row, or rejects the row by name. -/

namespace Sys2Proof.Machine
open Sys2Proof

def exec (i : Instr) (s : State) : Host.Outcome State Fault Refusal :=
  match i with
  | .referenceLost => Sys2Proof.Machine.execReferenceLost s
  | .referenceReturn => Sys2Proof.Machine.execReferenceReturn s
  | .holdoverTimeout => Sys2Proof.Machine.execHoldoverTimeout s
  | .wrapBitSet k => Sys2Proof.Machine.execWrapBitSet k s
  | .alignInterval => Sys2Proof.Machine.execAlignInterval s
  | .alignReq link t1 => Sys2Proof.Machine.execAlignReq link t1 s
  | .alignRsp link t1 t2 t3 => Sys2Proof.Machine.execAlignRsp link t1 t2 t3 s
  | .stampAdjust => Sys2Proof.Machine.execStampAdjust s
  | .stampLinkLost => Sys2Proof.Machine.execStampLinkLost s
  | .asyncEventTaken n => Sys2Proof.Machine.execAsyncEventTaken n s
  | .interruptDelivery n m => Sys2Proof.Machine.execInterruptDelivery n m s
  | .engineException n code => Sys2Proof.Machine.execEngineException n code s
  | .add h rd ra rb => Sys2Proof.Machine.execAdd h rd ra rb s
  | .sub h rd ra rb => Sys2Proof.Machine.execSub h rd ra rb s
  | .and h rd ra rb => Sys2Proof.Machine.execAnd h rd ra rb s
  | .or h rd ra rb => Sys2Proof.Machine.execOr h rd ra rb s
  | .xor h rd ra rb => Sys2Proof.Machine.execXor h rd ra rb s
  | .andn h rd ra rb => Sys2Proof.Machine.execAndn h rd ra rb s
  | .shl h rd ra rb => Sys2Proof.Machine.execShl h rd ra rb s
  | .shr h rd ra rb => Sys2Proof.Machine.execShr h rd ra rb s
  | .sra h rd ra rb => Sys2Proof.Machine.execSra h rd ra rb s
  | .ror h rd ra rb => Sys2Proof.Machine.execRor h rd ra rb s
  | .slt h rd ra rb => Sys2Proof.Machine.execSlt h rd ra rb s
  | .sltu h rd ra rb => Sys2Proof.Machine.execSltu h rd ra rb s
  | .seq h rd ra rb => Sys2Proof.Machine.execSeq h rd ra rb s
  | .mul h rd ra rb => Sys2Proof.Machine.execMul h rd ra rb s
  | .mulh h rd ra rb => Sys2Proof.Machine.execMulh h rd ra rb s
  | .mulhu h rd ra rb => Sys2Proof.Machine.execMulhu h rd ra rb s
  | .div h rd ra rb => Sys2Proof.Machine.execDiv h rd ra rb s
  | .divu h rd ra rb => Sys2Proof.Machine.execDivu h rd ra rb s
  | .rem h rd ra rb => Sys2Proof.Machine.execRem h rd ra rb s
  | .remu h rd ra rb => Sys2Proof.Machine.execRemu h rd ra rb s
  | .clz h rd ra => Sys2Proof.Machine.execClz h rd ra s
  | .ctz h rd ra => Sys2Proof.Machine.execCtz h rd ra s
  | .popc h rd ra => Sys2Proof.Machine.execPopc h rd ra s
  | .bswap h rd ra => Sys2Proof.Machine.execBswap h rd ra s
  | .mv h rd ra => Sys2Proof.Machine.execMv h rd ra s
  | .addi h rd ra imm => Sys2Proof.Machine.execAddi h rd ra imm s
  | .andi h rd ra imm => Sys2Proof.Machine.execAndi h rd ra imm s
  | .ori h rd ra imm => Sys2Proof.Machine.execOri h rd ra imm s
  | .xori h rd ra imm => Sys2Proof.Machine.execXori h rd ra imm s
  | .shi h rd ra op amt => Sys2Proof.Machine.execShi h rd ra op amt s
  | .slti h rd ra imm => Sys2Proof.Machine.execSlti h rd ra imm s
  | .sltiu h rd ra imm => Sys2Proof.Machine.execSltiu h rd ra imm s
  | .kstart h rd imm => Sys2Proof.Machine.execKstart h rd imm s
  | .knext h rd imm => Sys2Proof.Machine.execKnext h rd imm s
  | .krep h rd imm => Sys2Proof.Machine.execKrep h rd imm s
  | .apc h rd imm => Sys2Proof.Machine.execApc h rd imm s
  | .apcD h rd imm => Sys2Proof.Machine.execApcD h rd imm s
  | .apcC h rd imm => Sys2Proof.Machine.execApcC h rd imm s
  | .sel h rd ra rb rc => Sys2Proof.Machine.execSel h rd ra rb rc s
  | .cmov h rd ra rc => Sys2Proof.Machine.execCmov h rd ra rc s
  | .cmovz h rd ra rc => Sys2Proof.Machine.execCmovz h rd ra rc s
  | .ext h rd ra len pos => Sys2Proof.Machine.execExt h rd ra len pos s
  | .extu h rd ra len pos => Sys2Proof.Machine.execExtu h rd ra len pos s
  | .ins h rd ra len pos => Sys2Proof.Machine.execIns h rd ra len pos s
  | .ldB h rd ra imm => Sys2Proof.Machine.execLdB h rd ra imm s
  | .ldBu h rd ra imm => Sys2Proof.Machine.execLdBu h rd ra imm s
  | .ldH h rd ra imm => Sys2Proof.Machine.execLdH h rd ra imm s
  | .ldHu h rd ra imm => Sys2Proof.Machine.execLdHu h rd ra imm s
  | .ldW h rd ra imm => Sys2Proof.Machine.execLdW h rd ra imm s
  | .ldWu h rd ra imm => Sys2Proof.Machine.execLdWu h rd ra imm s
  | .ldD h rd ra imm => Sys2Proof.Machine.execLdD h rd ra imm s
  | .ldfS h rd ra imm => Sys2Proof.Machine.execLdfS h rd ra imm s
  | .ldfD h rd ra imm => Sys2Proof.Machine.execLdfD h rd ra imm s
  | .vld h rd ra imm => Sys2Proof.Machine.execVld h rd ra imm s
  | .stB h rd ra imm => Sys2Proof.Machine.execStB h rd ra imm s
  | .stH h rd ra imm => Sys2Proof.Machine.execStH h rd ra imm s
  | .stW h rd ra imm => Sys2Proof.Machine.execStW h rd ra imm s
  | .stD h rd ra imm => Sys2Proof.Machine.execStD h rd ra imm s
  | .stfS h rd ra imm => Sys2Proof.Machine.execStfS h rd ra imm s
  | .stfD h rd ra imm => Sys2Proof.Machine.execStfD h rd ra imm s
  | .vst h rd ra imm => Sys2Proof.Machine.execVst h rd ra imm s
  | .ldx h rd ra rb w sh => Sys2Proof.Machine.execLdx h rd ra rb w sh s
  | .stx h rd ra rb w sh nt => Sys2Proof.Machine.execStx h rd ra rb w sh nt s
  | .ldtg h rd ra imm => Sys2Proof.Machine.execLdtg h rd ra imm s
  | .pf h hint ra imm => Sys2Proof.Machine.execPf h hint ra imm s
  | .atomicSwap h rd ra rb d ord => Sys2Proof.Machine.execAtomicSwap h rd ra rb d ord s
  | .atomicAdd h rd ra rb d ord => Sys2Proof.Machine.execAtomicAdd h rd ra rb d ord s
  | .atomicAnd h rd ra rb d ord => Sys2Proof.Machine.execAtomicAnd h rd ra rb d ord s
  | .atomicOr h rd ra rb d ord => Sys2Proof.Machine.execAtomicOr h rd ra rb d ord s
  | .atomicXor h rd ra rb d ord => Sys2Proof.Machine.execAtomicXor h rd ra rb d ord s
  | .atomicMin h rd ra rb d ord => Sys2Proof.Machine.execAtomicMin h rd ra rb d ord s
  | .atomicMax h rd ra rb d ord => Sys2Proof.Machine.execAtomicMax h rd ra rb d ord s
  | .atomicMinu h rd ra rb d ord => Sys2Proof.Machine.execAtomicMinu h rd ra rb d ord s
  | .atomicMaxu h rd ra rb d ord => Sys2Proof.Machine.execAtomicMaxu h rd ra rb d ord s
  | .atomicCas h rd ra rb d ord => Sys2Proof.Machine.execAtomicCas h rd ra rb d ord s
  | .j h off => Sys2Proof.Machine.execJ h off s
  | .call h off => Sys2Proof.Machine.execCall h off s
  | .beq h ra rb off => Sys2Proof.Machine.execBeq h ra rb off s
  | .bne h ra rb off => Sys2Proof.Machine.execBne h ra rb off s
  | .blt h ra rb off => Sys2Proof.Machine.execBlt h ra rb off s
  | .bge h ra rb off => Sys2Proof.Machine.execBge h ra rb off s
  | .bltu h ra rb off => Sys2Proof.Machine.execBltu h ra rb off s
  | .bgeu h ra rb off => Sys2Proof.Machine.execBgeu h ra rb off s
  | .jr h ra => Sys2Proof.Machine.execJr h ra s
  | .callr h ra => Sys2Proof.Machine.execCallr h ra s
  | .ret h => Sys2Proof.Machine.execRet h s
  | .loop h lvl rc off => Sys2Proof.Machine.execLoop h lvl rc off s
  | .mulw h ra rb => Sys2Proof.Machine.execMulw h ra rb s
  | .mulwu h ra rb => Sys2Proof.Machine.execMulwu h ra rb s
  | .macw h ra rb => Sys2Proof.Machine.execMacw h ra rb s
  | .macwu h ra rb => Sys2Proof.Machine.execMacwu h ra rb s
  | .fadd h rd ra rb d rm => Sys2Proof.Machine.execFadd h rd ra rb d rm s
  | .fsub h rd ra rb d rm => Sys2Proof.Machine.execFsub h rd ra rb d rm s
  | .fmul h rd ra rb d rm => Sys2Proof.Machine.execFmul h rd ra rb d rm s
  | .fdiv h rd ra rb d rm => Sys2Proof.Machine.execFdiv h rd ra rb d rm s
  | .fsqrt h rd ra d rm => Sys2Proof.Machine.execFsqrt h rd ra d rm s
  | .fmin h rd ra rb d => Sys2Proof.Machine.execFmin h rd ra rb d s
  | .fmax h rd ra rb d => Sys2Proof.Machine.execFmax h rd ra rb d s
  | .fcopysign h rd ra rb d => Sys2Proof.Machine.execFcopysign h rd ra rb d s
  | .fneg h rd ra d => Sys2Proof.Machine.execFneg h rd ra d s
  | .fabs h rd ra d => Sys2Proof.Machine.execFabs h rd ra d s
  | .fceq h rd ra rb d => Sys2Proof.Machine.execFceq h rd ra rb d s
  | .fclt h rd ra rb d => Sys2Proof.Machine.execFclt h rd ra rb d s
  | .fcle h rd ra rb d => Sys2Proof.Machine.execFcle h rd ra rb d s
  | .fkind h rd ra d => Sys2Proof.Machine.execFkind h rd ra d s
  | .fcvtF h rd ra d rm => Sys2Proof.Machine.execFcvtF h rd ra d rm s
  | .ftoiW h rd ra d rm => Sys2Proof.Machine.execFtoiW h rd ra d rm s
  | .ftoiWu h rd ra d rm => Sys2Proof.Machine.execFtoiWu h rd ra d rm s
  | .ftoiL h rd ra d rm => Sys2Proof.Machine.execFtoiL h rd ra d rm s
  | .ftoiLu h rd ra d rm => Sys2Proof.Machine.execFtoiLu h rd ra d rm s
  | .ffromiW h rd ra d rm => Sys2Proof.Machine.execFfromiW h rd ra d rm s
  | .ffromiWu h rd ra d rm => Sys2Proof.Machine.execFfromiWu h rd ra d rm s
  | .ffromiL h rd ra d rm => Sys2Proof.Machine.execFfromiL h rd ra d rm s
  | .ffromiLu h rd ra d rm => Sys2Proof.Machine.execFfromiLu h rd ra d rm s
  | .fmvTog h rd ra d => Sys2Proof.Machine.execFmvTog h rd ra d s
  | .fmvFromg h rd ra d => Sys2Proof.Machine.execFmvFromg h rd ra d s
  | .fmadd h rd ra rb rc d rm => Sys2Proof.Machine.execFmadd h rd ra rb rc d rm s
  | .fmsub h rd ra rb rc d rm => Sys2Proof.Machine.execFmsub h rd ra rb rc d rm s
  | .fnmadd h rd ra rb rc d rm => Sys2Proof.Machine.execFnmadd h rd ra rb rc d rm s
  | .fnmsub h rd ra rb rc d rm => Sys2Proof.Machine.execFnmsub h rd ra rb rc d rm s
  | .vadd h vd va vb ew => Sys2Proof.Machine.execVadd h vd va vb ew s
  | .vsub h vd va vb ew => Sys2Proof.Machine.execVsub h vd va vb ew s
  | .vmul h vd va vb ew => Sys2Proof.Machine.execVmul h vd va vb ew s
  | .vmin h vd va vb ew => Sys2Proof.Machine.execVmin h vd va vb ew s
  | .vmax h vd va vb ew => Sys2Proof.Machine.execVmax h vd va vb ew s
  | .vminu h vd va vb ew => Sys2Proof.Machine.execVminu h vd va vb ew s
  | .vmaxu h vd va vb ew => Sys2Proof.Machine.execVmaxu h vd va vb ew s
  | .vand h vd va vb ew => Sys2Proof.Machine.execVand h vd va vb ew s
  | .vor h vd va vb ew => Sys2Proof.Machine.execVor h vd va vb ew s
  | .vxor h vd va vb ew => Sys2Proof.Machine.execVxor h vd va vb ew s
  | .vandn h vd va vb ew => Sys2Proof.Machine.execVandn h vd va vb ew s
  | .vshl h vd va vb ew => Sys2Proof.Machine.execVshl h vd va vb ew s
  | .vshr h vd va vb ew => Sys2Proof.Machine.execVshr h vd va vb ew s
  | .vsra h vd va vb ew => Sys2Proof.Machine.execVsra h vd va vb ew s
  | .vcmpeq h vd va vb ew => Sys2Proof.Machine.execVcmpeq h vd va vb ew s
  | .vcmplt h vd va vb ew => Sys2Proof.Machine.execVcmplt h vd va vb ew s
  | .vcmpltu h vd va vb ew => Sys2Proof.Machine.execVcmpltu h vd va vb ew s
  | .vperm h vd va vb => Sys2Proof.Machine.execVperm h vd va vb s
  | .vred h vd va ew => Sys2Proof.Machine.execVred h vd va ew s
  | .vbcast h vd ra ew => Sys2Proof.Machine.execVbcast h vd ra ew s
  | .vext h rd va idx ew => Sys2Proof.Machine.execVext h rd va idx ew s
  | .vins h vd ra idx ew => Sys2Proof.Machine.execVins h vd ra idx ew s
  | .vfadd h vd va vb d => Sys2Proof.Machine.execVfadd h vd va vb d s
  | .vfsub h vd va vb d => Sys2Proof.Machine.execVfsub h vd va vb d s
  | .vfmul h vd va vb d => Sys2Proof.Machine.execVfmul h vd va vb d s
  | .vfmin h vd va vb d => Sys2Proof.Machine.execVfmin h vd va vb d s
  | .vfmax h vd va vb d => Sys2Proof.Machine.execVfmax h vd va vb d s
  | .vfceq h vd va vb d => Sys2Proof.Machine.execVfceq h vd va vb d s
  | .vfclt h vd va vb d => Sys2Proof.Machine.execVfclt h vd va vb d s
  | .vfcle h vd va vb d => Sys2Proof.Machine.execVfcle h vd va vb d s
  | .vftoi h vd va d => Sys2Proof.Machine.execVftoi h vd va d s
  | .vffromi h vd va d => Sys2Proof.Machine.execVffromi h vd va d s
  | .vfneg h vd va d => Sys2Proof.Machine.execVfneg h vd va d s
  | .vfabs h vd va d => Sys2Proof.Machine.execVfabs h vd va d s
  | .vfma h vd va vb vc d => Sys2Proof.Machine.execVfma h vd va vb vc d s
  | .vsel h vd va vb vm => Sys2Proof.Machine.execVsel h vd va vb vm s
  | .mfs h rd sys => Sys2Proof.Machine.execMfs h rd sys s
  | .mts h sys ra => Sys2Proof.Machine.execMts h sys ra s
  | .mtsLk h ra => Sys2Proof.Machine.execMtsLk h ra s
  | .mtsFcsr h ra => Sys2Proof.Machine.execMtsFcsr h ra s
  | .mtsCtxPredkey h ra => Sys2Proof.Machine.execMtsCtxPredkey h ra s
  | .mtsCtxTagctl h ra => Sys2Proof.Machine.execMtsCtxTagctl h ra s
  | .mtsCtxTiming h ra => Sys2Proof.Machine.execMtsCtxTiming h ra s
  | .mtsCachecfg h ra => Sys2Proof.Machine.execMtsCachecfg h ra s
  | .mtsLoopRegister h k ra => Sys2Proof.Machine.execMtsLoopRegister h k ra s
  | .mtsPwrctl h ra => Sys2Proof.Machine.execMtsPwrctl h ra s
  | .mtsPmuSnap h ra => Sys2Proof.Machine.execMtsPmuSnap h ra s
  | .mtsCounter h k ra => Sys2Proof.Machine.execMtsCounter h k ra s
  | .tset h rd ra ty => Sys2Proof.Machine.execTset h rd ra ty s
  | .tget h rd ra => Sys2Proof.Machine.execTget h rd ra s
  | .ecall h => Sys2Proof.Machine.execEcall h s
  | .ebreak h => Sys2Proof.Machine.execEbreak h s
  | .eret h => Sys2Proof.Machine.execEret h s
  | .wfi h => Sys2Proof.Machine.execWfi h s
  | .fence h => Sys2Proof.Machine.execFence h s
  | .fenceSl h => Sys2Proof.Machine.execFenceSl h s
  | .fenceNt h => Sys2Proof.Machine.execFenceNt h s
  | .fenceIo h => Sys2Proof.Machine.execFenceIo h s
  | .syncIo h bad => Sys2Proof.Machine.execSyncIo h bad s
  | .isync h => Sys2Proof.Machine.execIsync h s
  | .tlbw h ra => Sys2Proof.Machine.execTlbw h ra s
  | .tlbiAll h b => Sys2Proof.Machine.execTlbiAll h b s
  | .tlbiAsid h ra b => Sys2Proof.Machine.execTlbiAsid h ra b s
  | .tlbiVa h ra b => Sys2Proof.Machine.execTlbiVa h ra b s
  | .tlbiVaAll h ra b => Sys2Proof.Machine.execTlbiVaAll h ra b s
  | .tlbiNonglobal h b => Sys2Proof.Machine.execTlbiNonglobal h b s
  | .walk h rd ra intent => Sys2Proof.Machine.execWalk h rd ra intent s
  | .tlbr h rd ra => Sys2Proof.Machine.execTlbr h rd ra s
  | .dcz h ra => Sys2Proof.Machine.execDcz h ra s
  | .clean h rd ra rb sc => Sys2Proof.Machine.execClean h rd ra rb sc s
  | .inval h rd ra rb sc => Sys2Proof.Machine.execInval h rd ra rb sc s
  | .clinv h rd ra rb sc => Sys2Proof.Machine.execClinv h rd ra rb sc s
  | .lockld h rd ra rb sc => Sys2Proof.Machine.execLockld h rd ra rb sc s
  | .unlock h ra lvl => Sys2Proof.Machine.execUnlock h ra lvl s
  | .storeBufferWrite h => Sys2Proof.Machine.execStoreBufferWrite h s
  | .storeAddressReexec h pc => Sys2Proof.Machine.execStoreAddressReexec h pc s
  | .loadWaitClear n => Sys2Proof.Machine.execLoadWaitClear n s
  | .ntLineLeave h => Sys2Proof.Machine.execNtLineLeave h s
  | .safePointReached n line => Sys2Proof.Machine.execSafePointReached n line s
  | .tlbiShootdown t from_ => Sys2Proof.Machine.execTlbiShootdown t from_ s
  | .ioTlbiAckTimeout n => Sys2Proof.Machine.execIoTlbiAckTimeout n s
  | .ioTranslationWalk t stream va store => Sys2Proof.Machine.execIoTranslationWalk t stream va store s
  | .deviceLoadTimeout h => Sys2Proof.Machine.execDeviceLoadTimeout h s
  | .postedWriteDrop pe port src addr => Sys2Proof.Machine.execPostedWriteDrop pe port src addr s
  | .flitUncorrectable router dir net_ wire fails => Sys2Proof.Machine.execFlitUncorrectable router dir net_ wire fails s
  | .rdshared q => Sys2Proof.Machine.execRdshared q s
  | .rdunique q => Sys2Proof.Machine.execRdunique q s
  | .upgrade q => Sys2Proof.Machine.execUpgrade q s
  | .claimzero q => Sys2Proof.Machine.execClaimzero q s
  | .rdnt q => Sys2Proof.Machine.execRdnt q s
  | .rdonce q => Sys2Proof.Machine.execRdonce q s
  | .wrback q => Sys2Proof.Machine.execWrback q s
  | .evictclean q => Sys2Proof.Machine.execEvictclean q s
  | .wrptl q => Sys2Proof.Machine.execWrptl q s
  | .wrline q => Sys2Proof.Machine.execWrline q s
  | .atomfar q => Sys2Proof.Machine.execAtomfar q s
  | .cmoclean q => Sys2Proof.Machine.execCmoclean q s
  | .cmoinval q => Sys2Proof.Machine.execCmoinval q s
  | .cmoclinv q => Sys2Proof.Machine.execCmoclinv q s
  | .lockldRequest q => Sys2Proof.Machine.execLockldRequest q s
  | .rddev q => Sys2Proof.Machine.execRddev q s
  | .wrdev q => Sys2Proof.Machine.execWrdev q s
  | .atomdev q => Sys2Proof.Machine.execAtomdev q s
  | .msg q b => Sys2Proof.Machine.execMsg q b s
  | .snpshared q => Sys2Proof.Machine.execSnpshared q s
  | .snpunique q => Sys2Proof.Machine.execSnpunique q s
  | .snpinval q => Sys2Proof.Machine.execSnpinval q s
  | .snpclean q => Sys2Proof.Machine.execSnpclean q s
  | .snpcleaninval q => Sys2Proof.Machine.execSnpcleaninval q s
  | .snpbackinval q => Sys2Proof.Machine.execSnpbackinval q s
  | .snponce q => Sys2Proof.Machine.execSnponce q s
  | .memrd q e => Sys2Proof.Machine.execMemrd q e s
  | .memwr q e => Sys2Proof.Machine.execMemwr q e s
  | .memrdnt q e => Sys2Proof.Machine.execMemrdnt q e s
  | .ack q => Sys2Proof.Machine.execAck q s
  | .comp q => Sys2Proof.Machine.execComp q s
  | .grant q => Sys2Proof.Machine.execGrant q s
  | .dbgo q => Sys2Proof.Machine.execDbgo q s
  | .retry q => Sys2Proof.Machine.execRetry q s
  | .requestReissue src txid => Sys2Proof.Machine.execRequestReissue src txid s
  | .refuse q => Sys2Proof.Machine.execRefuse q s
  | .accept q => Sys2Proof.Machine.execAccept q s
  | .rspi q => Sys2Proof.Machine.execRspi q s
  | .rsps q => Sys2Proof.Machine.execRsps q s
  | .rspievict q => Sys2Proof.Machine.execRspievict q s
  | .rspwbpend q => Sys2Proof.Machine.execRspwbpend q s
  | .memcomp q => Sys2Proof.Machine.execMemcomp q s
  | .datas q => Sys2Proof.Machine.execDatas q s
  | .datae q => Sys2Proof.Machine.execDatae q s
  | .datam q => Sys2Proof.Machine.execDatam q s
  | .dataec q => Sys2Proof.Machine.execDataec q s
  | .datamc q => Sys2Proof.Machine.execDatamc q s
  | .datant q => Sys2Proof.Machine.execDatant q s
  | .dataonce q => Sys2Proof.Machine.execDataonce q s
  | .devdata q => Sys2Proof.Machine.execDevdata q s
  | .snpdataclean q => Sys2Proof.Machine.execSnpdataclean q s
  | .snpdatadirty q => Sys2Proof.Machine.execSnpdatadirty q s
  | .wbdata q => Sys2Proof.Machine.execWbdata q s
  | .wrdata q => Sys2Proof.Machine.execWrdata q s
  | .atomopnd q => Sys2Proof.Machine.execAtomopnd q s
  | .atomresult q => Sys2Proof.Machine.execAtomresult q s
  | .atomresultc q => Sys2Proof.Machine.execAtomresultc q s
  | .memdata q => Sys2Proof.Machine.execMemdata q s
  | .routeTableWrite tab => Sys2Proof.Machine.execRouteTableWrite tab s
  | .routeSwitch t => Sys2Proof.Machine.execRouteSwitch t s
  | .epochDrainLatch => Sys2Proof.Machine.execEpochDrainLatch s
  | .refresh ch rank => Sys2Proof.Machine.execRefresh ch rank s
  | .dimmTemperature ch temp => Sys2Proof.Machine.execDimmTemperature ch temp s
  | .caParityError ch ok rank lines => Sys2Proof.Machine.execCaParityError ch ok rank lines s
  | .patrolScrub line tag e written => Sys2Proof.Machine.execPatrolScrub line tag e written s
  | .scrubPeriodEnd ch done => Sys2Proof.Machine.execScrubPeriodEnd ch done s
  | .flipMaskFired idx sub => Sys2Proof.Machine.execFlipMaskFired idx sub s
  | .powerUp b => Sys2Proof.Machine.execPowerUp b s
  | .stageBoundExceeded => Sys2Proof.Machine.execStageBoundExceeded s
  | .enclosureReset e img => Sys2Proof.Machine.execEnclosureReset e img s
  | .attestReq e nonce addr => Sys2Proof.Machine.execAttestReq e nonce addr s
  | .nonceExpiry => Sys2Proof.Machine.execNonceExpiry s
  | .debugSessionEnd k => Sys2Proof.Machine.execDebugSessionEnd k s
  | .rmaTransition signed => Sys2Proof.Machine.execRmaTransition signed s
  | .sqTail q => Sys2Proof.Machine.execSqTail q s
  | .cqHead q => Sys2Proof.Machine.execCqHead q s
  | .queueEnable q => Sys2Proof.Machine.execQueueEnable q s
  | .queueDisable q => Sys2Proof.Machine.execQueueDisable q s
  | .journalRecordFree opid => Sys2Proof.Machine.execJournalRecordFree opid s
  | .coalesceTimeout kind e slot => Sys2Proof.Machine.execCoalesceTimeout kind e slot s
  | .featuresOk q => Sys2Proof.Machine.execFeaturesOk q s
  | .channelReset q => Sys2Proof.Machine.execChannelReset q s
  | .start subch => Sys2Proof.Machine.execStart subch s
  | .resume subch => Sys2Proof.Machine.execResume subch s
  | .halt subch => Sys2Proof.Machine.execHalt subch s
  | .clear subch => Sys2Proof.Machine.execClear subch s
  | .test subch => Sys2Proof.Machine.execTest subch s
  | .commandSend opid => Sys2Proof.Machine.execCommandSend opid s
  | .responseTimerExpiry opid => Sys2Proof.Machine.execResponseTimerExpiry opid s
  | .operationDeadline opid => Sys2Proof.Machine.execOperationDeadline opid s
  | .pathFailure opid => Sys2Proof.Machine.execPathFailure opid s
  | .pathRecover subch path => Sys2Proof.Machine.execPathRecover subch path s
  | .engineHeartbeatMiss n => Sys2Proof.Machine.execEngineHeartbeatMiss n s
  | .engineTakeover n => Sys2Proof.Machine.execEngineTakeover n s
  | .endingSwap opid => Sys2Proof.Machine.execEndingSwap opid s
  | .portCfg port v => Sys2Proof.Machine.execPortCfg port v s
  | .linkUp port speed fec => Sys2Proof.Machine.execLinkUp port speed fec s
  | .linkDown port => Sys2Proof.Machine.execLinkDown port s
  | .frameDiscard port f => Sys2Proof.Machine.execFrameDiscard port f s
  | .openAck port f => Sys2Proof.Machine.execOpenAck port f s
  | .data port f => Sys2Proof.Machine.execData port f s
  | .rsp port f => Sys2Proof.Machine.execRsp port f s
  | .ackf port f => Sys2Proof.Machine.execAckf port f s
  | .nak port f => Sys2Proof.Machine.execNak port f s
  | .close port f => Sys2Proof.Machine.execClose port f s
  | .retransmissionTimeout port node => Sys2Proof.Machine.execRetransmissionTimeout port node s
  | .keepaliveExpiry port node => Sys2Proof.Machine.execKeepaliveExpiry port node s
  | .ackTimer port node => Sys2Proof.Machine.execAckTimer port node s
  | .receiveBufferFree port => Sys2Proof.Machine.execReceiveBufferFree port s
  | .qctNodeWrite sub v => Sys2Proof.Machine.execQctNodeWrite sub v s
  | .cancelComplete opid => Sys2Proof.Machine.execCancelComplete opid s
  | .endSend port node => Sys2Proof.Machine.execEndSend port node s
  | .compress n => Sys2Proof.Machine.execCompress n s
  | .decompress n => Sys2Proof.Machine.execDecompress n s
  | .gcmEnc n => Sys2Proof.Machine.execGcmEnc n s
  | .gcmDec n => Sys2Proof.Machine.execGcmDec n s
  | .xtsEnc n => Sys2Proof.Machine.execXtsEnc n s
  | .xtsDec n => Sys2Proof.Machine.execXtsDec n s
  | .ctr n => Sys2Proof.Machine.execCtr n s
  | .hash n => Sys2Proof.Machine.execHash n s
  | .hmac n => Sys2Proof.Machine.execHmac n s
  | .hmacVerify n => Sys2Proof.Machine.execHmacVerify n s
  | .sign n => Sys2Proof.Machine.execSign n s
  | .verify n => Sys2Proof.Machine.execVerify n s
  | .ecdh n => Sys2Proof.Machine.execEcdh n s
  | .kemEncaps n => Sys2Proof.Machine.execKemEncaps n s
  | .kemDecaps n => Sys2Proof.Machine.execKemDecaps n s
  | .keygen n => Sys2Proof.Machine.execKeygen n s
  | .derive n => Sys2Proof.Machine.execDerive n s
  | .wrap n => Sys2Proof.Machine.execWrap n s
  | .unwrap n => Sys2Proof.Machine.execUnwrap n s
  | .destroy n => Sys2Proof.Machine.execDestroy n s
  | .holPublic n => Sys2Proof.Machine.execHolPublic n s
  | .random n => Sys2Proof.Machine.execRandom n s
  | .acceleratorEngineFailed unit reason => Sys2Proof.Machine.execAcceleratorEngineFailed unit reason s
  | .drbgReseed n e => Sys2Proof.Machine.execDrbgReseed n e s
  | .entropySourceFail die test => Sys2Proof.Machine.execEntropySourceFail die test s
  | .errorRecord k => Sys2Proof.Machine.execErrorRecord k s
  | .checkerError n e => Sys2Proof.Machine.execCheckerError n e s
  | .arrayError code unit set way line words syn ue => Sys2Proof.Machine.execArrayError code unit set way line words syn ue s
  | .coreFailover n ok => Sys2Proof.Machine.execCoreFailover n ok s
  | .coreLost n reason => Sys2Proof.Machine.execCoreLost n reason s
  | .tileHeartbeatMiss t => Sys2Proof.Machine.execTileHeartbeatMiss t s
  | .drainTimeout t => Sys2Proof.Machine.execDrainTimeout t s
  | .zombie t net_ => Sys2Proof.Machine.execZombie t net_ s
  | .sliceSubstitution p => Sys2Proof.Machine.execSliceSubstitution p s
  | .sliceTransferComplete p => Sys2Proof.Machine.execSliceTransferComplete p s
  | .rasForceCoreFailover n => Sys2Proof.Machine.execRasForceCoreFailover n s
  | .rasForceSliceSubstitution p => Sys2Proof.Machine.execRasForceSliceSubstitution p s
  | .rasForceEngineFailure unit => Sys2Proof.Machine.execRasForceEngineFailure unit s
  | .fltRing e v => Sys2Proof.Machine.execFltRing e v s
  | .fltHead e v => Sys2Proof.Machine.execFltHead e v s
  | .inputSample v => Sys2Proof.Machine.execInputSample v s
  | .emergencySaveAndStop cause value => Sys2Proof.Machine.execEmergencySaveAndStop cause value s
  | .thermalTrip die => Sys2Proof.Machine.execThermalTrip die s
  | .powerLimitCheck avg v amps => Sys2Proof.Machine.execPowerLimitCheck avg v amps s
  | .thermalLimit die temp => Sys2Proof.Machine.execThermalLimit die temp s
  | .diDtGuard die on => Sys2Proof.Machine.execDiDtGuard die on s
  | .oppVoltageReached n => Sys2Proof.Machine.execOppVoltageReached n s
  | .cs3DelayExpiry n => Sys2Proof.Machine.execCs3DelayExpiry n s
  | .pkDwellExpiry k => Sys2Proof.Machine.execPkDwellExpiry k s
  | .handshakeAccept key unit => Sys2Proof.Machine.execHandshakeAccept key unit s
  | .handshakeDelay key unit d => Sys2Proof.Machine.execHandshakeDelay key unit d s
  | .handshakeRefuse key unit reason => Sys2Proof.Machine.execHandshakeRefuse key unit reason s
  | .handshakeTimeout key unit => Sys2Proof.Machine.execHandshakeTimeout key unit s
  | .wakeSource src unit core => Sys2Proof.Machine.execWakeSource src unit core s
  | .cs3Exit n ok => Sys2Proof.Machine.execCs3Exit n ok s
  | .boxStart v cal ref bad0 bad1 => Sys2Proof.Machine.execBoxStart v cal ref bad0 bad1 s
  | .boxUpdate e v amps rev => Sys2Proof.Machine.execBoxUpdate e v amps rev s
  | .commitPeriodic => Sys2Proof.Machine.execCommitPeriodic s
  | .supplyFail v => Sys2Proof.Machine.execSupplyFail v s
  | .boxUnseal go => Sys2Proof.Machine.execBoxUnseal go s
  | .boxLoad img go => Sys2Proof.Machine.execBoxLoad img go s
  | .boxSeal go => Sys2Proof.Machine.execBoxSeal go s
  | .maintReleased => Sys2Proof.Machine.execMaintReleased s
  | .read f => Sys2Proof.Machine.execRead f s
  | .write f x => Sys2Proof.Machine.execWrite f x s
  | .info f => Sys2Proof.Machine.execInfo f s
  | .enrolSlot0 f => Sys2Proof.Machine.execEnrolSlot0 f s
  | .enrolSlot f x => Sys2Proof.Machine.execEnrolSlot f x s
  | .revokeSlot f x => Sys2Proof.Machine.execRevokeSlot f x s
  | .nonceRequest f => Sys2Proof.Machine.execNonceRequest f s
  | .token jtag f x => Sys2Proof.Machine.execToken jtag f x s
  | .releaseToken f x => Sys2Proof.Machine.execReleaseToken f x s
  | .segment svc f x => Sys2Proof.Machine.execSegment svc f x s
  | .stagingTimeout port => Sys2Proof.Machine.execStagingTimeout port s
  | .heartbeat => Sys2Proof.Machine.execHeartbeat s
  | .busOff port off tec rec_ => Sys2Proof.Machine.execBusOff port off tec rec_ s
  | .mailboxRead e m => Sys2Proof.Machine.execMailboxRead e m s
  | .mailboxWrite e m img => Sys2Proof.Machine.execMailboxWrite e m img s
  | .mailboxInfo e m => Sys2Proof.Machine.execMailboxInfo e m s
  | .modReset x => Sys2Proof.Machine.execModReset x s
  | .counterOverflow n k => Sys2Proof.Machine.execCounterOverflow n k s
  | .bandwidthWindowEnd => Sys2Proof.Machine.execBandwidthWindowEnd s
  | .snapshotLatch e => Sys2Proof.Machine.execSnapshotLatch e s
  | .inboundDmaWrite pe rid ep va bs => Sys2Proof.Machine.execInboundDmaWrite pe rid ep va bs s
  | .inboundDmaRead pe rid tag va len => Sys2Proof.Machine.execInboundDmaRead pe rid tag va len s
  | .inboundAtomicop pe rid tag op len va opnd expd => Sys2Proof.Machine.execInboundAtomicop pe rid tag op len va opnd expd s
  | .msi pe rid data => Sys2Proof.Machine.execMsi pe rid data s
  | .pcieCompletion pe tag ok data => Sys2Proof.Machine.execPcieCompletion pe tag ok data s
  | .completionTimeout pe tag => Sys2Proof.Machine.execCompletionTimeout pe tag s
  | .pcieLinkDown pe port lost => Sys2Proof.Machine.execPcieLinkDown pe port lost s
  | .streamEnable q => Sys2Proof.Machine.execStreamEnable q s
  | .setpend q => Sys2Proof.Machine.execSetpend q s
  | .claim q => Sys2Proof.Machine.execClaim q s
  | .complete q => Sys2Proof.Machine.execComplete q s
  | .timerPending n => Sys2Proof.Machine.execTimerPending n s
  | .linkTraining link ok peer layout master delay => Sys2Proof.Machine.execLinkTraining link ok peer layout master delay s
  | .linkFlit link crcOk ty seq ack slots => Sys2Proof.Machine.execLinkFlit link crcOk ty seq ack slots s
  | .replayRequest link seq => Sys2Proof.Machine.execReplayRequest link seq s
  | .credit link a b c d => Sys2Proof.Machine.execCredit link a b c d s
  | .groupResume link failed seq => Sys2Proof.Machine.execGroupResume link failed seq s
  | .socketLinkDown link => Sys2Proof.Machine.execSocketLinkDown link s
  | .modRstN x => Sys2Proof.Machine.execModRstN x s
  | .inputStartThreshold x => Sys2Proof.Machine.execInputStartThreshold x s
  | .illegalInstruction h w => Sys2Proof.Machine.execIllegalInstruction h w s
  | .debugRequest r => Sys2Proof.Machine.execDebugRequest r s
  | .boxMaintNLow => Sys2Proof.Machine.execBoxMaintNLow s
  | .aerErrorMessage pe port uncor => Sys2Proof.Machine.execAerErrorMessage pe port uncor s

end Sys2Proof.Machine
end

