-- ==== Sys2Proof/Machine/Flits.lean ====
section
/-! DEFINITION. The bits of the mesh's flits on their networks and of a slot of a link flit (10 R236, R238, R239, Tables 10.2-10.5; 21 R557,
R558, Table 21.7). -/

namespace Sys2Proof.Machine
open Sys2Proof

/-- EPOCH, WRAP and LSTAMP stand in bits 13:0 on every network (10 R238). -/
def stampBits (epoch wrap : Bool) (lstamp : Nat) : BitVec 14 := BitVec.ofBool epoch ++ BitVec.ofBool wrap ++ BitVec.ofNat 12 lstamp

/-- A REQ flit (10 Table 10.2). -/
def reqBits (opc : Nat) (q : ReqFlit) : BitVec 128 :=
  BitVec.ofNat 9 q.dest ++ BitVec.ofNat 9 q.src ++ BitVec.ofNat 10 q.txid ++ BitVec.ofNat 6 q.oid ++ BitVec.ofNat 5 opc ++ BitVec.ofNat 5 q.encl ++
    BitVec.ofNat 46 q.addr ++ BitVec.ofNat 4 q.atop ++ BitVec.ofNat 6 q.off ++ BitVec.ofNat 6 q.len ++ BitVec.ofBool q.lp ++
    BitVec.ofBool q.spr ++ (0 : BitVec 5) ++ BitVec.ofBool q.retry ++ stampBits q.epoch q.wrap q.lstamp

/-- A SNP flit (10 Table 10.3). -/
def snpBits (opc : Nat) (q : SnpFlit) : BitVec 96 :=
  BitVec.ofNat 9 q.dest ++ BitVec.ofNat 9 q.src ++ BitVec.ofNat 10 q.htxid ++ BitVec.ofNat 4 opc ++ BitVec.ofNat 46 q.addr ++
    (0 : BitVec 4) ++ stampBits q.epoch q.wrap q.lstamp

/-- An RSP flit (10 Table 10.4). -/
def rspBits (opc : Nat) (q : RspFlit) : BitVec 64 :=
  BitVec.ofNat 9 q.dest ++ BitVec.ofNat 9 q.src ++ BitVec.ofNat 10 q.txid ++ BitVec.ofNat 5 opc ++ BitVec.ofNat 4 q.info ++ BitVec.ofBool q.spr ++
    (0 : BitVec 12) ++ stampBits q.epoch q.wrap q.lstamp

/-- The control field of a DAT flit (10 Table 10.5). -/
def datControl (opc : Nat) (q : DatFlit) : BitVec 80 :=
  BitVec.ofNat 9 q.dest ++ BitVec.ofNat 9 q.src ++ BitVec.ofNat 10 q.txid ++ q.be ++ BitVec.ofNat 4 opc ++ BitVec.ofBool q.half ++
    BitVec.ofBool q.spr ++ stampBits q.epoch q.wrap q.lstamp

/-- A DAT flit: data, tags and control in ascending bit order (10 Table 10.1, R239; 21 R558). -/
def datBits (opc : Nat) (q : DatFlit) : BitVec 352 := datControl opc q ++ q.tags ++ q.data

/-- The fields of a bit pattern. -/
def bits {w : Nat} (x : BitVec w) (lo n : Nat) : Nat := (x.extractLsb' lo n).toNat

/-- The opcode and fields that a REQ flit's bits carry. -/
def reqFields (x : BitVec 128) : Nat × ReqFlit :=
  (bits x 89 5, { dest := bits x 119 9, src := bits x 110 9, txid := bits x 100 10, oid := bits x 94 6, encl := bits x 84 5,
                  addr := bits x 38 46, atop := bits x 34 4, off := bits x 28 6, len := bits x 22 6, lp := x.getLsbD 21, spr := x.getLsbD 20,
                  retry := x.getLsbD 14, epoch := x.getLsbD 13, wrap := x.getLsbD 12, lstamp := bits x 0 12 })

/-- The opcode and fields that a SNP flit's bits carry. -/
def snpFields (x : BitVec 96) : Nat × SnpFlit :=
  (bits x 64 4, { dest := bits x 87 9, src := bits x 78 9, htxid := bits x 68 10, addr := bits x 18 46, epoch := x.getLsbD 13,
                  wrap := x.getLsbD 12, lstamp := bits x 0 12 })

/-- The opcode and fields that an RSP flit's bits carry. -/
def rspFields (x : BitVec 64) : Nat × RspFlit :=
  (bits x 31 5, { dest := bits x 55 9, src := bits x 46 9, txid := bits x 36 10, info := bits x 27 4, spr := x.getLsbD 26, epoch := x.getLsbD 13,
                  wrap := x.getLsbD 12, lstamp := bits x 0 12 })

/-- The opcode and fields that a DAT flit's bits carry. -/
def datFields (x : BitVec 352) : Nat × DatFlit :=
  (bits x 288 4, { dest := bits x 343 9, src := bits x 334 9, txid := bits x 324 10, be := x.extractLsb' 292 32, half := x.getLsbD 287,
                   spr := x.getLsbD 286, epoch := x.getLsbD 285, wrap := x.getLsbD 284, lstamp := bits x 272 12, data := x.extractLsb' 0 256,
                   tags := x.extractLsb' 256 16 })

/-- Every field of a message lies within its bits of the layout; an operand that a request carries beside its flit is none of them. -/
def fits : Msg → Bool
  | .req opc q =>
    decide (opc < 32 ∧ q.dest < 512 ∧ q.src < 512 ∧ q.txid < 1024 ∧ q.oid < 64 ∧ q.encl < 32 ∧ q.addr < 2 ^ 46) &&
      decide (q.atop < 16 ∧ q.off < 64 ∧ q.len < 64 ∧ q.lstamp < 4096 ∧ q.data = 0 ∧ q.expd = 0)
  | .snp opc q => decide (opc < 16 ∧ q.dest < 512 ∧ q.src < 512 ∧ q.htxid < 1024 ∧ q.addr < 2 ^ 46 ∧ q.lstamp < 4096)
  | .rsp opc q => decide (opc < 32 ∧ q.dest < 512 ∧ q.src < 512 ∧ q.txid < 1024 ∧ q.info < 16 ∧ q.lstamp < 4096)
  | .dat opc q => decide (opc < 16 ∧ q.dest < 512 ∧ q.src < 512 ∧ q.txid < 1024 ∧ q.lstamp < 4096)

/-- The slots of a link flit that a slot's contents take, each with its class (21 Table 21.7, R558): a mesh flit in the low bits, the three
of a DAT flit in ascending order, or a control message with its KIND in octet 0; where a control message's other fields stand in its slot the
spec does not say, and they are not laid out. -/
def slotBits : Slot → List (Nat × BitVec 128)
  | .msg (.req opc q) => [(1, reqBits opc q)]
  | .msg (.snp opc q) => [(2, (snpBits opc q).setWidth 128)]
  | .msg (.rsp opc q) => [(3, (rspBits opc q).setWidth 128)]
  | .msg (.dat opc q) =>
    let x := (datBits opc q).setWidth 384
    [(4, x.extractLsb' 0 128), (5, x.extractLsb' 128 128), (5, x.extractLsb' 256 128)]
  | .credit _ _ _ _ => [(6, 1)]
  | .alignReq _ => [(6, 2)]
  | .alignRsp _ _ _ => [(6, 3)]
  | .groupResume _ _ => [(6, 4)]

/-- The CLASS field of a link flit: 3 bits a slot, the first lowest (21 Table 21.7). -/
def classBits (slots : List Slot) : BitVec 33 :=
  (((slots.flatMap slotBits).take 11).map (·.1)).foldr (fun k a => (a <<< 3) ||| BitVec.ofNat 33 k) 0

end Sys2Proof.Machine
end

