-- ==== Sys2Proof/Safety.lean ====
section
/-! DEFINITION. What the statements call a sound state: memory in its canonical form, and the terms in which they speak of a run. -/

namespace Sys2Proof.Machine
open Sys2Proof

/-- The canonical form of the coherent memory: addresses strictly rising and no listed octet or tag code equal to what an unlisted one
reads as, which is 0 (log 10). -/
def Memory.wf (m : Mem) : Bool := mWf 0 m.bytes && mWf 0 m.tags

/-- A sound state: its memory is in canonical form. -/
def Sound (s : State) : Prop := Memory.wf s.mem = true

/-! ## What an instruction leaves alone -/

/-- The registers that count by themselves, with their overflow register (20 Table 20.1). -/
def isCounter (n : Nat) : Bool := decide (0x440 ≤ n ∧ n ≤ 0x445) || decide (0x448 ≤ n ∧ n ≤ 0x44F) || decide (n = 0x461)

/-- What an instruction may write of its hart: general, floating-point and vector registers, system registers by number, LK, the
accumulator PH and PL, and the loop registers LS and LE. -/
structure Writes where
  g : List Reg := []
  f : List Reg := []
  v : List Reg := []
  sys : List Nat := []
  lk : Bool := false
  acc : Bool := false
  loops : Bool := false

/-- The frame of an instruction of `h` that went from `s` to `u`: what it does not write keeps its value. LC and the counters change at
every retirement (04 R91, 20 R530), and a delayed product may arrive in PH and PL of an engine (03 R75). -/
structure Kept (h : Hart) (w : Writes) (s u : State) : Prop where
  g : ∀ q, q ∉ w.g → gpr (cpuOf u h) q = gpr (cpuOf s h) q
  f : ∀ q, q ∉ w.f → fpr (cpuOf u h) q = fpr (cpuOf s h) q
  v : ∀ q, q ∉ w.v → vpr (cpuOf u h) q = vpr (cpuOf s h) q
  sys : ∀ n, n ∉ w.sys → isCounter n = false → sysReg (cpuOf u h) n = sysReg (cpuOf s h) n
  lk : w.lk = false → (cpuOf u h).lk = (cpuOf s h).lk
  acc : w.acc = false → (cpuOf s h).mulq = [] → (cpuOf u h).ph = (cpuOf s h).ph ∧ (cpuOf u h).pl = (cpuOf s h).pl ∧ (cpuOf u h).mulq = []
  ls : w.loops = false → (cpuOf u h).ls = (cpuOf s h).ls
  le : w.loops = false → (cpuOf u h).le = (cpuOf s h).le
  level : (cpuOf u h).level = (cpuOf s h).level
  others : ∀ k, k ≠ h → cpuOf u k = cpuOf s k
  objs : u.objs = s.objs
  pending : u.pending = s.pending

/-- Every octet and every tag code of memory reads as it did. -/
def MemKept (s u : State) : Prop := (∀ a, memByte u a = memByte s a) ∧ ∀ a, memTagCode u a = memTagCode s a

/-- What an instruction's frame compares memory with: a core's state as it is. The fetch of an engine outside its local memory may first mark
the leaf of its walk (07 R183, R190). -/
def walked (h : Hart) (s : State) : State := match h with | .core _ => s | .prv _ => (fetchCheck h s).2

/-- No level of the loop registers ends at the instruction at PC (04 R91). -/
def noLoopEnd (c : Cpu) : Prop := ∀ i, i < 3 → mGet 0 c.le i = c.pc → mGet 0 c.lc i = 0

/-! ## A quiet tick -/

/-- Nothing falls due at the end of this stamp tick: no message is under way, no timeout or tag ends, no cache operation or power-state entry
is under way, no core in CS3 still holds lines, and no die is under the di/dt guard. -/
def NothingDue (s : State) : Prop :=
  s.net = [] ∧ (∀ h ∈ allHarts s, timeoutDue s h = false ∧ inCmo s h = false) ∧ (∀ t ∈ s.ptags, s.stamp < t.deadline) ∧
  s.pwr.entered = none ∧ (∀ a ∈ s.pwr.tries, a.1 < 192 → a.2.waits ≠ []) ∧
  (∀ p ∈ s.cores, p.2.run = .cs3 → (tileAt s (tileOf s p.1)).l2 = []) ∧ s.guard = []

/-! ## The terms of the instruction statements -/

/-- An operand that an operation other than a full-word move may take: not poisoned, and below M no handle (03 Table 3.7). -/
def Plain (c : Cpu) (x : GVal) : Prop := x.t ≠ .pois ∧ (c.level = .m ∨ x.t ≠ .hndl)

/-- The tag of a sum or of a bitwise AND, OR, XOR: one data pointer with one data word gives a data pointer (03 Table 3.7). -/
def sumTag (a b : Tag) : Tag := if (a, b) = (.dptr, .data) ∨ (a, b) = (.data, .dptr) then .dptr else .data

/-- The tag of a difference: a data pointer less a data word gives a data pointer (03 Table 3.7). -/
def diffTag (a b : Tag) : Tag := if (a, b) = (.dptr, .data) then .dptr else .data

/-- `exec` of `i` answers a next state in which the hart satisfies `P`, what the instruction does not write is kept, memory reads as it
did, and control goes to `next`, or falls through where no loop ends. -/
def Completes (h : Hart) (i : Instr) (s : State) (w : Writes) (next : Option Word) (P : Cpu → Prop) : Prop :=
  ∃ u, exec i s = .next u ∧ P (cpuOf u h) ∧ Kept h w s u ∧ MemKept (walked h s) u ∧
    match next with
    | some pc => (cpuOf u h).pc = pc
    | none => noLoopEnd (cpuOf s h) → (cpuOf u h).pc = (cpuOf s h).pc + 4

/-- A ready instruction completes. -/
def Runs (h : Hart) (i : Instr) (s : State) (w : Writes) (next : Option Word) (P : Cpu → Prop) : Prop :=
  ready h i s = true → Completes h i s w next P

/-- A ready instruction falls through and leaves `x` in a general register; g0 reads 0 tagged DATA whatever is written (03 R60). -/
def SetsG (h : Hart) (i : Instr) (s : State) (rd : Reg) (x : GVal) : Prop :=
  Runs h i s { g := [rd] } none (fun d => gpr d rd = if rd = 0 then ⟨0, .data⟩ else x)

/-- A ready instruction falls through and leaves `x` in a floating-point register and ORs flags into FCSR (05 R127). -/
def SetsF (h : Hart) (i : Instr) (s : State) (rd : Reg) (r : Nat × FFlags) : Prop :=
  Runs h i s { f := [rd], sys := [0x001] } none (fun d => fpr d rd = BitVec.ofNat 64 r.1 ∧
    sysReg d 0x001 = sysReg (cpuOf s h) 0x001 ||| BitVec.ofNat 64 (flagBits r.2))

/-- A ready instruction falls through, leaves `x` tagged DATA in a general register and ORs flags into FCSR (05 R127). -/
def SetsGFlags (h : Hart) (i : Instr) (s : State) (rd : Reg) (x : Word) (f : FFlags) : Prop :=
  Runs h i s { g := [rd], sys := [0x001] } none (fun d => gpr d rd = (if rd = 0 then ⟨0, .data⟩ else ⟨x, .data⟩) ∧
    sysReg d 0x001 = sysReg (cpuOf s h) 0x001 ||| BitVec.ofNat 64 (flagBits f))

/-- A ready instruction falls through and leaves in a vector register, element by element of width `w`, what `f` says. -/
def SetsV (h : Hart) (i : Instr) (s : State) (vd : Reg) (w : Nat) (f : Nat → Nat) : Prop :=
  Runs h i s { v := [vd] } none (fun d => ∀ k, k < 256 / w → (vpr d vd).extractLsb' (w * k) w = BitVec.ofNat w (f k))

/-- A ready floating-point vector instruction: each element of width `w` takes its own result, and every element's flags are ORed into
FCSR (05 R125, R127). -/
def SetsVFlags (h : Hart) (i : Instr) (s : State) (vd : Reg) (w : Nat) (f : Nat → Nat × FFlags) : Prop :=
  Runs h i s { v := [vd], sys := [0x001] } none (fun d =>
    (∀ k, k < 256 / w → (vpr d vd).extractLsb' (w * k) w = BitVec.ofNat w (f k).1) ∧
    sysReg d 0x001 = (List.range (256 / w)).foldl (fun a k => a ||| BitVec.ofNat 64 (flagBits (f k).2)) (sysReg (cpuOf s h) 0x001))

/-- A ready instruction takes the synchronous exception `e` at its address. -/
def Traps (h : Hart) (i : Instr) (s : State) (e : Exc) : Prop :=
  ready h i s = true → exec i s = .next (takeSync h e (started h i s))

/-! ## Exception entry (03 R69, Table 3.6) -/

/-- The number of the first exception register of a level: ESTAT. -/
def estatOf (x : Level) : Nat := if x = .m then 0xC00 else 0x400

/-- The core `d` has entered level `x` from `c` for a class other than a refill: EPC, CAUSE and TVAL saved, ESTAT stacked in EXL, PPL and
PIE with IE cleared, control at the class's vector, every general register and every other system register that does not count by itself kept. -/
structure Entered (x : Level) (code : Nat) (cause tval epc : Word) (c d : Cpu) : Prop where
  level : d.level = x
  pc : d.pc = sysReg c (estatOf x + 4) + BitVec.ofNat 64 (64 * code)
  epc : sysReg d (estatOf x + 1) = epc
  cause : sysReg d (estatOf x + 2) = cause
  tval : sysReg d (estatOf x + 3) = tval
  exl : flag (sysReg d (estatOf x)) 7 = true
  ppl : fld (sysReg d (estatOf x)) 5 4 = levelCode c.level
  pie : flag (sysReg d (estatOf x)) 3 = flag (sysReg c (estatOf x)) 1
  ie : flag (sysReg d (estatOf x)) 1 = false
  gprs : ∀ q, gpr d q = gpr c q
  others : ∀ n, n ≠ estatOf x → n ≠ estatOf x + 1 → n ≠ estatOf x + 2 → n ≠ estatOf x + 3 → isCounter n = false → sysReg d n = sysReg c n
  rstack : d.rstack = []

/-! ## Accesses of a main core to memory -/

/-- An address operand: no poison, no handle, and at full enforcement a data pointer (03 Table 3.8, 04 R97). -/
def GoodBase (h : Hart) (c : Cpu) (x : GVal) : Prop := x.t ≠ .pois ∧ x.t ≠ .hndl ∧ (tagLevel h c = 2 → x.t = .dptr)

/-- An index operand carries neither poison nor a handle. -/
def GoodIndex (x : GVal) : Prop := x.t ≠ .pois ∧ x.t ≠ .hndl

/-- Both stages of translation let an access of `n` octets pass (07 R164-R167, R176). -/
def Translates (c : Cpu) (a : Access) (va : Word) (n : Nat) : Prop :=
  ∀ p ∈ halves va n, refillCheck c a p.1 = none ∧ protCheck c a p.1 = none

/-- The physical halves of an access: one, or two across a line boundary. -/
def physHalves (c : Cpu) (va : Word) (n : Nat) : List (Nat × Nat) := (halves va n).map (fun p => (physOf c p.1, p.2))

/-- The halves lie in memory that the core's enclosure owns, and no line of the combining buffer holds them. -/
def InMemory (n : Nat) (s : State) (ps : List (Nat × Nat)) : Prop :=
  ∀ p ∈ ps, p.1 < locBase ∧ placeOf s (enclOfCore s n) p.1 = .mem ∧ ∀ l ∈ (coreOf s n).nt, l.line ≠ lineOf p.1

/-- What a load reads: the octets of its halves, the youngest older store forwarded (06 R147), least significant first. -/
def loadedNat (c : Cpu) (s : State) (ps : List (Nat × Nat)) : Nat :=
  leNat (ps.flatMap (fun p => (List.range p.2).map (fun i => viewByte c.sb s (p.1 + i))))

/-- No word that the halves touch reads as poison, nor below M as a handle. -/
def CleanWords (c : Cpu) (s : State) (ps : List (Nat × Nat)) : Prop :=
  ∀ p ∈ ps, ∀ w ∈ wordsOf p.1 p.2, viewTag c.sb s w ≠ .pois ∧ (c.level ≠ .m → viewTag c.sb s w ≠ .hndl)

/-- A load of these halves goes on at once: the store buffer lets it (06 Table 6.4), and each line is with the core (06 R154). -/
def AtHand (n : Nat) (t : State) (ps : List (Nat × Nat)) : Prop :=
  (∀ p ∈ ps, forwards (.core n) t p = true) ∧ (readLines (.core n) ps t).2 = true

/-- A load of `k` octets at `va` translates, lies in memory and goes on at once. -/
def LoadGoes (n : Nat) (t : State) (va : Word) (k : Nat) : Prop :=
  let ps := physHalves (coreOf t n) va k
  Translates (coreOf t n) .load va k ∧ InMemory n t ps ∧ AtHand n t ps

/-- A hart's line can be written at once: it owns it, or its request is granted at once (06 R146, 10 R252). -/
def Owned (h : Hart) (line : Nat) (dcz whole : Bool) (t : State) : Prop := (ownLine h line dcz whole t).2.1 = true

/-- A core may send a request of a line (10 R245, R251). -/
def MayAsk (n line : Nat) (t : State) : Prop :=
  asking t (tileOf t n) line = false ∧ wbPending t (tileOf t n) line = false ∧ requestsOut t (tileOf t n) < 48

/-- The instruction is held at the head of its hart's window, at its address. -/
def Holding (h : Hart) (i : Instr) (s u : State) : Prop :=
  (cpuOf u h).pc = (cpuOf s h).pc ∧ ∃ e rest, (cpuOf u h).win = e :: rest ∧ e.i = i ∧ e.heldAt = some s.stamp

/-- The store-buffer entries of a store of octets: one for each half, lower first; only a whole aligned word keeps a tag (03 Table 3.7). -/
def storeEntries (c : Cpu) (va : Word) (bs : List Byte) (t : Option Tag) (nt : Bool) : List SbEntry :=
  match halves va bs.length with
  | [(v, _)] => [⟨physOf c v, bs, t, false, nt, false, v, c.pc⟩]
  | [(v, k), (w, _)] => [⟨physOf c v, bs.take k, none, false, nt, false, v, c.pc⟩, ⟨physOf c w, bs.drop k, none, false, nt, false, w, c.pc⟩]
  | _ => []

/-- The keys of a physical address are held, so that what is written there reads back (11 R298, 15 R431). -/
def Keyed (s : State) (pa : Nat) : Prop := s.mem.noKeys = false ∧ mGet false s.mem.noKey (pa / 2 ^ 30) = false

/-- Octets `bs` stand at `pa`, and every other octet of memory reads as it did. -/
def WritesAt (pa : Nat) (bs : List Byte) (s u : State) : Prop :=
  (∀ i, i < bs.length → memByte u (pa + i) = bs.getD i 0) ∧ ∀ a, a < pa ∨ pa + bs.length ≤ a → memByte u a = memByte s a

/-- Every entry of a core's TLBs. -/
def tlbEntries (c : Cpu) : List TlbEntry :=
  c.itlb.ways.map (·.2) ++ c.dtlb.map (·.2) ++ c.l2tlb.flatMap (fun q => q.2.ways.map (·.2)) ++ c.wired.map (·.2)

/-- The level a system register's number asks for, as 0 U, 1 S, 3 M (03 R62). -/
def mayAccess (c : Cpu) (n : Nat) : Prop := n / 1024 ≤ levelCode c.level

/-! ## The terms of the statements about the units' commands -/

/-- `exec` of a command answers a next state that satisfies `P`, and the waiting commands are those that waited. -/
def Answers (c : Instr) (s : State) (P : State → Prop) : Prop := ∃ u, exec c s = .next u ∧ P u ∧ u.pending = s.pending

/-- Every object of at most 8 octets other than those listed keeps its value. -/
def ObjsKept (ks : List (Nat × Nat)) (s u : State) : Prop := ∀ k, (∀ p ∈ ks, okey p.1 p.2 ≠ k) → mFind u.objs k = mFind s.objs k

/-- One object takes a value and every other keeps its own. -/
def ObjSet (idx sub : Nat) (v : Word) (s u : State) : Prop := obj u idx sub = v ∧ ObjsKept [(idx, sub)] s u

/-- One record of a device-owned unit goes to the RAS controller, with the unit's own number and the stamp (16 R435, R437); nothing else
of the controller changes. -/
def Reports (unit cls sev encl d0 d1 : Nat) (s u : State) : Prop :=
  ∃ r, u.ras = { s.ras with inbox := s.ras.inbox ++ [r], useq := mPut 0 s.ras.useq unit ((mGet 0 s.ras.useq unit + 1) % 2 ^ 32) } ∧
    r.unit = unit ∧ r.cls = cls ∧ r.sev = sev ∧ r.encl = encl ∧ r.d0 = d0 ∧ r.d1 = d1 ∧ r.stamp = s.stamp ∧
    r.useq = mGet 0 s.ras.useq unit

/-- A sequenced flit with these slots left on a link: it stays in the replay buffer until an ACK covers it (21 R559). -/
def SentOn (l : Nat) (slots : List Slot) (s u : State) : Prop :=
  u.out = s.out ++ [.flit l 0 (linkAt s l).txSeq (linkAt s l).rxSeq slots] ∧
  linkAt u l = { linkAt s l with txSeq := ((linkAt s l).txSeq + 1) % 4096, replay := (linkAt s l).replay ++ [((linkAt s l).txSeq, slots)] } ∧
  ∀ k, k ≠ l → linkAt u k = linkAt s k

/-- The module stopped for `cause` (17 R488, R489): STOP_N is low, memory, caches, cores, queues, sessions, records and every object that the
loss of input clears are gone; the fuses and Box's register stay. -/
def StoppedFor (cause : Nat) (s u : State) : Prop :=
  u.phase = .stopped ∧ u.pwr.stopLow = true ∧ u.pwr.ok = false ∧ u.pwr.cause = some cause ∧
  u.cores = [] ∧ u.prv = [] ∧ u.mem = {} ∧ u.tiles = [] ∧ u.slices = [] ∧ u.net = [] ∧ u.ras = {} ∧ u.queues = [] ∧ u.subs = [] ∧
  u.journal = [] ∧ u.sess = [] ∧ u.accel = {} ∧ u.sdp = {} ∧
  (∀ k v, mFind u.objs k = some v → survives true k = true) ∧
  u.yew.rootHash = s.yew.rootHash ∧ u.yew.dbgHash = s.yew.dbgHash ∧ u.yew.dbgRevoked = s.yew.dbgRevoked ∧ u.yew.lifecycle = s.yew.lifecycle ∧
  u.box.on = s.box.on ∧ u.box.energy = s.box.energy ∧ u.box.fine = s.box.fine ∧ u.box.boots = s.box.boots

/-- Box's next record, at the ring position it takes: code, flags and values (18 R498, Table 18.1). -/
def BoxLogs (code flags value value2 : Nat) (s u : State) : Prop :=
  ∃ p r, boxPlace s.box = some p ∧ mFind u.box.log p = some r ∧ r.code = code ∧ r.flags = flags + (!(rootLocked s)).toNat ∧
    r.value = value % 2 ^ 32 ∧ r.value2 = value2 % 2 ^ 32 ∧ r.bseq = s.box.bseq + 1 ∧ u.box.bseq = s.box.bseq + 1 ∧
    ∀ q, q ≠ p → mFind u.box.log q = mFind s.box.log q

/-- The message that came in was taken and these were sent. -/
def Took (m : Msg) (ms : List Msg) (s u : State) : Prop := msgs u = (msgs s).erase m ++ ms

/-! ### Laurel and Holly -/

/-- Where a queue's next completion entry goes (13 R337). -/
def cqSlot (s : State) (k : Nat) : Nat := fld (queueAt s k).cqBase 51 6 * 64 + 32 * (queueAt s k).cqTail

/-- The only descriptor at work, in a queue with room for its completion entry, while no queue has a further entry to be read. -/
def LoneJob (j : Job) (s : State) : Prop :=
  s.accel.jobs = [j] ∧ (queueAt s j.qkey).active = true ∧ (queueAt s j.qkey).waiting = [] ∧ cqRoom (queueAt s j.qkey) = true ∧
  qkKind j.qkey ≠ 0 ∧ (∀ q ∈ s.queues, qkKind q.1 = 0 ∨ flag q.2.cfg 63 = false ∨ q.2.sqHead = q.2.sqTail) ∧
  ∀ i, i < 32 → Keyed s (cqSlot s j.qkey + i)

/-- The descriptor has ended: its completion entry names its tag and status (15 Tables 15.6, 15.12b). -/
def EndsJob (j : Job) (status : Nat) (s u : State) : Prop :=
  u.accel.jobs = [] ∧ memNat u (cqSlot s j.qkey + 8) 2 = jobTag j ∧ (memByte u (cqSlot s j.qkey + 10)).toNat = status ∧
  (queueAt u j.qkey).cqTail = ((queueAt s j.qkey).cqTail + 1) % cqLen (queueAt s j.qkey) ∧ (queueAt u j.qkey).waiting = []

/-- A span that the engine may write, that reads back, and that the completion entry does not meet. -/
def Writable (j : Job) (s : State) (p : Nat × Nat) : Prop :=
  jobOwns s j p.1 p.2 = true ∧ overlap p (cqSlot s j.qkey, 32) = false ∧ ∀ i, i < p.2 → Keyed s (p.1 + i)

/-- Octets stand in memory. -/
def Holds (pa : Nat) (bs : List Byte) (u : State) : Prop := ∀ i, i < bs.length → memByte u (pa + i) = bs.getD i 0

/-! ### Channels -/

/-- A queue that can take a completion entry at once, in memory that reads back. -/
def CompReady (k : Nat) (s : State) : Prop :=
  (queueAt s k).active = true ∧ (queueAt s k).waiting = [] ∧ cqRoom (queueAt s k) = true ∧ ∀ i, i < 32 → Keyed s (cqSlot s k + i)

/-- The queue's next completion entry names this tag, status and INFO (13 Tables 13.7, 13.8). -/
def Comp (k tag status info : Nat) (s u : State) : Prop :=
  memNat u (cqSlot s k + 12) 2 = tag % 65536 ∧ (memByte u (cqSlot s k + 14)).toNat = status ∧ memNat u (cqSlot s k + 16) 8 = info % 2 ^ 64 ∧
  (queueAt u k).cqTail = ((queueAt s k).cqTail + 1) % cqLen (queueAt s k)

/-- A submission entry is the oldest that waits for its subchannel (13 R355). -/
def Waits (subch op : Nat) (w : SubEntry) (s : State) : Prop :=
  s.work.find? (fun x => decide (x.subch = subch)) = some w ∧ w.op = op ∧ w.subch = subch

/-- The only session in use at a port, with nothing to send. -/
def LoneSess (port node : Nat) (s : State) : Prop :=
  portSessions s port = [skey port node] ∧ (sessAt s (skey port node)).st = .open ∧ (sessAt s (skey port node)).resend = [] ∧
  (sessAt s (skey port node)).queue = []

/-- A frame that every check lets pass, on a port's only session, that asks for no credit and meets the package awake (17 R483). -/
def GoodFrame (port : Nat) (f : QctFrame) (s : State) : Prop :=
  frameCheck s port f = none ∧ LoneSess port f.src s ∧ f.wantC = false ∧ f.wantD = false ∧ objN s 0x2030 1 ≠ 4

end Sys2Proof.Machine
end

