-- ==== Sys2Proof/Certificates/Slice0/Obligations.lean ====
section
/-! DEFINITION. The statements for the provers. -/

open Sys2Proof Sys2Proof.Machine

/-! ## The machine as a whole -/

/-- A step takes the command at the front of the queue and is that command's effect on the state with the rest of the queue. -/
def Obligations.StepRunsFrontCommand : Prop :=
  ∀ (c : Instr) (rest : List Instr) (s : State), s.pending = c :: rest → step s = exec c { s with pending := rest }

/-- On an empty queue (the model's choice, log 1) an instruction that was held in an earlier tick runs again. When none does, one stamp tick
passes while the root is locked (02 R44): said of a block in which nothing falls due in it, the stamp counts, CYCLE of a running core counts
the core cycles that end in the tick (20 Table 20.1, 02 Table 2.1), and nothing else changes; where an announced route change falls on the
new stamp, the routes change with it (10 R266). Before the lock nothing happens. -/
def Obligations.IdleStepIsATick : Prop :=
  ∀ (s : State), s.pending = [] →
    (∀ i, nextHeld s = some i → step s = exec i { s with replay := true }) ∧
    (nextHeld s = none → rootLocked s = false → step s = .next s) ∧
    (nextHeld s = none → rootLocked s = true → NothingDue s → switchDue { s with stamp := s.stamp + 1 } = true →
      ∃ u, step s = .next u ∧ u.stamp = s.stamp + 1 ∧ u.mesh.epoch = !s.mesh.epoch ∧ u.mesh.draining = true ∧ u.objs = s.objs) ∧
    (nextHeld s = none → rootLocked s = true → NothingDue s → switchDue { s with stamp := s.stamp + 1 } = false →
      ∃ u, step s = .next u ∧ u = { s with stamp := s.stamp + 1, cores := u.cores, raised := [], pwr := { s.pwr with dwell := u.pwr.dwell } } ∧
      (∀ n, (coreOf s n).run ≠ .running ∨ (coreOf s n).halted = true → coreOf u n = coreOf s n) ∧
      (∀ n, (coreOf s n).run = .running → (coreOf s n).halted = false → (coreOf s n).opp ≤ 4 →
        sysReg (coreOf u n) 0x440 = sysReg (coreOf s n) 0x440 +
          BitVec.ofNat 64 (4 * (s.stamp + 1) / ((coreOf s n).opp + 2) - 4 * s.stamp / ((coreOf s n).opp + 2)) ∧
        (∀ r, r ≠ 0x440 → sysReg (coreOf u n) r = sysReg (coreOf s n) r) ∧ (coreOf u n).pc = (coreOf s n).pc ∧
        (∀ q, gpr (coreOf u n) q = gpr (coreOf s n) q)))

/-- Before the first power-up: every register and object at its reset value (03 Table 3.2, 22), memory reading 0 tagged DATA (11 R297; log 10)
in canonical form, and no command waiting. -/
def Obligations.ResetState : Prop :=
  let s := State.reset
  Sound s ∧ s.pending = [] ∧ s.stamp = 0 ∧ s.phase = .off ∧
  (∀ h q, gpr (cpuOf s h) q = ⟨0, .data⟩ ∧ fpr (cpuOf s h) q = 0 ∧ vpr (cpuOf s h) q = 0) ∧
  (∀ h, (cpuOf s h).lk = ⟨0, .data⟩ ∧ (cpuOf s h).ph = 0 ∧ (cpuOf s h).pl = 0 ∧ (cpuOf s h).level = .m ∧
    (∀ k, mGet 0 (cpuOf s h).ls k = 0 ∧ mGet 0 (cpuOf s h).le k = 0 ∧ mGet 0 (cpuOf s h).lc k = 0) ∧
    sysReg (cpuOf s h) 0xC11 = 0x13880 ∧ sysReg (cpuOf s h) 0xC20 = 1) ∧
  (∀ a, memByte s a = 0 ∧ memTag s a = .data) ∧
  obj s 0x2010 1 = 1050 ∧ obj s 0x3000 1 = 0x00FF0000 ∧ obj s 0x6120 3 = 1600000000 ∧ obj s 0x7000 2 = 0x88B5 ∧
  (∀ n, n < 192 → obj s 0x3200 n = 0xFF ∧ obj s 0x5030 n = 0xFF) ∧ (∀ n, n < 256 → obj s 0x3100 n = BitVec.allOnes 64)

/-- Every step keeps memory in its canonical form: addresses strictly rising, no entry equal to what an unlisted one reads as. -/
def Obligations.StepKeepsMemoryCanonical : Prop :=
  ∀ (s u : State), Sound s → step s = .next u → Sound u

/-- Every command answers a next state, or names a hart that the module does not have (00 Table 0.2): no command is refused. -/
def Obligations.StopsOnlyForMissingHart : Prop :=
  ∀ (i : Instr) (s : State), (∃ u, exec i s = .next u) ∨ (∃ n, exec i s = .fault (.noSuchUnit n) ∧
    ∃ h : Hart, hartExists h = false ∧ (h = .core n ∨ h = .prv n))

/-- Words the spec spells out (04 R79, R93): ADDI g7, g5, −16; BNE g3, g0 five words back; LOOP 0, g4 with off19 = 3; and
LD.D g6, 0(g5), whose word is put together from 04 Table 4.1's fields. -/
def Obligations.EncodingOfKnownWords : Prop :=
  ∀ (h : Hart), decodeWord h 0x08E5FFF0 = some (.addi h 7 5 0xFFF0) ∧ decodeWord h 0xAC60FFFB = some (.bne h 3 0 0xFFFB) ∧
    decodeWord h 0xC4200003 = some (.loop h 0 4 3) ∧ encode (.ldD h 6 5 0) = some 0x58C50000

/-- The encoder and the decoder of Nefen's words agree (04 Tables 4.1, 4.2): a well-formed instruction that has a word is what the word
decodes to, and whatever a word decodes to has that word. SYNC.IO's operand is what came back to it and is not in its word. The mesh's flits
read back from their bits as well, every field at every value its bits hold (10 Tables 10.2 to 10.5). -/
def Obligations.DecodeOfEncode : Prop :=
  (∀ (i : Instr) (w : BitVec 32), encode i = some w → wellFormed i = true → (∀ h bad, i = .syncIo h bad → bad = []) →
    ∃ h, decodeWord h w = some i) ∧
  (∀ (h : Hart) (w : BitVec 32) (i : Instr), decodeWord h w = some i → encode i = some w) ∧
  (∀ opc q, fits (.req opc q) = true → reqFields (reqBits opc q) = (opc, q)) ∧
  (∀ opc q, fits (.snp opc q) = true → snpFields (snpBits opc q) = (opc, q)) ∧
  (∀ opc q, fits (.rsp opc q) = true → rspFields (rspBits opc q) = (opc, q)) ∧
  (∀ opc q, fits (.dat opc q) = true → datFields (datBits opc q) = (opc, q))

/-! ## Nefen instructions (03 to 05) -/

/-- Three-register integer operations (04 Table 4.3, R82, R84, R85): the result and its tag, and everything else kept. -/
def Obligations.IntegerResults : Prop :=
  ∀ (h : Hart) (rd ra rb : Reg) (s : State),
    let x := gpr (cpuOf s h) ra
    let y := gpr (cpuOf s h) rb
    let a := x.v
    let b := y.v
    Plain (cpuOf s h) x → Plain (cpuOf s h) y →
      SetsG h (.add h rd ra rb) s rd ⟨a + b, sumTag x.t y.t⟩ ∧
      SetsG h (.sub h rd ra rb) s rd ⟨a - b, diffTag x.t y.t⟩ ∧
      SetsG h (.and h rd ra rb) s rd ⟨a &&& b, sumTag x.t y.t⟩ ∧
      SetsG h (.or h rd ra rb) s rd ⟨a ||| b, sumTag x.t y.t⟩ ∧
      SetsG h (.xor h rd ra rb) s rd ⟨a ^^^ b, sumTag x.t y.t⟩ ∧
      SetsG h (.andn h rd ra rb) s rd ⟨a &&& ~~~b, .data⟩ ∧
      SetsG h (.shl h rd ra rb) s rd ⟨a <<< (b.toNat % 64), .data⟩ ∧
      SetsG h (.shr h rd ra rb) s rd ⟨a >>> (b.toNat % 64), .data⟩ ∧
      SetsG h (.sra h rd ra rb) s rd ⟨BitVec.ofInt 64 (a.toInt / 2 ^ (b.toNat % 64)), .data⟩ ∧
      SetsG h (.ror h rd ra rb) s rd ⟨(a >>> (b.toNat % 64)) ||| (a <<< ((64 - b.toNat % 64) % 64)), .data⟩ ∧
      SetsG h (.slt h rd ra rb) s rd ⟨if a.toInt < b.toInt then 1 else 0, .data⟩ ∧
      SetsG h (.sltu h rd ra rb) s rd ⟨if a.toNat < b.toNat then 1 else 0, .data⟩ ∧
      SetsG h (.seq h rd ra rb) s rd ⟨if a = b then 1 else 0, .data⟩ ∧
      SetsG h (.mul h rd ra rb) s rd ⟨a * b, .data⟩ ∧
      SetsG h (.mulh h rd ra rb) s rd ⟨((a.signExtend 128 * b.signExtend 128) >>> 64).setWidth 64, .data⟩ ∧
      SetsG h (.mulhu h rd ra rb) s rd ⟨((a.setWidth 128 * b.setWidth 128) >>> 64).setWidth 64, .data⟩ ∧
      SetsG h (.div h rd ra rb) s rd ⟨if b = 0 then BitVec.allOnes 64 else a.sdiv b, .data⟩ ∧
      SetsG h (.divu h rd ra rb) s rd ⟨if b = 0 then BitVec.allOnes 64 else a / b, .data⟩ ∧
      SetsG h (.rem h rd ra rb) s rd ⟨if b = 0 then a else a.srem b, .data⟩ ∧
      SetsG h (.remu h rd ra rb) s rd ⟨if b = 0 then a else a % b, .data⟩

/-- One-operand integer operations (04 Table 4.3): counts of bits, reversed octets, and the fields of EXT, EXTU and INS (04 R83). Immediate
integer operations (04 Table 4.4, R80): the immediate enters as a DATA operand, sign- or zero-extended as the row says. -/
def Obligations.ImmediateAndUnaryResults : Prop :=
  (∀ (h : Hart) (rd ra : Reg) (len pos : BitVec 6) (s : State),
      let x := gpr (cpuOf s h) ra
      let a := x.v
      let d := gpr (cpuOf s h) rd
      let wr : Writes := { g := [rd] }
      Plain (cpuOf s h) x →
        SetsG h (.clz h rd ra) s rd ⟨BitVec.ofNat 64 (if a = 0 then 64 else 63 - a.toNat.log2), .data⟩ ∧
        (rd ≠ 0 → a ≠ 0 → Runs h (.ctz h rd ra) s wr none (fun u => ∃ k, k < 64 ∧ gpr u rd = ⟨BitVec.ofNat 64 k, .data⟩ ∧ a.getLsbD k = true ∧
          ∀ j, j < k → a.getLsbD j = false)) ∧
        (a = 0 → SetsG h (.ctz h rd ra) s rd ⟨64, .data⟩) ∧
        SetsG h (.popc h rd ra) s rd ⟨BitVec.ofNat 64 ((List.range 64).countP (fun k => a.getLsbD k)), .data⟩ ∧
        (rd ≠ 0 → Runs h (.bswap h rd ra) s wr none (fun u => (gpr u rd).t = .data ∧
          ∀ k, k < 8 → (gpr u rd).v.extractLsb' (8 * k) 8 = a.extractLsb' (8 * (7 - k)) 8)) ∧
        (rd ≠ 0 → Runs h (.ext h rd ra len pos) s wr none (fun u => (gpr u rd).t = .data ∧
          ∀ k, k < 64 → (gpr u rd).v.getLsbD k = a.getLsbD (pos.toNat + min k len.toNat))) ∧
        (rd ≠ 0 → Runs h (.extu h rd ra len pos) s wr none (fun u => (gpr u rd).t = .data ∧
          ∀ k, k < 64 → (gpr u rd).v.getLsbD k = (decide (k ≤ len.toNat) && a.getLsbD (pos.toNat + k)))) ∧
        (Plain (cpuOf s h) d → rd ≠ 0 → Runs h (.ins h rd ra len pos) s wr none (fun u => (gpr u rd).t = .data ∧
          ∀ k, k < 64 → (gpr u rd).v.getLsbD k =
            if pos.toNat ≤ k ∧ k ≤ pos.toNat + len.toNat then a.getLsbD (k - pos.toNat) else d.v.getLsbD k))) ∧
  (∀ (h : Hart) (rd ra : Reg) (imm : BitVec 16) (op : BitVec 2) (amount : BitVec 6) (s : State),
      let x := gpr (cpuOf s h) ra
      let a := x.v
      let n := amount.toNat
      Plain (cpuOf s h) x →
        SetsG h (.addi h rd ra imm) s rd ⟨a + imm.signExtend 64, sumTag x.t .data⟩ ∧
        SetsG h (.andi h rd ra imm) s rd ⟨a &&& imm.setWidth 64, sumTag x.t .data⟩ ∧
        SetsG h (.ori h rd ra imm) s rd ⟨a ||| imm.setWidth 64, sumTag x.t .data⟩ ∧
        SetsG h (.xori h rd ra imm) s rd ⟨a ^^^ imm.setWidth 64, sumTag x.t .data⟩ ∧
        SetsG h (.slti h rd ra imm) s rd ⟨if a.toInt < imm.toInt then 1 else 0, .data⟩ ∧
        SetsG h (.sltiu h rd ra imm) s rd ⟨if a.toNat < (imm.signExtend 64).toNat then 1 else 0, .data⟩ ∧
        SetsG h (.shi h rd ra op amount) s rd ⟨if op = 0 then a <<< n else if op = 1 then a >>> n
          else if op = 2 then BitVec.ofInt 64 (a.toInt / 2 ^ n) else (a >>> n) ||| (a <<< ((64 - n) % 64)), .data⟩)

/-- Moves, constants and selects (04 R83, R86, R111; 03 Table 3.7): MV and the selects carry the tag along, the constants give the tag the
row names, TSET sets and TGET reads a tag. -/
def Obligations.MoveAndConstantResults : Prop :=
  ∀ (h : Hart) (rd ra rb rc : Reg) (imm : BitVec 16) (page : BitVec 21) (ty : BitVec 3) (s : State),
    let c := cpuOf s h
    let x := gpr c ra
    let y := gpr c rb
    let d := gpr c rd
    let addr : Word := BitVec.ofNat 64 (c.pc.toNat / 4096 * 4096) + page.signExtend 64 * 4096
    SetsG h (.mv h rd ra) s rd x ∧
    SetsG h (.kstart h rd imm) s rd ⟨imm.signExtend 64, .data⟩ ∧
    (Plain c d → SetsG h (.knext h rd imm) s rd ⟨d.v * 65536 + imm.setWidth 64, .data⟩) ∧
    SetsG h (.krep h rd imm) s rd ⟨imm.setWidth 64 * 0x0001000100010001, .data⟩ ∧
    SetsG h (.apc h rd page) s rd ⟨addr, .data⟩ ∧
    SetsG h (.apcD h rd page) s rd ⟨addr, .dptr⟩ ∧
    SetsG h (.apcC h rd page) s rd ⟨addr, .cptr⟩ ∧
    (Plain c (gpr c rc) →
      SetsG h (.sel h rd ra rb rc) s rd (if (gpr c rc).v = 0 then y else x) ∧
      SetsG h (.cmov h rd ra rc) s rd (if (gpr c rc).v = 0 then d else x) ∧
      SetsG h (.cmovz h rd ra rc) s rd (if (gpr c rc).v = 0 then x else d)) ∧
    (Plain c x → SetsG h (.tset h rd ra ty) s rd
      ⟨x.v, if ty = 0 then .data else if ty = 1 then .dptr else if ty = 2 then .cptr else .link⟩) ∧
    SetsG h (.tget h rd ra) s rd ⟨match x.t with | .data => 0 | .dptr => 1 | .cptr => 2 | .link => 3 | .hndl => 4 | .pois => 7, .data⟩

/-- The product instructions (04 R94, 03 R75): on a main core PH and PL take the 128-bit result at once; on an engine the result joins the
products on their way and PH and PL keep their values. On an engine the instruction that is the fourth after a multiply writes its product
at its retirement, and one of the first three does not (03 R75, 04 R95): said of MV, whose retirement is every instruction's. -/
def Obligations.ProductResults : Prop :=
  (∀ (n : Nat) (ra rb : Reg) (s : State),
      let c := coreOf s n
      let e := prvOf s n
      let sp (c : Cpu) : BitVec 128 := (gpr c ra).v.signExtend 128 * (gpr c rb).v.signExtend 128
      let up (c : Cpu) : BitVec 128 := (gpr c ra).v.setWidth 128 * (gpr c rb).v.setWidth 128
      let wr : Writes := { acc := true }
      let aged (r : BitVec 128) (d : Cpu) : Prop := d.mulq = [⟨r.extractLsb' 64 64, r.extractLsb' 0 64, 1⟩] ∧ d.ph = e.ph ∧ d.pl = e.pl
      (Plain c (gpr c ra) → Plain c (gpr c rb) →
        Runs (.core n) (.mulw (.core n) ra rb) s wr none (fun d => d.ph ++ d.pl = sp c) ∧
        Runs (.core n) (.mulwu (.core n) ra rb) s wr none (fun d => d.ph ++ d.pl = up c) ∧
        Runs (.core n) (.macw (.core n) ra rb) s wr none (fun d => d.ph ++ d.pl = (c.ph ++ c.pl) + sp c) ∧
        Runs (.core n) (.macwu (.core n) ra rb) s wr none (fun d => d.ph ++ d.pl = (c.ph ++ c.pl) + up c)) ∧
      (Plain e (gpr e ra) → Plain e (gpr e rb) → e.mulq = [] →
        Runs (.prv n) (.mulw (.prv n) ra rb) s wr none (aged (sp e)) ∧
        Runs (.prv n) (.mulwu (.prv n) ra rb) s wr none (aged (up e)) ∧
        Runs (.prv n) (.macw (.prv n) ra rb) s wr none (aged ((e.ph ++ e.pl) + sp e)) ∧
        Runs (.prv n) (.macwu (.prv n) ra rb) s wr none (aged ((e.ph ++ e.pl) + up e)))) ∧
  (∀ (n : Nat) (rd ra : Reg) (hi lo : Word) (k : Nat) (s : State), ready (.prv n) (.mv (.prv n) rd ra) s = true →
      (prvOf s n).mulq = [⟨hi, lo, k⟩] →
        ∃ u, exec (.mv (.prv n) rd ra) s = .next u ∧
          (k = 4 → (prvOf u n).ph = hi ∧ (prvOf u n).pl = lo ∧ (prvOf u n).mulq = []) ∧
          (k < 4 → (prvOf u n).ph = (prvOf s n).ph ∧ (prvOf u n).pl = (prvOf s n).pl ∧ (prvOf u n).mulq = [⟨hi, lo, k + 1⟩]))

/-- The tag checks of the two-operand integer operations (03 Tables 3.7, 3.9): a poisoned operand raises class 0x0D with the poison tag;
else below M a handle raises class 0x03 with SUB 0x05, its tag and TVAL 0. -/
def Obligations.OperandTagTraps : Prop :=
  ∀ (h : Hart) (rd ra rb : Reg) (off : BitVec 16) (s : State) (i : Instr),
    i ∈ [.add h rd ra rb, .sub h rd ra rb, .and h rd ra rb, .or h rd ra rb, .xor h rd ra rb, .andn h rd ra rb, .shl h rd ra rb,
      .shr h rd ra rb, .sra h rd ra rb, .ror h rd ra rb, .slt h rd ra rb, .sltu h rd ra rb, .seq h rd ra rb, .mul h rd ra rb,
      .mulh h rd ra rb, .mulhu h rd ra rb, .div h rd ra rb, .divu h rd ra rb, .rem h rd ra rb, .remu h rd ra rb, .mulw h ra rb,
      .mulwu h ra rb, .macw h ra rb, .macwu h ra rb, .beq h ra rb off, .bne h ra rb off, .blt h ra rb off, .bge h ra rb off, .bltu h ra rb off,
      .bgeu h ra rb off] →
    let c := cpuOf s h
    let x := gpr c ra
    let y := gpr c rb
    (x.t = .pois ∨ y.t = .pois → Traps h i s { code := 0x0D, tag := 7 }) ∧
    (x.t ≠ .pois → y.t ≠ .pois → c.level ≠ .m → x.t = .hndl ∨ y.t = .hndl → Traps h i s { code := 0x03, sub := 0x05, tag := 4 })

/-- Direct branches (04 R87): the target is the instruction's address plus four times the offset; a conditional branch not taken falls
through; CALL leaves the next address in LK tagged LINK. -/
def Obligations.BranchResults : Prop :=
  ∀ (h : Hart) (ra rb : Reg) (off : BitVec 16) (far : BitVec 26) (s : State),
    let c := cpuOf s h
    let a := (gpr c ra).v
    let b := (gpr c rb).v
    let dest (p : Prop) [Decidable p] : Option Word := if p then some (c.pc + off.signExtend 64 * 4) else none
    let kept (_ : Cpu) : Prop := True
    Runs h (.j h far) s {} (some (c.pc + far.signExtend 64 * 4)) kept ∧
    Runs h (.call h far) s { lk := true } (some (c.pc + far.signExtend 64 * 4)) (fun d => d.lk = ⟨c.pc + 4, .link⟩) ∧
    (Plain c (gpr c ra) → Plain c (gpr c rb) →
      Runs h (.beq h ra rb off) s {} (dest (a = b)) kept ∧
      Runs h (.bne h ra rb off) s {} (dest (a ≠ b)) kept ∧
      Runs h (.blt h ra rb off) s {} (dest (a.toInt < b.toInt)) kept ∧
      Runs h (.bge h ra rb off) s {} (dest (b.toInt ≤ a.toInt)) kept ∧
      Runs h (.bltu h ra rb off) s {} (dest (a.toNat < b.toNat)) kept ∧
      Runs h (.bgeu h ra rb off) s {} (dest (b.toNat ≤ a.toNat)) kept)

/-- Indirect transfers (04 R88, R89): with tag enforcement on, JR and CALLR want a code pointer or a link, RET wants a link in LK; bits 1:0
of the target are taken as zero. A target that fails the check raises class 0x03 with SUB 0x01 or 0x02. -/
def Obligations.IndirectResults : Prop :=
  ∀ (h : Hart) (ra : Reg) (s : State),
    let c := cpuOf s h
    let x := gpr c ra
    let at4 (w : Word) : Option Word := some (w - BitVec.ofNat 64 (w.toNat % 4))
    let free (y : GVal) : Prop := y.t ≠ .pois ∧ y.t ≠ .hndl
    (free x → (tagLevel h c = 0 ∨ x.t = .cptr ∨ x.t = .link) →
      Runs h (.jr h ra) s {} (at4 x.v) (fun _ => True) ∧
      Runs h (.callr h ra) s { lk := true } (at4 x.v) (fun d => d.lk = ⟨c.pc + 4, .link⟩)) ∧
    (free c.lk → (tagLevel h c = 0 ∨ c.lk.t = .link) → Runs h (.ret h) s {} (at4 c.lk.v) (fun _ => True)) ∧
    (tagLevel h c ≠ 0 → (x.t = .data ∨ x.t = .dptr) →
      Traps h (.jr h ra) s { code := 0x03, sub := 0x01, tag := tagCode x.t, tval := x.v } ∧
      Traps h (.callr h ra) s { code := 0x03, sub := 0x01, tag := tagCode x.t, tval := x.v }) ∧
    (tagLevel h c ≠ 0 → (c.lk.t = .data ∨ c.lk.t = .dptr ∨ c.lk.t = .cptr) →
      Traps h (.ret h) s { code := 0x03, sub := 0x02, tag := tagCode c.lk.t, tval := c.lk.v })

/-- LOOP (04 R90): LS takes the next address, LE the last instruction's address and LC the count; with count 0 control goes past the loop.
Loop evaluation at the retirement of an instruction that does not transfer control (04 R91), said of MV: a level that ends here with count 1
is exhausted and the next level is tried; the first one with a higher count counts down and control returns to its start. -/
def Obligations.HardwareLoops : Prop :=
  (∀ (h : Hart) (lvl : BitVec 2) (rc : Reg) (off : BitVec 19) (s : State),
      let c := cpuOf s h
      let n := (gpr c rc).v
      let k := lvl.toNat
      let last := c.pc + off.setWidth 64 * 4
      Plain c (gpr c rc) → ready h (.loop h lvl rc off) s = true →
        ∃ u, exec (.loop h lvl rc off) s = .next u ∧ Kept h { loops := true } s u ∧ MemKept (walked h s) u ∧
          mGet 0 (cpuOf u h).ls k = c.pc + 4 ∧ mGet 0 (cpuOf u h).le k = last ∧
          (∀ j, j ≠ k → mGet 0 (cpuOf u h).ls j = mGet 0 c.ls j ∧ mGet 0 (cpuOf u h).le j = mGet 0 c.le j) ∧
          (n = 0 → (cpuOf u h).pc = last + 4 ∧ mGet 0 (cpuOf u h).lc k = 0) ∧
          (n ≠ 0 → (∀ j, j < 3 → j ≠ k → mGet 0 c.le j ≠ c.pc) →
            (cpuOf u h).pc = c.pc + 4 ∧ mGet 0 (cpuOf u h).lc k = n)) ∧
  (∀ (h : Hart) (rd ra : Reg) (s : State), ready h (.mv h rd ra) s = true →
      let c := cpuOf s h
      let ends (j : Nat) : Prop := mGet 0 c.le j = c.pc ∧ mGet 0 c.lc j ≠ 0
      let last (j : Nat) : Prop := ends j → mGet 0 c.lc j = 1
      ∃ u, exec (.mv h rd ra) s = .next u ∧
        (∀ i, i < 3 → ends i → mGet 0 c.lc i ≠ 1 → (∀ j, j < i → last j) →
          (cpuOf u h).pc = mGet 0 c.ls i ∧ mGet 0 (cpuOf u h).lc i = mGet 0 c.lc i - 1 ∧
          (∀ j, j < i → ends j → mGet 0 (cpuOf u h).lc j = 0) ∧ (∀ j, i < j → mGet 0 (cpuOf u h).lc j = mGet 0 c.lc j)) ∧
        ((∀ j, j < 3 → last j) → (cpuOf u h).pc = c.pc + 4 ∧ ∀ j, j < 3 → ends j → mGet 0 (cpuOf u h).lc j = 0))

/-- ECALL and EBREAK on a main core take their exceptions (03 R68, R69; 04 Table 4.9): to S when a level below M delegates the class, else
to M, with EPC the instruction's address, the class in CAUSE and TVAL 0, where no exception is pending in that level's ESTAT. An exception
that ESTAT cannot save stops the core (03 R70): it retires nothing further and a CORE_FAULT_STOP record is sent. -/
def Obligations.TrapsAndFaultStop : Prop :=
  (∀ (n : Nat) (s : State) (p : Instr × Nat), p ∈ [(Instr.ecall (.core n), 0x0B), (Instr.ebreak (.core n), 0x0C)] →
      let c := coreOf s n
      let x : Level := if c.level ≠ .m ∧ flag (sysReg c 0xC10) p.2 = true then .s else .m
      ready (.core n) p.1 s = true → flag (sysReg c (estatOf x)) 7 = false →
        ∃ u, exec p.1 s = .next u ∧ Entered x p.2 (BitVec.ofNat 64 p.2) 0 c.pc c (coreOf u n) ∧
          (∀ k, k ≠ .core n → cpuOf u k = cpuOf s k) ∧ u.objs = s.objs ∧ (c.nt = [] → MemKept s u)) ∧
  (∀ (n : Nat) (s : State), ready (.core n) (.ecall (.core n)) s = true →
      let c := coreOf s n
      (if c.level ≠ .m ∧ flag (sysReg c 0xC10) 0x0B = true then flag (sysReg c 0x400) 7 else flag (sysReg c 0xC00) 7) = true →
        ∃ u, exec (.ecall (.core n)) s = .next u ∧ (coreOf u n).run = .faultStop ∧
          (∃ r, u.ras.inbox = s.ras.inbox ++ [r] ∧ r.cls = 0x0104 ∧ r.core = n ∧ r.d0 = 0x0B) ∧
          ∀ i body, run (.core n) i body u = .next u)

/-- ERET (03 R69, 04 R112): the refill set is restored while its bit is set, otherwise the ordinary one; level, IE and control come back. -/
def Obligations.EretReturns : Prop :=
  ∀ (n : Nat) (s : State), ready (.core n) (.eret (.core n)) s = true →
    let c := coreOf s n
    let b := estatOf c.level
    let e := sysReg c b
    (flag e 8 = true → ∃ u, exec (.eret (.core n)) s = .next u ∧ (coreOf u n).pc = sysReg c (b + 6) ∧
      (coreOf u n).level = levelOf (fld e 10 9) ∧ flag (sysReg (coreOf u n) b) 8 = false ∧ flag (sysReg (coreOf u n) b) 7 = flag e 7 ∧
      flag (sysReg (coreOf u n) b) 1 = flag e 11) ∧
    (flag e 8 = false → flag e 7 = true → ∃ u, exec (.eret (.core n)) s = .next u ∧ (coreOf u n).pc = sysReg c (b + 1) ∧
      (coreOf u n).level = levelOf (fld e 5 4) ∧ flag (sysReg (coreOf u n) b) 7 = false ∧ flag (sysReg (coreOf u n) b) 1 = flag e 3) ∧
    (flag e 8 = false → flag e 7 = false → Traps (.core n) (.eret (.core n)) s (illegalExc (.eret (.core n))))

/-- Words that no instruction has, and instructions not legal at the level or on the engine, raise class 0x02 with the word in TVAL (04
R79). -/
def Obligations.IllegalInstructions : Prop :=
  ∀ (h : Hart) (s : State), hartExists h = true → canRun h s = true → breakHit h s = false → hartEvent h s = false →
    (fetchCheck h s).1 = none → (cpuOf s h).win = [] → s.replay = false →
      let bad (i : Instr) : Prop := fetchDelivers h (toFetch h i s) = true → exec i s = .next (takeSync h (illegalExc i) (started h i s))
      (∀ w : BitVec 32, decodeWord h w = none → fetchDelivers h (fetchCheck h s).2 = true →
        exec (.illegalInstruction h w) s = .next (takeSync h { code := 0x02, tval := w.setWidth 64 } (fetchUse h (fetchCheck h s).2))) ∧
      (∀ rd : Reg, (cpuOf s h).level = .u → bad (.eret h) ∧ bad (.tset h rd rd 3)) ∧
      (∀ n rd, h = .prv n → bad (.vadd h rd rd rd 0))

/-- Loads of a main core from memory (04 R96, R97, R99; 06 R147): the octets at the translated address, sign- or zero-extended and tagged
DATA; an aligned 64-bit load takes the word's tag with it. Loads of a main core into f and v registers (04 Table 4.6, 05 R121), and LDTG,
which reads the tag code of the word at its address (04 R100), and PF, which changes no register and no memory (04 R102). Each is said of a load
whose lines are with the core; one whose line is not is held at its address and waits for it (06 R154). -/
def Obligations.LoadResults : Prop :=
  (∀ (n : Nat) (rd ra rb : Reg) (imm : BitVec 16) (sh : BitVec 2) (s : State),
      let h : Hart := .core n
      let c := coreOf s n
      let va := (gpr c ra).v + imm.signExtend 64
      let vx := (gpr c ra).v + (gpr c rb).v <<< sh.toNat
      let ps (t : State) (va : Word) (k : Nat) : List (Nat × Nat) := physHalves (coreOf t n) va k
      let val (t : State) (va : Word) (k : Nat) : Nat := loadedNat (coreOf t n) t (ps t va k)
      let part (i : Instr) (va : Word) (k : Nat) (sx : Bool) : Prop :=
        let t := started h i s
        LoadGoes n t va k → CleanWords (coreOf t n) t (ps t va k) →
          SetsG h i s rd ⟨if sx then (BitVec.ofNat (8 * k) (val t va k)).signExtend 64 else BitVec.ofNat 64 (val t va k), .data⟩
      let word (i : Instr) (va : Word) : Prop :=
        let t := started h i s
        LoadGoes n t va 8 → va.toNat % 8 = 0 →
          SetsG h i s rd ⟨BitVec.ofNat 64 (val t va 8), viewTag (coreOf t n).sb t (physOf (coreOf t n) va)⟩
      let waits (i : Instr) (va : Word) (k : Nat) : Prop :=
        let t := started h i s
        Translates (coreOf t n) .load va k → InMemory n t (ps t va k) → (∀ p ∈ ps t va k, forwards h t p = true) →
          (readLines h (ps t va k) t).2 = false → ready h i s = true → ∃ u, exec i s = .next u ∧ Holding h i s u ∧ Kept h {} s u ∧ MemKept s u
      GoodBase h c (gpr c ra) →
        (part (.ldB h rd ra imm) va 1 true ∧ part (.ldBu h rd ra imm) va 1 false ∧ part (.ldH h rd ra imm) va 2 true ∧
          part (.ldHu h rd ra imm) va 2 false ∧ part (.ldW h rd ra imm) va 4 true ∧ part (.ldWu h rd ra imm) va 4 false) ∧
        (va.toNat % 8 ≠ 0 → part (.ldD h rd ra imm) va 8 false) ∧ word (.ldD h rd ra imm) va ∧
        (waits (.ldB h rd ra imm) va 1 ∧ waits (.ldD h rd ra imm) va 8) ∧
        (GoodIndex (gpr c rb) →
          (part (.ldx h rd ra rb 0 sh) vx 1 true ∧ part (.ldx h rd ra rb 1 sh) vx 1 false ∧ part (.ldx h rd ra rb 2 sh) vx 2 true ∧
            part (.ldx h rd ra rb 3 sh) vx 2 false ∧ part (.ldx h rd ra rb 4 sh) vx 4 true ∧ part (.ldx h rd ra rb 5 sh) vx 4 false) ∧
          (vx.toNat % 8 ≠ 0 → part (.ldx h rd ra rb 6 sh) vx 8 false) ∧ word (.ldx h rd ra rb 6 sh) vx)) ∧
  (∀ (n : Nat) (rd ra : Reg) (imm : BitVec 16) (s : State),
      let h : Hart := .core n
      let c := coreOf s n
      let va := (gpr c ra).v + imm.signExtend 64
      let loads (i : Instr) (k : Nat) (w : Writes) (P : Nat → Cpu → Prop) : Prop :=
        let t := started h i s
        let ps := physHalves (coreOf t n) va k
        LoadGoes n t va k → CleanWords (coreOf t n) t ps → Runs h i s w none (P (loadedNat (coreOf t n) t ps))
      (GoodBase h c (gpr c ra) →
        loads (.ldfS h rd ra imm) 4 { f := [rd] } (fun x d => fpr d rd = BitVec.ofNat 64 x) ∧
        loads (.ldfD h rd ra imm) 8 { f := [rd] } (fun x d => fpr d rd = BitVec.ofNat 64 x) ∧
        loads (.vld h rd ra imm) 32 { v := [rd] } (fun x d => vpr d rd = BitVec.ofNat 256 x) ∧
        (let i : Instr := .ldtg h rd ra imm
         let t := started h i s
         let word := physOf (coreOf t n) va / 8 * 8
         LoadGoes n t va 1 → AtHand n t [(word, 8)] →
           SetsG h i s rd ⟨BitVec.ofNat 64 (tagCode (viewTag (coreOf t n).sb t word)), .data⟩)) ∧
      (Runs h (.pf h rd ra imm) s {} none (fun _ => True)))

/-- Accesses of a main core to a device or a PCIe window (04 R98, 09 R225): a naturally aligned load of a general register sends its request
and waits, any other one raises class 0x08 with the address in TVAL. Atomics of a main core that leave it (04 R104, R106; 10 R261, R263): to
a contended line the request goes to the line's home, to a device to its unit; the core waits at its address with the operation and its
operands, and its registers stay. -/
def Obligations.RequestsLeaveTheCore : Prop :=
  (∀ (n : Nat) (rd ra : Reg) (imm : BitVec 16) (s : State) (f : Instr × Nat × Bool),
      let h : Hart := .core n
      let t := started h f.1 s
      let c := coreOf t n
      let va := (gpr c ra).v + imm.signExtend 64
      let pa := physOf c va
      f ∈ [(Instr.ldB h rd ra imm, 1, true), (.ldBu h rd ra imm, 1, false), (.ldH h rd ra imm, 2, true), (.ldHu h rd ra imm, 2, false),
        (.ldW h rd ra imm, 4, true), (.ldWu h rd ra imm, 4, false), (.ldD h rd ra imm, 8, false)] →
      ready h f.1 s = true → GoodBase h c (gpr c ra) → Translates c .load va f.2.1 → pa < locBase →
      (placeOf t (enclOfCore t n) pa = .device ∨ ∃ k, placeOf t (enclOfCore t n) pa = .pcie k) →
        (va.toNat % f.2.1 ≠ 0 → va.toNat % 64 + f.2.1 ≤ 64 → exec f.1 s = .next (takeSync h { code := 0x08, tval := va } t)) ∧
        (va.toNat % f.2.1 = 0 → c.sb = [] → c.devSent < 8 → ∃ u q unit, exec f.1 s = .next u ∧
          (coreOf u n).wait = .devLoad pa unit (s.stamp + fld (sysReg c 0xC11) 20 0) q.txid ⟨rd, f.2.1, f.2.2, va⟩ ∧ (coreOf u n).pc = c.pc ∧
          msgs u = msgs t ++ [.req 0x10 q] ∧ q.dest = unit ∧ q.src = tileOf s n ∧ q.oid = 0 ∧ q.addr = lineOf pa ∧ q.off = pa % 64 ∧ q.len = f.2.1 - 1 ∧
          (∀ r, gpr (coreOf u n) r = gpr c r) ∧ MemKept s u)) ∧
  (∀ (n : Nat) (rd ra rb : Reg) (d : Bool) (ord : BitVec 2) (s : State),
      let h : Hart := .core n
      let t := started h (.atomicAdd h rd ra rb d ord) s
      let c := coreOf t n
      let va := (gpr c ra).v
      let k := if d then 8 else 4
      let pa := physOf c va
      let held (u : State) : Prop := (coreOf u n).pc = c.pc ∧ (∀ r, gpr (coreOf u n) r = gpr c r) ∧ MemKept s u
      ready h (.atomicAdd h rd ra rb d ord) s = true → GoodBase h c (gpr c ra) → Plain c (gpr c rb) → va.toNat % k = 0 →
      Translates c .atomic va k → pa < locBase → c.sb = [] → c.nt = [] →
        (placeOf t (enclOfCore t n) pa = .mem → 2 ≤ mGet 0 c.contend (contendIdx pa) → MayAsk n (lineOf pa) t → ∃ u q,
          exec (.atomicAdd h rd ra rb d ord) s = .next u ∧ held u ∧ msgs u = msgs t ++ [.req 0x0A q] ∧
          q.dest = homeTarget s (lineOf pa) % 512 ∧ q.spr = decide (512 ≤ homeTarget s (lineOf pa)) ∧
          q.addr = lineOf pa ∧ q.atop = 1 ∧ (coreOf u n).wait = .farAtomic pa 1 d (gpr c rb) (gpr c rd) ⟨rd, k, false, va⟩) ∧
        (placeOf t (enclOfCore t n) pa = .device → c.devSent < 8 → ∃ u q unit,
          exec (.atomicAdd h rd ra rb d ord) s = .next u ∧ held u ∧ msgs u = msgs t ++ [.req 0x12 q] ∧ q.dest = unit ∧ q.addr = lineOf pa ∧
          q.atop = 1 ∧ (coreOf u n).wait = .devAtomic pa unit (s.stamp + fld (sysReg c 0xC11) 20 0) q.txid ⟨rd, k, false, va⟩))

/-- Stores of a main core to memory enter the store buffer (06 R146) with the address, the octets and, for an aligned 64-bit general
register, the tag; memory changes only when the buffer writes. With all 96 entries taken the oldest entry leaves first. STORE_BUFFER_WRITE
(06 R146; 03 Table 3.7): the oldest entry of a store buffer whose line the hart owns is written at its address and nothing else of memory
changes: an ordinary entry's octets, and for DCZ 64 zero octets; a whole word's tag is the stored one. Until the line is owned the entry
stays and memory keeps its octets. -/
def Obligations.StoreResults : Prop :=
  (∀ (n : Nat) (rd ra rb : Reg) (imm : BitVec 16) (sh : BitVec 2) (nt : Bool) (s : State) (f : Instr × Word × List Byte × Option Tag × Bool × List GVal),
      let h : Hart := .core n
      let t := started h f.1 s
      let c := coreOf t n
      let va := (gpr c ra).v + imm.signExtend 64
      let vx := (gpr c ra).v + (gpr c rb).v <<< sh.toNat
      let x := gpr c rd
      let low (k : Nat) : List Byte := leBytes k x.v.toNat
      let word (va : Word) : Option Tag := if va.toNat % 8 = 0 then some x.t else none
      let data (va : Word) : List GVal := if va.toNat % 8 = 0 then [] else [x]
      f ∈ [(Instr.stB h rd ra imm, va, low 1, none, false, [x]), (.stH h rd ra imm, va, low 2, none, false, [x]),
        (.stW h rd ra imm, va, low 4, none, false, [x]), (.stD h rd ra imm, va, low 8, word va, false, data va),
        (.stx h rd ra rb 0 sh nt, vx, low 1, none, nt, [x]), (.stx h rd ra rb 2 sh nt, vx, low 2, none, nt, [x]),
        (.stx h rd ra rb 4 sh nt, vx, low 4, none, nt, [x]), (.stx h rd ra rb 6 sh nt, vx, low 8, word vx, nt, data vx),
        (.stfS h rd ra imm, va, leBytes 4 (fpr c rd).toNat, none, false, []),
        (.stfD h rd ra imm, va, leBytes 8 (fpr c rd).toNat, none, false, []),
        (.vst h rd ra imm, va, leBytes 32 (vpr c rd).toNat, none, false, [])] →
      let es := storeEntries c f.2.1 f.2.2.1 f.2.2.2.1 f.2.2.2.2.1
      ready h f.1 s = true → GoodBase h c (gpr c ra) → GoodIndex (gpr c rb) → (∀ y ∈ f.2.2.2.2.2, Plain c y) →
      Translates c .store f.2.1 f.2.2.1.length →
      (∀ p ∈ physHalves c f.2.1 f.2.2.1.length, p.1 < locBase ∧ placeOf t (enclOfCore t n) p.1 = .mem) →
        (c.sb.length + es.length ≤ 96 →
          Completes h f.1 s {} none (fun d => d.sb = c.sb ++ es ∧ d.nt = c.nt)) ∧
        (c.sb.length = 96 → es.length = 1 → (sbHead h t).2 = true → ∃ u, exec f.1 s = .next u ∧ (coreOf u n).sb = c.sb.tail ++ es) ∧
        (c.sb.length = 96 → es.length = 1 → (sbHead h t).2 = false → ∃ u, exec f.1 s = .next u ∧ (coreOf u n).sb = c.sb ∧ Holding h f.1 s u)) ∧
  (∀ (h : Hart) (e : SbEntry) (rest : List SbEntry) (s : State),
      let c := cpuOf s h
      let owned : Prop := Owned h (lineOf e.pa) e.dcz (e.dcz || decide (e.bytes.length = 64)) s
      c.sb = e :: rest → e.dev = false → e.nt = false → (∀ l ∈ c.nt, l.line ≠ lineOf e.pa) → Keyed s e.pa →
        (¬ owned → ∃ u, exec (.storeBufferWrite h) s = .next u ∧ (cpuOf u h).sb = c.sb ∧ MemKept s u) ∧
        (owned → ∃ u, exec (.storeBufferWrite h) s = .next u ∧ (cpuOf u h).sb = rest ∧
          (e.dcz = false → e.pa % 64 + e.bytes.length ≤ 64 →
            WritesAt e.pa e.bytes s u ∧ ∀ t, e.tag = some t → e.pa % 8 = 0 → memTag u e.pa = t) ∧
          (e.dcz = true → e.pa % 64 = 0 →
            WritesAt e.pa (List.replicate 64 0) s u ∧ ∀ k, k < 8 → memTag u (e.pa + 8 * k) = .data)))

/-- Atomics of a main core performed in its own cache, in a line that it owns at once (04 R103-R106, Table 4.7): rd takes the old value, zero-extended and DATA for 32 bits,
with its tag for 64; memory takes the new value at the address and nothing else of it changes. ATOMIC_CAS of a main core (04 R103, R105):
the new value is stored only where the old one, at 64 bits with its tag, matches rd. -/
def Obligations.AtomicResults : Prop :=
  (∀ (n : Nat) (rd ra rb : Reg) (d : Bool) (ord : BitVec 2) (s : State)
      (f : Instr × ((w : Nat) → BitVec w → BitVec w → BitVec w)),
      let h : Hart := .core n
      let t := started h f.1 s
      let c := coreOf t n
      let va := (gpr c ra).v
      let k := if d then 8 else 4
      let pa := physOf c va
      let b := gpr c rb
      let old := memNat t pa k
      f ∈ [(Instr.atomicSwap h rd ra rb d ord, fun _ _ y => y), (.atomicAdd h rd ra rb d ord, fun _ x y => x + y),
        (.atomicAnd h rd ra rb d ord, fun _ x y => x &&& y), (.atomicOr h rd ra rb d ord, fun _ x y => x ||| y),
        (.atomicXor h rd ra rb d ord, fun _ x y => x ^^^ y), (.atomicMin h rd ra rb d ord, fun _ x y => if x.toInt < y.toInt then x else y),
        (.atomicMax h rd ra rb d ord, fun _ x y => if x.toInt < y.toInt then y else x),
        (.atomicMinu h rd ra rb d ord, fun _ x y => if x.toNat < y.toNat then x else y),
        (.atomicMaxu h rd ra rb d ord, fun _ x y => if x.toNat < y.toNat then y else x)] →
      ready h f.1 s = true → GoodBase h c (gpr c ra) → b.t ≠ .pois → b.t ≠ .hndl → va.toNat % k = 0 → Translates c .atomic va k →
      pa < locBase → placeOf t (enclOfCore t n) pa = .mem → Keyed t pa → c.sb = [] → c.nt = [] → mGet 0 c.contend (contendIdx pa) < 2 →
      Owned h (lineOf pa) false false t → memTag t pa ≠ .pois → memTag t pa ≠ .hndl →
        ∃ u, exec f.1 s = .next u ∧
          (rd ≠ 0 → gpr (coreOf u n) rd = ⟨BitVec.ofNat 64 old, if d then memTag t pa else .data⟩) ∧ Kept h { g := [rd] } s u ∧
          WritesAt pa (leBytes k (f.2 (8 * k) (BitVec.ofNat _ old) (BitVec.ofNat _ b.v.toNat)).toNat) s u) ∧
  (∀ (n : Nat) (rd ra rb : Reg) (d : Bool) (ord : BitVec 2) (s : State),
      let h : Hart := .core n
      let t := started h (.atomicCas h rd ra rb d ord) s
      let c := coreOf t n
      let va := (gpr c ra).v
      let k := if d then 8 else 4
      let pa := physOf c va
      let b := gpr c rb
      let want := gpr c rd
      let old := memNat t pa k
      ready h (.atomicCas h rd ra rb d ord) s = true → GoodBase h c (gpr c ra) →
      (d = false → Plain c b ∧ Plain c want ∧ (c.level ≠ .m → memTag t pa ≠ .hndl)) →
      va.toNat % k = 0 → Translates c .atomic va k →
      pa < locBase → placeOf t (enclOfCore t n) pa = .mem → Keyed t pa → c.sb = [] → c.nt = [] → mGet 0 c.contend (contendIdx pa) < 2 →
      Owned h (lineOf pa) false false t → memTag t pa ≠ .pois →
        let hit : Prop := old % 2 ^ (8 * k) = want.v.toNat % 2 ^ (8 * k) ∧ (d = true → memTag t pa = want.t)
        ∃ u, exec (.atomicCas h rd ra rb d ord) s = .next u ∧
          (rd ≠ 0 → gpr (coreOf u n) rd = ⟨BitVec.ofNat 64 old, if d then memTag t pa else .data⟩) ∧ Kept h { g := [rd] } s u ∧
          (hit → WritesAt pa (leBytes k b.v.toNat) s u ∧ (d = true → memTag u pa = b.t)) ∧ (¬ hit → MemKept s u))

/-- Scalar floating-point instructions (05 Table 5.1, R121, R124, R126, R127): each leaves the format's operation of its operands in its
register, zero-extended, and ORs the operation's flags into FCSR; the moves and sign operations raise none. Floating-point instructions that
write a general register (05 Table 5.1, R123, R131): comparisons give 1 or 0, conversions to 32 bits are extended by their signedness. A
value that its format holds is delivered as it is, in every rounding mode and with no flag (05 R128). -/
def Obligations.FloatResults : Prop :=
  (∀ (h : Hart) (rd ra rb rc : Reg) (d : Bool) (rm : BitVec 3) (s : State),
      let c := cpuOf s h
      let a := fOpnd d (fpr c ra)
      let b := fOpnd d (fpr c rb)
      let z := fOpnd d (fpr c rc)
      let x := gpr c ra
      let m := if rm = 7 then fld (sysReg c 0x001) 10 8 else rm.toNat
      let sign := 2 ^ (fW d - 1)
      SetsF h (.fadd h rd ra rb d rm) s rd (fAdd d m a b) ∧
      SetsF h (.fsub h rd ra rb d rm) s rd (fSub d m a b) ∧
      SetsF h (.fmul h rd ra rb d rm) s rd (fMul d m a b) ∧
      SetsF h (.fdiv h rd ra rb d rm) s rd (fDiv d m a b) ∧
      SetsF h (.fsqrt h rd ra d rm) s rd (fSqrt d m a) ∧
      SetsF h (.fmin h rd ra rb d) s rd (fMinMax d false a b) ∧
      SetsF h (.fmax h rd ra rb d) s rd (fMinMax d true a b) ∧
      SetsF h (.fcopysign h rd ra rb d) s rd (a % sign + b / sign * sign, {}) ∧
      SetsF h (.fneg h rd ra d) s rd ((a + sign) % 2 ^ fW d, {}) ∧
      SetsF h (.fabs h rd ra d) s rd (a % sign, {}) ∧
      SetsF h (.fcvtF h rd ra d rm) s rd (fCvt d m (fOpnd (!d) (fpr c ra))) ∧
      SetsF h (.fmadd h rd ra rb rc d rm) s rd (fFma d m false false a b z) ∧
      SetsF h (.fmsub h rd ra rb rc d rm) s rd (fFma d m true false a b z) ∧
      SetsF h (.fnmadd h rd ra rb rc d rm) s rd (fFma d m false true a b z) ∧
      SetsF h (.fnmsub h rd ra rb rc d rm) s rd (fFma d m true true a b z) ∧
      (Plain c x →
        SetsF h (.ffromiW h rd ra d rm) s rd (fFromI d m (x.v.setWidth 32).toInt) ∧
        SetsF h (.ffromiWu h rd ra d rm) s rd (fFromI d m (x.v.setWidth 32).toNat) ∧
        SetsF h (.ffromiL h rd ra d rm) s rd (fFromI d m x.v.toInt) ∧
        SetsF h (.ffromiLu h rd ra d rm) s rd (fFromI d m x.v.toNat) ∧
        SetsF h (.fmvFromg h rd ra d) s rd (fOpnd d x.v, {}))) ∧
  (∀ (h : Hart) (rd ra rb : Reg) (d : Bool) (rm : BitVec 3) (s : State),
      let c := cpuOf s h
      let a := fOpnd d (fpr c ra)
      let b := fOpnd d (fpr c rb)
      let m := if rm = 7 then fld (sysReg c 0x001) 10 8 else rm.toNat
      let test (k : Nat) (i : Instr) : Prop := SetsGFlags h i s rd (if (fCompare d k a b).1 then 1 else 0) (fCompare d k a b).2
      test 0 (.fceq h rd ra rb d) ∧ test 1 (.fclt h rd ra rb d) ∧ test 2 (.fcle h rd ra rb d) ∧
      SetsGFlags h (.fkind h rd ra d) s rd (BitVec.ofNat 64 (fKind d a)) {} ∧
      SetsGFlags h (.ftoiW h rd ra d rm) s rd ((BitVec.ofNat 32 (fToI d m 32 true a).1).signExtend 64) (fToI d m 32 true a).2 ∧
      SetsGFlags h (.ftoiWu h rd ra d rm) s rd (BitVec.ofNat 64 (fToI d m 32 false a).1) (fToI d m 32 false a).2 ∧
      SetsGFlags h (.ftoiL h rd ra d rm) s rd (BitVec.ofNat 64 (fToI d m 64 true a).1) (fToI d m 64 true a).2 ∧
      SetsGFlags h (.ftoiLu h rd ra d rm) s rd (BitVec.ofNat 64 (fToI d m 64 false a).1) (fToI d m 64 false a).2 ∧
      SetsGFlags h (.fmvTog h rd ra d) s rd (BitVec.ofNat 64 a) {}) ∧
  (∀ (d : Bool) (m x : Nat), x < 2 ^ fW d → (∀ g, fUnpack d x ≠ .nan g) → fPack d m (fUnpack d x) = (x, {}))

/-- Special operands of the floating-point operations (05 R130, Table 5.6). -/
def Obligations.FloatSpecialOperands : Prop :=
  ∀ (d : Bool) (m x y z : Nat),
    let a := fUnpack d x
    let b := fUnpack d y
    let c := fUnpack d z
    let nan := fNan d
    let zi : Prop := (∃ p q, (a = .zero p ∧ b = .inf q) ∨ (a = .inf p ∧ b = .zero q))
    let snan (l : List FNum) : Prop := FNum.nan true ∈ l
    let qnan (l : List FNum) : Prop := FNum.nan true ∉ l ∧ FNum.nan false ∈ l
    let two (r : Nat × FFlags) : Prop := (snan [a, b] → r = (nan, { nv := true })) ∧ (qnan [a, b] → r = (nan, {}))
    (∀ sub neg, (zi → fFma d m sub neg x y z = (nan, { nv := true })) ∧
      (¬ zi → snan [a, b, c] → fFma d m sub neg x y z = (nan, { nv := true })) ∧
      (¬ zi → qnan [a, b, c] → fFma d m sub neg x y z = (nan, {}))) ∧
    two (fAdd d m x y) ∧ two (fSub d m x y) ∧ two (fMul d m x y) ∧ two (fDiv d m x y) ∧
    (snan [a] → fSqrt d m x = (nan, { nv := true })) ∧ (qnan [a] → fSqrt d m x = (nan, {})) ∧
    (fUnpack (!d) x = .nan true → fCvt d m x = (nan, { nv := true })) ∧ (fUnpack (!d) x = .nan false → fCvt d m x = (nan, {})) ∧
    (∀ p q r sub neg, c = .inf r → (xor r sub) ≠ (xor p q) →
      (a = .inf p ∧ b = .inf q) ∨ (∃ k e, (a = .inf p ∧ b = .fin q k e) ∨ (a = .fin p k e ∧ b = .inf q)) →
        fFma d m sub neg x y z = (nan, { nv := true })) ∧
    (∀ p, a = .inf p → b = .inf (!p) → fAdd d m x y = (nan, { nv := true })) ∧
    (∀ p, a = .inf p → b = .inf p → fSub d m x y = (nan, { nv := true })) ∧
    (zi → fMul d m x y = (nan, { nv := true })) ∧
    (∀ p q, a = .zero p → b = .zero q → fDiv d m x y = (nan, { nv := true })) ∧
    (∀ p q, a = .inf p → b = .inf q → fDiv d m x y = (nan, { nv := true })) ∧
    (∀ p k e q, a = .fin p k e → b = .zero q → fDiv d m x y = (fInf d (xor p q), { dz := true })) ∧
    (a = .zero true → fSqrt d m x = (fZero d true, {})) ∧
    (∀ k e, a = .fin true k e → fSqrt d m x = (nan, { nv := true })) ∧ (a = .inf true → fSqrt d m x = (nan, { nv := true })) ∧
    (∀ mx, (∀ g, a = .nan g → (∀ k, b ≠ .nan k) → fMinMax d mx x y = (y % 2 ^ fW d, { nv := g })) ∧
      (∀ g, b = .nan g → (∀ k, a ≠ .nan k) → fMinMax d mx x y = (x % 2 ^ fW d, { nv := g })) ∧
      (∀ g k, a = .nan g → b = .nan k → fMinMax d mx x y = (nan, { nv := g || k })) ∧
      (∀ p, a = .zero p → b = .zero (!p) → fMinMax d mx x y = (fZero d (!mx), {}))) ∧
    (∀ g, a = .nan g ∨ b = .nan g → (fCompare d 0 x y = (false, { nv := decide (snan [a, b]) })) ∧
      fCompare d 1 x y = (false, { nv := true }) ∧ fCompare d 2 x y = (false, { nv := true })) ∧
    (∀ w g, a = .nan g → fToI d m w true x = ((BitVec.ofInt w (2 ^ (w - 1) - 1)).toNat, { nv := true }) ∧
      fToI d m w false x = ((BitVec.allOnes w).toNat, { nv := true }))

/-- Integer vector instructions (04 R107, Table 4.8): each element is computed from the elements in its place, at the width the element type
gives; the whole-register forms and the moves to and from a general register follow (04 R108). Floating-point vector instructions (05 R125,
Table 5.4; 04 R107): each element gives the result and the flags of the scalar operation, rounded by FCSR.RM; a true comparison gives all
ones. -/
def Obligations.VectorResults : Prop :=
  (∀ (h : Hart) (vd va vb vm : Reg) (ew : BitVec 3) (idx : Reg) (s : State),
      let c := cpuOf s h
      let w := 8 * 2 ^ ew.toNat
      let el (r : Reg) (k : Nat) : BitVec w := (vpr c r).extractLsb' (w * k) w
      let byte (r : Reg) (k : Nat) : BitVec 8 := (vpr c r).extractLsb' (8 * k) 8
      let lanes (i : Instr) (f : BitVec w → BitVec w → BitVec w) : Prop := SetsV h i s vd w (fun k => (f (el va k) (el vb k)).toNat)
      let mask (p : Prop) [Decidable p] : BitVec w := if p then BitVec.allOnes w else 0
      lanes (.vadd h vd va vb ew) (fun x y => x + y) ∧
      lanes (.vsub h vd va vb ew) (fun x y => x - y) ∧
      lanes (.vmul h vd va vb ew) (fun x y => x * y) ∧
      lanes (.vmin h vd va vb ew) (fun x y => if x.toInt < y.toInt then x else y) ∧
      lanes (.vmax h vd va vb ew) (fun x y => if x.toInt < y.toInt then y else x) ∧
      lanes (.vminu h vd va vb ew) (fun x y => if x.toNat < y.toNat then x else y) ∧
      lanes (.vmaxu h vd va vb ew) (fun x y => if x.toNat < y.toNat then y else x) ∧
      lanes (.vand h vd va vb ew) (fun x y => x &&& y) ∧
      lanes (.vor h vd va vb ew) (fun x y => x ||| y) ∧
      lanes (.vxor h vd va vb ew) (fun x y => x ^^^ y) ∧
      lanes (.vandn h vd va vb ew) (fun x y => x &&& ~~~y) ∧
      lanes (.vshl h vd va vb ew) (fun x y => x <<< (y.toNat % w)) ∧
      lanes (.vshr h vd va vb ew) (fun x y => x >>> (y.toNat % w)) ∧
      lanes (.vsra h vd va vb ew) (fun x y => x.sshiftRight (y.toNat % w)) ∧
      lanes (.vcmpeq h vd va vb ew) (fun x y => mask (x = y)) ∧
      lanes (.vcmplt h vd va vb ew) (fun x y => mask (x.toInt < y.toInt)) ∧
      lanes (.vcmpltu h vd va vb ew) (fun x y => mask (x.toNat < y.toNat)) ∧
      SetsV h (.vperm h vd va vb) s vd 8 (fun k => (byte va ((byte vb k).toNat % 32)).toNat) ∧
      SetsV h (.vred h vd va ew) s vd w (fun k => if k = 0 then (((List.range (256 / w)).map (fun j => (el va j).toNat)).sum) else 0) ∧
      SetsV h (.vsel h vd va vb vm) s vd 1 (fun k =>
        if (vpr c vm).getLsbD k then ((vpr c va).getLsbD k).toNat else ((vpr c vb).getLsbD k).toNat) ∧
      SetsG h (.vext h vd va idx ew) s vd ⟨(el va idx.toNat).setWidth 64, .data⟩ ∧
      (Plain c (gpr c va) →
        SetsV h (.vbcast h vd va ew) s vd w (fun _ => (gpr c va).v.toNat) ∧
        SetsV h (.vins h vd va idx ew) s vd w (fun k => if k = idx.toNat then (gpr c va).v.toNat else (el vd k).toNat))) ∧
  (∀ (h : Hart) (vd va vb vc : Reg) (d : Bool) (s : State),
      let c := cpuOf s h
      let w := if d then 64 else 32
      let m := fld (sysReg c 0x001) 10 8
      let el (r : Reg) (k : Nat) : Nat := ((vpr c r).extractLsb' (w * k) w).toNat
      let lanes (i : Instr) (f : Nat → Nat → Nat × FFlags) : Prop := SetsVFlags h i s vd w (fun k => f (el va k) (el vb k))
      let test (j x y : Nat) : Nat × FFlags := (if (fCompare d j x y).1 then 2 ^ w - 1 else 0, (fCompare d j x y).2)
      lanes (.vfadd h vd va vb d) (fAdd d m) ∧
      lanes (.vfsub h vd va vb d) (fSub d m) ∧
      lanes (.vfmul h vd va vb d) (fMul d m) ∧
      lanes (.vfmin h vd va vb d) (fMinMax d false) ∧
      lanes (.vfmax h vd va vb d) (fMinMax d true) ∧
      lanes (.vfceq h vd va vb d) (test 0) ∧
      lanes (.vfclt h vd va vb d) (test 1) ∧
      lanes (.vfcle h vd va vb d) (test 2) ∧
      lanes (.vftoi h vd va d) (fun x _ => fToI d m w true x) ∧
      lanes (.vffromi h vd va d) (fun x _ => fFromI d m (BitVec.ofNat w x).toInt) ∧
      lanes (.vfneg h vd va d) (fun x _ => ((x + 2 ^ (w - 1)) % 2 ^ w, {})) ∧
      lanes (.vfabs h vd va d) (fun x _ => (x % 2 ^ (w - 1), {})) ∧
      SetsVFlags h (.vfma h vd va vb vc d) s vd w (fun k => fFma d m false false (el va k) (el vb k) (el vc k)))

/-- MFS (03 R62, Table 3.3; 04 R109, R110): the register's value tagged DATA, LK with its tag; a number the core does not implement or may
not read raises illegal instruction. -/
def Obligations.ReadSystemRegister : Prop :=
  ∀ (n : Nat) (rd : Reg) (s : State),
    let h : Hart := .core n
    let c := coreOf s n
    let i (r : Nat) : Instr := .mfs h rd (BitVec.ofNat 12 r)
    let gives (r : Nat) (w : Word) : Prop := SetsG h (i r) s rd ⟨w, .data⟩
    (∀ k, k < 3 → gives (0x010 + 3 * k) (mGet 0 c.ls k) ∧ gives (0x011 + 3 * k) (mGet 0 c.le k) ∧ gives (0x012 + 3 * k) (mGet 0 c.lc k)) ∧
    SetsG h (i 0x020) s rd c.lk ∧ gives 0x021 c.ph ∧ gives 0x022 c.pl ∧ (c.sb = [] → gives 0x0C0 (BitVec.ofNat 64 s.stamp)) ∧
    (∀ r, coreHasSys r = true → mayAccess c r → (r = 0x001 ∨ 0x400 ≤ r) → r ≠ 0xC40 → r ≠ 0xCC0 →
      gives r (sysReg (if isCounter r then coreOf (started h (i r) s) n else c) r)) ∧
    (∀ r, r < 4096 → (coreHasSys r = false ∨ (¬ mayAccess c r ∧ userCounter c r = false)) → Traps h (i r) s (illegalExc (i r)))

/-- MTS to the registers that keep what is written in full (04 R109, R110; 03 Table 3.3), the loop registers (04 R93) and the counters (20
R530); registers above U are written once the store buffer has drained (04 R114), said here of an empty one. MTS to the registers with
fields of their own: LK wants a link (03 R64), FCSR keeps RM on a reserved one (05 Table 5.5), CTX_PREDKEY flushes the return stack (06
R152), CTX_TAGCTL takes its three levels at M (03 R66), CTX_TIMING and CACHECFG keep one bit, PWRCTL asks for a point (17 R474) and PMU_SNAP
waits for the period's end (20 R538). -/
def Obligations.WriteSystemRegisters : Prop :=
  (∀ (n : Nat) (ra : Reg) (s : State),
      let h : Hart := .core n
      let c := coreOf s n
      let v := (gpr c ra).v
      let sets (i : Instr) (r : Nat) (w : Word) : Prop := Runs h i s { sys := [r] } none (fun d => sysReg d r = w)
      Plain c (gpr c ra) → c.sb = [] →
        (∀ r : BitVec 12, r.toNat ∈ [0x401, 0x403, 0x405, 0x406, 0x408, 0xC01, 0xC03, 0xC05, 0xC06, 0xC08] → mayAccess c r.toNat →
          sets (.mts h r ra) r.toNat v) ∧
        (∀ r : BitVec 12, r.toNat ∈ [0x404, 0xC04] → mayAccess c r.toNat → sets (.mts h r ra) r.toNat (BitVec.ofNat 64 (v.toNat / 4096 * 4096))) ∧
        (∀ r : BitVec 12, r.toNat ∈ [0x021, 0x022] → Runs h (.mts h r ra) s { acc := true } none (fun d =>
          (if r = 0x021 then d.ph else d.pl) = v ∧ (if r = 0x021 then d.pl = c.pl else d.ph = c.ph))) ∧
        (∀ k : LoopReg,
          Runs h (.mtsLoopRegister h k ra) s { loops := true } none (fun d =>
            mGet 0 (if k.toNat % 3 = 0 then d.ls else if k.toNat % 3 = 1 then d.le else d.lc) (k.toNat / 3) = v)) ∧
        (∀ k : CounterReg, 16 ≤ k.toNat → k.toNat ≤ 23 → mayAccess c (0x440 + k.toNat) → v.toNat < 0x4000 → fld v 7 0 = 0 → flag v 12 = false →
          sets (.mtsCounter h k ra) (0x440 + k.toNat) v) ∧
        (mayAccess c 0x460 → sets (.mtsCounter h 32 ra) 0x460 (v &&& 0xFF07))) ∧
  (∀ (n : Nat) (ra : Reg) (s : State),
      let h : Hart := .core n
      let c := coreOf s n
      let x := gpr c ra
      let v := x.v
      let sets (i : Instr) (r : Nat) (w : Word) : Prop := Runs h i s { sys := [r] } none (fun d => sysReg d r = w)
      (tagLevel h c = 0 ∨ x.t = .link → Runs h (.mtsLk h ra) s { lk := true } none (fun d => d.lk = x)) ∧
      (tagLevel h c ≠ 0 → (x.t = .data ∨ x.t = .dptr ∨ x.t = .cptr) →
        Traps h (.mtsLk h ra) s { code := 0x03, sub := 0x06, tag := tagCode x.t, tval := v }) ∧
      (Plain c x → c.sb = [] →
        (fld v 10 8 ≤ 4 → sets (.mtsFcsr h ra) 0x001 (BitVec.ofNat 64 (fld v 10 8 * 256 + v.toNat % 32))) ∧
        (4 < fld v 10 8 → sets (.mtsFcsr h ra) 0x001 (BitVec.ofNat 64 (fld (sysReg c 0x001) 10 8 * 256 + v.toNat % 32))) ∧
        (mayAccess c 0x411 → Runs h (.mtsCtxPredkey h ra) s { sys := [0x411] } none (fun d => sysReg d 0x411 = v ∧ d.rstack = [])) ∧
        (c.level = .m → fld v 1 0 ≤ 2 → fld v 5 4 ≤ 2 → fld v 9 8 ≤ 2 → sets (.mtsCtxTagctl h ra) 0x410 (v &&& 0x333)) ∧
        (mayAccess c 0x412 → sets (.mtsCtxTiming h ra) 0x412 (v &&& 1)) ∧
        (c.level = .m → sets (.mtsCachecfg h ra) 0xC20 (v &&& 1)) ∧
        (c.level = .m → fld v 2 0 ≤ 4 → sets (.mtsPwrctl h ra) 0xC30 (v &&& 0xFFFFFFFF17)) ∧
        (c.level = .m → 16 ≤ fld v 57 52 → fld v 57 52 ≤ 34 → ready h (.mtsPmuSnap h ra) s = true →
          ∃ u, exec (.mtsPmuSnap h ra) s = .next u ∧ mFind u.pmuSnapNext (enclOfCore s n) = some (v &&& 0x83FFFFFFFFFFF00F) ∧
            u.pmuSnap = s.pmuSnap)))

/-- Fences (09 R224, Table 9.4): FENCE.SL and FENCE empty the store buffer, FENCE.NT and FENCE the combining buffer; FENCE.IO falls through
once every device store is accepted too. A fence whose stores cannot all leave yet is held at its address. ISYNC changes no register. SYNC.IO (09 R227, R229): with every device store accepted
it confirms each target that accepted one; where none lost a write, timed out or answered an error it falls through with nothing pending,
and where a root complex lost one the flag is cleared, IOBSTAT names the lowest failing unit with bit 0 set, and the I/O barrier error is
pending. WFI (04 R112): with an interrupt pending it falls through; otherwise the core enters CS1 at its address. -/
def Obligations.FencesAndWaits : Prop :=
  (∀ (h : Hart) (s : State),
      let c := cpuOf s h
      let fence (i : Instr) (f : State → State × Bool) (P : Cpu → Prop) : Prop := ready h i s = true →
        ((f (started h i s)).2 = true →
          ∃ u, exec i s = .next u ∧ P (cpuOf u h) ∧ Kept h {} s u ∧ (noLoopEnd c → (cpuOf u h).pc = c.pc + 4)) ∧
        ((f (started h i s)).2 = false → ∃ u, exec i s = .next u ∧ Holding h i s u ∧ Kept h {} s u)
      let accepted (s : State) : State × Bool := ((fenceAll h s).1, (fenceAll h s).2 && decide ((cpuOf (fenceAll h s).1 h).devSent = 0))
      fence (.fence h) (fenceAll h) (fun d => d.sb = [] ∧ d.nt = []) ∧
      fence (.fenceSl h) (sbDrain h) (fun d => d.sb = []) ∧
      fence (.fenceNt h) (fenceNt h) (fun d => d.nt = []) ∧
      fence (.fenceIo h) accepted (fun d => d.sb = [] ∧ d.nt = [] ∧ d.devSent = 0) ∧
      (c.sb = [] → c.nt = [] → Runs h (.fence h) s {} none (fun _ => True) ∧ Runs h (.fenceSl h) s {} none (fun _ => True) ∧
        Runs h (.fenceNt h) s {} none (fun _ => True) ∧ (c.devSent = 0 → Runs h (.fenceIo h) s {} none (fun _ => True))) ∧
      Runs h (.isync h) s {} none (fun _ => True)) ∧
  (∀ (n : Nat) (s : State), ready (.core n) (.syncIo (.core n) []) s = true →
      let c := coreOf s n
      let lost := (c.devUnits.map (·.1)).filter (fun k => mGet false s.loss (k * 1024 + n))
      c.sb = [] → c.nt = [] → c.devSent = 0 →
        ∃ u, exec (.syncIo (.core n) []) s = .next u ∧ (coreOf u n).devUnits = [] ∧ MemKept s u ∧
          (lost = [] → Kept (.core n) {} s u ∧ (coreOf u n).iobar = c.iobar ∧ u.loss = s.loss) ∧
          (∀ k, lost = [k] → k < 512 → (coreOf u n).iobar = some c.pc ∧ flag (sysReg (coreOf u n) 0x430) 0 = true ∧
            fld (sysReg (coreOf u n) 0x430) 24 16 = k ∧ mGet false u.loss (k * 1024 + n) = false)) ∧
  (∀ (n : Nat) (s : State),
      let h : Hart := .core n
      let c := coreOf s n
      (c.irqM = true ∨ c.irqS = true → Runs h (.wfi h) s {} none (fun d => d.run = c.run)) ∧
      (c.irqM = false → c.irqS = false → ready h (.wfi h) s = true → ∃ u, exec (.wfi h) s = .next u ∧
        (coreOf u n).run = .wfi ∧ (coreOf u n).cs1At = s.stamp ∧ (coreOf u n).pc = c.pc ∧ Kept h {} s u ∧ MemKept s u))

/-- The local part of TLBI (07 Table 7.14, R185): exactly the entries that the form names leave every structure of the core's TLBs (the
retirement of the instruction may refill the ITLB from the L2 TLB, 06 R159); with nobody to tell, or without the broadcast, it retires, else it
waits at its address. TLBW and TLBR (07 R178, R179): a valid entry written is held, in its wired slot or in its set of the L2 TLB, and no other
entry that overlaps it remains; TLBR answers the entry's two words, a wired one first, and a miss where neither holds the address. WALK
(07 R180, R183) by its outcomes, once the lines it reads are with the core: a leaf gives ENTRY_HI with the page and the current ASID and
ENTRY_LO of the leaf's entry; a status gives the status and its level with ENTRY_LO 0; an entry that memory cannot give raises class 0x09 and
one in device space class 0x0A, with its address in TVAL; after four failed compares of the marking the status is CONTENDED. -/
def Obligations.TlbOperations : Prop :=
  (∀ (n : Nat) (ra : Reg) (b : Bool) (s : State) (f : Instr × (TlbEntry → Bool)),
      let h : Hart := .core n
      let t := started h f.1 s
      let c := coreOf t n
      let x := (gpr c ra).v
      let here (e : TlbEntry) : Bool := decide (fld x 56 12 / 16 ^ e.cont = e.vpn / 16 ^ e.cont)
      let ts := tlbiTargets t n (enclOfCore t n)
      f ∈ [(Instr.tlbiAll h b, fun _ => true), (.tlbiNonglobal h b, fun e => !e.g),
        (.tlbiAsid h ra b, fun e => !e.g && decide (e.asid = x.toNat % 4096)),
        (.tlbiVa h ra b, fun e => here e && (e.g || decide (e.asid = fld (sysReg c 0x421) 11 0))), (.tlbiVaAll h ra b, here)] →
      ready h f.1 s = true → (gpr c ra).t ≠ .pois → (gpr c ra).t ≠ .hndl → c.sb = [] →
        ∃ u, exec f.1 s = .next u ∧ Kept h {} s u ∧ MemKept s u ∧
          (∀ e ∈ tlbEntries (coreOf u n), e ∈ tlbEntries c ∧ f.2 e = false) ∧
          (coreOf u n).dtlb = c.dtlb.filter (fun e => !(f.2 e.2)) ∧ (coreOf u n).wired = c.wired.filter (fun e => !(f.2 e.2)) ∧
          (c.level = .m → tlbEntries (coreOf u n) = (tlbEntries c).filter (fun e => !(f.2 e))) ∧
          (b = false ∨ ts = [] → (noLoopEnd c → (coreOf u n).pc = c.pc + 4)) ∧
          (b = true → ts ≠ [] → (coreOf u n).pc = c.pc ∧
            tlbEntries (coreOf u n) = (tlbEntries c).filter (fun e => !(f.2 e)) ∧
            ∃ form va asid, (coreOf u n).wait = .tlbi ts form va asid s.stamp)) ∧
  (∀ (n : Nat) (rd ra : Reg) (s : State),
      let h : Hart := .core n
      (let t := started h (.tlbw h ra) s
       let c := coreOf t n
       let hi := gpr c ra
       let lo := gpr c (ra + 1)
       let e := entryOf hi.v lo.v
       let fits (f : TlbEntry) : Prop := fld hi.v 56 12 / 16 ^ max f.cont e.cont = f.vpn / 16 ^ max f.cont e.cont ∧ (f.g = true ∨ e.g = true ∨ f.asid = e.asid)
       ready h (.tlbw h ra) s = true → c.sb = [] → hi.t ≠ .pois → hi.t ≠ .hndl → lo.t ≠ .pois → lo.t ≠ .hndl → flag lo.v 63 = true →
        loReserved lo.v = false →
          ∃ u, exec (.tlbw h ra) s = .next u ∧ Kept h {} s u ∧ MemKept s u ∧
            (flag lo.v 62 = true → mFind (coreOf u n).wired (fld lo.v 61 58) = some e) ∧
            (flag lo.v 62 = false → ∃ w, mFind (setOf (coreOf u n).l2tlb (l2tlbSet e.vpn e.cont)).ways w = some e) ∧
            (∀ f ∈ tlbEntries (coreOf u n), fits f → f = e)) ∧
      (let t := started h (.tlbr h rd ra) s
       let c := coreOf t n
       let x := gpr c ra
       ready h (.tlbr h rd ra) s = true → c.sb = [] → x.t ≠ .pois → x.t ≠ .hndl →
        let gives (i l : Word) : Prop := Completes h (.tlbr h rd ra) s { g := [rd, rd + 1] } none (fun d =>
          gpr d rd = ⟨i, .data⟩ ∧ gpr d (rd + 1) = ⟨l, .data⟩)
        (∀ k f, wiredFind c x.v = some (k, f) → gives (entryHi 0 0 f.vpn f.asid) (entryLo f (some k))) ∧
        (∀ k f, wiredFind c x.v = none → l2tlbFind c x.v = some (k, f) → gives (entryHi 0 0 f.vpn f.asid) (entryLo f none)) ∧
        (wiredFind c x.v = none → l2tlbFind c x.v = none → gives (BitVec.ofNat 64 (2 ^ 57 + fld x.v 56 12 * 4096)) 0))) ∧
  (∀ (n : Nat) (rd ra : Reg) (s : State), let h : Hart := .core n
      let i : Instr := .walk h rd ra 0
      let t := started h i s
      let c := coreOf t n
      let x := gpr c ra
      let root := sysReg c 0x420
      let e := enclOfCore t n
      let gives (i' l : Word) : Prop := Completes h i s { g := [rd, rd + 1] } none (fun d => gpr d rd = ⟨i', .data⟩ ∧ gpr d (rd + 1) = ⟨l, .data⟩)
      let raises (code pa : Nat) : Prop :=
        ∃ v, exec i s = .next (takeSync h { code := code, tval := BitVec.ofNat 64 pa } v) ∧ v.cores = t.cores ∧ MemKept t v
      ready h i s = true → c.sb = [] → x.t ≠ .pois → x.t ≠ .hndl →
        (4 ≤ c.walkTries → gives (BitVec.ofNat 64 (4 * 2 ^ 57 + fld x.v 56 12 * 4096)) 0) ∧
        (c.walkTries < 4 → (walkLines n ((walkRootReads t e (fun _ => none) root x.v).map (fun p => lineOf p.2.pa)) t).2 = true →
          (∀ st lvl, walkRoot t e (fun _ => none) root x.v = .status st lvl →
            gives (BitVec.ofNat 64 (lvl * 2 ^ 62 + st * 2 ^ 57 + fld x.v 56 12 * 4096)) 0) ∧
          (∀ pa leaf, flag root 2 = false → walkRoot t e (fun _ => none) root x.v = .ok pa leaf →
            Completes h i s { g := [rd, rd + 1] } none (fun d =>
              gpr d rd = ⟨BitVec.ofNat 64 (fld x.v 56 12 * 4096 + fld (sysReg c 0x421) 11 0), .data⟩ ∧
              (gpr d (rd + 1)).t = .data ∧ flag (gpr d (rd + 1)).v 63 = true ∧ flag (gpr d (rd + 1)).v 62 = false ∧
              fld (gpr d (rd + 1)).v 51 12 = fld leaf 51 12 ∧ fld (gpr d (rd + 1)).v 11 10 = fld leaf 10 9 ∧
              ∀ k, k ∈ [2, 3, 4, 5, 6, 8] → flag (gpr d (rd + 1)).v k = flag leaf k)) ∧
          (∀ pa, walkRoot t e (fun _ => none) root x.v = .attrFault pa → raises 0x0A pa) ∧
          (∀ pa, walkRoot t e (fun _ => none) root x.v = .busError pa → raises 0x09 pa)))

/-- DCZ (08 R203), cache maintenance by address (08 Table 8.4), LOCKLD and UNLOCK (08 R211-R213) on a line of memory that is quiet at its home
(no transaction of it is under way there): DCZ queues 64 zero octets; CLEAN and CLINV leave what memory reads as alone and nothing newer than
memory above the line, CLINV and INVAL leave no copy in the filter or the LLC; LOCKLD takes a free own way for the line and locks it there, and
is refused into LOCKSTAT where the enclosure owns none; UNLOCK of a locked entry of an own way clears its lock. -/
def Obligations.CacheOperations : Prop :=
  ∀ (n : Nat) (ra : Reg) (s : State),
    let h : Hart := .core n
    let does (i : Instr) (a : Access) (P : State → Nat → State → Prop) : Prop :=
      let t := started h i s
      let c := coreOf t n
      let x := gpr c ra
      let pa := physOf c x.v
      let line := lineOf pa
      ready h i s = true → GoodBase h c x → Translates c a x.v 1 → pa < locBase → placeOf t (enclOfCore t n) pa = .mem →
      c.sb = [] → c.nt = [] → lineQuiet t line = true → asking t (tileOf t n) line = false → wbPending t (tileOf t n) line = false →
      cmoFlight t (tileOf t n) = 0 → ∃ u, exec i s = .next u ∧ P t line u
    let regs (t u : State) : Prop := ∀ r, gpr (coreOf u n) r = gpr (coreOf t n) r
    let current (line : Nat) (u : State) : Prop :=
      mFind u.mem.under1 line = none ∧ mFind u.mem.under2 line = none ∧ mFind u.mem.under3 line = none
    let gone (line : Nat) (u : State) : Prop := llcValid u line = false ∧ sfFind u line = none
    (let t := started h (.dcz h ra) s
     let c := coreOf t n
     let x := gpr c ra
     let pa := physOf c x.v
     GoodBase h c x → Translates c .store x.v 1 → pa < locBase → placeOf t (enclOfCore t n) pa = .mem →
     c.sb.length < 96 →
      Runs h (.dcz h ra) s {} none (fun d => ∃ e, d.sb = c.sb ++ [e] ∧ e.dcz = true ∧ e.pa = 64 * lineOf pa ∧ e.bytes = List.replicate 64 0)) ∧
    does (.clean h 0 ra 0 .addr) .load (fun _ line u => Kept h {} s u ∧ MemKept s u ∧ current line u ∧ llcDirty u line = false) ∧
    does (.clinv h 0 ra 0 .addr) .load (fun t line u => regs t u ∧ MemKept s u ∧ current line u ∧ gone line u) ∧
    does (.inval h 0 ra 0 .addr) .store (fun t line u => regs t u ∧ current line u ∧ gone line u) ∧
    does (.lockld h 0 ra 0 .addr) .load (fun t line u => MemKept s u ∧
      (ownWays t (enclOfCore t n) (slicePos line) = [] → sysReg (coreOf u n) 0xC21 = BitVec.ofNat 64 (2 ^ 63 + line * 64)) ∧
      (∀ w, ownWays t (enclOfCore t n) (slicePos line) = [w] →
        llcFind t line = none → mFind (setOf (sliceAt t (slicePos line)).llc (llcSet line)).ways w = none →
          Kept h {} s u ∧ mFind (setOf (sliceAt u (slicePos line)).llc (llcSet line)).ways w = some ⟨line / 4, true, false, sectorBit line, 0⟩)) ∧
    (∀ y : LlcEntry,
      let t := started h (.unlock h ra 2) s
      let c := coreOf t n
      let x := gpr c ra
      Plain c x → setWayOk 2 x.v = true → c.sb = [] → ready h (.unlock h ra 2) s = true →
      mFind (setOf (sliceAt t (fld x.v 31 24)).llc (fld x.v 19 8)).ways (fld x.v 3 0) = some y → y.lock = true → y.empty = false →
      wayOwner t (fld x.v 31 24) (fld x.v 3 0) = enclOfCore t n →
        ∃ u, exec (.unlock h ra 2) s = .next u ∧ MemKept s u ∧
          mFind (setOf (sliceAt u (fld x.v 31 24)).llc (fld x.v 19 8)).ways (fld x.v 3 0) = some { y with lock := false })

/-! ## The clock root, the stamp and the socket links (02, 21) -/

/-- The commands of the clock root (02 R42, R47, R50, R51): what each changes, and that it changes nothing else. The offset of an alignment
exchange (21 R561): corrected by slew, shown in STAMP_ALIGN, and outside two ticks recorded (02 R50, R51). -/
def Obligations.ClockAndStamp : Prop :=
  (∀ (s : State) (k t : Nat),
      (rootLocked s = true → s.clk.refLostAt = none → Answers .referenceLost s (fun u =>
        u.clk = { s.clk with refLostAt := some s.stamp } ∧ ObjSet 0x1000 1 (setFld (obj s 0x1000 1) 2 0 6) s u ∧
        Reports 364 0x0701 4 0x10 0 0 s u ∧ u = { s with clk := u.clk, objs := u.objs, ras := u.ras, raised := u.raised })) ∧
      (s.clk.refLostAt = some t → s.stamp ≤ t + 1600000 → Answers .referenceReturn s (fun u =>
        u.clk = { s.clk with refLostAt := none } ∧ flag (obj u 0x1000 1) 0 = true ∧ flag (obj u 0x1000 1) 2 = false ∧
        flag (obj u 0x1000 1) 1 = flag (obj s 0x1000 1) 1 ∧ ObjsKept [(0x1000, 1)] s u ∧ u = { s with clk := u.clk, objs := u.objs })) ∧
      Answers (.wrapBitSet k) s (fun u => u = { s with net := u.net } ∧ u.net.length = s.net.length ∧ (∀ j, j ≠ k → u.net[j]? = s.net[j]?) ∧
        ∀ f o q, s.net[k]? = some f → f.msg = .req o q →
          u.net[k]? = some { f with msg := .req o (if f.at_ < s.stamp ∧ q.lstamp = s.stamp % 4096 then { q with wrap := true } else q) }) ∧
      (rootLocked s = true → s.clk.slew ≠ 0 → (∀ a, s.clk.lastAdjust = some a → a + 256 ≤ s.stamp) → NothingDue s →
       switchDue { s with stamp := s.stamp + 2 } = false → Answers .stampAdjust s (fun u =>
        u.stamp = (if s.clk.slew < 0 then s.stamp + 2 else s.stamp) ∧
        u.clk = { s.clk with slew := if s.clk.slew < 0 then s.clk.slew + 1 else s.clk.slew - 1, lastAdjust := some s.stamp } ∧
        u = { s with stamp := u.stamp, clk := u.clk, cores := u.cores, raised := [], pwr := { s.pwr with dwell := u.pwr.dwell } })) ∧
      (s.clk.slew ≠ 0 → s.clk.lastAdjust = some t → s.stamp < t + 256 → exec .stampAdjust s = .next s) ∧
      (isMaster s = false → linkTo s (masterOf s) = none → aligned s = true ∨ flag (obj s 0x1110 1) 2 = false → Answers .stampLinkLost s (fun u =>
        u.clk = { s.clk with t1 := none, slew := 0 } ∧ ObjSet 0x1110 1 (setFld (obj s 0x1110 1) 2 1 2) s u ∧
        Reports 364 0x0702 1 0x10 (masterOf s) 0 s u ∧ u = { s with clk := u.clk, objs := u.objs, ras := u.ras, raised := u.raised }))) ∧
  (∀ (s : State) (l t1 t2 t3 : Nat),
      let o : Int := (((t1 : Int) - t2) + ((s.stamp : Int) - t3)).tdiv 2
      (isMaster s = false → linkTo s (masterOf s) = some l → (linkAt s l).replay.length < 512 → alignDue s = true → Answers .alignInterval s (fun u =>
        SentOn l [.alignReq s.stamp] s u ∧ u.clk = { s.clk with t1 := some (l, s.stamp), lastAlign := some s.stamp } ∧
        u = { s with clk := u.clk, links := u.links, out := u.out, bw := u.bw })) ∧
      (linkAdmitted s l = true → (linkAt s l).replay.length < 512 → Answers (.alignReq l t1) s (fun u =>
        SentOn l [.alignRsp t1 s.stamp s.stamp] s u ∧ u = { s with links := u.links, out := u.out, bw := u.bw })) ∧
      (isMaster s = false → s.clk.t1 = some (l, t1) → -2 ≤ o ∧ o ≤ 2 → Answers (.alignRsp l t1 t2 t3) s (fun u =>
        u.clk = { s.clk with slew := o, t1 := none } ∧ fld (obj u 0x1110 1) 15 8 = (o % 256).toNat ∧ flag (obj u 0x1110 1) 1 = true ∧
        flag (obj u 0x1110 1) 3 = flag (obj s 0x1110 1) 3 ∧ ObjsKept [(0x1110, 1)] s u ∧
        u = { s with clk := u.clk, objs := u.objs, raised := u.raised })) ∧
      (isMaster s = false → s.clk.t1 = some (l, t1) → o < -2 ∨ 2 < o → Answers (.alignRsp l t1 t2 t3) s (fun u =>
        u.clk = { s.clk with slew := o, t1 := none } ∧ fld (obj u 0x1110 1) 15 8 = (o % 256).toNat ∧ flag (obj u 0x1110 1) 1 = false ∧
        flag (obj u 0x1110 1) 3 = true ∧ ObjsKept [(0x1110, 1)] s u ∧ Reports (356 + l) 0x0703 1 0x10 (o % 2 ^ 64).toNat 0 s u ∧
        u = { s with clk := u.clk, objs := u.objs, ras := u.ras, raised := u.raised })) ∧
      (isMaster s = false → s.clk.lastAlign = some t1 → s.stamp < t1 + 4096 → exec .alignInterval s = .next s))

/-- The commands of a socket link (21 R556 to R560): training, flits, replay, credits, and a link that goes down. -/
def Obligations.LinkCommands : Prop :=
  ∀ (s : State) (l peer delay seq ack a b c d g m mt failed q : Nat) (msg : Msg),
    let k := linkAt s l
    let from_ := k.replay.filter (fun f => decide ((f.1 + 4096 - seq) % 4096 < 512))
    (l < 4 → peer < 8 → peer ≠ s.socket → Answers (.linkTraining l true peer true none delay) s (fun u =>
      linkUp u l = true ∧ linkAdmitted u l = true ∧ linkPeer u l = peer ∧ (linkAt u l).delay = delay ∧
      (linkAt u l).replay = k.replay ∧ (linkAt u l).waiting = k.waiting ∧ (linkAt u l).told = false ∧ (∀ j, j ≠ l → linkAt u j = linkAt s j) ∧
      (∀ j, j < 4 → j ≠ l → linkUp u j = linkUp s j ∧ linkAdmitted u j = linkAdmitted s j ∧ linkPeer u j = linkPeer s j) ∧
      (∀ j, j < 4 → linkUp u j = true → fld (obj u 0xC100 j) 15 12 = (groupOf u (linkPeer u j)).length) ∧
      u = { s with links := u.links, objs := u.objs })) ∧
    (l < 4 → peer < 8 → peer ≠ s.socket → s.clk.slaved = false → m < s.socket → m < masterOf s → s.phase ≠ .running →
      Answers (.linkTraining l true peer true (some (m, mt)) delay) s (fun u =>
        u.stamp = mt + delay ∧ isMaster u = false ∧ masterOf u = m ∧ aligned u = true)) ∧
    (l < 4 → peer < 8 → Answers (.linkTraining l true peer false none delay) s (fun u =>
      linkUp u l = true ∧ linkAdmitted u l = false ∧ Reports (356 + l) 0x0704 4 0x10 l 0 s u)) ∧
    (linkUp s l = true → k.held = [] → seq = k.rxSeq → Answers (.linkFlit l true 0 seq ack []) s (fun u =>
      (linkAt u l).rxSeq = (k.rxSeq + 1) % 4096 ∧ (linkAt u l).replay = k.replay.filter (fun f => decide (512 ≤ (ack + 4095 - f.1) % 4096)) ∧
      (∀ j, j ≠ l → linkAt u j = linkAt s j) ∧ u = { s with links := u.links, bw := u.bw })) ∧
    (linkUp s l = true → k.asked = none → Answers (.linkFlit l false 0 seq ack [.msg msg]) s (fun u =>
      u.out = s.out ++ [.flit l 1 k.rxSeq k.rxSeq []] ∧ linkAt u l = { k with asked := some (k.rxSeq, s.stamp) } ∧
      (∀ j, j ≠ l → linkAt u j = linkAt s j) ∧ u = { s with links := u.links, out := u.out })) ∧
    (linkUp s l = true → k.asked = some (k.rxSeq, a) → s.stamp < a + 256 → exec (.linkFlit l false 0 seq ack [.msg msg]) s = .next s) ∧
    (linkUp s l = true → k.replays = none → Answers (.replayRequest l seq) s (fun u =>
      u.out = s.out ++ from_.map (fun f => .flit l 0 f.1 k.rxSeq f.2) ∧ linkAt u l = { k with replays := some (seq, 1) } ∧
      (∀ j, j ≠ l → linkAt u j = linkAt s j) ∧ ObjSet 0xC110 l (BitVec.ofNat 64 (min (objN s 0xC110 l + from_.length) (2 ^ 32 - 1))) s u ∧
      u = { s with links := u.links, out := u.out, bw := u.bw, objs := u.objs })) ∧
    (linkUp s l = true → k.waiting = [] → Answers (.credit l a b c d) s (fun u =>
      linkAt u l = { k with crReq := k.crReq + a, crSnp := k.crSnp + b, crRsp := k.crRsp + c, crDat := k.crDat + d, told := true } ∧
      (∀ j, j ≠ l → linkAt u j = linkAt s j) ∧ u = { s with links := u.links })) ∧
    (linkUp s l = true → linkUp s failed = false → failed ≠ l → groupOf s (linkPeer s l) = [l] → k.replay.length < 512 →
      (linkAt s failed).replay = [(q, [.msg msg])] → (linkAt s failed).held = [] → (linkAt s failed).waiting = [] → k.waiting = [] → k.told = false →
      q < 4096 → Answers (.groupResume l failed q) s (fun u =>
        u.out = s.out ++ [.flit l 0 k.txSeq k.rxSeq [.msg msg]] ∧ (linkAt u failed).replay = [] ∧ (linkAt u l).replay = k.replay ++ [(k.txSeq, [.msg msg])] ∧
        u = { s with links := u.links, out := u.out, bw := u.bw })) ∧
    (l < 4 → linkUp s l = true → linkAdmitted s l = true → (groupOf s (linkPeer s l)).filter (· ≠ l) = [g] → (linkAt s g).replay.length < 512 →
      Answers (.socketLinkDown l) s (fun u =>
        linkUp u l = false ∧ linkAdmitted u l = false ∧ SentOn g [.groupResume l k.rxSeq] s u ∧ Reports (356 + l) 0x0402 4 0x10 (356 + l) 0 s u ∧
        (∀ j, j < 4 → j ≠ l → linkUp u j = linkUp s j ∧ linkAdmitted u j = linkAdmitted s j ∧ linkPeer u j = linkPeer s j) ∧
        u = { s with links := u.links, out := u.out, bw := u.bw, objs := u.objs, ras := u.ras, raised := u.raised }))

/-! ## Power, Box and interrupts (17, 18, 21) -/

/-- The emergency stop (17 R487 to R489, 02 R42, 23 R579): what starts it, and what it leaves. The causes are 2 brownout, 3 over-voltage, 4
holdover, 5 thermal trip, 6 external. -/
def Obligations.EmergencyStop : Prop :=
  ∀ (s : State) (v value cause die t : Nat),
    let p := s.pwr
    rootLocked s = true →
      (2 ≤ cause → cause ≤ 6 → Answers (.emergencySaveAndStop cause value) s (StoppedFor cause s)) ∧
      (die < 6 → Answers (.thermalTrip die) s (StoppedFor 5 s)) ∧
      (s.clk.refLostAt = some t → t + 1600000 ≤ s.stamp → Answers .holdoverTimeout s (StoppedFor 4 s)) ∧
      (v < 3400 → 49 ≤ p.low → Answers (.inputSample v) s (StoppedFor 2 s)) ∧
      (7700 < v → p.low = 0 → 9 ≤ p.high → Answers (.inputSample v) s (StoppedFor 3 s)) ∧
      (v < 3400 → p.low < 49 → Answers (.inputSample v) s (fun u =>
        u = { s with pwr := { p with vin := v, low := p.low + 1, lowest := if p.low = 0 then v else min p.lowest v, high := 0 } })) ∧
      (7700 < v → p.low = 0 → p.high < 9 → Answers (.inputSample v) s (fun u =>
        u = { s with pwr := { p with vin := v, low := 0, lowest := 0, high := p.high + 1, highest := max p.highest v } })) ∧
      (3400 ≤ v → v ≤ 7700 → 0 < p.low → Answers (.inputSample v) s (fun u => Reports 361 0x0901 1 0x10 1 p.low s u ∧
        u = { s with ras := u.ras, pwr := { p with vin := v, low := 0, lowest := 0, high := 0, highest := 0 } }))

/-- The limiters, the di/dt guard and the operating points (17 R470, R472 to R475, R505). A core above the power limit is lowered by one
point from the one it runs at; the energy of the millisecond is shared out in full, in shares the spec leaves open (log 29). -/
def Obligations.PowerLimits : Prop :=
  ∀ (s : State) (avg v i die n k : Nat) (temp : Int) (on : Bool),
    let limit := 10 * objN s 0x2010 1
    let total (x : State) := ((List.range 17).map (mGet 0 x.pwr.energy)).sum
    (rootLocked s = true → limit < avg → s.pwr.limit = false → Answers (.powerLimitCheck avg v i) s (fun u =>
      u.pwr.limit = true ∧ u.pwr.under = 0 ∧ total u = total s + avg ∧ Reports 361 0x0901 1 0x10 0x10 avg s u ∧
      (∀ m, m < 192 → coreOf u m = retarget { coreOf s m with powerLim := lowerBy (coreOf s m).powerLim (coreOf s m) }) ∧
      obj u 0x2000 2 = BitVec.ofNat 64 (min avg 0xFFFF) ∧ ObjsKept [(0x2000, 1), (0x2000, 2)] s u ∧
      u = { s with pwr := u.pwr, ras := u.ras, cores := u.cores, objs := u.objs, free := u.free })) ∧
    (rootLocked s = true → avg ≤ limit → s.pwr.limit = false → Answers (.powerLimitCheck avg v i) s (fun u =>
      u.pwr.limit = false ∧ total u = total s + avg ∧ ObjsKept [(0x2000, 1), (0x2000, 2)] s u ∧
      u = { s with pwr := u.pwr, objs := u.objs, free := u.free })) ∧
    (rootLocked s = true → die < 6 → 1000 ≤ temp → mGet false s.pwr.therm die = false → Answers (.thermalLimit die temp) s (fun u =>
      mGet false u.pwr.therm die = true ∧ Reports 361 0x0901 1 0x10 0x12 die s u ∧
      (∀ m, m < 192 → coreOf u m = if onDie s die m then retarget { coreOf s m with thermalLim := lowerBy (coreOf s m).thermalLim (coreOf s m) }
        else coreOf s m) ∧
      ObjSet 0x2080 die (BitVec.ofInt 64 (temp % 65536)) s u ∧ u = { s with pwr := u.pwr, ras := u.ras, cores := u.cores, objs := u.objs })) ∧
    (die < 4 → rootLocked s = true → mGet false s.guard die ≠ on → Answers (.diDtGuard die on) s (fun u =>
      mGet false u.guard die = on ∧ (∀ j, j ≠ die → mGet false u.guard j = mGet false s.guard j) ∧
      ObjSet 0x9700 die (if on then BitVec.ofNat 64 (min (objN s 0x9700 die + 1) (2 ^ 32 - 1)) else obj s 0x9700 die) s u ∧
      u = { s with guard := u.guard, objs := u.objs })) ∧
    (n < 192 → (coreOf s n).moving = some k → Answers (.oppVoltageReached n) s (fun u =>
      let t := oppTarget (coreOf s n)
      coreOf u n = (if k ≤ t then { coreOf s n with opp := t, moving := none } else { coreOf s n with opp := k, moving := some t }) ∧
      (∀ m, m ≠ n → coreOf u m = coreOf s m) ∧ u = { s with cores := u.cores }))

/-- The entry handshake of CS3 and of the package states (17 R476 to R486): what starts an attempt, what an answer does to it, and what ends
a package state. -/
def Obligations.SleepHandshake : Prop :=
  ∀ (s : State) (key unit d reason n k q src core : Nat) (a : Attempt),
    let c := coreOf s n
    let left := a.waits.filter (fun x => decide (x ≠ unit))
    let refused (r : Nat) (u : State) : Prop := mFind u.pwr.tries key = none ∧ (∀ j, j ≠ key → mFind u.pwr.tries j = mFind s.pwr.tries j) ∧
      obj u 0x2050 1 = BitVec.ofNat 64 (tryTarget key * 2 ^ 28 + unit % 1024 * 2 ^ 16 + r % 256) ∧
      obj u 0x2050 2 = BitVec.ofNat 64 (min (objN s 0x2050 2 + 1) (2 ^ 32 - 1)) ∧ ObjsKept [(0x2050, 1), (0x2050, 2)] s u
    (n < 192 → c.run = .wfi → flag (sysReg c 0xC30) 4 = true → c.cs1At + fld (sysReg c 0xC30) 39 8 ≤ s.stamp → mFind s.pwr.tries n = none →
      Answers (.cs3DelayExpiry n) s (fun u => mFind u.pwr.tries n = some ⟨s.stamp, [tileOf s n]⟩ ∧
        (∀ j, j ≠ n → mFind u.pwr.tries j = mFind s.pwr.tries j) ∧ u = { s with pwr := { s.pwr with tries := u.pwr.tries } })) ∧
    (rootLocked s = true → s.pwr.dwell = some (k, q) → q + objN s 0x2020 2 ≤ s.stamp → deepest s = some k → objN s 0x2030 1 < k →
      mFind s.pwr.tries (192 + k) = none → Answers (.pkDwellExpiry k) s (fun u =>
      mFind u.pwr.tries (192 + k) = some ⟨s.stamp, packUnits k⟩ ∧ u = { s with pwr := { s.pwr with tries := u.pwr.tries } })) ∧
    (mFind s.pwr.tries key = some a → a.waits.contains unit = true → mustRefuse s key unit = 0 → left ≠ [] ∨ key < 192 →
      Answers (.handshakeAccept key unit) s (fun u => mFind u.pwr.tries key = some { a with waits := left } ∧
        (∀ j, j ≠ key → mFind u.pwr.tries j = mFind s.pwr.tries j) ∧ u = { s with pwr := { s.pwr with tries := u.pwr.tries } })) ∧
    (mFind s.pwr.tries key = some a → a.waits.contains unit = true → mustRefuse s key unit = 0 → left = [] → key = 194 →
      packPermitted s 2 = true → packCond s 2 = true → fld (obj s 0x3000 2) 9 8 ≠ 2 → Answers (.handshakeAccept key unit) s (fun u =>
        mFind u.pwr.tries key = none ∧ ObjSet 0x2030 1 2 s u ∧
        u = { s with objs := u.objs, pwr := { s.pwr with tries := u.pwr.tries, entered := some s.stamp } })) ∧
    (mFind s.pwr.tries key = some a → a.waits.contains unit = true → a.at_ + 800000 < s.stamp + d → key < 192 →
      Answers (.handshakeDelay key unit d) s (fun u => refused 2 u ∧
        coreOf u key = { coreOf s key with cs1At := s.stamp } ∧ u.ras = s.ras)) ∧
    (mFind s.pwr.tries key = some a → s.stamp + d ≤ a.at_ + 800000 → exec (.handshakeDelay key unit d) s = .next s) ∧
    (mFind s.pwr.tries key = some a → a.waits.contains unit = true → reason = 3 ∨ reason = 4 → Answers (.handshakeRefuse key unit reason) s (fun u =>
      refused reason u ∧ Reports 361 0x0901 1 0x10 0x20 reason s u)) ∧
    (mFind s.pwr.tries key = some a → a.waits.contains unit = true → reason ≠ 3 → reason ≠ 4 → Answers (.handshakeRefuse key unit reason) s (fun u =>
      refused reason u ∧ u.ras = s.ras)) ∧
    (mFind s.pwr.tries key = some a → a.waits.contains unit = true → a.at_ + 800000 ≤ s.stamp → Answers (.handshakeTimeout key unit) s (fun u =>
      refused 2 u ∧ u.ras = s.ras)) ∧
    (1 ≤ src → src ≤ 6 → objN s 0x2030 1 = 2 ∨ objN s 0x2030 1 = 4 → s.pwr.entered = none → fld (obj s 0x3000 2) 9 8 ≠ 2 → Answers (.wakeSource src unit core) s (fun u =>
      obj u 0x2030 1 = 0 ∧ obj u 0x2040 2 = BitVec.ofNat 64 s.stamp ∧
      obj u 0x2040 1 = BitVec.ofNat 64 ((if src = 1 then core % 256 else 0xFF) * 2 ^ 24 + unit % 1024 * 2 ^ 12 + objN s 0x2030 1 * 2 ^ 8 + src % 256) ∧
      mFind u.pwr.tries 194 = none ∧ mFind u.pwr.tries 196 = none ∧ mFind u.pwr.tries 198 = none ∧
      ObjsKept [(0x2030, 1), (0x2040, 1), (0x2040, 2)] s u ∧ u = { s with objs := u.objs, pwr := { s.pwr with tries := u.pwr.tries } })) ∧
    (c.run = .cs3 → tileDrained s (tileOf s n) = true → intPending s n true = true ∨ intPending s n false = true → Answers (.cs3Exit n true) s (fun u =>
      let x := mGet {} s.ras.saves n
      let d := coreOf u n
      d.run = .running ∧ d.level = x.level ∧ (∀ q, gpr d q = gpr x q ∧ fpr d q = fpr x q ∧ vpr d q = vpr x q) ∧ d.lk = x.lk ∧
      (noLoopEnd x → d.pc = x.pc + 4) ∧ ∀ m, m ≠ n → coreOf u m = coreOf s m)) ∧
    (n < 192 → c.run = .cs3 → tileDrained s (tileOf s n) = true → intPending s n true = true → Answers (.cs3Exit n false) s (fun u =>
      (coreOf u n).run = .lost ∧ obj u 0x5030 n = 0xFF)) ∧
    (src = 1 ∨ src = 2 → objN s 0x2030 1 ≠ 0 → s.pwr.entered = some q → Answers (.wakeSource src unit core) s (fun u =>
      obj u 0x2030 1 = 0 ∧ u.pwr.entered = none ∧ ObjsKept [(0x2030, 1)] s u))

/-- Box (18 R492 to R503): its start, its updates, its commits and its maintenance commands; the register never falls. -/
def Obligations.BoxCommands : Prop :=
  ∀ (s : State) (v e amps c : Nat) (img : BoxImage),
    let b := s.box
    let newest := if b.copy0.seq < b.copy1.seq then b.copy1 else b.copy0
    let copy : BoxCopy := { energy := b.energy, fine := b.fine, boots := b.boots, seq := max b.copy0.seq b.copy1.seq + 1, valid := true }
    let written (u : State) : Prop := if boxTurn b = 0 then u.box.copy0 = copy ∧ u.box.copy1 = b.copy1 else u.box.copy1 = copy ∧ u.box.copy0 = b.copy0
    let frame (u : State) : Prop := u = { s with box := u.box }
    let register (u : State) : Prop := u.box.energy = b.energy ∧ u.box.fine = b.fine
    let takes : Prop := b.on = true ∧ b.maint = true ∧ b.cmd = none ∧ (boxPlace b).isSome = true
    (b.on = false → (boxPlace b).isSome = true → b.copy0.valid = true → b.copy1.valid = true → Answers (.boxStart v true true false false) s (fun u =>
      u.box.on = true ∧ u.box.energy = newest.energy ∧ u.box.fine = newest.fine ∧ u.box.boots = newest.boots + 1 ∧ u.box.fault = false ∧
      BoxLogs 0x01 0 v (if b.copy0.seq < b.copy1.seq then 1 else 0) s u ∧ frame u)) ∧
    (b.on = false → b.copy0.valid = true → b.copy1.valid = true → Answers (.boxStart v false true false false) s (fun u =>
      u.box.on = true ∧ u.box.fault = true ∧ u.box.energy = newest.energy ∧ frame u)) ∧
    (b.on = true → b.fault = false → 10 ≤ amps → Answers (.boxUpdate e v amps false) s (fun u =>
      u.box.energy * 1000000 + u.box.fine = b.energy * 1000000 + b.fine + e ∧ u.box.fine < 1000000 ∧ u.box.snap.energy = u.box.energy ∧
      u.box.snap.volts = v ∧ u.box.snap.amps = amps ∧
      u.out = s.out ++ (if u.box.energy / 100 = b.energy / 100 then [] else [.pulse (u.box.energy / 100 - b.energy / 100)]) ∧
      u = { s with box := u.box, out := u.out })) ∧
    (b.on = true → b.fine < 1000000 → b.fault = true ∨ amps < 10 → Answers (.boxUpdate e v amps false) s (fun u => register u ∧ frame u)) ∧
    (b.on = true → b.fine < 1000000 → Answers (.boxUpdate e v amps true) s (fun u => register u ∧ frame u)) ∧
    (b.on = true → b.cflags = 0 → b.cseq = none → Answers .commitPeriodic s (fun u => written u ∧ u.box.log = b.log ∧ register u ∧ frame u)) ∧
    (b.on = true → b.cflags = 0 → b.cseq = none → b.cmd = none → (boxPlace b).isSome = true → Answers (.supplyFail v) s (fun u =>
      u.box.on = false ∧ written u ∧ BoxLogs 0x02 8 v (boxTurn b) s u ∧ register u ∧ frame u)) ∧
    (takes → unsealCheck b = 0 → Answers (.boxUnseal true) s (fun u =>
      u.box.breaks = b.breaks + 1 ∧ u.box.seals = b.seals ∧ BoxLogs 0x10 0 b.breaks b.version s u ∧ register u ∧ frame u)) ∧
    (takes → boxSealed b = false → Answers (.boxUnseal true) s (fun u => u.box.breaks = b.breaks ∧ BoxLogs 0x14 0 1 1 s u ∧ register u ∧ frame u)) ∧
    (takes → sealCheck b = 0 → Answers (.boxSeal true) s (fun u =>
      u.box.seals = b.seals + 1 ∧ u.box.breaks = b.breaks ∧ BoxLogs 0x12 0 b.seals b.version s u ∧ register u ∧ frame u)) ∧
    (takes → loadCheck b img = 0 → Answers (.boxLoad img true) s (fun u =>
      u.box.version = img.version % 2 ^ 16 ∧ u.box.digest = img.digest ∧ u.box.slot = 1 - b.slot ∧ u.box.minver = max b.minver img.minver ∧
      u.box.boots = b.boots + 1 ∧ (u.box.fault = true ↔ img.check ≠ 0) ∧ register u ∧ frame u)) ∧
    (takes → loadCheck b img ≠ 0 → Answers (.boxLoad img true) s (fun u =>
      u.box.version = b.version ∧ u.box.slot = b.slot ∧ BoxLogs 0x14 0 2 (loadCheck b img) s u ∧ register u ∧ frame u)) ∧
    (b.cmd = some c → (boxPlace b).isSome = true → Answers .maintReleased s (fun u =>
      u.box.maint = false ∧ u.box.cmd = none ∧ BoxLogs 0x14 0 c 7 s u ∧ register u ∧ frame u)) ∧
    Answers .boxMaintNLow s (fun u => u = { s with box := { b with maint := true } })

/-- The interrupt controller (21 R551 to R554, 03 R59, R72): delivery, SETPEND, CLAIM, COMPLETE, the timer, and a stream's control word. -/
def Obligations.InterruptController : Prop :=
  ∀ (s : State) (n k i : Nat) (m : Bool) (q : ReqFlit),
    let c := coreOf s n
    let open_ : Prop := s.yew.stopped = false ∧ s.yew.held.contains (enclOfCore s n) = false ∧ s.yew.refused.contains (enclOfCore s n) = false
    let others (u : State) : Prop := ∀ j, j ≠ n → coreOf u j = coreOf s j
    let marked (x : Cpu) : Cpu := if m then { x with irqM := true } else { x with irqS := true }
    (intPending s n m = true → open_ → c.run = .running → Answers (.interruptDelivery n m) s (fun u =>
      coreOf u n = marked c ∧ others u ∧ u = { s with cores := u.cores })) ∧
    (intPending s n true = true → open_ → c.run = .gated → Answers (.interruptDelivery n true) s (fun u =>
      coreOf u n = { c with run := .running, pc := obj s 0x3010 (enclOfCore s n), irqM := true } ∧ others u ∧ u = { s with cores := u.cores })) ∧
    (c.run = .gated → exec (.interruptDelivery n false) s = .next s) ∧
    (intPending s n m = true → open_ → c.run = .wfi → Answers (.interruptDelivery n m) s (fun u =>
      (coreOf u n).run = .running ∧ (noLoopEnd c → (coreOf u n).pc = c.pc + 4) ∧ (∀ r, gpr (coreOf u n) r = gpr c r) ∧ others u)) ∧
    (localPending s n 0 = true → intPending s n true = true → intPending s n false = false → open_ → c.run = .running →
      Answers (.timerPending n) s (fun u => coreOf u n = { c with irqM := true } ∧ others u ∧ u = { s with cores := u.cores })) ∧
    (intTarget s q = some .setpend → overtakes (.req 0x11 q) s = false → Answers (.setpend q) s (fun u =>
      flag (mGet 0 u.src (q.encl * 1024 + fld q.data 9 0)) 62 = true ∧
      (∀ j, j ≠ q.encl * 1024 + fld q.data 9 0 → mGet 0 u.src j = mGet 0 s.src j) ∧
      Took (.req 0x11 q) [rspTo 0x06 363 0 q s] s u ∧ u = { s with src := u.src, net := u.net, bw := u.bw })) ∧
    (intTarget s q = some (.claim n m) → bestSource s n m = some k → k < 1024 → enclOfCore s n = q.encl → overtakes (.req 0x10 q) s = false →
      Answers (.claim q) s (fun u =>
      flag (mGet 0 u.src (q.encl * 1024 + k)) 61 = true ∧ flag (mGet 0 u.src (q.encl * 1024 + k)) 62 = false ∧
      (∀ j, j ≠ q.encl * 1024 + k → mGet 0 u.src j = mGet 0 s.src j) ∧ Took (.req 0x10 q) [devData 363 q k s] s u ∧
      u = { s with src := u.src, net := u.net, bw := u.bw, cores := u.cores })) ∧
    (intTarget s q = some (.claim n m) → bestSource s n m = some 1024 → overtakes (.req 0x10 q) s = false → Answers (.claim q) s (fun u =>
      mGet false u.localPend (2 * n + 1) = false ∧ mGet false u.linsvc (2 * n + 1) = true ∧ Took (.req 0x10 q) [devData 363 q 1024 s] s u)) ∧
    (intTarget s q = some (.claim n m) → bestSource s n m = none → overtakes (.req 0x10 q) s = false → Answers (.claim q) s (fun u =>
      Took (.req 0x10 q) [devData 363 q 0x7FF s] s u ∧ u = { s with net := u.net, bw := u.bw })) ∧
    (intTarget s q = some (.complete n m) → fld q.data 10 0 = k → k < 1024 → enclOfCore s n = q.encl → q.encl < 16 →
      flag (srcWord s q.encl k) 61 = true → flag (srcWord s q.encl k) 60 = m → overtakes (.req 0x11 q) s = false → Answers (.complete q) s (fun u =>
        flag (mGet 0 u.src (q.encl * 1024 + k)) 61 = false ∧ (∀ j, j ≠ q.encl * 1024 + k → mGet 0 u.src j = mGet 0 s.src j) ∧
        Took (.req 0x11 q) [rspTo 0x06 363 0 q s] s u ∧ u = { s with src := u.src, net := u.net, bw := u.bw })) ∧
    (intTarget s q = some (.stream i false) → flag (mGet 0 s.sctl (q.encl * 32 + i)) 63 = false → overtakes (.req 0x11 q) s = false →
      Answers (.streamEnable q) s (fun u =>
      mGet 0 u.sctl (q.encl * 32 + i) = BitVec.ofNat 64 ((flag q.data 63).toNat * 2 ^ 63 + fld q.data 11 0) ∧
      (∀ j, j ≠ q.encl * 32 + i → mGet 0 u.sctl j = mGet 0 s.sctl j) ∧ Took (.req 0x11 q) [rspTo 0x06 363 0 q s] s u ∧
      u = { s with sctl := u.sctl, iotlb := u.iotlb, net := u.net, bw := u.bw }))

/-! ## PCIe and performance monitoring (20, 21) -/

/-- The root complexes (21 R541 to R550, 09 R228): completions and their tags, a port whose link goes down, inbound DMA, AtomicOps and MSI.
-/
def Obligations.PcieCommands : Prop :=
  ∀ (s : State) (pe port rid tag e i v a src len pa : Nat) (va opnd expd : Word) (bs : List Byte) (t : PTag) (ok ep : Bool),
    let k := 4 * pe + port
    let awake : Prop := objN s 0x2030 1 ≠ 4
    let target (store : Bool) (n : Nat) : DmaTo := (dmaResolve pe rid va n store s).1
    let mv : DmaTo := (dmaResolve pe rid va bs.length true (bwAdd 0x9411 pe bs.length s)).1
    let dropped : Word := setFld (setFld (setFld (setFld (obj s 0xC010 k) 2 0 0) 8 4 0) 9 9 1) 31 16
      (min 0xFFFF (fld (setFld (setFld (setFld (obj s 0xC010 k) 2 0 0) 8 4 0) 9 9 1) 31 16 + 1))
    (s.ptags.find? (fun t => decide (t.pe = pe ∧ t.tag = tag)) = some t → t.late = false → t.kind = 2 → Answers (.pcieCompletion pe tag true v) s (fun u =>
      u.ptags = s.ptags.erase t ∧ msgs u = msgs s ++ [devData (352 + pe) t.q v s] ∧ u = { s with ptags := u.ptags, net := u.net, bw := u.bw })) ∧
    (s.ptags.find? (fun t => decide (t.pe = pe ∧ t.tag = tag)) = some t → t.late = false → t.kind = 1 →
      (∀ h, hartOf s t.q.src = some h → s.stamp + 16000000 < t.deadline + fld (sysReg (cpuOf s h) 0xC11) 20 0) →
      Answers (.pcieCompletion pe tag true v) s (fun u =>
      u.ptags = s.ptags.erase t ∧ msgs u = msgs s ++ [rspTo 0x06 (352 + pe) 0 t.q s] ∧ u = { s with ptags := u.ptags, net := u.net, bw := u.bw })) ∧
    (s.ptags.find? (fun t => decide (t.pe = pe ∧ t.tag = tag)) = some t → t.late = true → Answers (.pcieCompletion pe tag ok v) s (fun u =>
      u.ptags = s.ptags.erase t ∧ Reports (352 + pe) 0x0602 0 t.q.encl (352 + pe) 0 s u ∧ u = { s with ptags := u.ptags, ras := u.ras, bw := u.bw })) ∧
    Answers (.completionTimeout pe tag) s (fun u => (∀ x, x ∈ u.ptags ↔ x ∈ s.ptags ∧ ¬(x.pe = pe ∧ x.tag = tag ∧ x.deadline ≤ s.stamp)) ∧
      u = { s with ptags := u.ptags }) ∧
    (pe < 4 → port < 4 → portUp s pe port = true → src < 192 → (∀ p ∈ s.posted, p.at_ ≠ s.stamp) → Answers (.pcieLinkDown pe port [(src, a)]) s (fun u =>
      portUp u pe port = false ∧ ObjSet 0xC010 k dropped s u ∧ mGet false u.loss ((352 + pe) * 1024 + src) = true ∧
      Reports (352 + pe) 0x0603 2 (enclOfCore s src) src 0 s u ∧ u = { s with objs := u.objs, loss := u.loss, ras := u.ras, raised := u.raised })) ∧
    (pe < 4 → awake → bs ≠ [] → touchesMsi va.toNat bs.length = false → mv = .mem e pa → (∀ j, j < bs.length → Keyed s (pa + j)) →
      Answers (.inboundDmaWrite pe rid false va bs) s (fun u =>
        (∀ j, j < bs.length → memByte u (pa + j) = bs.getD j 0) ∧ u.objs = s.objs ∧ u.ras = s.ras ∧ u.out = s.out)) ∧
    (pe < 4 → awake → bs ≠ [] → touchesMsi va.toNat bs.length = false → mv = .unknown → Answers (.inboundDmaWrite pe rid ep va bs) s (fun u =>
      Reports (352 + pe) 0x0604 2 0xFF 0x10 0 s u ∧ MemKept s u)) ∧
    (pe < 4 → awake → 0 < len → target false len = .mem e pa → (∀ w ∈ wordsOf pa len, memTag (dmaResolve pe rid va len false s).2 w = .data) →
      Answers (.inboundDmaRead pe rid tag va len) s (fun u =>
        u.out = s.out ++ [.cpl pe rid tag 0 false (memBytes (dmaResolve pe rid va len false s).2 pa len)] ∧ u.ras = s.ras ∧ u.objs = s.objs)) ∧
    (pe < 4 → awake → 0 < len → target false len = .mem e pa → (∃ w ∈ wordsOf pa len, memTag (dmaResolve pe rid va len false s).2 w = .hndl) →
      Answers (.inboundDmaRead pe rid tag va len) s (fun u => u.out = s.out ++ [.cpl pe rid tag 4 false []] ∧ u.ras = s.ras)) ∧
    (pe < 4 → awake → 0 < len → target false len = .unknown → Answers (.inboundDmaRead pe rid tag va len) s (fun u =>
      u.out = s.out ++ [.cpl pe rid tag 1 false []] ∧ Reports (352 + pe) 0x0604 2 0xFF 0x10 0 s u ∧ MemKept s u)) ∧
    (pe < 4 → awake → target true 8 = .mem e pa → pa % 8 = 0 → Keyed s pa → memTag (dmaResolve pe rid va 8 true s).2 pa = .data →
      Answers (.inboundAtomicop pe rid tag 1 8 va opnd expd) s (fun u =>
        u.out = s.out ++ [.cpl pe rid tag 0 false (leBytes 8 (memNat (dmaResolve pe rid va 8 true s).2 pa 8))] ∧
        BitVec.ofNat 64 (memNat u pa 8) = BitVec.ofNat 64 (memNat (dmaResolve pe rid va 8 true s).2 pa 8) + opnd ∧ u.objs = s.objs ∧ u.ras = s.ras)) ∧
    (pe < 4 → awake → len ≠ 4 → len ≠ 8 → Answers (.inboundAtomicop pe rid tag 1 len va opnd expd) s (fun u =>
      u = { s with out := s.out ++ [.cpl pe rid tag 1 false []] })) ∧
    (pe < 4 → awake → requesterOf s pe rid = some (e, i) → e < 16 → v < 1024 → Answers (.msi pe rid v) s (fun u =>
      flag (mGet 0 u.src (e * 1024 + v)) 62 = true ∧ (∀ j, j ≠ e * 1024 + v → mGet 0 u.src j = mGet 0 s.src j) ∧ u = { s with src := u.src })) ∧
    (pe < 4 → awake → requesterOf s pe rid = none → Answers (.msi pe rid v) s (fun u => Reports (352 + pe) 0x0604 2 0xFF 0x10 0 s u ∧ u = { s with ras := u.ras })) ∧
    (pe < 4 → port < 4 → Answers (.aerErrorMessage pe port ep) s (fun u =>
      ObjSet 0xC010 k (setFld (obj s 0xC010 k) (if ep then 11 else 10) (if ep then 11 else 10) 1) s u ∧
      u = { s with objs := u.objs, raised := u.raised })) ∧
    (pe < 4 → objN s 0x2030 1 = 4 → s.pwr.entered = none → requesterOf s pe rid = none → Answers (.msi pe rid v) s (fun u => obj u 0x2030 1 = 0))

/-- Performance monitoring (20 R532 to R539): a counter that wraps, the end of a bandwidth window, and the records of a snapshot. -/
def Obligations.PerformanceCommands : Prop :=
  ∀ (s : State) (n k e r idx sub j : Nat),
    let c := coreOf s n
    let w := sysReg c (0x450 + k)
    let snap := snapOf s e
    let p := s.stamp / 2 ^ fld snap 57 52
    let pa := fld snap 51 12 * 4096 + p % 2 ^ fld snap 3 0 * 128 * (coresOf s e).length + 128 * r
    (n < 192 → k < 8 → c.run = .running → c.halted = false → flag w 11 = true → flag w 12 = false → flag w (match c.level with | .u => 8 | .s => 9 | .m => 10) = true →
      (k % 2 = 0 → flag (sysReg c (0x450 + (k + 1))) 12 = false) → Answers (.counterOverflow n k) s (fun u =>
        let d := coreOf u n
        sysReg d (0x448 + k) = 0 ∧ flag (sysReg d 0x461) k = true ∧
        mGet false u.localPend (2 * n + 1) = (mGet false s.localPend (2 * n + 1) || flag w 13) ∧
        (∀ q, gpr d q = gpr c q) ∧ d.pc = c.pc ∧ (∀ m, m ≠ n → coreOf u m = coreOf s m) ∧ u = { s with cores := u.cores, localPend := u.localPend })) ∧
    (n < 192 → k < 8 → flag w 11 = false ∨ c.run ≠ .running ∨ c.halted = true → exec (.counterOverflow n k) s = .next s) ∧
    (s.stamp % 2 ^ s.bwWindow = 0 → mSortedFrom 0 s.bw = true → (∀ x ∈ s.bw, isBwIndex (x.1 / 256) = true) → sub < 256 →
      Answers .bandwidthWindowEnd s (fun u =>
        (0x9100 ≤ idx → idx < 0x9200 → obj u idx sub = BitVec.ofNat 64 (mGet 0 s.bw (okey idx sub) % 2 ^ 32)) ∧
        (0x9200 ≤ idx → idx < 0x9500 → obj u idx sub = BitVec.ofNat 64 (mGet 0 s.bw (okey idx sub))) ∧
        (isBwIndex idx = false → obj u idx sub = obj s idx sub) ∧ u.bw = [] ∧
        u.bwWindow = (if 10 ≤ objN s 0x9000 1 ∧ objN s 0x9000 1 ≤ 34 then objN s 0x9000 1 else s.bwWindow) ∧
        u = { s with objs := u.objs, bw := u.bw, bwWindow := u.bwWindow })) ∧
    (s.stamp % 2 ^ s.bwWindow ≠ 0 → exec .bandwidthWindowEnd s = .next s) ∧
    (s.stamp % 2 ^ fld snap 57 52 = 0 → mFind s.pmuSnapNext e = none → flag snap 63 = true → (coresOf s e)[r]? = some n →
      placeOf s e pa = .mem → placeOf s e (pa + 127) = .mem → (∀ i, i < 128 → Keyed s (pa + i)) → j < 128 → Answers (.snapshotLatch e) s (fun u =>
        memByte u (pa + j) = (snapRecord s n p).getD j 0 ∧ u.objs = s.objs ∧ u.cores = s.cores ∧ u.pmuSnap = s.pmuSnap)) ∧
    (s.stamp % 2 ^ fld snap 57 52 ≠ 0 → exec (.snapshotLatch e) s = .next s)

/-! ## Events inside cores, engines and routers (03, 06, 07, 09, 10) -/

/-- Events of a core's memory pipeline and of the answers it waits for (06 R148 to R156, 09 R225 to R228, 03 R71). -/
def Obligations.CoreEvents : Prop :=
  ∀ (s : State) (h : Hart) (n line pe port src addr : Nat) (pc a : Word) (l : NtLine) (rest : List NtLine) (dst : LoadDst) (d unit pa tx : Nat)
    (q : RspFlit) (f : DatFlit) (w1 w2 : List WinEntry) (e : WinEntry) (x : Shadow) (y : Nat × Nat × Nat),
    let c := coreOf s n
    let t := tileOf s n
    let others (u : State) : Prop := ∀ j, j ≠ n → coreOf u j = coreOf s j
    let late (u : State) : Prop := Reports t 0x0602 0 (enclOfCore s n) f.src 0 s u ∧ Took (.dat 7 f) [] s u ∧ u.cores = s.cores
    (canRun (.core n) s = true → c.win = w1 ++ e :: w2 → e.early ≠ none → (∀ v ∈ w1, v.pc ≠ e.pc) →
      Answers (.storeAddressReexec (.core n) e.pc) s (fun u => (coreOf u n).win = w1 ++ [{ e with early := none }] ∧
        (coreOf u n).loadWait.contains (predIdx c 8 e.pc [] % 1024) = true ∧ (∀ v ∈ c.loadWait, v ∈ (coreOf u n).loadWait) ∧
        Kept (.core n) {} s u ∧ MemKept s u)) ∧
    ((∀ v ∈ c.win, v.pc ≠ pc) → exec (.storeAddressReexec (.core n) pc) s = .next s) ∧
    Answers (.loadWaitClear n) s (fun u => coreOf u n = { c with loadWait := [] } ∧ others u ∧ u = { s with cores := u.cores }) ∧
    ((cpuOf s h).nt = l :: rest → l.leaving = false → lineQuiet s l.line = true → asking s (unitOf s h) l.line = false →
      mSortedFrom 0 l.bytes = true → (∀ v ∈ l.bytes, v.1 < 64) → Keyed s (64 * l.line) →
      Answers (.ntLineLeave h) s (fun u => (cpuOf u h).nt = (l :: rest).filter (fun v => decide (v.line ≠ l.line)) ∧
        (∀ v ∈ l.bytes, memByte u (64 * l.line + v.1) = v.2) ∧
        (∀ b, b / 64 ≠ l.line ∨ mFind l.bytes (b % 64) = none → memByte u b = memByte s b) ∧ u.objs = s.objs)) ∧
    ((cpuOf s h).nt = l :: rest → l.leaving = false → lineQuiet s l.line = false → Answers (.ntLineLeave h) s (fun u =>
      (cpuOf u h).nt.map (·.bytes) = (l :: rest).map (·.bytes) ∧ MemKept s u)) ∧
    (n < 192 → t < 216 → coreGate s t ≠ 2 → (tileAt s t).shadow = [x] → x.line = line → x.dead = false → x.fromL2 = false → x.tracked = none →
      MayAsk n line s → Answers (.safePointReached n line) s (fun u => ∃ r, msgs u = msgs s ++ [.req 0 r] ∧ r.src = t ∧ r.addr = line ∧
        (tileAt u t).shadow = [{ x with asked := true }] ∧ u.cores = s.cores ∧ MemKept s u)) ∧
    (n < 192 → canRun (.core n) s = true → c.mcheck = [] → c.iobar = some a → excTarget c { code := 0x0E, tval := a } = .m →
      flag (sysReg c 0xC00) 7 = false → Answers (.asyncEventTaken n) s (fun u =>
        Entered .m 0x0E (causeWord { code := 0x0E, tval := a }) a c.pc c (coreOf u n) ∧ (coreOf u n).iobar = none ∧ (coreOf u n).win = [] ∧ others u)) ∧
    (n < 192 → canRun (.core n) s = true → pendingEvent c = none → exec (.asyncEventTaken n) s = .next s) ∧
    (c.wait = .devLoad pa unit d tx dst → dst.size = 8 → d ≤ s.stamp → s.ptags = [] → c.ended = [] → Answers (.deviceLoadTimeout (.core n)) s (fun u =>
      (dst.rd ≠ 0 → gpr (coreOf u n) dst.rd = ⟨0, .pois⟩) ∧ (coreOf u n).wait = .none ∧ (noLoopEnd c → (coreOf u n).pc = c.pc + 4) ∧
      Reports t 0x0601 2 (enclOfCore s n) unit 0 s u ∧ others u ∧ MemKept s u)) ∧
    (c.wait = .devLoad pa unit d tx dst → dst.size ≠ 8 → d ≤ s.stamp → s.ptags = [] → c.ended = [] → flag (sysReg c 0xC00) 7 = false →
      excTarget c { code := 0x0D, tag := 7, tval := dst.va } = .m → Answers (.deviceLoadTimeout (.core n)) s (fun u =>
        Entered .m 0x0D (causeWord { code := 0x0D, tag := 7, tval := dst.va }) dst.va c.pc c (coreOf u n) ∧ others u)) ∧
    (c.wait = .devLoad pa unit d tx dst → s.stamp < d → s.ptags = [] → c.ended = [] → exec (.deviceLoadTimeout (.core n)) s = .next s) ∧
    (c.wait = .none → c.ended = [(s.stamp, pa, unit)] → s.ptags = [] → Answers (.deviceLoadTimeout (.core n)) s (fun u =>
      Reports t 0x0601 2 (enclOfCore s n) unit 0 s u ∧ (u.ras.inbox.getLast?).map (·.superseded) = some true ∧
      coreOf u n = { c with ended := [] } ∧ others u ∧ u = { s with cores := u.cores, ras := u.ras })) ∧
    (pe < 4 → port < 4 → src < 192 → Answers (.postedWriteDrop pe port src addr) s (fun u =>
      Reports (352 + pe) 0x0603 2 (enclOfCore s src) src 0 s u ∧ mGet false u.loss ((352 + pe) * 1024 + src) = true ∧
      ObjSet 0xC010 (4 * pe + port) (setFld (obj s 0xC010 (4 * pe + port)) 31 16 (min 0xFFFF (fld (obj s 0xC010 (4 * pe + port)) 31 16 + 1))) s u ∧
      u = { s with ras := u.ras, loss := u.loss, objs := u.objs })) ∧
    (hartOf s q.dest = some (.core n) → overtakes (.rsp 0x06 q) s = false → c.devOut.find? (fun v => decide (v.1 = q.txid ∧ v.2.1 = q.src)) = some y →
      Answers (.accept q) s (fun u =>
        coreOf u n = { c with devSent := c.devSent - 1, devOut := c.devOut.erase y, devUnits := mIns c.devUnits q.src y.2.2 } ∧ others u ∧
        Took (.rsp 0x06 q) [] s u ∧ u = { s with cores := u.cores, net := u.net, bw := u.bw })) ∧
    (hartOf s f.dest = some (.core n) → overtakes (.dat 7 f) s = false → c.wait = .devLoad pa f.src d f.txid dst → Answers (.devdata f) s (fun u =>
      gpr (coreOf u n) dst.rd = (if dst.rd = 0 then ⟨0, .data⟩ else ⟨loadedVal dst (f.data.toNat >>> (8 * ctz f.be.toNat 0 32)), .data⟩) ∧
      (coreOf u n).wait = .none ∧ (noLoopEnd c → (coreOf u n).pc = c.pc + 4) ∧
      (coreOf u n).ended = c.ended ++ (if d = s.stamp then [(s.stamp, pa, f.src)] else []) ∧ others u ∧ Took (.dat 7 f) [] s u ∧ MemKept s u)) ∧
    (hartOf s f.dest = some (.core n) → overtakes (.dat 7 f) s = false → c.wait = .none → Answers (.devdata f) s late) ∧
    (hartOf s f.dest = some (.core n) → overtakes (.dat 7 f) s = false → c.wait = .devLoad pa unit d tx dst → unit ≠ f.src ∨ tx ≠ f.txid →
      Answers (.devdata f) s late)

/-- Shootdowns, engines and I/O translation caches (03 R77, 07 R186 to R191), and the route epochs of the mesh (10 R265 to R267). -/
def Obligations.EngineAndRouteEvents : Prop :=
  ∀ (s : State) (n k t e p v at_ : Nat) (code : BitVec 8) (ts : List TlbTarget) (form asid stream : Nat) (va : Word) (store : Bool),
    let c := coreOf s n
    let m := s.mesh
    (prvRuns s n = true → engineClass code.toNat = true → Answers (.engineException n code) s (fun u =>
      (prvOf u n).failed = true ∧ (prvOf u n).run = .gated ∧ (∀ j, j ≠ n → prvOf u j = prvOf s j) ∧
      (∃ a b, u.ras.inbox = s.ras.inbox ++ [a, b] ∧ a.unit = 272 + n ∧ a.cls = 0x0107 ∧ a.d0 = code.toNat ∧ a.d1 = (prvOf s n).pc.toNat ∧
        b.unit = 272 + n ∧ b.cls = 0x0501 ∧ b.d0 = 0) ∧
      ((∃ j, j ≠ n ∧ prvRuns s j = true) → u.journal = s.journal ∧ ∀ i, i < 64 → objN u 0x6200 i ≠ n) ∧ u.mem = s.mem ∧ u.cores = s.cores)) ∧
    (c.wait = .tlbi ts form va asid at_ → ts.contains (.core k) = true → ts.erase (.core k) ≠ [] → k ≠ n → (coreOf s k).sb = [] →
      Answers (.tlbiShootdown (.core k) n) s (fun u =>
        tlbEntries (coreOf u k) = (tlbEntries (coreOf s k)).filter (fun x => !(tlbiHits form va asid (curAsid c) x)) ∧
        (∀ q, gpr (coreOf u k) q = gpr (coreOf s k) q) ∧ coreOf u n = { c with wait := .tlbi (ts.erase (.core k)) form va asid at_ } ∧
        (∀ j, j ≠ n → j ≠ k → coreOf u j = coreOf s j) ∧ u.objs = s.objs ∧ MemKept s u)) ∧
    (c.wait = .tlbi [.pe k] form va asid at_ → Answers (.tlbiShootdown (.pe k) n) s (fun u =>
      (coreOf u n).wait = .none ∧ (noLoopEnd c → (coreOf u n).pc = c.pc + 4) ∧ (ioTlbOf u (352 + k)).ptrs.ways = [] ∧
      ∀ x ∈ (ioTlbOf u (352 + k)).ents.ways, ¬(64 + 32 * enclOfCore s n ≤ x.2.stream ∧ x.2.stream < 96 + 32 * enclOfCore s n ∧
        tlbiHits form va asid (curAsid c) x.2.e = true))) ∧
    (k < 192 → (coreOf s k).wait = .tlbi ts form va asid at_ → ts.contains (.prv n) = true → ts.erase (.prv n) ≠ [] → prvRuns s n = true →
      at_ + 12800 ≤ s.stamp →
      Answers (.ioTlbiAckTimeout n) s (fun u => (prvOf u n).failed = true ∧ (coreOf u k).wait = .tlbi (ts.erase (.prv n)) form va asid at_)) ∧
    ((∀ j ts form va asid a, j < 192 → (coreOf s j).wait = .tlbi ts form va asid a → s.stamp < a + 12800) →
      exec (.ioTlbiAckTimeout n) s = .next s) ∧
    (e < 16 → n < 64 → Answers (.ioTranslationWalk (.prv n) e va store) s (fun u =>
      u = (ioTranslate (272 + n) e e ⟨mGet 0 s.ioRoots e, (mGet 0 s.ioAsids e).toNat % 4096⟩ va store s).2 ∧
      (flag (mGet 0 s.ioRoots e) 2 = false → u = { s with iotlb := u.iotlb, ras := u.ras }) ∧ (∀ j, j ≠ 272 + n → ioTlbOf u j = ioTlbOf s j))) ∧
    (64 ≤ stream → stream < 576 → n < 4 → flag (mGet 0 s.sctl (stream - 64)) 63 = false → exec (.ioTranslationWalk (.pe n) stream va store) s = .next s) ∧
    (m.draining = false → m.switchAt = none → m.epoch = false → p < 216 → Answers (.routeTableWrite [(p, v)]) s (fun u =>
      mGet p u.mesh.table1 p = v ∧ (∀ j, j ≠ p → mGet j u.mesh.table1 j = mGet j m.table0 j) ∧
      u = { s with mesh := { m with table1 := u.mesh.table1, moves := if mGet p m.table0 p = v then [] else [p] } })) ∧
    (m.draining = true → m.heldTab = none → Answers (.routeTableWrite [(p, v)]) s (fun u =>
      u = { s with mesh := { m with heldTab := some [(p, v)] } })) ∧
    (m.switchAt = none → m.draining = false → s.stamp + 64 ≤ t → Answers (.routeSwitch t) s (fun u =>
      u = { s with mesh := { m with switchAt := some t } })) ∧
    (m.switchAt = none → t < s.stamp + 64 → exec (.routeSwitch t) s = .next s) ∧
    (m.switchAt = some k → k ≤ s.stamp → Answers (.routeSwitch t) s (fun u =>
      u = { s with slices := u.slices, mesh := { m with epoch := !m.epoch, switchAt := none, draining := true, latches := [], latchAt := s.stamp, moves := [] } } ∧
      (∀ j ∈ m.moves, (sliceAt u j).moving = true) ∧ ∀ j, j ∉ m.moves → sliceAt u j = sliceAt s j)) ∧
    (m.draining = true → m.latchAt + 256 ≤ s.stamp → m.heldTab = none → Answers .epochDrainLatch s (fun u =>
      u = { s with mesh := { m with latches := m.latches ++ [oldFlits s], latchAt := s.stamp, draining := decide (oldFlits s ≠ 0) } })) ∧
    (m.draining = true → m.latchAt + 256 ≤ s.stamp → oldFlits s = 0 → m.heldTab = some [(p, v)] → m.epoch = false → p < 216 →
      Answers .epochDrainLatch s (fun u => u.mesh.draining = false ∧ u.mesh.heldTab = none ∧ mGet p u.mesh.table1 p = v ∧
        ∀ j, j ≠ p → mGet j u.mesh.table1 j = mGet j m.table0 j)) ∧
    (s.stamp < m.latchAt + 256 → exec .epochDrainLatch s = .next s)

/-! ## Coherence on the mesh (10) -/

/-- Requests at a home (10 Tables 10.6, 10.8, R245, R247 to R262): where a request stays at the slice's input; Retry while the slices' domain
is closed or the position in transfer; the line's queue; and what a line that is not busy answers by its filter entry and its LLC sector, with
the eviction of another entry when the set is full. -/
def Obligations.CoherenceRequests : Prop :=
  ∀ (s : State) (q : ReqFlit) (o : Nat) (e v : SfEntry) (t : Txn) (f : Instr × HomeReq × Nat × Nat),
    let pos := slicePos q.addr
    let home := sliceTarget s pos % 512
    let hid := freeHtxid s pos
    let took (opc : Nat) (ms : List Msg) (u : State) : Prop := Took (.req opc q) ms s u
    let rsp (opc txid info : Nat) : Msg :=
      .rsp opc { dest := q.src, src := home, txid := txid, info := info, epoch := s.mesh.epoch, lstamp := s.stamp % 4096 }
    let snp (opc dest : Nat) : Msg := .snp opc { dest := dest, src := home, htxid := hid, addr := q.addr, epoch := s.mesh.epoch, lstamp := s.stamp % 4096 }
    let mc := 256 + chanOf (64 * q.addr)
    let lone (o : Nat) : SfEntry := ⟨q.addr, .x, some o, false, [], [], false⟩
    let only (u : State) (awaiting : List Nat) : Prop := ∃ t, (sliceAt u pos).txns = [t] ∧ t.line = q.addr ∧ t.q = q ∧ t.htxid = hid ∧ t.awaiting = awaiting
    let noted (opc : Nat) (u : State) : Prop := q.src < 356 → outstanding u q.src q.txid = some ⟨opc, q, none⟩
    let frame (u : State) : Prop := u = { s with net := u.net, bw := u.bw, mshr := u.mshr, slices := u.slices }
    let mine (opc : Nat) : Prop := ¬(356 ≤ q.dest ∧ q.dest < 360) ∧ mayRequest opc q.src = true ∧ turn opc q s = .take ∧ overtakes (.req opc q) s = false
    let retry : Prop := 4 ≤ objN s 0x2030 1 ∨ inTransfer s pos q = true
    let quiet (opc : Nat) : Prop := mine opc ∧ ¬retry ∧ (sliceAt s pos).txns = [] ∧ (sliceAt s pos).waitq = []
    let entry (r : HomeReq) : Prop := needsEntry r = true → entryFree s q.addr = true
    let all : List (Instr × HomeReq × Nat × Nat) := [(.rdshared q, .rdShared, 0x00, 0), (.rdunique q, .rdUnique, 0x01, 1), (.upgrade q, .upgrade, 0x02, 1),
      (.claimzero q, .claimZero, 0x03, 2), (.rdonce q, .rdOnce, 0x05, 6), (.cmoclean q, .cmoClean, 0x0B, 3), (.cmoinval q, .cmoInval, 0x0C, 2),
      (.cmoclinv q, .cmoClinv, 0x0D, 4), (.lockldRequest q, .lockLd, 0x0E, 6)]
    let datas : List (Instr × HomeReq × Nat × Nat) := [(.wrptl q, .wrPtl, 0x08, 0), (.wrline q, .wrLine, 0x09, 0), (.atomfar q, .atomFar, 0x0A, 0)]
    (f ∈ all ++ datas → ¬(356 ≤ q.dest ∧ q.dest < 360) → mayRequest f.2.2.1 q.src = false ∨ turn f.2.2.1 q s = .stay → exec f.1 s = .next s) ∧
    (f ∈ all ++ datas → mine f.2.2.1 → retry → Answers f.1 s (fun u => took f.2.2.1 [rsp 0x04 q.txid 0] u ∧ noted f.2.2.1 u ∧ u.slices = s.slices)) ∧
    (f ∈ all ++ datas → mine f.2.2.1 → ¬retry → lineBusy s q.addr = true → Answers f.1 s (fun u =>
      took f.2.2.1 [] u ∧ (∃ soon, (sliceAt u pos).waitq = (sliceAt s pos).waitq ++ [(f.2.1, q, soon)] ∧ (f.2.1 ≠ .atomFar → soon = false)) ∧
      (sliceAt u pos).txns = (sliceAt s pos).txns ∧ frame u)) ∧
    (f ∈ datas → quiet f.2.2.1 → sfFind s q.addr = none ∨ sfFind s q.addr = some (lone o) → Answers f.1 s (fun u =>
      took f.2.2.1 [rsp 0x03 q.txid 0] u ∧ only u [] ∧ (∀ t ∈ (sliceAt u pos).txns, t.needData = true) ∧ noted f.2.2.1 u ∧ frame u)) ∧
    (f ∈ all → quiet f.2.2.1 → sfFind s q.addr = some (lone o) → o < 216 → o ≠ q.src → Answers f.1 s (fun u =>
      took f.2.2.1 [snp f.2.2.2 o] u ∧ only u [o] ∧ sfFind u q.addr = some (lone o) ∧ noted f.2.2.1 u ∧ frame u)) ∧
    (quiet 0x02 → sfFind s q.addr = some ⟨q.addr, .o, some o, false, [q.src], [], false⟩ → o < 216 → o ≠ q.src → Answers (.upgrade q) s (fun u =>
      took 0x02 [snp 2 o] u ∧ only u [o] ∧ noted 0x02 u ∧ frame u)) ∧
    (f.1 ∈ [Instr.rdshared q, .rdunique q, .upgrade q, .rdonce q, .lockldRequest q] → f ∈ all → quiet f.2.2.1 → entry f.2.1 → sfFind s q.addr = none → llcValid s q.addr = false →
      Answers f.1 s (fun u => took f.2.2.1 [snp 8 mc] u ∧ only u [] ∧ (∀ t ∈ (sliceAt u pos).txns, t.memAsked = true) ∧
        sfFind u q.addr = (if needsEntry f.2.1 then some (emptyEntry q.addr) else none) ∧ frame u)) ∧
    (f ∈ all → needsEntry f.2.1 = true → quiet f.2.2.1 → sfFind s q.addr = none → entryFree s q.addr = false →
      mFind (setOf (sliceAt s pos).sf (sfSet q.addr)).ways (sfVictim s q.addr) = some v → v = ⟨v.line, .x, some o, false, [], [], false⟩ → lineBusy s v.line = false →
      Answers f.1 s (fun u => took f.2.2.1 [.snp 5 { dest := o, src := home, htxid := hid + 1, addr := v.line, epoch := s.mesh.epoch, lstamp := s.stamp % 4096 }] u ∧
        (∃ t b, (sliceAt u pos).txns = [t, b] ∧ t.line = q.addr ∧ t.needEntry = true ∧ b.line = v.line ∧ b.req = .backInval ∧ b.awaiting = [o]) ∧ frame u)) ∧
    (f.1 ∈ [Instr.rdshared q, .rdunique q, .upgrade q] → f ∈ all → quiet f.2.2.1 → entry f.2.1 → q.src < 216 → sfFind s q.addr = none → llcValid s q.addr = true →
      Answers f.1 s (fun u =>
        took f.2.2.1 (lineFlits 1 q.src home q.txid false (getLine s q.addr) s) u ∧ sfFind u q.addr = some (lone q.src) ∧ MemKept s u ∧
        ∃ t, (sliceAt u pos).txns = [t] ∧ t.needAck = true)) ∧
    (quiet 0x05 → sfFind s q.addr = none → llcValid s q.addr = true → Answers (.rdonce q) s (fun u =>
      took 0x05 (lineFlits 6 q.src home q.txid false (getLine s q.addr) s) u ∧ sfFind u q.addr = none ∧ (sliceAt u pos).txns = [] ∧ MemKept s u)) ∧
    (quiet 0x03 → entry .claimZero → q.src < 216 → sfFind s q.addr = none → Answers (.claimzero q) s (fun u =>
      took 0x03 [rsp 0x02 q.txid 3] u ∧ sfFind u q.addr = some (lone q.src) ∧ MemKept s u)) ∧
    (quiet f.2.2.1 → sfFind s q.addr = none → llcDirty s q.addr = false → f ∈ all → f.1 = .cmoclean q ∨ f.1 = .cmoclinv q → Answers f.1 s (fun u =>
      took f.2.2.1 [rsp 0x01 q.txid 0] u ∧ (sliceAt u pos).txns = [] ∧ MemKept s u)) ∧
    (quiet f.2.2.1 → sfFind s q.addr = none → llcDirty s q.addr = true → f ∈ all → f.1 = .cmoclean q ∨ f.1 = .cmoclinv q → Answers f.1 s (fun u =>
      took f.2.2.1 [snp 9 mc] u ∧ llcDirty u q.addr = false ∧ MemKept s u ∧ ∃ t, (sliceAt u pos).txns = [t] ∧ t.needComp = true ∧ t.compLast = true)) ∧
    (quiet 0x0C → sfFind s q.addr = none → llcLocked s q.addr = false ∨ llcDirty s q.addr = false → Answers (.cmoinval q) s (fun u =>
      took 0x0C [rsp 0x01 q.txid 0] u ∧ llcValid u q.addr = false ∧ (sliceAt u pos).txns = [])) ∧
    (quiet 0x0C → sfFind s q.addr = none → llcLocked s q.addr = true → llcDirty s q.addr = true → Answers (.cmoinval q) s (fun u =>
      took 0x0C [snp 9 mc] u ∧ ∃ t, (sliceAt u pos).txns = [t] ∧ t.needComp = true ∧ t.compLast = true)) ∧
    (mine 0x04 → ¬retry → lineBusy s q.addr = true ∨ sfFind s q.addr = some (lone o) → Answers (.rdnt q) s (fun u =>
      took 0x04 [rsp 0x05 q.txid 0] u ∧ u.slices = s.slices)) ∧
    (quiet 0x04 → sfFind s q.addr = none → llcValid s q.addr = true → Answers (.rdnt q) s (fun u =>
      took 0x04 (lineFlits 5 q.src home q.txid false (homeCopy s q.addr) s) u ∧ u.slices = s.slices ∧ u.mem = s.mem)) ∧
    (quiet 0x04 → sfFind s q.addr = none → llcValid s q.addr = false → Answers (.rdnt q) s (fun u => took 0x04 [snp 0xA mc] u ∧ only u [] ∧ u.mem = s.mem)) ∧
    (quiet 0x06 → q.src < 216 → (tileAt s q.src).wb = [] → sfFind s q.addr = some (lone q.src) → Answers (.wrback q) s (fun u =>
      took 0x06 [rsp 0x03 q.txid 0] u ∧ l2State u q.src q.addr = none ∧ (∃ w, (tileAt u q.src).wb = [w] ∧ w.line = q.addr ∧ w.txid = q.txid ∧ w.dirty = true) ∧
      MemKept s u ∧ ∃ t, (sliceAt u pos).txns = [t] ∧ t.absorbed = [(q.src, q.txid)])) ∧
    (quiet 0x07 → q.src < 216 → sfFind s q.addr = some (lone q.src) → Answers (.evictclean q) s (fun u =>
      took 0x07 [rsp 0x01 q.txid 0] u ∧ sfFind u q.addr = none ∧ llcValid u q.addr = true ∧ MemKept s u)) ∧
    (f.1 = .wrback q ∧ f.2.2.1 = 0x06 ∨ f.1 = .evictclean q ∧ f.2.2.1 = 0x07 → quiet f.2.2.1 → q.src < 216 → sfFind s q.addr = none → Answers f.1 s (fun u =>
      took f.2.2.1 [rsp 0x01 q.txid 1] u ∧ sfFind u q.addr = none ∧ MemKept s u)) ∧
    (mine 0x06 → ¬retry → q.src < 216 → sfFind s q.addr = some e → names s e q.src = true →
      (sliceAt s pos).txns.find? (fun t => decide (t.line = q.addr ∧ t.req ≠ .rdNt)) = some t → Answers (.wrback q) s (fun u =>
        took 0x06 [rsp 0x03 q.txid 0] u ∧ ∀ x ∈ (sliceAt u pos).txns, x.htxid = t.htxid → (q.src, q.txid) ∈ x.absorbed))

/-- What a cache answers a snoop, by the state of the line in its L2 or in a shadow entry (10 R257, R258, Table 10.10; 06 R157), and the state
it then has. A held atomic that owns the line goes first (10 R260); a closed gate answers RspI (16 R457). -/
def Obligations.SnoopAnswers : Prop :=
  ∀ (s : State) (q : SnpFlit) (w : WbEntry) (f : Instr × Nat × List (Option L2State × Sum Bool Nat × Option L2State))
    (a : Option L2State × Sum Bool Nat × Option L2State),
    let rsp (opc : Nat) : Msg := .rsp opc { dest := q.src, src := q.dest, txid := q.htxid, spr := decide (512 ≤ q.htxid), epoch := s.mesh.epoch, lstamp := s.stamp % 4096 }
    let pend : Option WbEntry := (tileAt s q.dest).wb.find? (fun w => decide (w.line = q.addr) && !w.comp)
    let dirty : Sum Bool Nat := .inl true
    let clean : Sum Bool Nat := .inl false
    let rspI : Sum Bool Nat := .inr 0x08
    let rspS : Sum Bool Nat := .inr 0x09
    let table : List (Instr × Nat × List (Option L2State × Sum Bool Nat × Option L2State)) :=
      [(.snpshared q, 0, [(some .m, dirty, some .o), (some .o, dirty, some .o), (some .e, clean, some .s), (some .s, rspS, some .s), (none, rspI, none)]),
       (.snpunique q, 1, [(some .m, dirty, none), (some .o, dirty, none), (some .e, clean, none), (some .s, rspI, none), (none, rspI, none)]),
       (.snpinval q, 2, [(some .m, rspI, none), (some .o, rspI, none), (some .e, rspI, none), (some .s, rspI, none), (none, rspI, none)]),
       (.snpclean q, 3, [(some .m, dirty, some .e), (some .o, dirty, some .s), (some .e, rspS, some .e), (some .s, rspS, some .s), (none, rspI, none)]),
       (.snpcleaninval q, 4, [(some .m, dirty, none), (some .o, dirty, none), (some .e, rspI, none), (some .s, rspI, none), (none, rspI, none)]),
       (.snpbackinval q, 5, [(some .m, dirty, none), (some .o, dirty, none), (some .e, rspI, none), (some .s, rspI, none), (none, rspI, none)]),
       (.snponce q, 6, [(some .m, dirty, some .m), (some .o, dirty, some .o), (some .e, clean, some .e), (some .s, rspS, some .s), (none, rspI, none)])]
    let held : Prop := f.2.1 ≠ 6 ∧ atomicFirst s q.dest q.addr = true
    f ∈ table → q.dest < 216 → overtakes (.snp f.2.1 q) s = false →
      (held → exec f.1 s = .next s) ∧
      (¬held → coreGate s q.dest = 2 → Answers f.1 s (fun u => Took (.snp f.2.1 q) [rsp 0x08] s u ∧ u.tiles = s.tiles ∧ u.mem = s.mem)) ∧
      (a ∈ f.2.2 → ¬held → coreGate s q.dest ≠ 2 → pend = none → s.mshr.any (fun m => decide (m.1 / 1024 = q.dest ∧ m.2.opc = 2 ∧ m.2.q.addr = q.addr)) = false →
        heldState s q.dest q.addr = a.1 → Answers f.1 s (fun u =>
          Took (.snp f.2.1 q) (match a.2.1 with
            | .inl d => lineFlits (if d then 9 else 8) q.src q.dest q.htxid (decide (512 ≤ q.htxid)) (getLine s q.addr) s
            | .inr opc => [rsp opc]) s u ∧
          heldState u q.dest q.addr = a.2.2 ∧ (∀ j, j ≠ q.dest → tileAt u j = tileAt s j) ∧ u.slices = s.slices ∧ MemKept s u)) ∧
      (¬held → coreGate s q.dest ≠ 2 → pend = some w → w.dirty = true → Answers f.1 s (fun u => Took (.snp f.2.1 q) [rsp 0x0B] s u ∧ MemKept s u ∧
        ∀ x ∈ (tileAt u q.dest).wb, x.line = q.addr → (q.src, q.htxid) ∈ x.snooped)) ∧
      (¬held → coreGate s q.dest ≠ 2 → pend = some w → w.dirty = false → Answers f.1 s (fun u => Took (.snp f.2.1 q) [rsp 0x0A] s u ∧ u.tiles = s.tiles ∧ u.mem = s.mem))

/-- Answers at a home (10 R250, R252, R257, R258): responses, snoop data, write-back data, write data, operands and memory's data. An Ack
from a unit whose messages come no more ends a write that still lacks its data (the model's choice, log 80). -/
def Obligations.HomeAnswers : Prop :=
  ∀ (s : State) (q : RspFlit) (f : DatFlit) (pos o : Nat) (t : Txn) (r : Instr × Nat × Bool),
    let sl := sliceAt s pos
    let home := sliceTarget s pos % 512
    let mineR (opc : Nat) : Prop := ¬(356 ≤ q.dest ∧ q.dest < 360) ∧ posOf s q.dest q.spr = some pos ∧ overtakes (.rsp opc q) s = false
    let mineD (opc : Nat) : Prop := ¬(356 ≤ f.dest ∧ f.dest < 360) ∧ posOf s f.dest f.spr = some pos ∧ overtakes (.dat opc f) s = false
    let ours : Prop := slicePos t.line = pos ∧ remoteLine s t.line = false ∧ ¬(356 ≤ f.src ∧ f.src < 360) ∧ f.tags ≠ 0x7777
    let alone : Prop := sl.txns = [t] ∧ sl.waitq = []
    let is (u : State) (t' : Txn) : Prop := (sliceAt u pos).txns = [t']
    let ended (u : State) : Prop := (sliceAt u pos).txns = []
    let frame (u : State) : Prop := u = { s with net := u.net, bw := u.bw, slices := u.slices }
    let rsp (opc dest txid info : Nat) : Msg := .rsp opc { dest := dest, src := home, txid := txid, info := info, epoch := s.mesh.epoch, lstamp := s.stamp % 4096 }
    let idle : Prop := t.fetched = [] ∧ t.absorbed = [] ∧ t.needEntry = false ∧ t.needAck = false ∧ t.needComp = false
    (mineR 0x00 → alone → t.needAck = true ∨ (silent s q.src = true ∧ t.needData = true) → t.q.src = q.src → t.q.txid = q.txid → Answers (.ack q) s (fun u =>
      Took (.rsp 0x00 q) [] s u ∧ ended u ∧ frame u)) ∧
    (r ∈ [(Instr.rspi q, 0x08, false), (.rsps q, 0x09, false), (.rspievict q, 0x0A, false)] → mineR r.2.1 → alone → t.htxid = q.txid → t.awaiting = [q.src, o] → Answers r.1 s (fun u =>
      Took (.rsp r.2.1 q) [] s u ∧ (∃ t', is u t' ∧ t'.awaiting = [o] ∧ t'.req = t.req ∧ t'.ownerData = t.ownerData ∧ t'.gotDirty = t.gotDirty) ∧ frame u)) ∧
    (mineR 0x0A → alone → t.htxid = q.txid → t.awaiting = [q.src, o] → slicePos t.line = pos → sfFind s t.line = some ⟨t.line, .x, some q.src, false, [], [], false⟩ →
      q.src < 216 → Answers (.rspievict q) s (fun u => sfFind u t.line = none)) ∧
    (mineR 0x0B → alone → t.htxid = q.txid → t.awaiting = [q.src] → t.absorbed = [] → t.gotDirty = false → Answers (.rspwbpend q) s (fun u =>
      Took (.rsp 0x0B q) [rsp 0x03 q.src q.txid 0] s u ∧ ∃ t', is u t' ∧ t'.awaiting = [] ∧ t'.fetched = t.fetched ++ [q.src])) ∧
    (mineR 0x0C → alone → t.htxid = q.txid → t.needComp = true → Answers (.memcomp q) s (fun u =>
      Took (.rsp 0x0C q) (if t.compLast then [rsp 0x01 t.q.src t.q.txid 0] else []) s u ∧ ended u ∧ frame u)) ∧
    (r ∈ [(Instr.snpdataclean f, 8, false), (.snpdatadirty f, 9, true)] → mineD r.2.1 → ours → alone → t.htxid = f.txid → t.awaiting = [f.src, o] →
      t.fetched = [] → t.stale = [] → f.half = true →
      Answers r.1 s (fun u => Took (.dat r.2.1 f) [] s u ∧ MemKept s u ∧ (r.2.2 = true → t.req ≠ .cmoClean → t.req ≠ .cmoClinv → llcDirty u t.line = true) ∧
        ∃ t', is u t' ∧ t'.awaiting = [o] ∧ t'.ownerData = true ∧ t'.gotDirty = (t.gotDirty || r.2.2))) ∧
    (r ∈ [(Instr.snpdataclean f, 8, false), (.snpdatadirty f, 9, true)] → mineD r.2.1 → f.half = false → Answers r.1 s (fun u =>
      Took (.dat r.2.1 f) [] s u ∧ u.slices = s.slices)) ∧
    (mineD 0xA → ours → alone → t.req = .wrBack → t.absorbed = [(f.src, f.txid)] → f.half = true → f.src < 216 → Answers (.wbdata f) s (fun u =>
      Took (.dat 0xA f) [rsp 0x01 f.src f.txid 0] s u ∧ ended u ∧ llcDirty u t.line = true ∧ MemKept s u)) ∧
    (mineD 0xB → ¬(256 ≤ f.dest ∧ f.dest < 272) → slicePos t.line = pos → alone → t.needData = true → t.q.src = f.src → t.q.txid = f.txid → t.req = .wrPtl → t.dats = [] →
      sfFind s t.line = some ⟨t.line, .x, some o, false, [], [], false⟩ → Answers (.wrdata f) s (fun u =>
        Took (.dat 0xB f) [.snp 1 { dest := o, src := home, htxid := t.htxid, addr := t.line, epoch := s.mesh.epoch, lstamp := s.stamp % 4096 }] s u ∧
        MemKept s u ∧ ∃ t', is u t' ∧ t'.dats = [f] ∧ t'.awaiting = [o] ∧ t'.needData = false)) ∧
    (mineD 0xC → slicePos t.line = pos → alone → t.needData = true → t.q.src = f.src → t.q.txid = f.txid → t.req = .atomFar → t.dats = [] → t.awaiting = [] → idle →
      t.ownerData = false → t.memHere = false → t.memAsked = false → sfFind s t.line = none → llcValid s t.line = false →
      Answers (.atomopnd f) s (fun u =>
        Took (.dat 0xC f) [.snp 8 { dest := 256 + chanOf (64 * t.line), src := home, htxid := t.htxid, addr := t.line, epoch := s.mesh.epoch, lstamp := s.stamp % 4096 }] s u ∧
        MemKept s u ∧ ∃ t', is u t' ∧ t'.dats = [f] ∧ t'.memAsked = true ∧ t'.needData = false)) ∧
    (mineD 0xF → ours → alone → t.htxid = f.txid → t.req = .rdOnce → t.memAsked = true → t.awaiting = [] → idle → t.needData = false → f.half = true →
      Answers (.memdata f) s (fun u =>
        Took (.dat 0xF f) (lineFlits 6 t.q.src home t.q.txid false (getLine s t.line) s) s u ∧ ended u ∧ u.mem = s.mem)) ∧
    (mineD 0xF → alone → t.htxid = f.txid → t.req = .rdNt → Answers (.memdata f) s (fun u =>
      Took (.dat 0xF f) [.dat 5 { f with dest := t.q.src, src := home, txid := t.q.txid, spr := false, epoch := s.mesh.epoch, wrap := false, lstamp := s.stamp % 4096 }] s u ∧
      (sliceAt u pos).txns = (if f.half then [] else [t]) ∧ u.mem = s.mem))

/-- What a requester receives (10 R243, R247, R251, R258, R261, R263; 06 R154 to R158; 04 R104): grants, data, completions, Retry and its
reissue 64 mesh cycles on. At a closed gate a grant is answered with Ack alone (16 R458), and a request of a write's data likewise (the
model's choice, log 80). -/
def Obligations.RequesterAnswers : Prop :=
  ∀ (s : State) (q : RspFlit) (f : DatFlit) (n src txid pa op : Nat) (d : Bool) (b x : GVal) (dst : LoadDst) (m : Mshr) (w : WbEntry) (t : Txn) (pos at_ : Nat)
    (mw : MemWrite) (h0 : DatFlit) (z : Shadow) (e : SbEntry) (rest : List SbEntry) (r : Instr × Nat × L2State),
    let c := coreOf s n
    let on (opc : Nat) : Prop := overtakes (.rsp opc q) s = false
    let onD (opc : Nat) : Prop := overtakes (.dat opc f) s = false
    let ours : Prop := remoteLine s m.q.addr = false ∧ ¬(356 ≤ f.src ∧ f.src < 360) ∧ f.tags ≠ 0x7777
    let ack (line src txid : Nat) : Msg :=
      let g := homeTarget s line
      .rsp 0x00 { dest := g % 512, src := src, txid := txid, spr := decide (512 ≤ g), epoch := s.mesh.epoch, lstamp := s.stamp % 4096 }
    let here (unit : Nat) : Prop := unit < 216 ∧ hartOf s unit = some (.core n)
    let plain (unit line : Nat) : Prop := here unit ∧ cacheEn s (.core n) = true ∧ coreGate s unit ≠ 2 ∧ (tileAt s unit).shadow = [] ∧ c.sb = [] ∧ l2Room s unit line = true
    let frame (u : State) : Prop := u = { s with net := u.net, bw := u.bw, mshr := u.mshr }
    (on 0x02 → plain q.dest m.q.addr → outstanding s q.dest q.txid = some m → Answers (.grant q) s (fun u =>
      Took (.rsp 0x02 q) [ack m.q.addr q.dest q.txid] s u ∧ heldState u q.dest m.q.addr = some (if q.info % 4 = 3 then .m else .e) ∧
      outstanding u q.dest q.txid = none ∧ u.cores = s.cores ∧ MemKept s u)) ∧
    (on 0x02 → here q.dest → coreGate s q.dest = 2 → outstanding s q.dest q.txid = some m → Answers (.grant q) s (fun u =>
      Took (.rsp 0x02 q) [ack m.q.addr q.dest q.txid] s u ∧ outstanding u q.dest q.txid = none ∧ frame u)) ∧
    (r ∈ [(Instr.datas f, 0, .s), (.datae f, 1, .e), (.datam f, 2, .m), (.dataec f, 3, .e), (.datamc f, 4, .m)] → onD r.2.1 → plain f.dest m.q.addr → ours →
      outstanding s f.dest f.txid = some m →
      (f.half = true → Answers r.1 s (fun u => Took (.dat r.2.1 f) [ack m.q.addr f.dest f.txid] s u ∧ heldState u f.dest m.q.addr = some r.2.2 ∧
        outstanding u f.dest f.txid = none ∧ u.cores = s.cores ∧ MemKept s u)) ∧
      (f.half = false → Answers r.1 s (fun u => Took (.dat r.2.1 f) [] s u ∧ frame u ∧ u.mshr = s.mshr))) ∧
    (onD 6 → f.dest < 216 → f.half = true → ours → outstanding s f.dest f.txid = some m → Answers (.dataonce f) s (fun u => Took (.dat 6 f) [] s u ∧
      outstanding u f.dest f.txid = none ∧ frame u)) ∧
    (onD 6 → hartOf s f.dest = some (.prv n) → f.half = true → outstanding s f.dest f.txid = some m → ¬(356 ≤ f.dest ∧ f.dest < 360) →
      Answers (.dataonce f) s (fun u => Took (.dat 6 f) [] s u ∧ outstanding u f.dest f.txid = none ∧ shadowReady u f.dest m.q.addr = true ∧ u.prv = s.prv)) ∧
    (onD 5 → f.dest < 216 → (tileAt s f.dest).shadow = [z] → z.line = m.q.addr → outstanding s f.dest f.txid = some m → Answers (.datant f) s (fun u =>
      Took (.dat 5 f) [] s u ∧ u.mem = s.mem ∧ u.cores = s.cores ∧ (f.half = true → outstanding u f.dest f.txid = none) ∧
      (z.dead = true → f.half = true → (tileAt u f.dest).shadow = []) ∧
      (z.dead = false → ∃ z', (tileAt u f.dest).shadow = [z'] ∧ z'.line = z.line ∧ z'.filled = f.half ∧
        fld z'.data (if f.half then 511 else 255) (if f.half then 256 else 0) = f.data.toNat))) ∧
    (on 0x01 → q.dest < 216 → (tileAt s q.dest).wb = [w] → w.txid = q.txid → w.snooped = [] → outstanding s q.dest q.txid = some m → m.opc = 6 ∨ m.opc = 7 →
      Answers (.comp q) s (fun u =>
        Took (.rsp 0x01 q) [] s u ∧ outstanding u q.dest q.txid = none ∧ (tileAt u q.dest).wb = [] ∧ u.mem = s.mem ∧ u.cores = s.cores)) ∧
    (on 0x01 → here q.dest → outstanding s q.dest q.txid = some m → m.opc = 8 ∨ m.opc = 9 → c.nt = [] → c.sb = e :: rest → lineOf e.pa = m.q.addr →
      e.dev = false → e.nt = false → Answers (.comp q) s (fun u =>
        Took (.rsp 0x01 q) [] s u ∧ outstanding u q.dest q.txid = none ∧ (coreOf u n).sb = rest ∧ (coreOf u n).pc = c.pc ∧ u.mem = s.mem)) ∧
    (on 0x03 → q.dest < 216 → coreGate s q.dest ≠ 2 → ¬(256 ≤ q.src ∧ q.src < 272) → (tileAt s q.dest).wb = [w] → w.txid = q.txid → w.snooped = [] →
      outstanding s q.dest q.txid = some m → Answers (.dbgo q) s (fun u =>
        Took (.rsp 0x03 q) (lineFlits 0xA q.src q.dest q.txid (decide (512 ≤ homeTarget s m.q.addr)) (getLine s w.line) s) s u ∧
        (tileAt u q.dest).wb = [{ w with sent := true }] ∧ u.mem = s.mem)) ∧
    (on 0x03 → q.dest < 216 → coreGate s q.dest ≠ 2 → ¬(256 ≤ q.src ∧ q.src < 272) → (tileAt s q.dest).wb = [w] → w.snooped = [(q.src, q.txid)] → w.comp = true →
      Answers (.dbgo q) s (fun u =>
        Took (.rsp 0x03 q) (lineFlits 9 q.src q.dest q.txid (decide (512 ≤ q.txid)) (getLine s w.line) s) s u ∧ (tileAt u q.dest).wb = [] ∧ u.mem = s.mem)) ∧
    (on 0x03 → here q.dest → coreGate s q.dest ≠ 2 → ¬(256 ≤ q.src ∧ q.src < 272) → (tileAt s q.dest).wb = [] → outstanding s q.dest q.txid = some m → m.opc = 8 ∨ m.opc = 9 →
      c.nt = [] → c.sb = e :: rest → lineOf e.pa = m.q.addr → e.dev = false → e.nt = false → e.dcz = false → e.bytes.length = 8 → e.pa % 64 = 0 → Answers (.dbgo q) s (fun u =>
        (∃ g g' : DatFlit, Took (.rsp 0x03 q) [.dat 0xB g, .dat 0xB g'] s u ∧ g.half = false ∧ g'.half = true ∧ g.dest = q.src ∧ g.txid = q.txid ∧
          g.be = 0xFF ∧ g'.be = 0 ∧ fld g.data 63 0 = leNat e.bytes) ∧ u.cores = s.cores ∧ u.mem = s.mem)) ∧
    (on 0x03 → here q.dest → coreGate s q.dest ≠ 2 → ¬(256 ≤ q.src ∧ q.src < 272) → (tileAt s q.dest).wb = [] → outstanding s q.dest q.txid = some m → m.opc = 0x0A →
      c.wait = .farAtomic pa op d b x dst → Answers (.dbgo q) s (fun u => ∃ g : DatFlit, Took (.rsp 0x03 q) [.dat 0xC g] s u ∧ g.dest = q.src ∧ g.txid = q.txid ∧
        fld g.data 63 0 = b.v.toNat ∧ fld g.data 127 64 = x.v.toNat ∧ fld g.tags 3 0 = tagCode b.t ∧ fld g.tags 7 4 = tagCode x.t ∧ u.cores = s.cores)) ∧
    (on 0x03 → q.dest < 216 → coreGate s q.dest = 2 → q.src < 256 → owedBy s q.dest = [(q.txid, pa)] → Answers (.dbgo q) s (fun u =>
      Took (.rsp 0x03 q) [ack pa q.dest q.txid] s u ∧ frame u)) ∧
    (on 0x03 → 256 ≤ q.src → q.src < 272 → ¬(356 ≤ q.dest ∧ q.dest < 360) → posOf s q.dest q.spr = some pos → (sliceAt s pos).txns = [t] → t.htxid = q.txid → t.req = .cmoClean →
      Answers (.dbgo q) s (fun u => Took (.rsp 0x03 q) (lineFlits 0xB q.src (sliceTarget s pos % 512) q.txid false (getLine s t.line) s) s u ∧ u.slices = s.slices)) ∧
    (on 0x04 → q.dest < 216 → outstanding s q.dest q.txid = some m → Answers (.retry q) s (fun u =>
      Took (.rsp 0x04 q) [] s u ∧ outstanding u q.dest q.txid = some { m with retried := some s.stamp } ∧ u.tiles = s.tiles ∧ u.slices = s.slices ∧ u.mem = s.mem)) ∧
    (outstanding s src txid = some m → m.retried = some at_ → m.q.src = src → m.q.txid = txid →
      (s.stamp < at_ + 48 → exec (.requestReissue src txid) s = .next s) ∧
      (at_ + 48 ≤ s.stamp → gateDiscards s src m.opc = true → Answers (.requestReissue src txid) s (fun u => outstanding u src txid = none ∧ u.net = s.net)) ∧
      (at_ + 48 ≤ s.stamp → gateDiscards s src m.opc = false → Answers (.requestReissue src txid) s (fun u =>
        ∃ q', msgs u = msgs s ++ [.req m.opc q'] ∧ q'.retry = true ∧ q'.addr = m.q.addr ∧ q'.src = src ∧ q'.txid = txid ∧ q'.epoch = s.mesh.epoch ∧
          q'.wrap = false ∧ q'.lstamp = s.stamp % 4096 ∧ q'.dest = homeTarget s m.q.addr % 512 ∧
          outstanding u src txid = some ⟨m.opc, q', none⟩ ∧ u = { s with net := u.net, mshr := u.mshr }))) ∧
    (outstanding s src txid = some m → m.retried = none → exec (.requestReissue src txid) s = .next s) ∧
    (on 0x05 → q.dest < 216 → outstanding s q.dest q.txid = some m → Answers (.refuse q) s (fun u => Took (.rsp 0x05 q) [] s u ∧ outstanding u q.dest q.txid = none ∧
      (tileAt u q.dest).shadow = (tileAt s q.dest).shadow.filter (fun z => !(decide (z.line = m.q.addr) && z.dead)) ∧
      u = { s with net := u.net, bw := u.bw, mshr := u.mshr, tiles := u.tiles })) ∧
    (onD 0xB → s.dram.writes = [mw] → mw.mc = f.dest → mw.htxid = f.txid → mw.src = f.src → 256 ≤ f.dest → f.dest < 272 → mw.half0 = some h0 → f.half = true → h0.half = false →
      f.be = BitVec.allOnes 32 → h0.be = BitVec.allOnes 32 → mFind s.mem.under3 mw.line = none → mFind s.mem.under2 mw.line = none → Keyed s (64 * mw.line) →
      Answers (.wrdata f) s (fun u => (∃ g : RspFlit, Took (.dat 0xB f) [.rsp 0x0C g] s u ∧ g.dest = mw.src ∧ g.txid = mw.htxid) ∧ u.dram.writes = [] ∧
        (getLine u mw.line).data.toNat = f.data.toNat * 2 ^ 256 + h0.data.toNat ∧ (∀ a, a / 64 ≠ mw.line → memByte u a = memByte s a))) ∧
    (r.1 = .atomresult f ∧ r.2.1 = 0xD ∨ r.1 = .atomresultc f ∧ r.2.1 = 0xE → onD r.2.1 → here f.dest →
      outstanding s f.dest f.txid = some m → m.q.len = 7 → m.q.off % 8 = 0 → m.q.off < 64 →
      c.wait = .farAtomic pa 0 true b x dst → dst.size = 8 → dst.sext = false → tagOfCode (fld f.tags (m.q.off % 32 / 8 * 4 + 3) (m.q.off % 32 / 8 * 4)) = .data → Answers r.1 s (fun u =>
        gpr (coreOf u n) dst.rd = (if dst.rd = 0 then ⟨0, .data⟩ else ⟨BitVec.ofNat 64 (fld f.data (8 * (m.q.off % 32) + 63) (8 * (m.q.off % 32))), .data⟩) ∧
        (coreOf u n).wait = .none ∧ (noLoopEnd c → (coreOf u n).pc = c.pc + 4) ∧ outstanding u f.dest f.txid = none ∧ Took (.dat r.2.1 f) [] s u))

/-! ## Laurel and Holly (15) -/

/-- The AES operations (15 Table 15.10, R418): the output stands at DST and the tag at AUX, or GCM_DEC finds the tag wrong. What AES
computes is a function the spec does not restate (log 8). -/
def Obligations.HollyCiphers : Prop :=
  ∀ (n slot : Nat) (j : Job) (k : HKey) (bs : List (List Byte)) (s : State) (f : Instr × Nat × String × (Nat → Bool) × Nat × Bool × Bool),
    let len := dfld j.d 0x18 4
    let gcm := f.2.2.2.2.2.1
    let decr := f.2.2.2.2.2.2
    let srcs := hSrc j :: (if gcm then hAad j :: (if decr then [hAux j 16] else []) else [])
    let dsts := hDst j len :: (if gcm ∧ ¬ decr then [hAux j 16] else [])
    let out := stdN f.2.2.1 (leBytes 1 (if decr then 1 else 0) :: k.key :: hIv j :: bs) len
    let good := stdN "AES-GCM tag" (k.key :: hIv j :: bs.take 2) 16 = bs.getD 2 []
    f ∈ [(Instr.gcmEnc n, 0x01, "AES-GCM", isGcm, 0x80, true, false), (.gcmDec n, 0x02, "AES-GCM", isGcm, 0x40, true, true),
      (.xtsEnc n, 0x03, "AES-XTS", isXts, 0x80, false, false), (.xtsDec n, 0x04, "AES-XTS", isXts, 0x40, false, true), (.ctr n, 0x05, "AES-CTR", isGcm, 0x80, false, false)] →
    n < 8 → j.unit = 344 + n → dfld j.d 0 1 = f.2.1 → LoneJob j s →
      (holBad j true false = false → hAlg j = 0 → (gcm = true → leNat ((hIv j).drop 12) = 0) → (f.2.2.1 = "AES-XTS" → 16 ≤ len) →
        spansBad j srcs dsts len (if gcm then 16 else 0) = false → keyAt s j 8 f.2.2.2.1 f.2.2.2.2.1 = .ok (slot, k) →
        readSpans j srcs s = (.ok bs, s) → (∀ p ∈ dsts, Writable j s p) → overlap (hDst j len) (hAux j 16) = false → Answers f.1 s (fun u =>
          ((gcm && decr) = false → EndsJob j 0x00 s u ∧ Holds (hDst j len).1 out u) ∧
          (gcm = true → decr = false → Holds (hAux j 16).1 (stdN "AES-GCM tag" (k.key :: hIv j :: out :: bs.drop 1) 16) u) ∧
          ((gcm && decr) = true → good → EndsJob j 0x00 s u ∧ Holds (hDst j len).1 out u) ∧ ((gcm && decr) = true → ¬ good → EndsJob j 0x0D s u))) ∧
      (holBad j true false = false → hAlg j ≠ 0 → Answers f.1 s (fun u => EndsJob j 0x0A s u ∧ u.accel.keys = s.accel.keys)) ∧
      (holBad j true false = false → hAlg j = 0 → (gcm = true → leNat ((hIv j).drop 12) = 0) → (f.2.2.1 = "AES-XTS" → 16 ≤ len) →
        spansBad j srcs dsts len (if gcm then 16 else 0) = false → isHndl j 8 = false → Answers f.1 s (fun u => EndsJob j 0x0B s u ∧ u.accel.keys = s.accel.keys))

/-- Digests, tags, signatures, public keys and random octets (15 Table 15.10, R418, R429): where each result stands and how it ends. -/
def Obligations.HollyResults : Prop :=
  ∀ (n slot : Nat) (j : Job) (k : HKey) (bs : List (List Byte)) (s : State),
    let at_ (op : Nat) : Prop := n < 8 ∧ j.unit = 344 + n ∧ dfld j.d 0 1 = op ∧ LoneJob j s
    let a := hAlg j
    let pre := (dfld j.d 2 2).testBit 1
    let source : Prop := flag (obj s 0x8300 1) 0 = false
    (at_ 0x08 → holBad j false false = false → 0x50 ≤ a → digestLen a ≠ 0 → spansBad j [hSrc j] [hDst j (digestLen a)] (digestLen a) 0 = false →
      readSpans j [hSrc j] s = (.ok bs, s) → Writable j s (hDst j (digestLen a)) → Answers (.hash n) s (fun u =>
        EndsJob j 0x00 s u ∧ Holds (hDst j 0).1 (stdN "digest" (leBytes 1 a :: bs) (digestLen a)) u)) ∧
    (at_ 0x09 → holBad j true false = false → a = 0 → keyAt s j 8 isHmac 0x20 = .ok (slot, k) → spansBad j [hSrc j] [hDst j (digestLen k.alg)] (digestLen k.alg) 0 = false →
      readSpans j [hSrc j] s = (.ok bs, s) → Writable j s (hDst j (digestLen k.alg)) → Answers (.hmac n) s (fun u =>
        EndsJob j 0x00 s u ∧ Holds (hDst j 0).1 (stdN "HMAC" (leBytes 1 k.alg :: k.key :: bs) (digestLen k.alg)) u)) ∧
    (at_ 0x0A → holBad j true false = false → a = 0 → keyAt s j 8 isHmac 0x10 = .ok (slot, k) → spansBad j [] [] 0 (digestLen k.alg) = false →
      readSpans j [hSrc j, hAux j (digestLen k.alg)] s = (.ok bs, s) → Answers (.hmacVerify n) s (fun u =>
        EndsJob j (if stdN "HMAC" (leBytes 1 k.alg :: k.key :: bs.take 1) (digestLen k.alg) = bs.getD 1 [] then 0x00 else 0x0D) s u)) ∧
    (at_ 0x10 → holBad j true false = false → a = 0 → keyAt s j 8 (fun a => isEcc a || isDsa a) 0x20 = .ok (slot, k) →
      spansBad j [hSrc j] [hAux j (sigLen k.alg)] 0 (sigLen k.alg) = false → pre = false → readSpans j [hSrc j] s = (.ok bs, s) → source →
      Writable j s (hAux j (sigLen k.alg)) → Answers (.sign n) s (fun u => EndsJob j 0x00 s u ∧
        Holds (hAux j 0).1 (stdN "sign" (leBytes 1 k.alg :: leBytes 1 0 :: k.key :: leBytes 64 (Config.free s.free) :: bs) (sigLen k.alg)) u)) ∧
    (at_ 0x11 → holBad j false false = false → isEcc a = true ∨ isDsa a = true → pubLen a ≤ dfld j.d 0x1C 4 → sigLen a ≤ dfld j.d 0x50 4 → pre = false →
      readSpans j [hSrc j, hAux j (sigLen a), hDst j (pubLen a)] s = (.ok bs, s) → Answers (.verify n) s (fun u =>
        EndsJob j (if Config.standard "verify" (leBytes 1 a :: leBytes 1 0 :: bs) ≠ [] then 0x00 else 0x0D) s u)) ∧
    (at_ 0x1D → holBad j true false = false → a = 0 → keyAt s j 8 (fun a => isEcc a || isKem a || isDsa a) 0 = .ok (slot, k) →
      spansBad j [] [] 0 (pubLen k.alg) = false → Writable j s (hAux j (pubLen k.alg)) → Answers (.holPublic n) s (fun u =>
        EndsJob j 0x00 s u ∧ Holds (hAux j 0).1 (stdN "public key" [leBytes 1 k.alg, k.key] (pubLen k.alg)) u)) ∧
    (at_ 0x20 → holBad j false false = false → a = 0 → 0 < dfld j.d 0x1C 4 → dfld j.d 0x1C 4 ≤ 65536 → source → Writable j s (hDst j (dfld j.d 0x1C 4)) →
      Answers (.random n) s (fun u => EndsJob j 0x00 s u ∧ Holds (hDst j 0).1 (leBytes (dfld j.d 0x1C 4) (Config.free s.free)) u ∧ u.free = s.free + 1))

/-- Key operations (15 R417 to R427): the key that each makes and the handle written to OUTH, WRAP's blob, and DESTROY. -/
def Obligations.HollyKeys : Prop :=
  ∀ (n slot new : Nat) (j : Job) (k : HKey) (b c : List Byte) (s : State),
    let at_ (op : Nat) : Prop := n < 8 ∧ j.unit = 344 + n ∧ dfld j.d 0 1 = op ∧ LoneJob j s
    let a := hAlg j
    let e := jobEncl j
    let outh := dfld j.d 0x58 8
    let g := mGet 0 s.accel.gen e
    let source : Prop := flag (obj s 0x8300 1) 0 = false
    let room (dst aux : Nat) : Prop := keysOf s e < keyQuota s e ∧ freeSlot s = some new ∧ Writable j s (outh, 8) ∧ Writable j s (hDst j dst) ∧ Writable j s (hAux j aux) ∧
      overlap (outh, 8) (hDst j dst) = false ∧ overlap (outh, 8) (hAux j aux) = false ∧ overlap (hDst j dst) (hAux j aux) = false
    let made (alg use : Nat) (key : List Byte) (u : State) : Prop := EndsJob j 0x00 s u ∧ mFind u.accel.keys new = some ⟨e, g, alg, use, key⟩ ∧
      (∀ i, i ≠ new → mFind u.accel.keys i = mFind s.accel.keys i) ∧ memTag u outh = .hndl ∧
      memNat u outh 8 = (e * 2 ^ 60 + g * 2 ^ 40 + use * 2 ^ 32 + alg * 2 ^ 24 + (mGet 0 s.accel.reuse new % 16) * 2 ^ 16 + new) % 2 ^ 64
    let ecc := if k.alg = 0x20 then 0x40 else 0x41
    let valid := Config.standard "public key valid" [leBytes 1 k.alg, b] ≠ []
    (at_ 0x12 → holBad j true false = false → a = 0 → keyAt s j 8 isEcc 0x01 = .ok (slot, k) → useOk ecc (hUse j) = true →
      spansBad j [hAux j (pubLen k.alg)] [(outh, 8)] 0 (pubLen k.alg) = false → readSpans j [hAux j (pubLen k.alg)] s = (.ok [b], s) → room 0 0 →
      Answers (.ecdh n) s (fun u => (valid → made ecc (hUse j) (stdN "ECDH" [leBytes 1 k.alg, k.key, b] (keyLen ecc)) u) ∧
        (¬ valid → EndsJob j 0x0A s u ∧ u.accel.keys = s.accel.keys))) ∧
    (at_ 0x13 → holBad j false false = false → isKem a = true → useOk 0x40 (hUse j) = true →
      spansBad j [hAux j (pubLen a)] [hDst j (ctLen a), (outh, 8)] (ctLen a) (pubLen a) = false → readSpans j [hAux j (pubLen a)] s = (.ok [b], s) → source → room (ctLen a) 0 →
      Answers (.kemEncaps n) s (fun u => made 0x40 (hUse j) (stdN "ML-KEM secret" [leBytes 1 a, leBytes 32 (Config.free s.free), b] 32) u ∧
        Holds (hDst j 0).1 (stdN "ML-KEM ciphertext" [leBytes 1 a, leBytes 32 (Config.free s.free), b] (ctLen a)) u)) ∧
    (at_ 0x14 → holBad j true false = false → a = 0 → useOk 0x40 (hUse j) = true → keyAt s j 8 isKem 0x01 = .ok (slot, k) →
      spansBad j [hAux j (ctLen k.alg)] [(outh, 8)] 0 (ctLen k.alg) = false → readSpans j [hAux j (ctLen k.alg)] s = (.ok [b], s) → room 0 0 →
      Answers (.kemDecaps n) s (made 0x40 (hUse j) (stdN "ML-KEM decapsulate" [leBytes 1 k.alg, k.key, b] 32))) ∧
    (at_ 0x18 → holBad j false false = false → keyLen a ≠ 0 → useOk a (hUse j) = true → spansBad j [] [] 0 (pubLen a) = false → source → room 0 (pubLen a) →
      Answers (.keygen n) s (fun u => made a (hUse j) (leBytes (keyLen a) (Config.free s.free)) u ∧
        Holds (hAux j 0).1 (stdN "public key" [leBytes 1 a, leBytes (keyLen a) (Config.free s.free)] (pubLen a)) u)) ∧
    (at_ 0x19 → holBad j true false = false → keyLen a ≠ 0 → useOk a (hUse j) = true → 0 < dfld j.d 0x50 4 → dfld j.d 0x50 4 ≤ 256 →
      overlap (hAux j (dfld j.d 0x50 4)) (outh, 8) = false → keyAt s j 8 (fun x => decide (x = 0x40) || decide (x = 0x41) || decide (x = 0x11)) 0x08 = .ok (slot, k) →
      readSpans j [hAux j (dfld j.d 0x50 4)] s = (.ok [b], s) → room 0 0 →
      Answers (.derive n) s (made a (hUse j) (stdN "SP 800-108 counter KDF" [k.key, b, leBytes 1 a, leBytes 1 (hUse j)] (keyLen a)))) ∧
    (at_ 0x1A → holBad j true true = false → a = 0 → keyAt s j 8 (fun _ => true) 0 = .ok (slot, k) → isHndl j 0x60 = false → spansBad j [] [] (48 + k.key.length) 0 = false →
      source → Writable j s (hDst j (48 + k.key.length)) → Answers (.wrap n) s (fun u => EndsJob j 0x00 s u ∧ u.accel.keys = s.accel.keys ∧
        Holds (hDst j 0).1 (blobHead k.alg k.use 0 k.key.length ++ leBytes 12 (Config.free s.free)) u)) ∧
    (at_ 0x1B → holBad j false true = false → a = 0 → overlap (hSrc j) (outh, 8) = false → kekOf s j 0x02 = .ok c → readSpans j [hSrc j] s = (.ok [b], s) →
      48 + dfld b 4 4 ≤ dfld j.d 0x18 4 → 16 ≤ dfld b 4 4 → dfld b 4 4 ≤ 64 → dfld b 0 1 = 1 → dfld b 3 1 = (isHndl j 0x60).toNat → zeros b 0x14 12 = true → room 0 0 →
      Answers (.unwrap n) s (fun u =>
        let aad := b.take 32 :: Config.document "DeviceID digest" :: leBytes 1 e :: enclHashes s e
        let key := stdN "AES-GCM open" (c :: (b.drop 8).take 12 :: (b.drop 32).take (dfld b 4 4) :: aad) (dfld b 4 4)
        if stdN "AES-GCM tag" (c :: (b.drop 8).take 12 :: key :: aad) 16 = (b.drop (32 + dfld b 4 4)).take 16 then made (dfld b 1 1) (dfld b 2 1) key u
        else EndsJob j 0x0F s u ∧ u.accel.keys = s.accel.keys)) ∧
    (at_ 0x1C → holBad j true false = false → a = 0 → keyAt s j 8 (fun _ => true) 0 = .ok (slot, k) → Answers (.destroy n) s (fun u =>
      EndsJob j 0x00 s u ∧ mFind u.accel.keys slot = none ∧ (∀ i, i ≠ slot → mFind u.accel.keys i = mFind s.accel.keys i) ∧
      mGet 0 u.accel.reuse slot = mGet 0 s.accel.reuse slot + 1))

/-- Laurel with one segment and no saved state (15 R408 to R414, Table 15.6): the status each outcome of the coder has, and the output in
the segment. What the coder computes is a function the spec does not restate (log 8). -/
def Obligations.LaurelResults : Prop :=
  ∀ (n pa cap : Nat) (j : Job) (st : Stream) (src : List Byte) (s : State),
    let d := j.d
    let fl := dfld d 2 2
    let len := dfld d 0x10 4
    let lim := dfld d 0x14 4
    let args := coderArgs j st src
    let ready_ (op : Nat) : Prop := n < 8 ∧ j.unit = 336 + n ∧ dfld d 0 1 = op ∧ LoneJob j s ∧ lauBad d = false ∧ lauSegs j s = (.ok [(pa, cap)], s) ∧
      loadState j s = (.ok st, s) ∧ jobRead j (dfld d 8 8) len s = (.ok src, s) ∧ dfld d 0x30 8 = 0 ∧ ∀ m, m ≤ cap → Writable j s (pa, m)
    let comp := st.pending ++ Config.standard "Laurel COMPRESS output" (args cap)
    let noGain := decide (nbits fl 9 8 < 2) = true ∧ len + st.pending.length ≤ min comp.length cap
    let all := st.pending ++ Config.standard "Laurel DECOMPRESS output" (args 0)
    let m := if lim = 0 then min all.length cap else min all.length (min cap lim)
    let ended := Config.standard "Laurel DECOMPRESS stream end" (args 0) ≠ []
    let bad := Config.standard "Laurel DECOMPRESS format error" (args 0) ≠ []
    let cut := m < all.length ∨ (lim ≠ 0 ∧ m = lim ∧ ¬ ended)
    let crc := crc32 st.crc (all.take m)
    let trailer := trailerOk (dfld d 1 1) (Config.standard "Laurel DECOMPRESS trailer" (args 0)) crc (adler32 st.adler (all.take m)) (st.totalOut + m) = true ∧
      (fl.testBit 4 = false ∨ crc = dfld d 0x24 4)
    (ready_ 0x01 → Answers (.compress n) s (fun u =>
      (noGain → EndsJob j 0x01 s u ∧ Holds pa (comp.take (len + st.pending.length)) u) ∧
      (¬ noGain → cap < comp.length → EndsJob j 0x02 s u ∧ Holds pa (comp.take cap) u) ∧
      (¬ noGain → comp.length ≤ cap → EndsJob j 0x00 s u ∧ Holds pa comp u))) ∧
    (ready_ 0x02 → Answers (.decompress n) s (fun u =>
      (cut → lim ≠ 0 ∧ m = lim → EndsJob j 0x03 s u ∧ Holds pa (all.take m) u) ∧
      (cut → ¬(lim ≠ 0 ∧ m = lim) → EndsJob j 0x02 s u ∧ Holds pa (all.take m) u) ∧
      (¬ cut → bad → EndsJob j 0x04 s u) ∧
      (¬ cut → ¬ bad → ended → trailer → EndsJob j 0x00 s u ∧ Holds pa (all.take m) u) ∧
      (¬ cut → ¬ bad → ended → ¬ trailer → EndsJob j 0x05 s u) ∧
      (¬ cut → ¬ bad → ¬ ended → fl.testBit 1 = true → EndsJob j 0x06 s u) ∧
      (¬ cut → ¬ bad → ¬ ended → fl.testBit 1 = false → EndsJob j 0x00 s u ∧ Holds pa (all.take m) u))) ∧
    (n < 8 → j.unit = 336 + n → dfld d 0 1 = 0x01 → LoneJob j s → lauBad d = true → Answers (.compress n) s (EndsJob j 0x0A s)) ∧
    (n < 8 → j.unit = 336 + n → dfld d 0 1 = 0x02 → LoneJob j s → lauBad d = true → Answers (.decompress n) s (EndsJob j 0x0A s))

/-- Engines that fail, reseeds and noise sources (15 R404, R429, R430; 16 R463, R464, R466). -/
def Obligations.AcceleratorEvents : Prop :=
  ∀ (s : State) (unit reason n e die test : Nat) (j : Job),
    let idx := if unit < 344 then 0x8000 else 0x8100
    let hol := 344 ≤ unit
    let drbg := mGet {} s.accel.drbg (n * 32 + e)
    let failed (r : Nat) (u : State) : Prop := mGet false u.accel.failed unit = true ∧ flag (obj u idx (unit % 8)) 63 = true ∧
      ∃ x, u.ras.inbox = s.ras.inbox ++ [x] ∧ x.unit = unit ∧ x.cls = 0x0501 ∧ x.sev = 1 ∧ x.d0 = r
    let quiet : Prop := 336 ≤ unit ∧ unit < 352 ∧ accelRuns s unit = true ∧ (∀ q ∈ s.queues, qkKind q.1 = 0 ∨ flag q.2.cfg 63 = false ∨ q.2.sqHead = q.2.sqTail)
    (quiet → jobsOf s unit = [] → Answers (.acceleratorEngineFailed unit reason) s (fun u => failed reason u ∧ u.accel.jobs = s.accel.jobs ∧ u.mem = s.mem)) ∧
    (quiet → hol → s.accel.jobs = [j] → j.unit = unit → (∃ k, k < 8 ∧ 344 + k ≠ unit ∧ accelRuns s (344 + k) = true) → Answers (.acceleratorEngineFailed unit reason) s (fun u =>
      failed reason u ∧ (∃ k, k < 8 ∧ 344 + k ≠ unit ∧ u.accel.jobs = [{ j with unit := 344 + k, rerun := true }]) ∧ u.mem = s.mem)) ∧
    (quiet → jobsOf s unit = [] → Answers (.rasForceEngineFailure unit) s (fun u => failed 4 u ∧ u.accel.jobs = s.accel.jobs)) ∧
    (accelRuns s unit = false → exec (.acceleratorEngineFailed unit reason) s = .next s) ∧
    (n < 8 → e ≤ 16 → 65536 ≤ drbg.count ∨ drbg.seedAt + 1600000000 ≤ s.stamp → flag (obj s 0x8300 1) 0 = false ∨ flag (obj s 0x8300 1) 1 = false →
      Answers (.drbgReseed n e) s (fun u => mGet {} u.accel.drbg (n * 32 + e) = ⟨0, s.stamp⟩ ∧
        (∀ k, k ≠ n * 32 + e → mGet {} u.accel.drbg k = mGet {} s.accel.drbg k) ∧ u = { s with accel := { s.accel with drbg := u.accel.drbg } })) ∧
    (n < 8 → e ≤ 16 → 65536 ≤ drbg.count → flag (obj s 0x8300 1) 0 = true → flag (obj s 0x8300 1) 1 = true → Answers (.drbgReseed n e) s (fun u =>
      flag (obj u 0x8300 1) 2 = true ∧ ObjsKept [(0x8300, 1)] s u ∧ u = { s with objs := u.objs })) ∧
    (die < 2 → Answers (.entropySourceFail die test) s (fun u =>
      ObjSet 0x8300 1 (setBit (obj s 0x8300 1) die true) s u ∧ Reports 361 0x0503 2 0x10 die test s u ∧ u = { s with objs := u.objs, ras := u.ras }))

/-! ## Memory controllers, errors and spares (11, 16) -/

/-- The memory controllers (11 R272, R277, R279 to R283, R286, R289, R290, R294): reads and writes of a line, a corrected and an
uncorrectable burst, scrubbing, and the events of the DIMMs. -/
def Obligations.MemoryControllers : Prop :=
  ∀ (s : State) (q : SnpFlit) (e : BurstErr) (d x t line rank idx sub dimm : Nat) (ok tag : Bool) (lines tags : List Nat),
    let ch := q.dest - 256
    let atMc (opc : Nat) : Prop := 256 ≤ q.dest ∧ q.dest < 272 ∧ overtakes (.snp opc q) s = false
    let hit : Prop := tagHit s ch (tagLineOf q.addr) = true
    let took (opc : Nat) (l : Line) (u : State) : Prop := Took (.snp opc q) (lineFlits 0xF q.src q.dest q.htxid (decide (512 ≤ q.htxid)) l s) s u
    let key := ch * 4096 + rankKey e.rank (subchOf q.addr) * 16 + d
    let lone : Prop := atMc 8 ∧ hit ∧ markOf s ch e.rank (subchOf q.addr) = none ∧ d < 10 ∧ x % 2 ^ 64 ≠ 0 ∧ e.errs = [(d, x)]
    let many : Prop := 16 ≤ mGet 0 s.dram.ceCnt key + 1 ∨ 4 ≤ wordsInError e.errs
    let plain (l : Nat) : Prop := mFind s.mem.under3 l = none ∧ mFind s.mem.under2 l = none ∧ Keyed s (64 * l)
    let lost (c l r : Nat) (u : State) : Prop := Reports (256 + c) 0x0302 2 (lineEncl s l) (memPlace c (subchOf l) r 0xFF) 1 s u ∧
      obj u 0x4020 c = BitVec.ofNat 64 (min (objN s 0x4020 c + 1) (2 ^ 32 - 1)) ∧ flag (obj u 0x4000 c) 3 = true ∧ (plain l → getLine u l = zeroLine 7)
    let warm (k i hi : Nat) (u : State) : Prop :=
      mGet false u.dram.hot (hotKey x dimm k) = (if hi < t then true else if t ≤ hi - 3 then false else mGet false s.dram.hot (hotKey x dimm k)) ∧
      flag (obj u 0x4000 x) i = (mGet false u.dram.hot (hotKey x 0 k) || mGet false u.dram.hot (hotKey x 1 k))
    (atMc 8 → e.errs = [] → e.terrs = [] → Answers (.memrd q e) s (fun u => took 8 (dramCopy s q.addr) u ∧ tagHit u ch (tagLineOf q.addr) = true ∧
      u = { s with net := u.net, bw := u.bw, dram := { s.dram with tagc := u.dram.tagc } })) ∧
    (lone → Answers (.memrd q e) s (fun u => took 8 (dramCopy s q.addr) u ∧ mGet 0 u.dram.ceCnt key = mGet 0 s.dram.ceCnt key + 1 ∧
      obj u 0x4010 ch = BitVec.ofNat 64 (min (objN s 0x4010 ch + 1) (2 ^ 32 - 1)) ∧ flag (obj u 0x4000 ch) 2 = true ∧ u.mem = s.mem ∧
      (if mGet 0 s.dram.ceHour key = s.stamp / hourTicks + 1 then u.ras = s.ras
        else Reports (256 + ch) 0x0301 0 (lineEncl s q.addr) (memPlace ch (subchOf q.addr) e.rank d) (syndromeWord e.errs) s u) ∧
      (many → markOf u ch e.rank (subchOf q.addr) = some d) ∧ (¬ many → markOf u ch e.rank (subchOf q.addr) = none))) ∧
    (atMc 8 → hit → decodeBurst (markOf s ch e.rank (subchOf q.addr)) e.errs = .bad → Answers (.memrd q e) s (fun u =>
      took 8 (zeroLine 7) u ∧ lost ch q.addr e.rank u)) ∧
    (atMc 0xA → e.errs = [] → e.terrs = [] → Answers (.memrdnt q e) s (fun u => took 0xA (dramCopy s q.addr) u ∧ u = { s with net := u.net, bw := u.bw })) ∧
    (atMc 0xA → decodeBurst (markOf s ch e.rank (subchOf q.addr)) e.errs = .bad → Answers (.memrdnt q e) s (fun u =>
      took 0xA (zeroLine 7) u ∧ u = { s with net := u.net, bw := u.bw })) ∧
    (atMc 9 → hit → Answers (.memwr q e) s (fun u => (∃ g : RspFlit, Took (.snp 9 q) [.rsp 0x03 g] s u ∧ g.dest = q.src ∧ g.src = q.dest ∧ g.txid = q.htxid) ∧
      u.dram.writes = s.dram.writes ++ [{ mc := q.dest, src := q.src, htxid := q.htxid, line := q.addr, rank := e.rank, errs := e.errs }] ∧
      u = { s with net := u.net, bw := u.bw, dram := { s.dram with writes := u.dram.writes } })) ∧
    exec (.refresh x rank) s = .next s ∧
    (dimm < (s.dram.dimms.getD x []).length → Answers (.dimmTemperature ⟨x, dimm⟩ t) s (fun u => warm 0 5 85 u ∧ warm 1 6 95 u ∧
      (∀ k, k ≠ hotKey x dimm 0 → k ≠ hotKey x dimm 1 → mGet false u.dram.hot k = mGet false s.dram.hot k) ∧
      (∀ i, i < 64 → i ≠ 5 → i ≠ 6 → flag (obj u 0x4000 x) i = flag (obj s 0x4000 x) i) ∧
      ObjsKept [(0x4000, x)] s u ∧ u = { s with objs := u.objs, raised := u.raised, dram := { s.dram with hot := u.dram.hot } })) ∧
    ((s.dram.dimms.getD x []).length ≤ dimm → exec (.dimmTemperature ⟨x, dimm⟩ t) s = .next s) ∧
    exec (.caParityError x true rank ⟨lines, tags⟩) s = .next s ∧
    (x < 16 → Answers (.caParityError x false rank ⟨[line], []⟩) s (lost x line rank)) ∧
    (x < 16 → Answers (.caParityError x false rank ⟨[], [line]⟩) s (fun u => Reports (256 + x) 0x0302 2 (lineEncl s line) (memPlace x (subchOf line) rank 0xFF) 16 s u ∧
      ∀ l ∈ tagLineLines s x (tagLineOf line), plain l → (getLine u l).tags = (zeroLine 7).tags)) ∧
    (e.errs = [] → e.terrs = [] → exec (.patrolScrub line tag e ok) s = .next s) ∧
    (scrubOn s (chanOf (64 * line)) = false → exec (.patrolScrub line tag e ok) s = .next s) ∧
    (objN s 0x4100 1 ≠ 0 → decodeBurst (markOf s (chanOf (64 * line)) e.rank (subchOf line)) e.errs = .bad → Answers (.patrolScrub line false e false) s (fun u =>
      lost (chanOf (64 * line)) line e.rank u ∧ u.net = s.net)) ∧
    Answers (.scrubPeriodEnd x ok) s (fun u => (∀ k, mGet 0 u.dram.ceCnt k = if k / 4096 = x then 0 else mGet 0 s.dram.ceCnt k) ∧
      (if ok then mGet 24 u.dram.scrubHours x = objN s 0x4100 1 ∧ u.objs = s.objs else flag (obj u 0x4000 x) 7 = true ∧ u.dram.scrubHours = s.dram.scrubHours) ∧
      u = { s with objs := u.objs, raised := u.raised, dram := { s.dram with ceCnt := u.dram.ceCnt, scrubHours := u.dram.scrubHours } }) ∧
    (0x4400 ≤ idx → idx ≤ 0x4409 → flag (obj s idx sub) 63 = true → Answers (.flipMaskFired idx sub) s (fun u =>
      flag (obj u idx sub) 63 = false ∧ flag (obj u idx sub) 62 = true ∧ (∀ i, i < 62 → flag (obj u idx sub) i = flag (obj s idx sub) i) ∧
      ObjsKept [(idx, sub)] s u ∧ u = { s with objs := u.objs, raised := u.raised })) ∧
    (flag (obj s idx sub) 63 = false → exec (.flipMaskFired idx sub) s = .next s)

/-- Records at the RAS controller and the fault rings (16 R435, R437, R438, R440). -/
def Obligations.ErrorRecords : Prop :=
  ∀ (s : State) (k e : Nat) (v : Word) (r : ErrRec),
    let taken (u : State) : Prop := u.ras.seq = s.ras.seq + 1 ∧ u.ras.inbox = s.ras.inbox.eraseIdx k ∧ obj u 0x5200 1 = BitVec.ofNat 64 (s.ras.seq + 1) ∧
      u.ras.mlog = (if s.ras.mlog.length < 8192 then s.ras.mlog else s.ras.mlog.tail) ++ [(s.ras.seq + 1, r)]
    let quiet : Prop := r.cls ≠ 0x0102 ∧ r.cls ≠ 0x0106
    let ring := obj s 0x5100 e
    let tail := fld (obj s 0x5120 e) 15 0
    let head := objN s 0x5110 e
    let full : Prop := fltBase ring = 0 ∨ fltOwned s e ring = false ∨ (tail + 1) % fltSize ring = head
    let pa := fltBase ring + 64 * tail
    let n := fltSize ring
    (s.ras.inbox[k]? = some r → quiet → 16 ≤ r.encl → r.rings = [] → Answers (.errorRecord k) s (fun u => taken u ∧ ObjsKept [(0x5200, 1)] s u ∧
      u = { s with ras := u.ras, objs := u.objs })) ∧
    (s.ras.inbox[k]? = some r → quiet → r.encl = e → e < 16 → r.rings = [] → full → Answers (.errorRecord k) s (fun u => taken u ∧
      fld (obj u 0x5120 e) 63 32 = min (fld (obj s 0x5120 e) 63 32 + 1) (2 ^ 32 - 1) ∧ fld (obj u 0x5120 e) 15 0 = tail ∧ mGet false u.ras.lostDue e = true ∧
      ObjsKept [(0x5200, 1), (0x5120, e)] s u ∧ u = { s with ras := u.ras, objs := u.objs })) ∧
    (s.ras.inbox[k]? = some r → quiet → r.encl = e → e < 16 → r.rings = [] → ¬ full → n ≤ 65536 → tail < n → pa % 64 = 0 → Keyed s pa → Answers (.errorRecord k) s (fun u =>
      taken u ∧ (∀ i, i < 64 → memByte u (pa + i) = (recOctets s.socket (s.ras.seq + 1) r (mGet false s.ras.lostDue e)).getD i 0) ∧
      (∀ a, a < pa ∨ pa + 64 ≤ a → memByte u a = memByte s a) ∧ fld (obj u 0x5120 e) 15 0 = (tail + 1) % n ∧ mGet false u.ras.lostDue e = false ∧
      flag (mGet 0 u.src (e * 1024)) 62 = true ∧ ObjsKept [(0x5200, 1), (0x5120, e)] s u)) ∧
    (s.ras.inbox[k]? = some r → ¬ quiet → r.core < 192 → 16 ≤ r.encl → r.rings = [] → Answers (.errorRecord k) s (fun u => taken u ∧
      coreOf u r.core = { coreOf s r.core with mcheck := (coreOf s r.core).mcheck ++ [s.ras.seq + 1] } ∧ ∀ m, m ≠ r.core → coreOf u m = coreOf s m)) ∧
    (s.ras.inbox[k]? = none → exec (.errorRecord k) s = .next s) ∧
    (e < 16 → fld v 3 0 ≤ 10 → fltBase v = 0 ∨ fltOwned s e v = true → Answers (.fltRing e v) s (fun u =>
      fltBase (obj u 0x5100 e) = fltBase v ∧ fltSize (obj u 0x5100 e) = fltSize v ∧
      (if fltBase v = fltBase ring ∧ fltSize v = n ∧ fltBase v ≠ 0 then obj u 0x5110 e = obj s 0x5110 e ∧ obj u 0x5120 e = obj s 0x5120 e
        else obj u 0x5110 e = 0 ∧ fld (obj u 0x5120 e) 15 0 = 0 ∧ fld (obj u 0x5120 e) 63 32 = fld (obj s 0x5120 e) 63 32) ∧
      ObjsKept [(0x5100, e), (0x5110, e), (0x5120, e)] s u ∧ u = { s with objs := u.objs })) ∧
    (16 ≤ e ∨ 11 ≤ fld v 3 0 ∨ (fltBase v ≠ 0 ∧ fltOwned s e v = false) → exec (.fltRing e v) s = .next s) ∧
    (e < 16 → tail < n → head < n → v.toNat < n → v.toNat < 2 ^ 16 → (v.toNat + n - head) % n ≤ (tail + n - head) % n → Answers (.fltHead e v) s (fun u =>
      ObjSet 0x5110 e v s u ∧ u = { s with objs := u.objs })) ∧
    (e < 16 → tail < n → head < n → n ≤ v.toNat % 2 ^ 16 ∨ (tail + n - head) % n < (v.toNat % 2 ^ 16 + n - head) % n → exec (.fltHead e v) s = .next s)

/-- Errors that checkers find in a core, retries, failover step by step, and a core that is lost (16 R441 to R459, R466). -/
def Obligations.CoreErrors : Prop :=
  ∀ (s : State) (n row t d net_ k line way : Nat) (x : PSet L2Entry) (st : L2State) (rg : Reg) (f : Failover) (ok : Bool) (e : SbEntry) (rest : List SbEntry),
    let c := coreOf s n
    let up : Prop := n < 192 ∧ (c.run = .running ∨ c.run = .wfi)
    let others (u : State) : Prop := ∀ m, m ≠ n → coreOf u m = coreOf s m
    let starts (trigger : Nat) (u : State) : Prop := (coreOf u n).run = .failover ∧ (coreOf u n).win = [] ∧ (coreOf u n).pc = c.pc ∧ (coreOf u n).sb = c.sb ∧
      (coreOf u n).nt = c.nt ∧ (∀ q, gpr (coreOf u n) q = gpr c q) ∧ others u ∧ ObjSet 0x5030 n 0xFE s u ∧
      mFind u.ras.fail n = some { old := tileOf s n, trigger := trigger, at_ := s.stamp, was := c.run } ∧ (∀ m, m ≠ n → mFind u.ras.fail m = mFind s.ras.fail m)
    let gone (r pc : Nat) (u : State) : Prop := coreOf u n = { c with run := .lost } ∧ others u ∧ ObjSet 0x5030 n 0xFF s u ∧ mFind u.ras.fail n = none ∧
      ∃ x, u.ras.inbox = s.ras.inbox ++ [x] ∧ x.unit = 365 ∧ x.cls = 0x0103 ∧ x.sev = 3 ∧ x.core = n ∧ x.d0 = r ∧ x.d1 = pc
    let alive : Prop := n < 192 ∧ c.run ≠ .lost ∧ c.run ≠ .unpowered
    let fit : Prop := n < 192 ∧ mFind s.ras.fail n = none ∧ tileOf s n < 216 ∧ (c.run = .running ∨ c.run = .wfi ∨ c.run = .cs3)
    let step_ (k : Nat) : Prop := n < 192 ∧ mFind s.ras.fail n = some f ∧ f.step = k ∧ f.old < 216
    let closed (u : State) : Prop := coreGate u t = 2 ∧ tileAt u t = {} ∧ fld (obj u 0x5020 t) 1 0 = (if fld (obj s 0x5020 t) 1 0 = 3 then 3 else 2) ∧
      (∀ p, p < 216 → ∃ x ∈ u.ras.inbox, x.unit = p ∧ x.cls = 0x0405 ∧ x.d0 = t) ∧ ∀ m, m < 192 → tileOf s m = t → (coreOf u m).run = .lost
    let carries : Prop := ∀ m k, m < 192 → k < 192 → tileOf s m = t → tileOf s k = t → (m = k ∧ (coreOf s m).run ≠ .unpowered)
    (up → c.retries < 2 → Answers (.checkerError n (.retry row)) s (fun u =>
      (coreOf u n).retries = c.retries + 1 ∧ (coreOf u n).pc = c.pc ∧ (∀ q, gpr (coreOf u n) q = gpr c q) ∧ (coreOf u n).run = c.run ∧ (coreOf u n).win = [] ∧ others u ∧
      ObjSet 0x5060 n (BitVec.ofNat 64 (min (objN s 0x5060 n + 1) (2 ^ 32 - 1))) s u ∧ u.mem = s.mem)) ∧
    (up → fit → 2 ≤ c.retries → Answers (.checkerError n (.retry row)) s (starts 0)) ∧
    (exec (.checkerError n (.corrected row)) s = .next s) ∧
    (up → Answers (.checkerError n (.predictor 3 row d)) s (fun u => coreOf u n = { c with rstack := c.rstack.take row } ∧ others u ∧ u = { s with cores := u.cores })) ∧
    (up → rg ≠ 0 → Answers (.checkerError n (.reg 0 rg)) s (fun u => (∀ q, gpr (coreOf u n) q = if q = rg then ⟨0, .pois⟩ else gpr c q) ∧
      Reports (tileOf s n) 0x0105 2 (enclOfCore s n) rg.toNat 0 s u ∧ others u ∧ u = { s with cores := u.cores, ras := u.ras })) ∧
    (up → c.sb = e :: rest → Answers (.checkerError n (.store 0 false row)) s (fun u => coreOf u n = { c with sb := rest } ∧ others u ∧
      Reports (tileOf s n) 0x0106 3 (enclOfCore s n) e.bytes.length e.pc.toNat s u ∧ u = { s with cores := u.cores, ras := u.ras })) ∧
    (up → Answers (.checkerError n .bothCopies) s (gone 0 0)) ∧
    (alive → Answers (.coreLost n 0) s (gone 0 0)) ∧
    (fit → 64 ≤ c.hourRetries → c.hourWin = s.stamp / hourTicks + 1 → Answers (.coreFailover n ok) s (starts 1)) ∧
    (fit → Answers (.rasForceCoreFailover n) s (starts 2)) ∧
    (step_ 1 → outranked s n f = false → pickSpare s f.old = some t → Answers (.coreFailover n true) s (fun u => mFind u.ras.fail n = some { f with step := 2, spare := some t } ∧
      u = { s with ras := { s.ras with fail := u.ras.fail } })) ∧
    (step_ 1 → outranked s n f = false → pickSpare s f.old = some t → Answers (.coreFailover n false) s (fun u => fld (obj u 0x5020 t) 1 0 = 2 ∧ coreGate u t = 2 ∧
      mFind u.ras.fail n = some f ∧ u.cores = s.cores)) ∧
    (step_ 1 → alive → outranked s n f = false → pickSpare s f.old = none → Answers (.coreFailover n ok) s (gone 1 c.pc.toNat)) ∧
    (step_ 1 → alive → pickSpare s f.old = none → Answers (.coreLost n 1) s (gone 1 c.pc.toNat)) ∧
    (step_ 2 → c.wait ≠ .none ∨ c.devSent ≠ 0 → exec (.coreFailover n ok) s = .next s) ∧
    (step_ 2 → c.wait = .none → c.devSent = 0 → (fenceAll (.core n) s).2 = true → (coreOf (fenceAll (.core n) s).1 n).devSent = 0 → Answers (.coreFailover n ok) s (fun u => mGet {} u.ras.saves n = saveCpu (coreOf u n) ∧ mFind u.ras.fail n = some { f with step := 3 } ∧
      (coreOf u n).sb = [] ∧ (coreOf u n).nt = [] ∧ (coreOf u n).pc = c.pc ∧ (coreOf u n).level = c.level ∧ ∀ q, gpr (coreOf u n) q = gpr c q)) ∧
    (step_ 3 → Answers (.coreFailover n ok) s (fun u => coreGate u f.old = 1 ∧ mFind u.ras.fail n = some { f with step := 4 } ∧
      (tileAt u f.old).l1i = [] ∧ MemKept s u ∧ ((tileAt s f.old).l2 = [] → (tileAt u f.old).l2 = []) ∧
      ((tileAt s f.old).l2 = [(l2Set line, x)] → x.ways = [(way, ⟨line, st⟩)] → lineQuiet s line = true → asking s f.old line = false → (tileAt u f.old).l2 = []))) ∧
    (step_ 4 → tileDrained s f.old = true → Answers (.coreFailover n ok) s (fun u => coreGate u f.old = 2 ∧ fld (obj u 0x5020 f.old) 1 0 = 2 ∧
      mFind u.ras.fail n = some { f with step := 5 } ∧ tileAt u f.old = {} ∧ u.cores = s.cores ∧ u.mem = s.mem)) ∧
    (step_ 4 → tileDrained s f.old = false → Answers (.coreFailover n ok) s (fun u => coreGate u f.old = coreGate s f.old ∧ mFind u.ras.fail n = some f ∧ MemKept s u)) ∧
    (step_ 5 → f.spare = some t → t < 216 → fld (obj s 0x5020 t) 1 0 ≠ 1 → pickSpare s f.old = some k → Answers (.coreFailover n true) s (fun u =>
      mFind u.ras.fail n = some { f with spare := some k } ∧ u = { s with ras := { s.ras with fail := u.ras.fail } })) ∧
    (step_ 5 → f.spare = some t → t < 216 → fld (obj s 0x5020 t) 1 0 = 1 → f.reset = false → Answers (.coreFailover n true) s (fun u =>
      let x := mGet {} s.ras.saves n
      (coreOf u n).run = .running ∧ (coreOf u n).pc = x.pc ∧ (coreOf u n).level = x.level ∧ (∀ q, gpr (coreOf u n) q = gpr x q) ∧
      (∀ k, sysReg (coreOf u n) k = sysReg x k) ∧ mFind u.ras.fail n = none ∧ objN u 0x5030 n = t ∧ fld (obj u 0x5020 t) 1 0 = 0 ∧
      ∃ r ∈ u.ras.mlog, r.2.cls = 0x0102 ∧ r.2.core = n ∧ r.2.d0 = f.old + t * 256 + f.trigger * 2 ^ 16 ∧ (coreOf u n).mcheck.contains r.1 = true)) ∧
    (step_ 5 → alive → f.spare = some t → fld (obj s 0x5020 t) 1 0 = 1 → Answers (.coreFailover n false) s (gone 0 0)) ∧
    (t < 216 → coreGate s t ≠ 2 → carries → Answers (.tileHeartbeatMiss t) s closed) ∧
    (t < 216 → coreGate s t = 2 → exec (.tileHeartbeatMiss t) s = .next s) ∧
    (t < 216 → coreGate s t = 1 → carries → mFind s.ras.drainAt t = some d → d + 160000 ≤ s.stamp → Answers (.drainTimeout t) s closed) ∧
    (mFind s.ras.drainAt t = none → exec (.drainTimeout t) s = .next s) ∧
    (n < 192 → t = tileOf s n → t < 216 → coreGate s t ≠ 2 → carries → Answers (.coreLost n 2) s closed) ∧
    (t < 216 → coreGate s t = 2 → Answers (.zombie t net_) s (fun u => ObjSet 0x5040 t (BitVec.ofNat 64 (min (objN s 0x5040 t + 1) (2 ^ 32 - 1))) s u ∧
      (mGet 0 s.ras.hour (t * 65536 + 0x0404) ≠ s.stamp / hourTicks + 1 → ∃ x, u.ras.inbox = s.ras.inbox ++ [x] ∧ x.unit = t ∧ x.cls = 0x0404 ∧
        x.tile = t ∧ x.net = net_ ∧ x.d0 = net_) ∧
      (mGet 0 s.ras.hour (t * 65536 + 0x0404) = s.stamp / hourTicks + 1 → u.ras = s.ras) ∧ u = { s with objs := u.objs, ras := u.ras })) ∧
    (coreGate s t ≠ 2 → exec (.zombie t net_) s = .next s)

/-- Arrays outside the cores, spare slices, and the wires and flits of the mesh (10 R237, R239; 16 R446, R460 to R462, R466). The record of a
flit found bad past its last link is the model's choice (log 109). -/
def Obligations.ArraysAndSpares : Prop :=
  ∀ (s : State) (code unit set way line syn p k dir net wire fails opc : Nat) (words : List Nat) (g : Flit) (f : DatFlit),
    let hour (u : Nat) : Prop := mGet 0 s.ras.hour (u * 65536 + 0x0201) = s.stamp / hourTicks + 1
    let unit' := arrayUnit s code unit
    let link := p * 64 + dir * 8 + net
    let again (cycles : Nat) (u : State) : Prop :=
      (s.net = [g] → g.pos = some (p, dir) → (msgEnds g.msg).2.2 = net → u.net = [{ g with wait := g.wait + cycles }])
    let place := p + dir * 2 ^ 16 + net * 2 ^ 24 + wire * 2 ^ 32
    (code = 3 ∨ code = 6 → arrayExists s code unit = true → Answers (.arrayError code unit set way line words syn false) s (fun u =>
      (hour unit' → u = s) ∧ (¬ hour unit' → (∃ x, u.ras.inbox = s.ras.inbox ++ [x] ∧ x.unit = unit' ∧ x.cls = 0x0201 ∧ x.sev = 0 ∧ x.encl = lineEncl s line ∧
        x.d0 = arrayWord code set way ∧ x.d1 = syn) ∧ u = { s with ras := u.ras }))) ∧
    (code = 4 ∨ code = 5 → unit < 216 → mGet 0 s.ras.arrWin unit = s.stamp / hourTicks + 1 → Answers (.arrayError code unit set way line words syn false) s (fun u =>
      mGet 0 u.ras.arrCnt unit = mGet 0 s.ras.arrCnt unit + 1 ∧ (16 ≤ mGet 0 s.ras.arrCnt unit + 1 → (sliceAt s unit).moving = false → unit ∈ u.ras.subst) ∧
      (mGet 0 s.ras.arrCnt unit + 1 < 16 → u.ras.subst = s.ras.subst) ∧ u = { s with ras := u.ras })) ∧
    (unit < 216 → mFind s.mem.under2 line = none → Keyed s (64 * line) → Answers (.arrayError 3 unit set way line words syn true) s (fun u =>
      (∀ w, w < 8 → w ∈ words → memTag u (64 * line + 8 * w) = .pois ∧ memNat u (64 * line + 8 * w) 8 = 0) ∧
      (∀ a, a / 64 = line → a % 64 / 8 ∉ words → memByte u a = memByte s a ∧ memTagCode u a = memTagCode s a) ∧
      (∀ a, a / 64 ≠ line → memByte u a = memByte s a ∧ memTagCode u a = memTagCode s a) ∧
      Reports (arrayUnit s 3 unit) 0x0202 2 (lineEncl s line) (arrayWord 3 set way) words.length s u ∧ u.objs = s.objs)) ∧
    (arrayExists s code unit = false → exec (.arrayError code unit set way line words syn (decide (dir = 0))) s = .next s) ∧
    (p < 216 → p ∉ s.ras.subst → (sliceAt s p).moving = false → Answers (.rasForceSliceSubstitution p) s (fun u =>
      u = { s with ras := { s.ras with subst := s.ras.subst ++ [p] } })) ∧
    (p ∈ s.ras.subst → s.mesh.movingPos = none → s.mesh.draining = false → s.mesh.switchAt = none → pickSlice s p = some k → Answers (.sliceSubstitution p) s (fun u =>
      u.mesh.movingPos = some (p, k) ∧ u.mesh.switchAt = some (s.stamp + 64) ∧ (sliceAt u p).moving = true ∧ (∀ j, j ≠ p → sliceAt u j = sliceAt s j) ∧
      u.ras = { s.ras with subst := s.ras.subst.erase p, spareUsed := s.ras.spareUsed ++ [k] } ∧ u = { s with mesh := u.mesh, slices := u.slices, ras := u.ras })) ∧
    (p ∉ s.ras.subst → exec (.sliceSubstitution p) s = .next s) ∧
    (p < 216 → k < 8 → s.mesh.movingPos = some (p, k) → s.mesh.switchAt = none → s.mesh.draining = false → (sliceAt s p).txns = [] → (sliceAt s p).llc = [] →
      Answers (.sliceTransferComplete p) s (fun u => (sliceAt u p).moving = false ∧ u.mesh = { s.mesh with movingPos := none } ∧
        objN u 0x5050 p = 2 ^ 15 + 2 ^ 9 + spareRouter k ∧ fld (obj u 0x5020 p) 5 4 = 2 ∧ flag (obj u 0x5020 p) 7 = true ∧
        ObjsKept [(0x5050, p), (0x5020, p)] s u ∧ Reports 365 0x0403 1 0x10 p (spareRouter k + 512) s u ∧ MemKept s u)) ∧
    (p < 216 → s.mesh.movingPos = none → (sliceAt s p).moving = true → transferReady s p = true → (sliceAt s p).llc = [] → Answers (.sliceTransferComplete p) s (fun u =>
      (sliceAt u p).moving = false ∧ ObjSet 0x5050 p (BitVec.ofNat 64 (if sliceTarget s p = p then p else 2 ^ 15 + sliceTarget s p)) s u ∧
      (∀ j, j ≠ p → sliceAt u j = sliceAt s j) ∧ u = { s with objs := u.objs, slices := u.slices })) ∧
    (transferReady s p = false ∨ (s.mesh.movingPos = none ∧ (sliceAt s p).moving = false) → exec (.sliceTransferComplete p) s = .next s) ∧
    (p < 216 → Answers (.flitUncorrectable p dir net .corrected fails) s (fun u => fld (obj u 0x9600 p) 63 32 = min (2 ^ 32 - 1) (fld (obj s 0x9600 p) 63 32 + 1) ∧
      fld (obj u 0x9600 p) 31 0 = fld (obj s 0x9600 p) 31 0 ∧ ObjsKept [(0x9600, p)] s u ∧ u = { s with objs := u.objs })) ∧
    (p < 216 → fails < 3 → Answers (.flitUncorrectable p dir net (.uncorrectable wire) fails) s (fun u =>
      fld (obj u 0x9600 p) 31 0 = min (2 ^ 32 - 1) (fld (obj s 0x9600 p) 31 0 + 1) ∧ fld (obj u 0x9600 p) 63 32 = fld (obj s 0x9600 p) 63 32 ∧
      ObjsKept [(0x9600, p)] s u ∧ msgs u = msgs s ∧ again 2 u ∧ u = { s with objs := u.objs, net := u.net, mesh := { s.mesh with resends := u.mesh.resends } })) ∧
    (p < 216 → 3 ≤ fails → mGet 0 s.mesh.wires link < 2 → Answers (.flitUncorrectable p dir net (.uncorrectable wire) fails) s (fun u =>
      mGet 0 u.mesh.wires link = mGet 0 s.mesh.wires link + 1 ∧ (∀ j, j ≠ link → mGet 0 u.mesh.wires j = mGet 0 s.mesh.wires j) ∧
      Reports 365 0x0401 1 0x10 place 0 s u ∧ msgs u = msgs s ∧ again 256 u ∧
      u = { s with net := u.net, mesh := { s.mesh with wires := u.mesh.wires, resends := u.mesh.resends }, ras := u.ras })) ∧
    (p < 216 → 3 ≤ fails → 2 ≤ mGet 0 s.mesh.wires link → Answers (.flitUncorrectable p dir net (.uncorrectable wire) fails) s (fun u =>
      u.yew.stopped = true ∧ ∃ x ∈ u.ras.inbox, x.unit = 365 ∧ x.cls = 0x0402 ∧ x.sev = 4 ∧ x.d0 = place)) ∧
    (s.net = [g] → g.msg = .dat opc f → Answers (.flitUncorrectable p dir net (.past opc f) fails) s (fun u =>
      u.net = [{ g with msg := .dat opc { f with data := 0, tags := 0x7777 } }] ∧ u = { s with net := u.net, ras := u.ras } ∧
      ∃ x, u.ras.inbox = s.ras.inbox ++ [x] ∧ x.unit = f.dest ∧ x.cls = 0x0202 ∧ x.net = 3 ∧ x.d1 = 4)) ∧
    ((∀ y ∈ s.net, y.msg ≠ .dat opc f) → exec (.flitUncorrectable p dir net (.past opc f) fails) s = .next s)

/-! ## Channels, ports and sessions (13, 14) -/

/-- Device accesses at the I/O units, as TLPs of a root complex, at the doorbell window and at its queues (04 R104, 09 R225, 01 R34, 13 R334 to
R346, 15 R397, 17 R484, 19 R520, 21 R544). -/
def Obligations.DoorbellAccesses : Prop :=
  ∀ (s : State) (q : ReqFlit) (k off e kind slot o pos n opid tag : Nat) (r : DbReg) (bar : Bar),
    let b := queueAt s k
    let v := q.data
    let taken (u : State) : Prop := Took (.req 0x11 q) [rspTo 0x06 366 0 q s] s u
    let on (opc : Nat) : Prop := overtakes (.req opc q) s = false
    let at_ (r : DbReg) : Prop := dbTarget s q = some r ∧ on 0x11
    let pe := q.dest - 352
    let tlp (kind : Nat) (bs : List Byte) (u : State) : Prop := u.out = s.out ++ [.tlp pe bar.rid tag kind (reqPa q % 2 ^ 46) bs] ∧
      u.ptags = s.ptags ++ [{ pe := pe, tag := tag, q := q, kind := kind, deadline := s.stamp + 16000000 }] ∧
      u = { s with net := u.net, bw := u.bw, ptags := u.ptags, out := u.out }
    let window (opc : Nat) : Prop := 352 ≤ q.dest ∧ q.dest < 356 ∧ on opc ∧ isCfg (reqPa q) = false ∧ barOf s pe q = some bar
    let h := v.toNat % 2 ^ 16
    let pa := fld b.sqBase 51 6 * 64 + 64 * b.sqHead
    let d := memBytes s pa 64
    let sub := dfld d 4 4 % 2 ^ 18
    let others (u : State) : Prop := ∀ j, j ≠ k → queueAt u j = queueAt s j
    let ahead (x : Nat) := (x + cqLen b - b.cqHead) % cqLen b
    let idle : Prop := ∀ x ∈ s.queues, qkKind x.1 ≠ 0 ∨ flag x.2.cfg 63 = false ∨ x.2.sqHead = x.2.sqTail
    let fits (base size : Nat) : Prop := base % size = 0 ∧ base / 2 ^ 30 = (base + size - 1) / 2 ^ 30 ∧ placeOf s (qkEncl k) base = .mem
    let c := chnOf s q.encl
    let mine (x : JRec) : Prop := x.encl = q.encl
    (q.dest = 366 → dbTarget s q = some r → on 0x10 → Answers (.rddev q) s (fun u => Took (.req 0x10 q) [devData 366 q (dbRead s q.encl r) s] s u ∧ u = { s with net := u.net, bw := u.bw })) ∧
    (q.dest = 366 → dbTarget s q = none → on 0x10 → Answers (.rddev q) s (fun u => Took (.req 0x10 q) [devData 366 q 0 s] s u ∧ Reports 366 0x0604 2 q.encl 0 0 s u ∧
      u = { s with net := u.net, bw := u.bw, ras := u.ras })) ∧
    (q.dest = 361 → mboxTarget s q = some (k, o) → on 0x10 → Answers (.rddev q) s (fun u => Took (.req 0x10 q) [devData 361 q (mboxRead s k o) s] s u ∧
      u = { s with net := u.net, bw := u.bw })) ∧
    (q.dest = 366 → at_ (.queue k 0x10) → flag b.cfg 63 = false → Answers (.wrdev q) s (fun u => taken u ∧
      queueAt u k = { b with sqBase := v &&& 0xFFFFFFFFFFFC0 } ∧ others u ∧ u = { s with net := u.net, bw := u.bw, queues := u.queues })) ∧
    (q.dest = 366 → at_ (.queue k 0x10) → flag b.cfg 63 = true → Answers (.wrdev q) s (fun u => taken u ∧ queueAt u k = b ∧ others u)) ∧
    (q.dest = 366 → at_ (.chn 0x30) → Answers (.wrdev q) s (fun u => taken u ∧
      chnOf u q.encl = (if c.ok then c else { c with sdt := v &&& 0xFFFFFFFFFFFC0 }) ∧ ∀ j, j ≠ q.encl → chnOf u j = chnOf s j)) ∧
    (q.dest = 366 → dbTarget s q = none → on 0x11 → Answers (.wrdev q) s (fun u => taken u ∧ Reports 366 0x0604 2 q.encl 1 0 s u ∧
      u = { s with net := u.net, bw := u.bw, ras := u.ras })) ∧
    (window 0x12 → hasAtomicOp q.atop = true → freeTag s pe = some tag → Answers (.atomdev q) s (fun u => Took (.req 0x12 q) [] s u ∧
      tlp 4 ((if q.atop = 9 then leBytes (q.len + 1) q.expd.toNat else []) ++ leBytes (q.len + 1) q.data.toNat) u)) ∧
    (window 0x12 → hasAtomicOp q.atop = true → freeTag s pe = none → exec (.atomdev q) s = .next s) ∧
    (window 0x10 → freeTag s pe = some tag → Answers (.rddev q) s (fun u => Took (.req 0x10 q) [] s u ∧ tlp 2 [] u)) ∧
    (window 0x11 → portUp s pe bar.port = true → Answers (.wrdev q) s (fun u => Took (.req 0x11 q) [rspTo 0x06 q.dest 0 q s] s u ∧
      u.out = s.out ++ [.tlp pe bar.rid 0 3 (reqPa q % 2 ^ 46) (leBytes (q.len + 1) q.data.toNat)] ∧ u.ptags = s.ptags ∧ u.objs = s.objs)) ∧
    (q.dest = 361 ∨ q.dest = 363 ∨ q.dest = 366 → on 0x12 → Answers (.atomdev q) s (fun u => Reports q.dest 0x0604 2 q.encl 3 0 s u ∧
      ∃ x, devData q.dest q 0 s = .dat 7 x ∧ Took (.req 0x12 q) [.dat 0xD x] s u)) ∧
    (on 0x14 → domainOff s q.dest = true → Answers (.msg q (.interrupt n true)) s (fun u => Took (.req 0x14 q) [rspTo 0x04 q.dest 0 q s] s u ∧ u.cores = s.cores)) ∧
    (on 0x14 → Answers (.msg q (.transfer pos)) s (fun u => Took (.req 0x14 q) [] s u ∧ u = { s with net := u.net, bw := u.bw })) ∧
    (on 0x14 → domainOff s q.dest = false → n < 192 → (coreOf s n).run = .running → intPending s n true = true → s.yew.stopped = false → enclOfCore s n ∉ s.yew.held → enclOfCore s n ∉ s.yew.refused →
      Answers (.msg q (.interrupt n true)) s (fun u => coreOf u n = { coreOf s n with irqM := true } ∧ (∀ j, j ≠ n → coreOf u j = coreOf s j) ∧ Took (.req 0x14 q) [] s u)) ∧
    (at_ (.queue k 0) → qkKind k = 0 → flag b.cfg 63 = false → Answers (.sqTail q) s (fun u => taken u ∧ u = { s with net := u.net, bw := u.bw })) ∧
    (at_ (.queue k 0) → qkKind k = 0 → flag b.cfg 63 = true → sqLen b ≤ h → b.sqHead = b.sqTail → Answers (.sqTail q) s (fun u => taken u ∧
      queueAt u k = { b with tailErr := true } ∧ others u ∧ u = { s with net := u.net, bw := u.bw, queues := u.queues })) ∧
    (at_ (.queue k 0) → qkKind k = 0 → flag b.cfg 63 = true → b.sqHead ≠ h → h = (b.sqHead + 1) % sqLen b → placeOf s (qkEncl k) pa = .mem →
      physFault s (qkEncl k) pa 64 = none → engineRecords s (subEngine s sub) < 4096 → entryBad s (qkEncl k) d = false → Answers (.sqTail q) s (fun u => taken u ∧
        queueAt u k = { b with sqTail := h, sqHead := h, owed := b.owed + 1 } ∧ others u ∧
        u.work = s.work ++ [{ qkey := k, encl := qkEncl k, op := dfld d 0 1, tag := dfld d 2 2, subch := sub, program := BitVec.ofNat 64 (dfld d 8 8), tmo := dfld d 0x10 8, pathmask := dfld d 0x18 1 }] ∧ u = { s with net := u.net, bw := u.bw, queues := u.queues, work := u.work })) ∧
    (at_ (.queue k 8) → b.active = false → Answers (.cqHead q) s (fun u => taken u ∧ u = { s with net := u.net, bw := u.bw })) ∧
    (at_ (.queue k 8) → b.active = true → cqLen b ≤ h ∨ ahead b.cqTail < ahead h → Answers (.cqHead q) s (fun u => taken u ∧ queueAt u k = { b with headErr := true } ∧ others u)) ∧
    (at_ (.queue k 8) → b.active = true → flag b.cfg 63 = true → b.waiting = [] → (∀ x ∈ s.subs, x.2.notice = none) → h < cqLen b → ahead h ≤ ahead b.cqTail →
      Answers (.cqHead q) s (fun u => taken u ∧ queueAt u k = { b with cqHead := h } ∧ others u)) ∧
    (at_ (.queue k 0x20) → flag v 63 = true → flag b.cfg 63 = false → b.active = false → qkKind k ≠ 0 ∨ (chnOf s (qkEncl k)).ok = true → fld v 3 0 ≤ 12 → fld v 11 8 ≤ 12 →
      fits (fld b.sqBase 51 6 * 64) (2 ^ (fld v 3 0 + 4) * entrySize k) → fits (fld b.cqBase 51 6 * 64) (2 ^ (fld v 11 8 + 4) * 32) → Answers (.queueEnable q) s (fun u =>
        let x := queueAt u k
        taken u ∧ others u ∧ flag x.cfg 63 = true ∧ x.active = true ∧ x.phase = true ∧ x.sqHead = 0 ∧ x.sqTail = 0 ∧ x.cqHead = 0 ∧ x.cqTail = 0 ∧
        fld x.cfg 3 0 = fld v 3 0 ∧ fld x.cfg 11 8 = fld v 11 8 ∧ x.cfgErr = b.cfgErr ∧ x.sqBase = b.sqBase ∧ x.cqBase = b.cqBase)) ∧
    (at_ (.queue k 0x20) → flag v 63 = true → flag b.cfg 63 = false → b.active = true ∨ 12 < fld v 3 0 ∨ 12 < fld v 11 8 → Answers (.queueEnable q) s (fun u =>
      taken u ∧ others u ∧ flag (queueAt u k).cfg 63 = false ∧ (queueAt u k).cfgErr = true ∧ (queueAt u k).active = b.active)) ∧
    (at_ (.queue k 0x20) → flag v 63 = false → flag b.cfg 63 = true → Answers (.queueDisable q) s (fun u => taken u ∧ others u ∧
      queueAt u k = { b with cfg := setBit b.cfg 63 false, active := b.active && !(decide (b.owed = 0) && decide (b.waiting = [])) })) ∧
    (at_ (.chn 0x20) → flag v 0 = true → flag v 1 = false → c.ok = false → flag c.drvLo 0 = true → c.drvLo &&& ~~~(0x37F : Word) = 0 → c.drvHi = 0 →
      (∀ x ∈ s.queues, qkEncl x.1 = q.encl → x.2.active = false) → Answers (.featuresOk q) s (fun u => taken u ∧ chnOf u q.encl = { c with ok := true } ∧
        ∀ m, subBase s q.encl ≤ m → m < subBase s q.encl + subCount s q.encl → subAt u m = {})) ∧
    (at_ (.chn 0x20) → flag v 0 = true → flag v 1 = false → c.ok = false → flag c.drvLo 0 = false ∨ c.drvHi ≠ 0 → Answers (.featuresOk q) s (fun u => taken u ∧
      chnOf u q.encl = { c with fail := true } ∧ u.subs = s.subs)) ∧
    (at_ (.chn 0x20) → flag v 0 = false → flag v 1 = true → Answers (.channelReset q) s (fun u => taken u ∧
      chnOf u q.encl = { c with ok := false, resetEnded := (s.journal.filter (fun x => decide (x.encl = q.encl ∧ x.st ≠ .ended ∧ x.st ≠ .ending))).length } ∧
      (∀ x ∈ u.journal, mine x → x.st = .ended) ∧ (∀ m, subBase s q.encl ≤ m → m < subBase s q.encl + subCount s q.encl → subAt u m = {}) ∧
      ∀ j, qkKind j = 0 → qkEncl j = q.encl → (queueAt u j).active = false ∧ flag (queueAt u j).cfg 63 = false)) ∧
    (idle → Answers (.journalRecordFree opid) s (fun u => (∀ x, x ∈ u.journal ↔ x ∈ s.journal ∧ ¬(x.opid = opid ∧ x.st = .ended)) ∧ u = { s with journal := u.journal })) ∧
    (kind < 3 → e < 16 → slot < 4096 → k = qkeyOf kind e slot → b.unsig ≠ 0 → fld b.cfg 47 32 ≠ 0 → b.unsigAt + 64 * fld b.cfg 47 32 ≤ s.stamp →
      Answers (.coalesceTimeout kind e slot) s (fun u => queueAt u k = { b with unsig := 0 } ∧ others u ∧
        (fld b.cfg 31 16 ≠ 0 → fld b.cfg 31 16 < 1024 → flag (mGet 0 u.src (e * 1024 + fld b.cfg 31 16)) 62 = true) ∧
        (fld b.cfg 31 16 = 0 → u.src = s.src) ∧ u = { s with queues := u.queues, src := u.src })) ∧
    (k = qkeyOf kind e slot → s.stamp < b.unsigAt + 64 * fld b.cfg 47 32 → exec (.coalesceTimeout kind e slot) s = .next s) ∧
    (dbTarget s q = some (.queue k off) → off ≠ 0 → exec (.sqTail q) s = .next s)

/-- Operations of the channel subsystem (13 R347 to R369; 14 R390, R393): what each entry, timer and step makes of a subchannel's record. -/
def Obligations.ChannelOperations : Prop :=
  ∀ (s t : State) (m id p n x : Nat) (w : SubEntry) (r : JRec) (c : ChCmd) (cn : ChCancel) (a : Word) (d : List Byte) (desc : Desc),
    let b := subAt s m
    let ready_ : Prop := CompReady w.qkey s
    let said (status : Nat) (u : State) : Prop := ∃ info, Comp w.qkey w.tag status info s u
    let owner : Prop := b.opid = some id ∧ recOf s id = some r ∧ r.subch = m
    let is (u : State) (r' : JRec) : Prop := recOf u id = some r'
    let pa := fld (chnOf s (qkEncl w.qkey)).sdt 51 6 * 64 + 64 * (m - subBase s (qkEncl w.qkey))
    let readable : Prop := s.dram.csaGiB ≠ 0 ∧ placeOf s (qkEncl w.qkey) pa = .mem ∧ physFault s (qkEncl w.qkey) pa 64 = none
    let redriven (u : State) : Prop := ∃ y, is u y ∧ y.failed = r.failed ||| 2 ^ r.path ∧ y.attempts = r.attempts + 1 ∧
      mGet 0 (subAt u r.subch).failedAt r.path = s.stamp + objN s 0x6120 3 ∧ (objN s 0x6120 2 ≤ r.attempts → y.fin = some 6) ∧ y.cmdseq = r.cmdseq ∧ y.ckpt = r.ckpt
    let live : Prop := recOf s id = some r ∧ r.st = .active ∧ r.fin = none
    let fetched : Prop := live ∧ r.cancel = none ∧ r.cmd = none ∧ (subAt s r.subch).st = .active ∧ executing s r = true ∧ prvRuns s r.engine = true ∧
      readDesc r.engine r.encl r.ckpt (engineWorks r.engine r.encl s) = (.ok a d, t) ∧ recOf t id = some r
    let port := recPort t r
    let node := recNode t r
    let k := skey port node
    (Waits m 0x11 w s → b.opid = none → prvRuns s (subEngine s m) = true → choosePath s (subEngine s m) m w.pathmask 0 = some p → Answers (.start m) s (fun u =>
      (∃ y, u.journal = s.journal ++ [y] ∧ y.opid = s.opidNext ∧ y.st = .active ∧ y.subch = m ∧ y.path = p ∧ y.engine = subEngine s m ∧ y.ckpt = w.program ∧ y.slot = freeRecord s y.engine ∧
        y.tag = w.tag ∧ y.qkey = w.qkey ∧ y.cmd = none ∧ y.deadline = s.stamp + (if w.tmo = 0 then objN s 0x6120 4 else w.tmo)) ∧
      (subAt u m).st = .active ∧ (subAt u m).opid = some s.opidNext ∧ (subAt u m).desc = b.desc ∧ (∀ j, j ≠ m → subAt u j = subAt s j) ∧
      u = { s with journal := u.journal, opidNext := (s.opidNext + 1) % 2 ^ 64, subs := u.subs, work := s.work.erase w })) ∧
    (Waits m 0x11 w s → owner → r.fin = none → ready_ → Answers (.start m) s (fun u => said 0x09 u ∧ u.journal = s.journal ∧ u.subs = s.subs)) ∧
    (Waits m 0x12 w s → b.opid = none → ready_ → Answers (.resume m) s (fun u => said 0x0A u ∧ u.journal = s.journal ∧ u.subs = s.subs)) ∧
    (Waits m 0x12 w s → owner → r.st = .suspended → r.fin = none → r.failed.testBit r.path = false → ready_ → Answers (.resume m) s (fun u => said 0x00 u ∧
      is u { r with st := .active, deadline := r.deadline + s.stamp } ∧ subAt u m = { b with st := .active })) ∧
    (Waits m 0x21 w s → owner → r.st = .active → r.fin = none → r.cmd = some c → Answers (.halt m) s (fun u => is u r ∧
      subAt u m = { b with st := .halting, halts := b.halts ++ [(w.qkey, w.tag)] } ∧ u = { s with subs := u.subs, work := s.work.erase w })) ∧
    (Waits m 0x21 w s → owner → r.st = .active → r.fin = none → r.cmd = none → b.halts = [] → ready_ → Answers (.halt m) s (fun u => said 0x00 u ∧
      is u { r with st := .suspended, deadline := r.deadline - s.stamp } ∧ subAt u m = { b with st := .suspended })) ∧
    (Waits m 0x22 w s → b.opid = none → ready_ → readable → descOf s (qkEncl w.qkey) (memBytes s pa 64) = some desc → Answers (.clear m) s (fun u => said 0x00 u ∧
      subAt u m = { b with desc := some desc, failedAt := [] })) ∧
    (Waits m 0x22 w s → b.opid = none → ready_ → readable → descOf s (qkEncl w.qkey) (memBytes s pa 64) = none → Answers (.clear m) s (fun u => said 0x0E u ∧
      subAt u m = { b with desc := none })) ∧
    (Waits m 0x31 w s → b.opid = none → b.st = .idle → ready_ → Answers (.test m) s (fun u =>
      (∃ info, Comp w.qkey w.tag 0x00 info s u ∧ info % 8 = if b.desc.isSome then 4 else 0) ∧ u.subs = s.subs ∧ u.journal = s.journal)) ∧
    (fetched → stopOk d = true → Answers (.commandSend id) s (fun u => is u { r with fin := some 0 } ∧ u.out = t.out)) ∧
    (fetched → stopOk d = false → cmdOk t r.encl d = false → Answers (.commandSend id) s (fun u => is u { r with fin := some 2 } ∧ u.out = t.out)) ∧
    (fetched → cmdOk t r.encl d = true → dfld d 0 1 = 3 → dfld d 0x1C 1 = 0 → (dfld d 2 2).testBit 3 = false → (dfld d 2 2).testBit 4 = false → nodeOk t = true → portLink t port = true →
      (sessAt t k).st = .open → (sessAt t k).resend = [] → (sessAt t k).queue = [] → hasCredit (sessAt t k) false = true → Answers (.commandSend id) s (fun u =>
        (∃ o f, u.out = t.out ++ [.eth port o] ∧ (sessAt u k).unacked = (sessAt t k).unacked ++ [f] ∧ f.ty = 3 ∧ f.kind = 3 ∧ f.opid = id ∧ f.cmdseq = r.cmdseq ∧
          f.seq = (sessAt t k).txSeq ∧ f.devop = dfld d 1 1 ∧ f.param = dfld d 0x10 8) ∧
        ∃ y z, is u y ∧ y.cmd = some z ∧ z.kind = 3 ∧ z.port = port ∧ z.node = node ∧ z.next = a + 32 ∧ z.timer.isSome = true ∧ y.ckpt = a ∧ y.cmdseq = r.cmdseq)) ∧
    (recOf s id = some r → r.fin.isSome = true ∨ r.cancel.isSome = true ∨ r.st ≠ .active → exec (.commandSend id) s = .next s) ∧
    (live → r.cmd = some c → c.timer = some x → x ≤ s.stamp → Answers (.responseTimerExpiry id) s redriven) ∧
    (live → r.cmd = some c → c.timer = none → exec (.responseTimerExpiry id) s = .next s) ∧
    (live → r.failed.testBit r.path = false → portLink s (recPort s r) = false → Answers (.pathFailure id) s redriven) ∧
    (recOf s id = some r → r.failed.testBit r.path = true → exec (.pathFailure id) s = .next s) ∧
    (live → r.deadline ≤ s.stamp → r.cmd = none → Answers (.operationDeadline id) s (fun u => is u { r with fin := some 5 } ∧ u.subs = s.subs)) ∧
    (live → s.stamp < r.deadline → exec (.operationDeadline id) s = .next s) ∧
    (mGet 0 b.failedAt p ≤ s.stamp → Answers (.pathRecover m p) s (fun u => mGet 0 (subAt u m).failedAt p = 0 ∧
      (∀ j, j ≠ p → mGet 0 (subAt u m).failedAt j = mGet 0 b.failedAt j) ∧ (∀ j, j ≠ m → subAt u j = subAt s j) ∧ u = { s with subs := u.subs })) ∧
    (prvRuns s n = true → Answers (.engineHeartbeatMiss n) s (fun u => (prvOf u n).failed = true ∧ (∀ j, j ≠ n → prvOf u j = prvOf s j) ∧
      ∃ y, u.ras.inbox = s.ras.inbox ++ [y] ∧ y.unit = 272 + n ∧ y.cls = 0x0501 ∧ y.sev = 1 ∧ y.d0 = 1)) ∧
    (prvRuns s n = false → exec (.engineHeartbeatMiss n) s = .next s) ∧
    (prvRuns s n = true → s.journal = [r] → r.engine ≠ n → r.st = .suspended → (prvOf s r.engine).failed = true → subEngine s r.subch = n → Answers (.engineTakeover n) s (fun u =>
      u = { s with journal := [{ r with engine := n, slot := freeRecord s n }] })) ∧
    (prvRuns s n = true → s.journal = [r] → r.engine ≠ n → r.st = .active → r.fin = none → r.cmd = none → (subAt s r.subch).st = .active → (prvOf s r.engine).failed = true →
      subEngine s r.subch = n → Answers (.engineTakeover n) s (fun u => ∃ y, u.journal = [y] ∧ y.engine = n ∧ y.slot = freeRecord s n ∧ y.attempts = r.attempts + 1 ∧ y.st = .active ∧ y.ckpt = r.ckpt)) ∧
    (prvRuns s n = false → exec (.engineTakeover n) s = .next s) ∧
    (owner → r.st = .active ∨ r.st = .suspended → r.fin = some x → x < 256 → r.cmd = none → r.cancel = none → b.notice = none → b.halts = [] → r.clears = [] → CompReady r.qkey s → Answers (.endingSwap id) s (fun u =>
      (∃ y, is u y ∧ y.st = .ended ∧ y.status = x ∧ y.cqslot = some (queueAt s r.qkey).cqTail) ∧ subAt u m = { b with st := .idle, opid := none } ∧
      Comp r.qkey r.tag x (r.lastSeq * 2 ^ 32 + r.resid) s u ∧ ∀ z ∈ r.nodes, (id, z) ∈ u.ends)) ∧
    (recOf s id = some r → r.fin = none → exec (.endingSwap id) s = .next s) ∧
    (live → r.cancel = some cn → cn.deadline ≤ s.stamp → Answers (.cancelComplete id) s (fun u => is u { r with cancel := none } ∧ u = { s with journal := u.journal })) ∧
    (recOf s id = some r → r.cancel = some cn → s.stamp < cn.deadline → exec (.cancelComplete id) s = .next s)

/-- Channel ports and QCT sessions (14 R372 to R396): PORT_CFG and links, frames received and discarded, the session's timers, and END. -/
def Obligations.PortsAndSessions : Prop :=
  ∀ (s t : State) (p node speed sub pa i : Nat) (fec : Bool) (v : Word) (f : QctFrame) (g : TxFrame) (r : JRec) (c : ChCmd) (x : Seg) (opid : Nat),
    let st := obj s 0x7020 p
    let k := skey p node
    let q := sessAt s k
    let kf := skey p f.src
    let a := sessAt s kf
    let as_ (n : Nat) : QctFrame := { f with ty := n }
    let acked : List TxFrame := if f.ackv then ackFrames f.ack a.unacked else a.unacked
    let framed (u : State) : Prop := u = { s with sess := u.sess, ports := u.ports, bw := u.bw }
    let sent (u : State) : Prop := ∃ o, u.out = s.out ++ [.eth p o]
    let alone : Prop := s.sess = [(k, q)] ∧ s.journal = [] ∧ node < 2 ^ 32
    let failed (u : State) : Prop := (sessAt u k).st = .failed ∧ (sessAt u k).unacked = [] ∧ (sessAt u k).sess = q.sess
    let window (d : Bool) := if d then a.bufD else a.bufC
    let next : Prop := f.seq = a.rxSeq ∧ f.ackv = true
    let one (d : Bool) : Prop := f.txc = ((if d then a.rxcD else a.rxcC) + 1) % 2 ^ 16 ∧ (if d then a.rxcD else a.rxcC) < 2 ^ 16 ∧ window d ≠ []
    let mine : Prop := recOf s f.opid = some r ∧ r.cmd = some c ∧ r.st = .active ∧ r.fin = none ∧ r.cancel = none ∧ r.cmdseq = f.cmdseq ∧ (prvOf s r.engine).failed = false
    let taken (u : State) : Prop := (sessAt u kf).rxSeq = (a.rxSeq + 1) % 2 ^ 32 ∧ (portAt u p).used.length = (portAt s p).used.length + 1
    let total := (c.segs.map (·.len)).foldl (· + ·) 0
    (portCfgOk s p v = true → fld v 3 0 < 5 → s.sess = [] → s.journal = [] → Answers (.portCfg p v) s (fun u =>
      obj u 0x7010 p = v &&& 0x0FFFFFCF ∧ flag (obj u 0x7020 p) 8 = false ∧ flag (obj u 0x7020 p) 10 = false ∧
      (flag st 8 = true → flag (obj u 0x7020 p) 9 = true ∧ fld (obj u 0x7020 p) 3 0 = 0) ∧ ObjsKept [(0x7010, p), (0x7020, p)] s u ∧
      u = { s with objs := u.objs, raised := u.raised })) ∧
    (144 ≤ p ∨ 8 ≤ fld v 3 0 ∨ fld v 11 6 < 4 → exec (.portCfg p v) s = .next s) ∧
    (p < 144 → flag st 8 = false → objN s 0x3300 p ≠ 0xFF → speedOk (portMode s p) speed = true → bondMode (portMode s p) = false → p % 4 = 0 →
      Answers (.linkUp p speed true) s (fun u => flag (obj u 0x7020 p) 8 = true ∧ fld (obj u 0x7020 p) 3 0 = speed ∧ (portAt u p).used = [] ∧
        (portAt u p).rxbuf = fld (obj s 0x7010 p) 11 6 ∧ ObjsKept [(0x7020, p)] s u ∧ u = { s with objs := u.objs, ports := u.ports })) ∧
    (p < 144 → flag st 8 = true → exec (.linkUp p speed fec) s = .next s) ∧
    (p < 144 → flag st 8 = true → alone → q.st = .open → Answers (.linkDown p) s (fun u => failed u ∧ flag (obj u 0x7020 p) 8 = false ∧ flag (obj u 0x7020 p) 9 = true ∧
      fld (obj u 0x7020 p) 3 0 = 0 ∧ ObjsKept [(0x7020, p)] s u ∧ u = { s with objs := u.objs, sess := u.sess, raised := u.raised })) ∧
    (flag st 8 = false → exec (.linkDown p) s = .next s) ∧
    (frameCheck s p f = some i → i < 4 → Answers (.frameDiscard p f) s (fun u =>
      fld (obj u 0x9500 p) (63 - 16 * i) (48 - 16 * i) = min 0xFFFF (fld (obj s 0x9500 p) (63 - 16 * i) (48 - 16 * i) + 1) ∧ ObjsKept [(0x9500, p)] s u ∧
      u = { s with objs := u.objs, bw := u.bw })) ∧
    (objN s 0x2030 1 ≠ 4 → frameCheck s p (as_ 2) = none → a.st = .opening → a.resend = [] → a.queue = [] → Answers (.openAck p f) s (fun u =>
      sessAt u kf = { a with st := .open, mac := f.smac, rxSeq := f.seq, crC := f.crlimC, crD := f.crlimD, wantC := f.wantC, wantD := f.wantD, heardAt := s.stamp + qctKeep s, usedAt := s.stamp } ∧
      framed u)) ∧
    (objN s 0x2030 1 = 4 → s.pwr.entered = none → frameCheck s p (as_ 2) ≠ none → Answers (.openAck p f) s (fun u => obj u 0x2030 1 = 0)) ∧
    (GoodFrame p (as_ 8) s → Answers (.ackf p f) s (fun u => (sessAt u kf).unacked = acked ∧ (sessAt u kf).crC = f.crlimC ∧ (sessAt u kf).crD = f.crlimD ∧
      (sessAt u kf).heardAt = s.stamp + qctKeep s ∧ (sessAt u kf).st = .open ∧ framed u)) ∧
    (GoodFrame p (as_ 9) s → acked = [g] → hasCredit { a with crC := f.crlimC, crD := f.crlimD } (dataClass g.ty) = true → Answers (.nak p f) s (fun u =>
      (sessAt u kf).unacked = [{ g with at_ := s.stamp + qctRto s, n := g.n + 1 }] ∧ sent u ∧ ObjSet 0x9510 p (BitVec.ofNat 64 (min (objN s 0x9510 p + 1) (2 ^ 32 - 1))) s u)) ∧
    (objN s 0x2030 1 ≠ 4 → frameCheck s p (as_ 0xB) = none → s.sess = [(kf, a)] → s.journal = [] → f.src < 2 ^ 32 → a.resend = [] → a.queue = [] → f.wantC = false → f.wantD = false → Answers (.close p f) s (fun u =>
      (sessAt u kf).st = .failed ∧ (sessAt u kf).unacked = [] ∧ framed u)) ∧
    (GoodFrame p (as_ 5) s → next → one false → a.toAck < 15 → mine → f.kind ≠ 0 → Answers (.rsp p f) s (fun u => taken u ∧
      recOf u f.opid = some { r with cmd := none, redo := false, devstat := f.devstat, fin := some 1 })) ∧
    (GoodFrame p (as_ 5) s → next → one false → a.toAck < 15 → mine → f.kind = 0 → f.count = total → total < 2 ^ 32 → (subAt s r.subch).st = .active → Answers (.rsp p f) s (fun u => taken u ∧
      ∃ y, recOf u f.opid = some y ∧ y.cmd = none ∧ y.cmdseq = (r.cmdseq + 1) % 2 ^ 32 ∧ y.st = .active ∧ y.resid = (if c.kind = 3 then r.resid else 0))) ∧
    (GoodFrame p (as_ 4) s → next → one true → a.toAck < 15 → mine → c.kind = 2 → c.drop = false → c.segs = [x] → f.count = 0 → f.payload ≠ [] → f.payload.length ≤ x.len →
      spanXlate r.engine r.encl true x.va f.payload.length s = (some [(pa, f.payload.length, x.va)], t) → placeOf s r.encl pa = .mem → (∀ j, j < f.payload.length → Keyed s (pa + j)) →
      Answers (.data p f) s (fun u => taken u ∧ Holds pa f.payload u ∧ u.journal = s.journal)) ∧
    (GoodFrame p (as_ 4) s → one true → f.seq = (a.rxSeq + 2 ^ 32 - 1) % 2 ^ 32 → a.rxSeq < 2 ^ 32 → Answers (.data p f) s (fun u => (sessAt u kf).rxSeq = a.rxSeq ∧ sent u ∧
      (portAt u p).used = (portAt s p).used ∧ u.journal = s.journal ∧ u.mem = s.mem)) ∧
    (GoodFrame p (as_ 4) s → a.bufD = [] → Answers (.data p f) s (fun u => fld (obj u 0x9500 p) 15 0 = min 0xFFFF (fld (obj s 0x9500 p) 15 0 + 1) ∧
      (sessAt u kf).rxSeq = a.rxSeq ∧ u.out = s.out ∧ u.journal = s.journal ∧ u.mem = s.mem)) ∧
    (q.st = .opening → q.sentAt ≤ s.stamp → q.sends ≤ qctMax s → Answers (.retransmissionTimeout p node) s (fun u => sent u ∧ (sessAt u k).st = .opening ∧
      (sessAt u k).sends = q.sends + 1 ∧ (sessAt u k).sentAt = s.stamp + qctRto s)) ∧
    (alone → q.st = .opening → q.sentAt ≤ s.stamp → qctMax s < q.sends → Answers (.retransmissionTimeout p node) s (fun u => failed u ∧ u.out = s.out)) ∧
    (q.st = .opening → s.stamp < q.sentAt → exec (.retransmissionTimeout p node) s = .next s) ∧
    (q.st = .open → q.unacked = [g] → q.resend = [] → q.queue = [] → g.at_ ≤ s.stamp → g.n ≤ qctMax s → hasCredit q (dataClass g.ty) = true →
      Answers (.retransmissionTimeout p node) s (fun u => sent u ∧ (sessAt u k).unacked = [{ g with at_ := s.stamp + qctRto s, n := g.n + 1 }])) ∧
    (q.st = .open → q.probing = false → q.heardAt ≤ s.stamp → Answers (.keepaliveExpiry p node) s (fun u => sent u ∧ (sessAt u k).probing = true ∧ (sessAt u k).sends = 1 ∧
      (sessAt u k).sentAt = s.stamp + qctRto s)) ∧
    (q.st = .open → s.stamp < q.heardAt → exec (.keepaliveExpiry p node) s = .next s) ∧
    (q.st = .open → q.toAck ≠ 0 → q.toAckAt + 1600 ≤ s.stamp → Answers (.ackTimer p node) s (fun u => sent u ∧ (sessAt u k).toAck = 0)) ∧
    (s.stamp < q.toAckAt + 1600 → exec (.ackTimer p node) s = .next s) ∧
    ((∀ j ∈ portSessions s p, (sessAt s j).wantC = false ∧ (sessAt s j).wantD = false) → Answers (.receiveBufferFree p) s (fun u =>
      (portAt u p).used = (portAt s p).used.tail ∧ u = { s with ports := u.ports })) ∧
    ((sub = 1 ∧ v.toNat < 2 ^ 32 ∨ sub = 2 ∧ 0x600 ≤ v.toNat ∧ v.toNat < 2 ^ 16) → s.sess = [] → Answers (.qctNodeWrite sub v) s (fun u =>
      ObjSet 0x7000 sub v s u ∧ u = { s with objs := u.objs })) ∧
    (sub = 2 → v.toNat < 0x600 → exec (.qctNodeWrite sub v) s = .next s) ∧
    (q.st = .open → q.resend = [] → q.queue = [] → hasCredit q false = true → s.ends = [(opid, node)] → Answers (.endSend p node) s (fun u => sent u ∧ u.ends = [] ∧
      ∃ g, (sessAt u k).unacked = q.unacked ++ [g] ∧ g.ty = 7 ∧ g.opid = opid ∧ g.seq = q.txSeq)) ∧
    (q.st ≠ .open → exec (.endSend p node) s = .next s)

/-! ## Boot, enclosures and management (12, 19, 23) -/

/-- Power-up, the boot stages one by one, and module reset (01 R36; 12 R299 to R308; 23 R577 to R583). -/
def Obligations.PowerUpAndReset : Prop :=
  ∀ (s : State) (b : BootIn) (x : Straps) (k c cause g n : Nat) (f : FwImage) (lay : Layout) (slotB : Bool) (r : List Byte) (y : Dimm),
    let started (loss : Bool) (u : State) : Prop :=
      u.phase = .boot 1 ∧ u.stamp = 0 ∧ u.socket = x.socket % 8 ∧ fld (obj u 0x3000 1) 3 0 = 1 ∧ flag (obj u 0x1000 1) 0 = true ∧ u.cores = [] ∧ u.prv = [] ∧ u.mem = {} ∧
      u.tiles = [] ∧ u.slices = [] ∧ u.queues = [] ∧ u.journal = [] ∧ u.sess = [] ∧ u.accel = {} ∧ u.box = s.box ∧ u.yew.lifecycle = s.yew.lifecycle ∧ u.yew.rootHash = s.yew.rootHash ∧
      (∀ t, t < 216 → fld (obj u 0x5020 t) 1 0 = tileCode s.yew.defective t) ∧
      (∀ idx sub, persistOf (okey idx sub) = 4 ∨ (persistOf (okey idx sub) = 2 ∧ loss = false) → obj u idx sub = obj s idx sub) ∧
      (∀ idx sub, persistOf (okey idx sub) = 2 → loss = true → obj u idx sub = objDefault (okey idx sub)) ∧
      u.ras.mlog = (if loss then [] else s.ras.mlog)
    let fair : Prop := x.socket % 8 < 5 ∧ s.yew.lifecycle ≠ 3
    let step_ (k : Nat) : Prop := s.phase = .boot k ∧ b.upto = k + 1
    let stop (k code e : Nat) (u : State) : Prop := u.phase = .failed k ∧ fld (obj u 0x3000 1) 31 24 = code ∧ fld (obj u 0x3000 1) 23 16 = e ∧
      Reports 360 0x0801 4 0xFF (fld (obj u 0x3000 1) 31 0) e s u
    let at_ (k : Nat) (u : State) : Prop := u.phase = .boot k ∧ fld (obj u 0x3000 1) 3 0 = k
    let fwOk (g : Option FwImage) : Prop := fwCheck s g = 0
    let e := lrEncl r
    let ds (c : Nat) : List Dimm := b.dimms.getD c []
    (s.phase = .off → fair → Answers (.inputStartThreshold x) s (started true)) ∧
    (s.phase = .stopped → s.pwr.fell = true → fair → Answers (.inputStartThreshold x) s (started true)) ∧
    (s.phase = .stopped → s.pwr.fell = false → exec (.inputStartThreshold x) s = .next s) ∧
    (s.phase = .off → b.straps = x → b.upto = 1 → fair → Answers (.powerUp b) s (started true)) ∧
    (s.phase = .running ∨ s.phase = .failed k → fair → Answers (.modReset x) s (started false)) ∧
    (s.phase = .stopped ∨ s.phase = .off → exec (.modReset x) s = .next s) ∧
    (s.phase = .running ∨ s.phase = .failed k → fair → Answers (.modRstN x) s (started false)) ∧
    (s.phase = .stopped → fair → Answers (.modRstN x) s (started true)) ∧
    (s.phase = .boot k → k < 16 → s.stageAt + stageTicks s k < s.stamp → Answers .stageBoundExceeded s (fun u => stop k 0x84 0xFF u ∧
      u = { s with phase := u.phase, objs := u.objs, ras := u.ras })) ∧
    (s.phase = .boot k → s.stamp ≤ s.stageAt + stageTicks s k → exec .stageBoundExceeded s = .next s) ∧
    (s.phase = .running → exec .stageBoundExceeded s = .next s) ∧
    (s.phase = .running → exec (.powerUp b) s = .next s) ∧
    (step_ 1 → s.yew.lifecycle ≠ 3 → Answers (.powerUp b) s (fun u => at_ 2 u ∧ mGet [] u.octets (okey 0 3) = Config.document "DeviceID digest")) ∧
    (step_ 2 → (b.fwA = some f ∧ slotB = false ∨ b.fwB = some f ∧ ¬ fwOk b.fwA ∧ slotB = true) → fwOk (some f) → Answers (.powerUp b) s (fun u => at_ 3 u ∧
      flag (obj u 0x3000 1) 8 = slotB ∧ objN u 0x0020 1 = f.secver % 2 ^ 32 * 2 ^ 32 + f.version % 2 ^ 32 ∧
      obj u 0x0020 2 = BitVec.ofNat 64 (max (objN s 0x0020 2) (f.minver % 2 ^ 32)) ∧ mGet [] u.octets (okey 0x0020 3) = f.digest)) ∧
    (step_ 2 → b.fwA = none → b.fwB = none → Answers (.powerUp b) s (stop 2 0x80 0xFF)) ∧
    (step_ 2 → b.fwA = none → b.fwB = some f → ¬ fwOk (some f) → fwCheck s (some f) < 256 → Answers (.powerUp b) s (stop 2 (fwCheck s (some f)) 0xFF)) ∧
    (step_ 3 → trainFails b = none → b.bistFail = none → Answers (.powerUp b) s (fun u => at_ 4 u ∧ u.stageAt = s.stamp ∧
      u.dram = { s.dram with dimms := b.dimms.take 16, capGiB := ((ds 0).map dimmGiB).foldl (· + ·) 0 } ∧
      ∀ c, c < 16 → flag (obj u 0x4000 c) 0 = true ∧ fld (obj u 0x4000 c) 11 8 = ((ds c).map (fun d => d.ranks * d.stack)).foldl (· + ·) 0)) ∧
    (step_ 3 → c < 16 → y ∈ ds c → (y.rdimm = false ∨ y.width ≠ 4 ∨ y.speed ≠ 6400 ∨ (y.ranks ≠ 1 ∧ y.ranks ≠ 2) ∨ (y.stack ≠ 1 ∧ y.stack ≠ 2) ∨ 2 < (ds c).length ∨ some y ≠ (ds 0).head?) →
      Answers (.powerUp b) s (fun u => u.phase = .failed 3)) ∧
    (step_ 3 → trainFails b = some (c, cause) → c < 16 → Answers (.powerUp b) s (fun u => u.phase = .failed 3 ∧ Reports (256 + c) 0x0303 4 0x10 c cause s u ∧
      flag (obj u 0x4000 c) 0 = false ∧ ∀ d, d < 16 → d ≠ c → flag (obj u 0x4000 d) 0 = true)) ∧
    (step_ 4 → pickLayout b s = some (slotB, lay) → Answers (.powerUp b) s (fun u => at_ 5 u ∧ flag (obj u 0x3000 1) 9 = slotB ∧
      u.yew.recs = lay.recs.filter (fun r => decide (lrSocket r = s.socket)) ∧ u.dram.csaGiB = lay.csaGiB ∧ mGet [] u.octets (okey 0x0020 4) = lay.digest)) ∧
    (step_ 4 → pickLayout b s = none → b.layB = none → Answers (.powerUp b) s (stop 4 0x80 0xFF)) ∧
    (step_ 5 → s.yew.lifecycle ≠ 3 → b.noiseFail = [] → flag (obj s 0x8300 1) 0 = false → Answers (.powerUp b) s (fun u => at_ 6 u ∧ u.mem = {} ∧
      ∀ c, c < 16 → flag (obj u 0x4000 c) 1 = true)) ∧
    (step_ 5 → s.yew.lifecycle ≠ 3 → b.noiseFail = [] → flag (obj s 0x8300 1) 0 = true → flag (obj s 0x8300 1) 1 = true → Answers (.powerUp b) s (stop 5 0x85 0xFF)) ∧
    (step_ 6 → b.pciePorts = [] → b.bars = [] → b.missing = [] → s.dram.capGiB ≤ 512 → Answers (.powerUp b) s (fun u => at_ 7 u ∧
      (g < 15 * s.dram.capGiB → g < 8192 → granuleOwner u g = protOwner s g) ∧ (n < 192 → enclOfCore u n = protBit s 0x04 24 n) ∧
      (n < 192 → protBit s 0x04 24 n < 16 → objN u 0x5030 n = firstTile s.yew.defective n) ∧ (n < 128 → objN u 0x3500 n = protStream s n % 2 ^ 64))) ∧
    (step_ 7 → s.yew.stopped = true → Answers (.powerUp b) s (at_ 8)) ∧
    (s.phase = .boot 8 → b.upto = 15 → s.yew.recs = [r] → e < 16 → bootsHere s e = true → s.yew.stopped = false → e ∉ s.yew.held → e ∉ s.yew.refused →
      (coresOf s e).head? = some n → Answers (.powerUp b) s (fun u => u.phase = .running ∧ fld (obj u 0x3000 1) 3 0 = 0xF ∧ flag (obj u 0x3000 2) 0 = true ∧
        (coreOf u n).run = .running ∧ (coreOf u n).pc = obj s 0x3010 e ∧ (∀ m, m < 192 → enclOfCore s m < 16 → m ≠ n → (coreOf u m).run = .gated) ∧
        ∀ m, m < 64 → (prvOf u m).run = .running))

/-- Enclosure reset, attestation, debug sessions and what they permit, and RMA (12 R311 to R324). -/
def Obligations.EnclosuresAndDebug : Prop :=
  ∀ (s : State) (e k n addr file num len : Nat) (img nonce bs : List Byte) (r : List Byte) (x : DbgSess) (y : BitVec 256) (pc : Word),
    let known : Prop := enclKnown s e = true ∧ s.yew.held.contains e = false ∧ s.yew.stopped = false ∧ recOfEncl s e = some r ∧ flag (obj s 0x8300 1) 0 = false
    let rest := s.yew.sess.erase x
    let reach : Prop := dbgCore s n = true
    let c := coreOf s n
    let only (d : Cpu) (u : State) : Prop := coreOf u n = d ∧ (∀ j, j ≠ n → coreOf u j = coreOf s j) ∧ u = { s with cores := u.cores }
    let alive (j : Nat) : Prop := (coreOf s j).run ≠ .lost ∧ (coreOf s j).run ≠ .unpowered ∧ (coreOf s j).run ≠ .failover
    let report_ := attestReport s e nonce
    let owned : Prop := spanMem s e addr report_.length = true
    let written (d : Cpu → Prop) (u : State) : Prop := d (coreOf u n) ∧ (∀ j, j ≠ n → coreOf u j = coreOf s j) ∧
      u = { s with cores := u.cores, tiles := u.tiles, localPend := u.localPend }
    let same (d : Cpu) : Prop := ∀ q, gpr d q = gpr c q ∧ fpr d q = fpr c q ∧ vpr d q = vpr c q
    (known → (∀ j ∈ coresOf s e, alive j) → (coresOf s e).head? = some n → s.yew.refused = [] → Answers (.enclosureReset e img) s (fun u =>
      (∀ j, mGet 0 u.src (e * 1024 + j % 1024) = 0) ∧ (∀ j, qkEncl j = e → queueAt u j = {}) ∧ (chnOf u e).ok = false ∧ mFind u.yew.resetAt e = some s.stamp ∧
      (∀ j, j < 128 → objN s 0x3500 j ≠ 0xFFFF → nbits (objN s 0x3500 j) 15 12 = e → Out.flr (j / 32) (objN s 0x3500 j % 4096) ∈ u.out) ∧
      (∀ j z, mFind u.accel.keys j = some z → z.encl ≠ e) ∧ mGet 0 u.accel.gen e = (mGet 0 s.accel.gen e + 1) % 2 ^ 16 ∧
      (∀ z ∈ u.yew.sess, ¬(z.level = 1 ∧ z.encl = e)) ∧ (∀ j, j ∈ coresOf s e → j ≠ n → (coreOf u j).run = .gated ∧ (coreOf u j).pc = 0 ∧ ∀ q, gpr (coreOf u j) q = ⟨0, .data⟩) ∧
      (bootsHere s e = false → (coreOf u n).run = .gated) ∧
      (bootsHere s e = true → Config.standard "SHA-384" [img] = lrHash r 0x110 → (coreOf u n).run = .running ∧ (coreOf u n).pc = obj s 0x3010 e) ∧
      (bootsHere s e = true → Config.standard "SHA-384" [img] ≠ lrHash r 0x110 → (coreOf u n).run = .gated ∧ e ∈ u.yew.refused ∧
        ∃ z ∈ u.ras.inbox, z.unit = 360 ∧ z.cls = 0x0801 ∧ z.d1 = e))) ∧
    (enclKnown s e = false → exec (.enclosureReset e img) s = .next s) ∧
    (enclKnown s e = true → nonce.length = 32 → fld (obj s 0x3000 2) 9 8 ≠ 2 → s.yew.lifecycle ≠ 3 → Answers (.attestReq e nonce addr) s (fun u =>
      if owned then (∀ j, j < report_.length → Keyed s (addr + j)) → Holds addr report_ u ∧ ∀ a, a < addr ∨ addr + report_.length ≤ a → memByte u a = memByte s a else u = s)) ∧
    (fld (obj s 0x3000 2) 9 8 = 2 ∨ s.yew.lifecycle = 3 → exec (.attestReq e nonce addr) s = .next s) ∧
    (s.yew.nonce = some (bs, k) → k + 960000000 ≤ s.stamp → Answers .nonceExpiry s (fun u => u = { s with yew := { s.yew with nonce := none } })) ∧
    (s.yew.nonce = some (bs, k) → s.stamp < k + 960000000 → exec .nonceExpiry s = .next s) ∧
    (s.yew.sess[k]? = some x → x.endAt ≤ s.stamp → Answers (.debugSessionEnd k) s (fun u => u.yew = { s.yew with sess := rest } ∧
      fld (obj u 0x3000 2) 9 8 = (if rest.any (fun z => decide (z.level = 2)) = true then 2 else if rest ≠ [] then 1 else 0) ∧
      ObjsKept [(0x3000, 2), (0xA200, 1)] s u ∧ (∃ z, u.ras.inbox = s.ras.inbox ++ [z] ∧ z.unit = 360 ∧ z.cls = 0x0803 ∧ z.d0 = 4) ∧
      ∃ z, u.sdp.clog.getLast? = some z ∧ z.sub = 20 ∧ z.origin = 3 ∧ z.principal = 0x11)) ∧
    (s.yew.sess[k]? = some x → s.stamp < x.endAt → exec (.debugSessionEnd k) s = .next s) ∧
    (s.yew.lifecycle < 3 → Answers (.rmaTransition true) s (fun u => u.yew = { s.yew with lifecycle := 3 } ∧ fld (obj u 0x3000 2) 15 12 = 3 ∧ ObjsKept [(0x3000, 2)] s u ∧
      mFind u.octets (okey 0 3) = none ∧ u = { s with yew := u.yew, objs := u.objs, octets := u.octets })) ∧
    (s.yew.lifecycle = 3 → exec (.rmaTransition true) s = .next s) ∧
    exec (.rmaTransition false) s = .next s ∧
    (reach → Answers (.debugRequest (.halt n)) s (only { c with halted := true, cs1At := s.stamp })) ∧
    (reach → c.halted = true → Answers (.debugRequest (.step n)) s (only { c with halted := false, stepping := true, passed := true })) ∧
    (reach → c.halted = true → Answers (.debugRequest (.resume n)) s (only { c with halted := false, passed := true })) ∧
    (reach → Answers (.debugRequest (.readReg n 0 num)) s (fun u =>
      u = { s with out := s.out ++ [.jtag (leBytes 8 (gpr c (BitVec.ofNat 5 num)).v.toNat ++ leBytes 1 (tagCode (gpr c (BitVec.ofNat 5 num)).t))] })) ∧
    (reach → Answers (.debugRequest (.readReg n 5 num)) s (fun u => u = { s with out := s.out ++ [.jtag (leBytes 8 (readSys (.core n) s num).v.toNat)] })) ∧
    (reach → Answers (.debugRequest (.writeReg n 0 num y)) s (written (fun d => gpr d (BitVec.ofNat 5 num) = (if num % 32 = 0 then ⟨0, .data⟩ else ⟨y.setWidth 64, .data⟩) ∧
      (∀ q, q ≠ BitVec.ofNat 5 num → gpr d q = gpr c q) ∧ d.pc = c.pc ∧ d.level = c.level))) ∧
    (reach → Answers (.debugRequest (.writeReg n 4 num y)) s (written (fun d => d.pc = y.setWidth 64 ∧ same d ∧ d.level = c.level))) ∧
    (reach → Answers (.debugRequest (.writeReg n 5 0x412 y)) s (written (fun d => sysReg d 0x412 = y.setWidth 64 &&& 1 ∧ d.pc = c.pc ∧ same d ∧ d.level = c.level))) ∧
    (reach → Answers (.debugRequest (.writeReg n 5 0x0C0 y)) s (written (fun d => d.pc = c.pc ∧ same d ∧ d.level = c.level))) ∧
    (dbgMem s addr len = true → Answers (.debugRequest (.readMem addr len)) s (fun u => u = { s with out := s.out ++ [.jtag (memBytes s addr len)] })) ∧
    (dbgMem s addr bs.length = true → (∀ j, j < bs.length → Keyed s (addr + j)) → Answers (.debugRequest (.writeMem addr bs)) s (fun u => Holds addr bs u ∧
      (∀ a, a < addr ∨ addr + bs.length ≤ a → memByte u a = memByte s a) ∧ u.objs = s.objs)) ∧
    (reach → (n, pc) ∉ s.yew.breaks → Answers (.debugRequest (.setBreak n pc)) s (fun u => u = { s with yew := { s.yew with breaks := s.yew.breaks ++ [(n, pc)] } })) ∧
    (reach → Answers (.debugRequest (.clearBreak n pc)) s (fun u => u = { s with yew := { s.yew with breaks := s.yew.breaks.erase (n, pc) } })) ∧
    (s.yew.sess = [] → exec (.debugRequest (.writeReg n file num y)) s = .next s ∧ exec (.debugRequest (.halt n)) s = .next s ∧
      exec (.debugRequest (.readMem addr len)) s = .next s ∧ exec (.debugRequest (.writeMem addr bs)) s = .next s)

/-- SDP requests, the owner and debug services, segments, heartbeats and mailboxes (19 R506 to R523; 12 R302, R321). -/
def Obligations.ManagementServices : Prop :=
  ∀ (s : State) (f : SdpFrame) (x : SvcIn) (v svc port e m n tec rec_ : Nat) (off : Bool) (g : Staged) (w : Word),
    let node := objN s 0xA000 1
    let fresh : Prop := hears s f.port = true ∧ badFrame f = false ∧ f.flags.testBit 6 = false ∧ f.data.length = f.len ∧ ∀ r ∈ s.sdp.saved, r.tid ≠ f.tid
    let said (svc sub flags status : Nat) (out : List Byte) (u : State) : Prop :=
      u.out = s.out ++ [.can f.port (0x180 + node) (canPad (sdpHeader svc (128 + flags) f.tid status f.idx sub out.length ++ out))]
    let logged (idx sub origin prin result old new : Nat) (u : State) : Prop := ∃ r, u.sdp.clog.getLast? = some r ∧ r.idx = idx ∧ r.sub = sub ∧ r.origin = origin ∧ r.principal = prin ∧
      r.result = result ∧ r.old = old ∧ r.new = new ∧ r.stamp = s.stamp
    let power : Prop := f.idx = 0x2010 ∧ f.sub = 1 ∧ f.data = leBytes 2 v ∧ v < 2 ^ 16
    let slots := obj s 0x3031 1
    let free (n : Nat) : Prop := n < 4 ∧ flag slots n = false ∧ ∀ j, j < n → flag slots j = true
    let k := e * 16 + m
    let b := mboxAt s k
    let mail (op idx sub : Nat) : Prop := e < 16 ∧ m < 16 ∧ b.cmd = some w ∧ fld w 63 56 = op ∧ fld w 31 16 = idx ∧ fld w 15 8 = sub
    let done (status : Nat) (out : List Byte) (u : State) : Prop := (mboxAt u k).cmd = none ∧ (mboxAt u k).status = status ∧ (mboxAt u k).len = out.length ∧
      (mboxData (mboxAt u k)).take out.length = out ∧ (∀ j, j ≠ k → mboxAt u j = mboxAt s j)
    let d1 : Prop := x.tok.level = 1 ∧ tokenCheck s x.tok = 0
    (fresh → f.idx = 0x1100 → f.sub = 1 → Answers (.read f) s (fun u => said 1 1 0 0 (leBytes 8 s.stamp) u ∧ u = { s with out := u.out, sdp := u.sdp })) ∧
    (fresh → f.idx = 0x1200 → Answers (.read f) s (fun u => said 1 f.sub 0 1 [] u ∧ u = { s with out := u.out, sdp := u.sdp })) ∧
    (hears s f.port = false → exec (.read f) s = .next s) ∧
    (fresh → power → 300 ≤ v → v ≤ 1050 → Answers (.write f x) s (fun u => said 2 1 0 0 [] u ∧ objN u 0x2010 1 = v ∧ ObjsKept [(0x2010, 1), (0xA200, 1)] s u ∧
      logged 0x2010 1 f.port 0x10 0 (objN s 0x2010 1 % 2 ^ 16) v u)) ∧
    (fresh → power → v < 300 ∨ 1050 < v → Answers (.write f x) s (fun u => said 2 1 0 7 [] u ∧ ObjsKept [(0xA200, 1)] s u ∧
      logged 0x2010 1 f.port 0x10 7 (objN s 0x2010 1 % 2 ^ 16) v u)) ∧
    (fresh → f.idx = 0x1100 → f.sub = 1 → Answers (.write f x) s (fun u => said 2 1 0 3 [] u ∧ ObjsKept [(0xA200, 1)] s u)) ∧
    (fresh → f.idx = 0x2010 → f.sub = 1 → Answers (.info f) s (fun u => said 3 1 0 0 ([1, 1, 1, 2] ++ leBytes 4 2 ++ leBytes 8 1050) u ∧ u = { s with out := u.out, sdp := u.sdp })) ∧
    (fresh → f.len = 48 → fld slots 3 0 = 0 → Answers (.enrolSlot0 f) s (fun u => said 0x10 1 0 0 [0] u ∧ mGet [] u.octets (okey 0x3030 0) = f.data ∧ flag (obj u 0x3031 1) 0 = true ∧
      ObjsKept [(0x3031, 1), (0xA200, 1)] s u)) ∧
    (fresh → f.len = 48 → fld slots 3 0 ≠ 0 → Answers (.enrolSlot0 f) s (fun u => said 0x10 1 0 0x0E [] u ∧ u.octets = s.octets ∧ ObjsKept [(0xA200, 1)] s u)) ∧
    (fresh → ownerSigned s x.own.sig = true → x.own.hash.length = 48 → free n → Answers (.enrolSlot f x) s (fun u => said 0x10 2 0 0 (leBytes 1 n) u ∧
      mGet [] u.octets (okey 0x3030 n) = x.own.hash ∧ obj u 0x3031 1 = setBit slots n true ∧ ObjsKept [(0x3031, 1), (0xA200, 1)] s u)) ∧
    (fresh → ownerSigned s x.own.sig = false → Answers (.enrolSlot f x) s (fun u => said 0x10 2 0 0x0C [] u ∧ u.octets = s.octets ∧ ObjsKept [(0xA200, 1)] s u)) ∧
    (fresh → ownerSigned s x.own.sig = true → x.own.slot < 4 → flag slots x.own.slot = true → Answers (.revokeSlot f x) s (fun u => said 0x10 3 0 0 (leBytes 1 x.own.slot) u ∧
      obj u 0x3031 1 = setBit slots (4 + x.own.slot) true ∧ ObjsKept [(0x3031, 1), (0xA200, 1)] s u)) ∧
    (fresh → flag (obj s 0x8300 1) 0 = false → Answers (.nonceRequest f) s (fun u => ∃ bs, bs.length = 32 ∧ said 0x11 1 0 0 bs u ∧ u.yew = { s.yew with nonce := some (bs, s.stamp) })) ∧
    (fresh → d1 → Answers (.token false f x) s (fun u => said 0x11 2 0 0 [] u ∧ u.yew.nonce = none ∧
      u.yew.sess = s.yew.sess ++ [⟨1, x.tok.encl, s.stamp + x.tok.length⟩] ∧ mGet false u.yew.d1Since x.tok.encl = true ∧ u.cores = s.cores)) ∧
    (rootLocked s = true → d1 → Answers (.token true f x) s (fun u => u.out = s.out ∧ u.yew.nonce = none ∧ u.yew.sess = s.yew.sess ++ [⟨1, x.tok.encl, s.stamp + x.tok.length⟩])) ∧
    (fresh → tokenCheck s x.tok ≠ 0 → Answers (.token false f x) s (fun u => said 0x11 2 0 (tokenCheck s x.tok) [] u ∧ u.yew = s.yew ∧ ObjsKept [(0xA200, 1)] s u ∧
      ∃ r, u.ras.inbox = s.ras.inbox ++ [r] ∧ r.cls = 0x0803 ∧ r.d0 = 3)) ∧
    (fresh → x.tok.level = 1 → mFind s.yew.resetAt x.tok.encl = some s.stamp → Answers (.token false f x) s (fun u => said 0x11 2 0 0x0D [] u ∧ u.yew = s.yew)) ∧
    (fresh → d1 → s.yew.sess = [⟨1, x.tok.encl, n⟩] → Answers (.releaseToken f x) s (fun u => said 0x11 3 0 0 [] u ∧ u.yew.sess = [] ∧ u.yew.nonce = none ∧ fld (obj u 0x3000 2) 9 8 = 0)) ∧
    (fresh → svc ≠ 1 → svc < 256 → f.flags = 32 → f.len = 4 → leNat f.data = 0 → Answers (.segment svc f x) s (fun u =>
      mFind u.sdp.staged f.port = some ⟨svc, f.tid, f.idx, f.sub, [], s.stamp⟩ ∧ (∀ j, j ≠ f.port → mFind u.sdp.staged j = mFind s.sdp.staged j) ∧ u = { s with sdp := u.sdp })) ∧
    (fresh → svc ≠ 1 → f.flags = 0 → 4 ≤ f.len → mFind s.sdp.staged f.port = some g → g.tid = f.tid → leNat (f.data.take 4) = g.data.length → g.data.length + f.len ≤ 16388 →
      Answers (.segment svc f x) s (fun u => mFind u.sdp.staged f.port = some { g with data := g.data ++ f.data.drop 4, at_ := s.stamp } ∧ u = { s with sdp := u.sdp })) ∧
    (fresh → svc ≠ 1 → f.flags = 0 → mFind s.sdp.staged f.port = none → Answers (.segment svc f x) s (fun u => said svc f.sub 0 0x09 [] u ∧ mFind u.sdp.staged f.port = none)) ∧
    (fresh → f.flags = 0 → f.idx = 0x1100 → f.sub = 1 → f.data = [0, 0, 0, 0, 8] → Answers (.segment 1 f x) s (fun u => said 1 1 0x70 0 (leBytes 4 0 ++ leBytes 8 s.stamp) u)) ∧
    (mFind s.sdp.staged port = some g → g.at_ + 1600000000 ≤ s.stamp → Answers (.stagingTimeout port) s (fun u => mFind u.sdp.staged port = none ∧
      (∀ j, j ≠ port → mFind u.sdp.staged j = mFind s.sdp.staged j) ∧ u = { s with sdp := u.sdp })) ∧
    (mFind s.sdp.staged port = some g → s.stamp < g.at_ + 1600000000 → exec (.stagingTimeout port) s = .next s) ∧
    (rootLocked s = true → objN s 0xA020 1 ≠ 0 → s.sdp.hbAt + objN s 0xA020 1 * 1600000 ≤ s.stamp → node ≠ 0 → flag (obj s 0xA010 0) 15 = false → flag (obj s 0xA010 1) 15 = false → Answers .heartbeat s (fun u =>
      ∃ bs, bs = canPad (sdpHeader 0x7E 0 0 0 0 0 26 ++ leBytes 8 s.stamp ++ leBytes 1 (objN s 0x2030 1) ++ leBytes 1 (fld (obj s 0x3000 1) 3 0) ++
        leBytes 8 (objN s 0x5200 1) ++ leBytes 8 (objN s 0xA200 1)) ∧
        u = { s with out := s.out ++ [.can 0 (0x200 + node) bs, .can 1 (0x200 + node) bs], sdp := { s.sdp with hbAt := s.stamp } })) ∧
    (objN s 0xA020 1 = 0 ∨ s.stamp < s.sdp.hbAt + objN s 0xA020 1 * 1600000 → exec .heartbeat s = .next s) ∧
    (rootLocked s = true → port < 2 → Answers (.busOff port off tec rec_) s (fun u => flag (obj u 0xA010 port) 15 = off ∧ fld (obj u 0xA010 port) 8 0 = tec % 512 ∧
      fld (obj u 0xA010 port) 23 16 = rec_ % 256 ∧
      fld (obj u 0xA010 port) 31 24 = (if off = true ∧ flag (obj s 0xA010 port) 15 = false then min 255 (fld (obj s 0xA010 port) 31 24 + 1) else fld (obj s 0xA010 port) 31 24) ∧
      ObjsKept [(0xA010, port)] s u ∧ u = { s with objs := u.objs })) ∧
    (mail 1 0x1100 1 → Answers (.mailboxRead e m) s (fun u => done 0 (leBytes 8 s.stamp) u ∧ u = { s with sdp := u.sdp })) ∧
    (mail 1 0x2010 1 → Answers (.mailboxRead e m) s (fun u => done 1 [] u ∧ u = { s with sdp := u.sdp })) ∧
    (b.cmd = none → exec (.mailboxRead e m) s = .next s) ∧
    (mail 2 0x5100 e → fld w 55 48 = 8 → leNat ((mboxData b).take 8) = 0 → Answers (.mailboxWrite e m []) s (fun u => done 0 (List.replicate 8 0) u ∧ obj u 0x5100 e = 0 ∧
      ObjsKept [(0x5100, e), (0x5110, e), (0x5120, e), (0xA200, 1)] s u ∧ ∃ r, u.sdp.clog.getLast? = some r ∧ r.idx = 0x5100 ∧ r.sub = e ∧ r.origin = 2 ∧ r.principal = e ∧ r.result = 0)) ∧
    (mail 2 0x2010 1 → fld w 55 48 = 2 → Answers (.mailboxWrite e m []) s (fun u => done 1 [] u ∧ ObjsKept [(0xA200, 1)] s u)) ∧
    (mail 3 0x1100 1 → Answers (.mailboxInfo e m) s (fun u => done 0 ([1, 0, 0, 0] ++ leBytes 4 8 ++ leBytes 8 0) u ∧ u = { s with sdp := u.sdp }))
end

