-- ==== Sys2Proof/Laws/Maps.lean ====
section
/-! SUPPORT. Laws of the sparse tables: what is read after a write, and that every operation keeps the canonical form. -/

namespace Sys2Proof.Machine

variable {α : Type}

/-- An inserted key is found. -/
@[simp] theorem mFind_mIns_same (m : FMap α) (n : Nat) (v : α) : mFind (mIns m n v) n = some v := by
  induction m with
  | nil => simp [mIns, mFind]
  | cons p m ih =>
    obtain ⟨k, w⟩ := p
    simp only [mIns]
    split
    · simp [mFind]
    · split
      · simp [mFind]
      · simp only [mFind]
        rw [if_neg (by omega), ih]

/-- An insertion leaves every other key alone. -/
theorem mFind_mIns_other (m : FMap α) (n k : Nat) (v : α) (h : k ≠ n) : mFind (mIns m n v) k = mFind m k := by
  induction m with
  | nil => simp [mIns, mFind, h.symm]
  | cons p m ih =>
    obtain ⟨j, w⟩ := p
    simp only [mIns]
    split
    · simp [mFind, h.symm]
    · split
      · subst_vars; simp [mFind, h.symm]
      · simp [mFind, ih]

/-- A deleted key is not found. -/
@[simp] theorem mFind_mDel_same (m : FMap α) (n : Nat) : mFind (mDel m n) n = none := by
  induction m with
  | nil => rfl
  | cons p m ih =>
    obtain ⟨k, w⟩ := p
    simp only [mDel]
    split
    · exact ih
    · simp [mFind, *]

/-- A deletion leaves every other key alone. -/
theorem mFind_mDel_other (m : FMap α) (n k : Nat) (h : k ≠ n) : mFind (mDel m n) k = mFind m k := by
  induction m with
  | nil => rfl
  | cons p m ih =>
    obtain ⟨j, w⟩ := p
    simp only [mDel]
    split
    · subst_vars; simp [mFind, ih, h.symm]
    · simp [mFind, ih]

section Put
variable [DecidableEq α]

/-- What is written under a key is read there. -/
@[simp] theorem mGet_mPut_same (d : α) (m : FMap α) (n : Nat) (v : α) : mGet d (mPut d m n v) n = v := by
  unfold mPut mGet
  split <;> simp [*]

/-- A write under a key leaves the reading of every other key alone, whatever that key's unlisted reading. -/
theorem mGet_mPut_other (d e : α) (m : FMap α) (n k : Nat) (v : α) (h : k ≠ n) : mGet e (mPut d m n v) k = mGet e m k := by
  unfold mPut mGet
  split
  · rw [mFind_mDel_other m n k h]
  · rw [mFind_mIns_other m n k v h]

/-- The reading of any key after a write. -/
theorem mGet_mPut (d : α) (m : FMap α) (n k : Nat) (v : α) : mGet d (mPut d m n v) k = if k = n then v else mGet d m k := by
  by_cases h : k = n
  · subst h; simp
  · rw [mGet_mPut_other _ _ _ _ _ _ h, if_neg h]

/-- A write under one key leaves what is listed under every other key. -/
theorem mFind_mPut_other (d : α) (m : FMap α) (v : α) {n k : Nat} (h : k ≠ n) : mFind (mPut d m n v) k = mFind m k := by
  unfold mPut
  split
  · exact mFind_mDel_other m n k h
  · exact mFind_mIns_other m n k v h

end Put

/-- An empty table reads as the unlisted value. -/
@[simp] theorem mGet_nil (d : α) (n : Nat) : mGet d [] n = d := rfl

/-! ## The canonical form -/

/-- Rising from a higher bound is rising from a lower one. -/
theorem mSortedFrom_mono {m : FMap α} {n k : Nat} (h : n ≤ k) (hs : mSortedFrom k m = true) : mSortedFrom n m = true := by
  cases m with
  | nil => rfl
  | cons p m =>
    simp only [mSortedFrom, Bool.and_eq_true, decide_eq_true_eq] at hs ⊢
    exact ⟨by omega, hs.2⟩

/-- An insertion keeps the keys rising. -/
theorem mSortedFrom_mIns {m : FMap α} {b n : Nat} (v : α) (hb : b ≤ n) (hs : mSortedFrom b m = true) :
    mSortedFrom b (mIns m n v) = true := by
  induction m generalizing b with
  | nil => simp [mIns, mSortedFrom, hb]
  | cons p m ih =>
    obtain ⟨k, w⟩ := p
    simp only [mSortedFrom, Bool.and_eq_true, decide_eq_true_eq] at hs
    simp only [mIns]
    split
    · simp only [mSortedFrom, Bool.and_eq_true, decide_eq_true_eq]
      exact ⟨hb, by omega, hs.2⟩
    · split
      · subst_vars; simp only [mSortedFrom, Bool.and_eq_true, decide_eq_true_eq]; exact hs
      · simp only [mSortedFrom, Bool.and_eq_true, decide_eq_true_eq]
        exact ⟨hs.1, ih (by omega) hs.2⟩

/-- A deletion keeps the keys rising. -/
theorem mSortedFrom_mDel {m : FMap α} {b : Nat} (n : Nat) (hs : mSortedFrom b m = true) : mSortedFrom b (mDel m n) = true := by
  induction m generalizing b with
  | nil => rfl
  | cons p m ih =>
    obtain ⟨k, w⟩ := p
    simp only [mSortedFrom, Bool.and_eq_true, decide_eq_true_eq] at hs
    simp only [mDel]
    split
    · exact mSortedFrom_mono (by omega) (ih hs.2)
    · simp only [mSortedFrom, Bool.and_eq_true, decide_eq_true_eq]
      exact ⟨hs.1, ih hs.2⟩

/-- A filter keeps the keys rising. -/
theorem mSortedFrom_filter {m : FMap α} {b : Nat} (f : Nat × α → Bool) (hs : mSortedFrom b m = true) :
    mSortedFrom b (m.filter f) = true := by
  induction m generalizing b with
  | nil => rfl
  | cons p m ih =>
    obtain ⟨k, w⟩ := p
    simp only [mSortedFrom, Bool.and_eq_true, decide_eq_true_eq] at hs
    simp only [List.filter_cons]
    split
    · simp only [mSortedFrom, Bool.and_eq_true, decide_eq_true_eq]; exact ⟨hs.1, ih hs.2⟩
    · exact mSortedFrom_mono (by omega) (ih hs.2)

/-- What an insertion lists is what was listed or the new pair. -/
theorem mem_mIns {m : FMap α} {n : Nat} {v : α} {e : Nat × α} (h : e ∈ mIns m n v) : e = (n, v) ∨ e ∈ m := by
  induction m with
  | nil => simpa [mIns] using h
  | cons p m ih =>
    obtain ⟨k, w⟩ := p
    simp only [mIns] at h
    split at h
    · simpa using h
    · split at h
      · rcases List.mem_cons.1 h with h | h
        · exact .inl h
        · exact .inr (List.mem_cons_of_mem _ h)
      · rcases List.mem_cons.1 h with h | h
        · exact .inr (h ▸ List.mem_cons_self)
        · exact (ih h).imp_right (List.mem_cons_of_mem _)

/-- What a deletion lists was listed. -/
theorem mem_mDel {m : FMap α} {n : Nat} {e : Nat × α} (h : e ∈ mDel m n) : e ∈ m := by
  induction m with
  | nil => exact h
  | cons p m ih =>
    obtain ⟨k, w⟩ := p
    simp only [mDel] at h
    split at h
    · exact List.mem_cons_of_mem _ (ih h)
    · rcases List.mem_cons.1 h with h | h
      · exact h ▸ List.mem_cons_self
      · exact List.mem_cons_of_mem _ (ih h)

section Wf
variable [DecidableEq α]

/-- The empty table is in canonical form. -/
@[simp] theorem mWf_nil (d : α) : mWf d ([] : FMap α) = true := rfl

/-- A write keeps the canonical form. -/
theorem mWf_mPut {d : α} {m : FMap α} (n : Nat) (v : α) (h : mWf d m = true) : mWf d (mPut d m n v) = true := by
  simp only [mWf, Bool.and_eq_true, List.all_eq_true, decide_eq_true_eq] at h ⊢
  unfold mPut
  split
  · exact ⟨mSortedFrom_mDel n h.1, fun e he => h.2 e (mem_mDel he)⟩
  · refine ⟨mSortedFrom_mIns v (Nat.zero_le n) h.1, fun e he => ?_⟩
    rcases mem_mIns he with rfl | he
    · assumption
    · exact h.2 e he

/-- A filter keeps the canonical form. -/
theorem mWf_filter {d : α} {m : FMap α} (f : Nat × α → Bool) (h : mWf d m = true) : mWf d (m.filter f) = true := by
  simp only [mWf, Bool.and_eq_true, List.all_eq_true, decide_eq_true_eq] at h ⊢
  exact ⟨mSortedFrom_filter f h.1, fun e he => h.2 e (List.mem_filter.1 he).1⟩

/-- A table in canonical form lists no key twice: one with the same readings is the same table. -/
theorem mWf_ext {d : α} {m k : FMap α} (hm : mWf d m = true) (hk : mWf d k = true) (h : ∀ n, mGet d m n = mGet d k n) : m = k := by
  have below : ∀ {m : FMap α} {b n : Nat}, mSortedFrom b m = true → n < b → mFind m n = none := by
    intro m
    induction m with
    | nil => intros; rfl
    | cons p m ih =>
      intro b n hs hn
      obtain ⟨j, w⟩ := p
      simp only [mSortedFrom, Bool.and_eq_true, decide_eq_true_eq] at hs
      simp only [mFind]
      rw [if_neg (by omega)]
      exact ih hs.2 (by omega)
  simp only [mWf, Bool.and_eq_true, List.all_eq_true, decide_eq_true_eq] at hm hk
  obtain ⟨hms, hmd⟩ := hm
  obtain ⟨hks, hkd⟩ := hk
  generalize 0 = b at hms hks
  induction m generalizing k b with
  | nil =>
    cases k with
    | nil => rfl
    | cons q k =>
      have := h q.1
      simp only [mGet, mFind, if_true, Option.getD_some, Option.getD_none] at this
      exact absurd this.symm (hkd q List.mem_cons_self)
  | cons p m ih =>
    obtain ⟨i, v⟩ := p
    cases k with
    | nil =>
      have := h i
      simp only [mGet, mFind, if_true, Option.getD_some, Option.getD_none] at this
      exact absurd this (hmd _ List.mem_cons_self)
    | cons q k =>
      obtain ⟨j, w⟩ := q
      simp only [mSortedFrom, Bool.and_eq_true, decide_eq_true_eq] at hms hks
      have hij : i = j := by
        rcases Nat.lt_trichotomy i j with hlt | heq | hlt
        · have := h i
          simp only [mGet, mFind, if_true, Option.getD_some] at this
          rw [if_neg (by omega), below hks.2 (by omega)] at this
          exact absurd this (hmd _ List.mem_cons_self)
        · exact heq
        · have := h j
          simp only [mGet, mFind, if_true, Option.getD_some] at this
          rw [if_neg (by omega), below hms.2 (by omega)] at this
          exact absurd this.symm (hkd _ List.mem_cons_self)
      subst hij
      have hv : v = w := by simpa [mGet, mFind] using h i
      subst hv
      congr 1
      refine ih (fun n => ?_) (fun e he => hmd e (List.mem_cons_of_mem _ he)) (fun e he => hkd e (List.mem_cons_of_mem _ he)) (i + 1) hms.2 hks.2
      by_cases hn : n < i + 1
      · simp [mGet, below hms.2 hn, below hks.2 hn]
      · have := h n
        simpa [mGet, mFind, show i ≠ n by omega] using this

end Wf

end Sys2Proof.Machine
end

