-- ==== Sys2Proof/Laws/State.lean ====
section
/-! SUPPORT. What each shared update of the state leaves alone, one lemma per field and update, and what it writes reads as. -/

namespace Sys2Proof.Machine
open Sys2Proof

/-! ## setObj writes one object -/

@[simp] theorem setObj_phase (idx sub : Nat) (v : Word) (s : State) : (setObj idx sub v s).phase = s.phase := rfl
@[simp] theorem setObj_stageAt (idx sub : Nat) (v : Word) (s : State) : (setObj idx sub v s).stageAt = s.stageAt := rfl
@[simp] theorem setObj_socket (idx sub : Nat) (v : Word) (s : State) : (setObj idx sub v s).socket = s.socket := rfl
@[simp] theorem setObj_stamp (idx sub : Nat) (v : Word) (s : State) : (setObj idx sub v s).stamp = s.stamp := rfl
@[simp] theorem setObj_clk (idx sub : Nat) (v : Word) (s : State) : (setObj idx sub v s).clk = s.clk := rfl
@[simp] theorem setObj_cores (idx sub : Nat) (v : Word) (s : State) : (setObj idx sub v s).cores = s.cores := rfl
@[simp] theorem setObj_prv (idx sub : Nat) (v : Word) (s : State) : (setObj idx sub v s).prv = s.prv := rfl
@[simp] theorem setObj_mem (idx sub : Nat) (v : Word) (s : State) : (setObj idx sub v s).mem = s.mem := rfl
@[simp] theorem setObj_tiles (idx sub : Nat) (v : Word) (s : State) : (setObj idx sub v s).tiles = s.tiles := rfl
@[simp] theorem setObj_slices (idx sub : Nat) (v : Word) (s : State) : (setObj idx sub v s).slices = s.slices := rfl
@[simp] theorem setObj_mesh (idx sub : Nat) (v : Word) (s : State) : (setObj idx sub v s).mesh = s.mesh := rfl
@[simp] theorem setObj_dram (idx sub : Nat) (v : Word) (s : State) : (setObj idx sub v s).dram = s.dram := rfl
@[simp] theorem setObj_ras (idx sub : Nat) (v : Word) (s : State) : (setObj idx sub v s).ras = s.ras := rfl
@[simp] theorem setObj_raised (idx sub : Nat) (v : Word) (s : State) : (setObj idx sub v s).raised = s.raised := rfl
@[simp] theorem setObj_octets (idx sub : Nat) (v : Word) (s : State) : (setObj idx sub v s).octets = s.octets := rfl
@[simp] theorem setObj_iotlb (idx sub : Nat) (v : Word) (s : State) : (setObj idx sub v s).iotlb = s.iotlb := rfl
@[simp] theorem setObj_ioRoots (idx sub : Nat) (v : Word) (s : State) : (setObj idx sub v s).ioRoots = s.ioRoots := rfl
@[simp] theorem setObj_ioAsids (idx sub : Nat) (v : Word) (s : State) : (setObj idx sub v s).ioAsids = s.ioAsids := rfl
@[simp] theorem setObj_pmuSnap (idx sub : Nat) (v : Word) (s : State) : (setObj idx sub v s).pmuSnap = s.pmuSnap := rfl
@[simp] theorem setObj_pmuSnapNext (idx sub : Nat) (v : Word) (s : State) : (setObj idx sub v s).pmuSnapNext = s.pmuSnapNext := rfl
@[simp] theorem setObj_guard (idx sub : Nat) (v : Word) (s : State) : (setObj idx sub v s).guard = s.guard := rfl
@[simp] theorem setObj_loss (idx sub : Nat) (v : Word) (s : State) : (setObj idx sub v s).loss = s.loss := rfl
@[simp] theorem setObj_localPend (idx sub : Nat) (v : Word) (s : State) : (setObj idx sub v s).localPend = s.localPend := rfl
@[simp] theorem setObj_src (idx sub : Nat) (v : Word) (s : State) : (setObj idx sub v s).src = s.src := rfl
@[simp] theorem setObj_ithresh (idx sub : Nat) (v : Word) (s : State) : (setObj idx sub v s).ithresh = s.ithresh := rfl
@[simp] theorem setObj_ilocal (idx sub : Nat) (v : Word) (s : State) : (setObj idx sub v s).ilocal = s.ilocal := rfl
@[simp] theorem setObj_timecmp (idx sub : Nat) (v : Word) (s : State) : (setObj idx sub v s).timecmp = s.timecmp := rfl
@[simp] theorem setObj_linsvc (idx sub : Nat) (v : Word) (s : State) : (setObj idx sub v s).linsvc = s.linsvc := rfl
@[simp] theorem setObj_sroot (idx sub : Nat) (v : Word) (s : State) : (setObj idx sub v s).sroot = s.sroot := rfl
@[simp] theorem setObj_sctl (idx sub : Nat) (v : Word) (s : State) : (setObj idx sub v s).sctl = s.sctl := rfl
@[simp] theorem setObj_bars (idx sub : Nat) (v : Word) (s : State) : (setObj idx sub v s).bars = s.bars := rfl
@[simp] theorem setObj_ptags (idx sub : Nat) (v : Word) (s : State) : (setObj idx sub v s).ptags = s.ptags := rfl
@[simp] theorem setObj_posted (idx sub : Nat) (v : Word) (s : State) : (setObj idx sub v s).posted = s.posted := rfl
@[simp] theorem setObj_links (idx sub : Nat) (v : Word) (s : State) : (setObj idx sub v s).links = s.links := rfl
@[simp] theorem setObj_proxies (idx sub : Nat) (v : Word) (s : State) : (setObj idx sub v s).proxies = s.proxies := rfl
@[simp] theorem setObj_bw (idx sub : Nat) (v : Word) (s : State) : (setObj idx sub v s).bw = s.bw := rfl
@[simp] theorem setObj_bwWindow (idx sub : Nat) (v : Word) (s : State) : (setObj idx sub v s).bwWindow = s.bwWindow := rfl
@[simp] theorem setObj_out (idx sub : Nat) (v : Word) (s : State) : (setObj idx sub v s).out = s.out := rfl
@[simp] theorem setObj_queues (idx sub : Nat) (v : Word) (s : State) : (setObj idx sub v s).queues = s.queues := rfl
@[simp] theorem setObj_chn (idx sub : Nat) (v : Word) (s : State) : (setObj idx sub v s).chn = s.chn := rfl
@[simp] theorem setObj_subs (idx sub : Nat) (v : Word) (s : State) : (setObj idx sub v s).subs = s.subs := rfl
@[simp] theorem setObj_journal (idx sub : Nat) (v : Word) (s : State) : (setObj idx sub v s).journal = s.journal := rfl
@[simp] theorem setObj_opidNext (idx sub : Nat) (v : Word) (s : State) : (setObj idx sub v s).opidNext = s.opidNext := rfl
@[simp] theorem setObj_work (idx sub : Nat) (v : Word) (s : State) : (setObj idx sub v s).work = s.work := rfl
@[simp] theorem setObj_ends (idx sub : Nat) (v : Word) (s : State) : (setObj idx sub v s).ends = s.ends := rfl
@[simp] theorem setObj_sess (idx sub : Nat) (v : Word) (s : State) : (setObj idx sub v s).sess = s.sess := rfl
@[simp] theorem setObj_ports (idx sub : Nat) (v : Word) (s : State) : (setObj idx sub v s).ports = s.ports := rfl
@[simp] theorem setObj_runId (idx sub : Nat) (v : Word) (s : State) : (setObj idx sub v s).runId = s.runId := rfl
@[simp] theorem setObj_mshr (idx sub : Nat) (v : Word) (s : State) : (setObj idx sub v s).mshr = s.mshr := rfl
@[simp] theorem setObj_accel (idx sub : Nat) (v : Word) (s : State) : (setObj idx sub v s).accel = s.accel := rfl
@[simp] theorem setObj_yew (idx sub : Nat) (v : Word) (s : State) : (setObj idx sub v s).yew = s.yew := rfl
@[simp] theorem setObj_pwr (idx sub : Nat) (v : Word) (s : State) : (setObj idx sub v s).pwr = s.pwr := rfl
@[simp] theorem setObj_box (idx sub : Nat) (v : Word) (s : State) : (setObj idx sub v s).box = s.box := rfl
@[simp] theorem setObj_sdp (idx sub : Nat) (v : Word) (s : State) : (setObj idx sub v s).sdp = s.sdp := rfl
@[simp] theorem setObj_net (idx sub : Nat) (v : Word) (s : State) : (setObj idx sub v s).net = s.net := rfl
@[simp] theorem setObj_replay (idx sub : Nat) (v : Word) (s : State) : (setObj idx sub v s).replay = s.replay := rfl
@[simp] theorem setObj_pending (idx sub : Nat) (v : Word) (s : State) : (setObj idx sub v s).pending = s.pending := rfl
@[simp] theorem setObj_free (idx sub : Nat) (v : Word) (s : State) : (setObj idx sub v s).free = s.free := rfl

/-! ## setObjFld writes a field of one object -/

@[simp] theorem setObjFld_phase (idx sub hi lo v : Nat) (s : State) : (setObjFld idx sub hi lo v s).phase = s.phase := rfl
@[simp] theorem setObjFld_stageAt (idx sub hi lo v : Nat) (s : State) : (setObjFld idx sub hi lo v s).stageAt = s.stageAt := rfl
@[simp] theorem setObjFld_socket (idx sub hi lo v : Nat) (s : State) : (setObjFld idx sub hi lo v s).socket = s.socket := rfl
@[simp] theorem setObjFld_stamp (idx sub hi lo v : Nat) (s : State) : (setObjFld idx sub hi lo v s).stamp = s.stamp := rfl
@[simp] theorem setObjFld_clk (idx sub hi lo v : Nat) (s : State) : (setObjFld idx sub hi lo v s).clk = s.clk := rfl
@[simp] theorem setObjFld_cores (idx sub hi lo v : Nat) (s : State) : (setObjFld idx sub hi lo v s).cores = s.cores := rfl
@[simp] theorem setObjFld_prv (idx sub hi lo v : Nat) (s : State) : (setObjFld idx sub hi lo v s).prv = s.prv := rfl
@[simp] theorem setObjFld_mem (idx sub hi lo v : Nat) (s : State) : (setObjFld idx sub hi lo v s).mem = s.mem := rfl
@[simp] theorem setObjFld_tiles (idx sub hi lo v : Nat) (s : State) : (setObjFld idx sub hi lo v s).tiles = s.tiles := rfl
@[simp] theorem setObjFld_slices (idx sub hi lo v : Nat) (s : State) : (setObjFld idx sub hi lo v s).slices = s.slices := rfl
@[simp] theorem setObjFld_mesh (idx sub hi lo v : Nat) (s : State) : (setObjFld idx sub hi lo v s).mesh = s.mesh := rfl
@[simp] theorem setObjFld_dram (idx sub hi lo v : Nat) (s : State) : (setObjFld idx sub hi lo v s).dram = s.dram := rfl
@[simp] theorem setObjFld_ras (idx sub hi lo v : Nat) (s : State) : (setObjFld idx sub hi lo v s).ras = s.ras := rfl
@[simp] theorem setObjFld_raised (idx sub hi lo v : Nat) (s : State) : (setObjFld idx sub hi lo v s).raised = s.raised := rfl
@[simp] theorem setObjFld_octets (idx sub hi lo v : Nat) (s : State) : (setObjFld idx sub hi lo v s).octets = s.octets := rfl
@[simp] theorem setObjFld_iotlb (idx sub hi lo v : Nat) (s : State) : (setObjFld idx sub hi lo v s).iotlb = s.iotlb := rfl
@[simp] theorem setObjFld_ioRoots (idx sub hi lo v : Nat) (s : State) : (setObjFld idx sub hi lo v s).ioRoots = s.ioRoots := rfl
@[simp] theorem setObjFld_ioAsids (idx sub hi lo v : Nat) (s : State) : (setObjFld idx sub hi lo v s).ioAsids = s.ioAsids := rfl
@[simp] theorem setObjFld_pmuSnap (idx sub hi lo v : Nat) (s : State) : (setObjFld idx sub hi lo v s).pmuSnap = s.pmuSnap := rfl
@[simp] theorem setObjFld_pmuSnapNext (idx sub hi lo v : Nat) (s : State) : (setObjFld idx sub hi lo v s).pmuSnapNext = s.pmuSnapNext := rfl
@[simp] theorem setObjFld_guard (idx sub hi lo v : Nat) (s : State) : (setObjFld idx sub hi lo v s).guard = s.guard := rfl
@[simp] theorem setObjFld_loss (idx sub hi lo v : Nat) (s : State) : (setObjFld idx sub hi lo v s).loss = s.loss := rfl
@[simp] theorem setObjFld_localPend (idx sub hi lo v : Nat) (s : State) : (setObjFld idx sub hi lo v s).localPend = s.localPend := rfl
@[simp] theorem setObjFld_src (idx sub hi lo v : Nat) (s : State) : (setObjFld idx sub hi lo v s).src = s.src := rfl
@[simp] theorem setObjFld_ithresh (idx sub hi lo v : Nat) (s : State) : (setObjFld idx sub hi lo v s).ithresh = s.ithresh := rfl
@[simp] theorem setObjFld_ilocal (idx sub hi lo v : Nat) (s : State) : (setObjFld idx sub hi lo v s).ilocal = s.ilocal := rfl
@[simp] theorem setObjFld_timecmp (idx sub hi lo v : Nat) (s : State) : (setObjFld idx sub hi lo v s).timecmp = s.timecmp := rfl
@[simp] theorem setObjFld_linsvc (idx sub hi lo v : Nat) (s : State) : (setObjFld idx sub hi lo v s).linsvc = s.linsvc := rfl
@[simp] theorem setObjFld_sroot (idx sub hi lo v : Nat) (s : State) : (setObjFld idx sub hi lo v s).sroot = s.sroot := rfl
@[simp] theorem setObjFld_sctl (idx sub hi lo v : Nat) (s : State) : (setObjFld idx sub hi lo v s).sctl = s.sctl := rfl
@[simp] theorem setObjFld_bars (idx sub hi lo v : Nat) (s : State) : (setObjFld idx sub hi lo v s).bars = s.bars := rfl
@[simp] theorem setObjFld_ptags (idx sub hi lo v : Nat) (s : State) : (setObjFld idx sub hi lo v s).ptags = s.ptags := rfl
@[simp] theorem setObjFld_posted (idx sub hi lo v : Nat) (s : State) : (setObjFld idx sub hi lo v s).posted = s.posted := rfl
@[simp] theorem setObjFld_links (idx sub hi lo v : Nat) (s : State) : (setObjFld idx sub hi lo v s).links = s.links := rfl
@[simp] theorem setObjFld_proxies (idx sub hi lo v : Nat) (s : State) : (setObjFld idx sub hi lo v s).proxies = s.proxies := rfl
@[simp] theorem setObjFld_bw (idx sub hi lo v : Nat) (s : State) : (setObjFld idx sub hi lo v s).bw = s.bw := rfl
@[simp] theorem setObjFld_bwWindow (idx sub hi lo v : Nat) (s : State) : (setObjFld idx sub hi lo v s).bwWindow = s.bwWindow := rfl
@[simp] theorem setObjFld_out (idx sub hi lo v : Nat) (s : State) : (setObjFld idx sub hi lo v s).out = s.out := rfl
@[simp] theorem setObjFld_queues (idx sub hi lo v : Nat) (s : State) : (setObjFld idx sub hi lo v s).queues = s.queues := rfl
@[simp] theorem setObjFld_chn (idx sub hi lo v : Nat) (s : State) : (setObjFld idx sub hi lo v s).chn = s.chn := rfl
@[simp] theorem setObjFld_subs (idx sub hi lo v : Nat) (s : State) : (setObjFld idx sub hi lo v s).subs = s.subs := rfl
@[simp] theorem setObjFld_journal (idx sub hi lo v : Nat) (s : State) : (setObjFld idx sub hi lo v s).journal = s.journal := rfl
@[simp] theorem setObjFld_opidNext (idx sub hi lo v : Nat) (s : State) : (setObjFld idx sub hi lo v s).opidNext = s.opidNext := rfl
@[simp] theorem setObjFld_work (idx sub hi lo v : Nat) (s : State) : (setObjFld idx sub hi lo v s).work = s.work := rfl
@[simp] theorem setObjFld_ends (idx sub hi lo v : Nat) (s : State) : (setObjFld idx sub hi lo v s).ends = s.ends := rfl
@[simp] theorem setObjFld_sess (idx sub hi lo v : Nat) (s : State) : (setObjFld idx sub hi lo v s).sess = s.sess := rfl
@[simp] theorem setObjFld_ports (idx sub hi lo v : Nat) (s : State) : (setObjFld idx sub hi lo v s).ports = s.ports := rfl
@[simp] theorem setObjFld_runId (idx sub hi lo v : Nat) (s : State) : (setObjFld idx sub hi lo v s).runId = s.runId := rfl
@[simp] theorem setObjFld_mshr (idx sub hi lo v : Nat) (s : State) : (setObjFld idx sub hi lo v s).mshr = s.mshr := rfl
@[simp] theorem setObjFld_accel (idx sub hi lo v : Nat) (s : State) : (setObjFld idx sub hi lo v s).accel = s.accel := rfl
@[simp] theorem setObjFld_yew (idx sub hi lo v : Nat) (s : State) : (setObjFld idx sub hi lo v s).yew = s.yew := rfl
@[simp] theorem setObjFld_pwr (idx sub hi lo v : Nat) (s : State) : (setObjFld idx sub hi lo v s).pwr = s.pwr := rfl
@[simp] theorem setObjFld_box (idx sub hi lo v : Nat) (s : State) : (setObjFld idx sub hi lo v s).box = s.box := rfl
@[simp] theorem setObjFld_sdp (idx sub hi lo v : Nat) (s : State) : (setObjFld idx sub hi lo v s).sdp = s.sdp := rfl
@[simp] theorem setObjFld_net (idx sub hi lo v : Nat) (s : State) : (setObjFld idx sub hi lo v s).net = s.net := rfl
@[simp] theorem setObjFld_replay (idx sub hi lo v : Nat) (s : State) : (setObjFld idx sub hi lo v s).replay = s.replay := rfl
@[simp] theorem setObjFld_pending (idx sub hi lo v : Nat) (s : State) : (setObjFld idx sub hi lo v s).pending = s.pending := rfl
@[simp] theorem setObjFld_free (idx sub hi lo v : Nat) (s : State) : (setObjFld idx sub hi lo v s).free = s.free := rfl

/-! ## bumpObj counts one object up -/

@[simp] theorem bumpObj_phase (idx sub w n : Nat) (s : State) : (bumpObj idx sub w n s).phase = s.phase := rfl
@[simp] theorem bumpObj_stageAt (idx sub w n : Nat) (s : State) : (bumpObj idx sub w n s).stageAt = s.stageAt := rfl
@[simp] theorem bumpObj_socket (idx sub w n : Nat) (s : State) : (bumpObj idx sub w n s).socket = s.socket := rfl
@[simp] theorem bumpObj_stamp (idx sub w n : Nat) (s : State) : (bumpObj idx sub w n s).stamp = s.stamp := rfl
@[simp] theorem bumpObj_clk (idx sub w n : Nat) (s : State) : (bumpObj idx sub w n s).clk = s.clk := rfl
@[simp] theorem bumpObj_cores (idx sub w n : Nat) (s : State) : (bumpObj idx sub w n s).cores = s.cores := rfl
@[simp] theorem bumpObj_prv (idx sub w n : Nat) (s : State) : (bumpObj idx sub w n s).prv = s.prv := rfl
@[simp] theorem bumpObj_mem (idx sub w n : Nat) (s : State) : (bumpObj idx sub w n s).mem = s.mem := rfl
@[simp] theorem bumpObj_tiles (idx sub w n : Nat) (s : State) : (bumpObj idx sub w n s).tiles = s.tiles := rfl
@[simp] theorem bumpObj_slices (idx sub w n : Nat) (s : State) : (bumpObj idx sub w n s).slices = s.slices := rfl
@[simp] theorem bumpObj_mesh (idx sub w n : Nat) (s : State) : (bumpObj idx sub w n s).mesh = s.mesh := rfl
@[simp] theorem bumpObj_dram (idx sub w n : Nat) (s : State) : (bumpObj idx sub w n s).dram = s.dram := rfl
@[simp] theorem bumpObj_ras (idx sub w n : Nat) (s : State) : (bumpObj idx sub w n s).ras = s.ras := rfl
@[simp] theorem bumpObj_raised (idx sub w n : Nat) (s : State) : (bumpObj idx sub w n s).raised = s.raised := rfl
@[simp] theorem bumpObj_octets (idx sub w n : Nat) (s : State) : (bumpObj idx sub w n s).octets = s.octets := rfl
@[simp] theorem bumpObj_iotlb (idx sub w n : Nat) (s : State) : (bumpObj idx sub w n s).iotlb = s.iotlb := rfl
@[simp] theorem bumpObj_ioRoots (idx sub w n : Nat) (s : State) : (bumpObj idx sub w n s).ioRoots = s.ioRoots := rfl
@[simp] theorem bumpObj_ioAsids (idx sub w n : Nat) (s : State) : (bumpObj idx sub w n s).ioAsids = s.ioAsids := rfl
@[simp] theorem bumpObj_pmuSnap (idx sub w n : Nat) (s : State) : (bumpObj idx sub w n s).pmuSnap = s.pmuSnap := rfl
@[simp] theorem bumpObj_pmuSnapNext (idx sub w n : Nat) (s : State) : (bumpObj idx sub w n s).pmuSnapNext = s.pmuSnapNext := rfl
@[simp] theorem bumpObj_guard (idx sub w n : Nat) (s : State) : (bumpObj idx sub w n s).guard = s.guard := rfl
@[simp] theorem bumpObj_loss (idx sub w n : Nat) (s : State) : (bumpObj idx sub w n s).loss = s.loss := rfl
@[simp] theorem bumpObj_localPend (idx sub w n : Nat) (s : State) : (bumpObj idx sub w n s).localPend = s.localPend := rfl
@[simp] theorem bumpObj_src (idx sub w n : Nat) (s : State) : (bumpObj idx sub w n s).src = s.src := rfl
@[simp] theorem bumpObj_ithresh (idx sub w n : Nat) (s : State) : (bumpObj idx sub w n s).ithresh = s.ithresh := rfl
@[simp] theorem bumpObj_ilocal (idx sub w n : Nat) (s : State) : (bumpObj idx sub w n s).ilocal = s.ilocal := rfl
@[simp] theorem bumpObj_timecmp (idx sub w n : Nat) (s : State) : (bumpObj idx sub w n s).timecmp = s.timecmp := rfl
@[simp] theorem bumpObj_linsvc (idx sub w n : Nat) (s : State) : (bumpObj idx sub w n s).linsvc = s.linsvc := rfl
@[simp] theorem bumpObj_sroot (idx sub w n : Nat) (s : State) : (bumpObj idx sub w n s).sroot = s.sroot := rfl
@[simp] theorem bumpObj_sctl (idx sub w n : Nat) (s : State) : (bumpObj idx sub w n s).sctl = s.sctl := rfl
@[simp] theorem bumpObj_bars (idx sub w n : Nat) (s : State) : (bumpObj idx sub w n s).bars = s.bars := rfl
@[simp] theorem bumpObj_ptags (idx sub w n : Nat) (s : State) : (bumpObj idx sub w n s).ptags = s.ptags := rfl
@[simp] theorem bumpObj_posted (idx sub w n : Nat) (s : State) : (bumpObj idx sub w n s).posted = s.posted := rfl
@[simp] theorem bumpObj_links (idx sub w n : Nat) (s : State) : (bumpObj idx sub w n s).links = s.links := rfl
@[simp] theorem bumpObj_proxies (idx sub w n : Nat) (s : State) : (bumpObj idx sub w n s).proxies = s.proxies := rfl
@[simp] theorem bumpObj_bw (idx sub w n : Nat) (s : State) : (bumpObj idx sub w n s).bw = s.bw := rfl
@[simp] theorem bumpObj_bwWindow (idx sub w n : Nat) (s : State) : (bumpObj idx sub w n s).bwWindow = s.bwWindow := rfl
@[simp] theorem bumpObj_out (idx sub w n : Nat) (s : State) : (bumpObj idx sub w n s).out = s.out := rfl
@[simp] theorem bumpObj_queues (idx sub w n : Nat) (s : State) : (bumpObj idx sub w n s).queues = s.queues := rfl
@[simp] theorem bumpObj_chn (idx sub w n : Nat) (s : State) : (bumpObj idx sub w n s).chn = s.chn := rfl
@[simp] theorem bumpObj_subs (idx sub w n : Nat) (s : State) : (bumpObj idx sub w n s).subs = s.subs := rfl
@[simp] theorem bumpObj_journal (idx sub w n : Nat) (s : State) : (bumpObj idx sub w n s).journal = s.journal := rfl
@[simp] theorem bumpObj_opidNext (idx sub w n : Nat) (s : State) : (bumpObj idx sub w n s).opidNext = s.opidNext := rfl
@[simp] theorem bumpObj_work (idx sub w n : Nat) (s : State) : (bumpObj idx sub w n s).work = s.work := rfl
@[simp] theorem bumpObj_ends (idx sub w n : Nat) (s : State) : (bumpObj idx sub w n s).ends = s.ends := rfl
@[simp] theorem bumpObj_sess (idx sub w n : Nat) (s : State) : (bumpObj idx sub w n s).sess = s.sess := rfl
@[simp] theorem bumpObj_ports (idx sub w n : Nat) (s : State) : (bumpObj idx sub w n s).ports = s.ports := rfl
@[simp] theorem bumpObj_runId (idx sub w n : Nat) (s : State) : (bumpObj idx sub w n s).runId = s.runId := rfl
@[simp] theorem bumpObj_mshr (idx sub w n : Nat) (s : State) : (bumpObj idx sub w n s).mshr = s.mshr := rfl
@[simp] theorem bumpObj_accel (idx sub w n : Nat) (s : State) : (bumpObj idx sub w n s).accel = s.accel := rfl
@[simp] theorem bumpObj_yew (idx sub w n : Nat) (s : State) : (bumpObj idx sub w n s).yew = s.yew := rfl
@[simp] theorem bumpObj_pwr (idx sub w n : Nat) (s : State) : (bumpObj idx sub w n s).pwr = s.pwr := rfl
@[simp] theorem bumpObj_box (idx sub w n : Nat) (s : State) : (bumpObj idx sub w n s).box = s.box := rfl
@[simp] theorem bumpObj_sdp (idx sub w n : Nat) (s : State) : (bumpObj idx sub w n s).sdp = s.sdp := rfl
@[simp] theorem bumpObj_net (idx sub w n : Nat) (s : State) : (bumpObj idx sub w n s).net = s.net := rfl
@[simp] theorem bumpObj_replay (idx sub w n : Nat) (s : State) : (bumpObj idx sub w n s).replay = s.replay := rfl
@[simp] theorem bumpObj_pending (idx sub w n : Nat) (s : State) : (bumpObj idx sub w n s).pending = s.pending := rfl
@[simp] theorem bumpObj_free (idx sub w n : Nat) (s : State) : (bumpObj idx sub w n s).free = s.free := rfl

/-! ## setCpu writes one core or engine -/

@[simp] theorem setCpu_phase (h : Hart) (c : Cpu) (s : State) : (setCpu h c s).phase = s.phase := by cases h <;> rfl
@[simp] theorem setCpu_stageAt (h : Hart) (c : Cpu) (s : State) : (setCpu h c s).stageAt = s.stageAt := by cases h <;> rfl
@[simp] theorem setCpu_socket (h : Hart) (c : Cpu) (s : State) : (setCpu h c s).socket = s.socket := by cases h <;> rfl
@[simp] theorem setCpu_stamp (h : Hart) (c : Cpu) (s : State) : (setCpu h c s).stamp = s.stamp := by cases h <;> rfl
@[simp] theorem setCpu_clk (h : Hart) (c : Cpu) (s : State) : (setCpu h c s).clk = s.clk := by cases h <;> rfl
@[simp] theorem setCpu_mem (h : Hart) (c : Cpu) (s : State) : (setCpu h c s).mem = s.mem := by cases h <;> rfl
@[simp] theorem setCpu_tiles (h : Hart) (c : Cpu) (s : State) : (setCpu h c s).tiles = s.tiles := by cases h <;> rfl
@[simp] theorem setCpu_slices (h : Hart) (c : Cpu) (s : State) : (setCpu h c s).slices = s.slices := by cases h <;> rfl
@[simp] theorem setCpu_mesh (h : Hart) (c : Cpu) (s : State) : (setCpu h c s).mesh = s.mesh := by cases h <;> rfl
@[simp] theorem setCpu_dram (h : Hart) (c : Cpu) (s : State) : (setCpu h c s).dram = s.dram := by cases h <;> rfl
@[simp] theorem setCpu_ras (h : Hart) (c : Cpu) (s : State) : (setCpu h c s).ras = s.ras := by cases h <;> rfl
@[simp] theorem setCpu_objs (h : Hart) (c : Cpu) (s : State) : (setCpu h c s).objs = s.objs := by cases h <;> rfl
@[simp] theorem setCpu_raised (h : Hart) (c : Cpu) (s : State) : (setCpu h c s).raised = s.raised := by cases h <;> rfl
@[simp] theorem setCpu_octets (h : Hart) (c : Cpu) (s : State) : (setCpu h c s).octets = s.octets := by cases h <;> rfl
@[simp] theorem setCpu_iotlb (h : Hart) (c : Cpu) (s : State) : (setCpu h c s).iotlb = s.iotlb := by cases h <;> rfl
@[simp] theorem setCpu_ioRoots (h : Hart) (c : Cpu) (s : State) : (setCpu h c s).ioRoots = s.ioRoots := by cases h <;> rfl
@[simp] theorem setCpu_ioAsids (h : Hart) (c : Cpu) (s : State) : (setCpu h c s).ioAsids = s.ioAsids := by cases h <;> rfl
@[simp] theorem setCpu_pmuSnap (h : Hart) (c : Cpu) (s : State) : (setCpu h c s).pmuSnap = s.pmuSnap := by cases h <;> rfl
@[simp] theorem setCpu_pmuSnapNext (h : Hart) (c : Cpu) (s : State) : (setCpu h c s).pmuSnapNext = s.pmuSnapNext := by cases h <;> rfl
@[simp] theorem setCpu_guard (h : Hart) (c : Cpu) (s : State) : (setCpu h c s).guard = s.guard := by cases h <;> rfl
@[simp] theorem setCpu_loss (h : Hart) (c : Cpu) (s : State) : (setCpu h c s).loss = s.loss := by cases h <;> rfl
@[simp] theorem setCpu_localPend (h : Hart) (c : Cpu) (s : State) : (setCpu h c s).localPend = s.localPend := by cases h <;> rfl
@[simp] theorem setCpu_src (h : Hart) (c : Cpu) (s : State) : (setCpu h c s).src = s.src := by cases h <;> rfl
@[simp] theorem setCpu_ithresh (h : Hart) (c : Cpu) (s : State) : (setCpu h c s).ithresh = s.ithresh := by cases h <;> rfl
@[simp] theorem setCpu_ilocal (h : Hart) (c : Cpu) (s : State) : (setCpu h c s).ilocal = s.ilocal := by cases h <;> rfl
@[simp] theorem setCpu_timecmp (h : Hart) (c : Cpu) (s : State) : (setCpu h c s).timecmp = s.timecmp := by cases h <;> rfl
@[simp] theorem setCpu_linsvc (h : Hart) (c : Cpu) (s : State) : (setCpu h c s).linsvc = s.linsvc := by cases h <;> rfl
@[simp] theorem setCpu_sroot (h : Hart) (c : Cpu) (s : State) : (setCpu h c s).sroot = s.sroot := by cases h <;> rfl
@[simp] theorem setCpu_sctl (h : Hart) (c : Cpu) (s : State) : (setCpu h c s).sctl = s.sctl := by cases h <;> rfl
@[simp] theorem setCpu_bars (h : Hart) (c : Cpu) (s : State) : (setCpu h c s).bars = s.bars := by cases h <;> rfl
@[simp] theorem setCpu_ptags (h : Hart) (c : Cpu) (s : State) : (setCpu h c s).ptags = s.ptags := by cases h <;> rfl
@[simp] theorem setCpu_posted (h : Hart) (c : Cpu) (s : State) : (setCpu h c s).posted = s.posted := by cases h <;> rfl
@[simp] theorem setCpu_links (h : Hart) (c : Cpu) (s : State) : (setCpu h c s).links = s.links := by cases h <;> rfl
@[simp] theorem setCpu_proxies (h : Hart) (c : Cpu) (s : State) : (setCpu h c s).proxies = s.proxies := by cases h <;> rfl
@[simp] theorem setCpu_bw (h : Hart) (c : Cpu) (s : State) : (setCpu h c s).bw = s.bw := by cases h <;> rfl
@[simp] theorem setCpu_bwWindow (h : Hart) (c : Cpu) (s : State) : (setCpu h c s).bwWindow = s.bwWindow := by cases h <;> rfl
@[simp] theorem setCpu_out (h : Hart) (c : Cpu) (s : State) : (setCpu h c s).out = s.out := by cases h <;> rfl
@[simp] theorem setCpu_queues (h : Hart) (c : Cpu) (s : State) : (setCpu h c s).queues = s.queues := by cases h <;> rfl
@[simp] theorem setCpu_chn (h : Hart) (c : Cpu) (s : State) : (setCpu h c s).chn = s.chn := by cases h <;> rfl
@[simp] theorem setCpu_subs (h : Hart) (c : Cpu) (s : State) : (setCpu h c s).subs = s.subs := by cases h <;> rfl
@[simp] theorem setCpu_journal (h : Hart) (c : Cpu) (s : State) : (setCpu h c s).journal = s.journal := by cases h <;> rfl
@[simp] theorem setCpu_opidNext (h : Hart) (c : Cpu) (s : State) : (setCpu h c s).opidNext = s.opidNext := by cases h <;> rfl
@[simp] theorem setCpu_work (h : Hart) (c : Cpu) (s : State) : (setCpu h c s).work = s.work := by cases h <;> rfl
@[simp] theorem setCpu_ends (h : Hart) (c : Cpu) (s : State) : (setCpu h c s).ends = s.ends := by cases h <;> rfl
@[simp] theorem setCpu_sess (h : Hart) (c : Cpu) (s : State) : (setCpu h c s).sess = s.sess := by cases h <;> rfl
@[simp] theorem setCpu_ports (h : Hart) (c : Cpu) (s : State) : (setCpu h c s).ports = s.ports := by cases h <;> rfl
@[simp] theorem setCpu_runId (h : Hart) (c : Cpu) (s : State) : (setCpu h c s).runId = s.runId := by cases h <;> rfl
@[simp] theorem setCpu_mshr (h : Hart) (c : Cpu) (s : State) : (setCpu h c s).mshr = s.mshr := by cases h <;> rfl
@[simp] theorem setCpu_accel (h : Hart) (c : Cpu) (s : State) : (setCpu h c s).accel = s.accel := by cases h <;> rfl
@[simp] theorem setCpu_yew (h : Hart) (c : Cpu) (s : State) : (setCpu h c s).yew = s.yew := by cases h <;> rfl
@[simp] theorem setCpu_pwr (h : Hart) (c : Cpu) (s : State) : (setCpu h c s).pwr = s.pwr := by cases h <;> rfl
@[simp] theorem setCpu_box (h : Hart) (c : Cpu) (s : State) : (setCpu h c s).box = s.box := by cases h <;> rfl
@[simp] theorem setCpu_sdp (h : Hart) (c : Cpu) (s : State) : (setCpu h c s).sdp = s.sdp := by cases h <;> rfl
@[simp] theorem setCpu_net (h : Hart) (c : Cpu) (s : State) : (setCpu h c s).net = s.net := by cases h <;> rfl
@[simp] theorem setCpu_replay (h : Hart) (c : Cpu) (s : State) : (setCpu h c s).replay = s.replay := by cases h <;> rfl
@[simp] theorem setCpu_pending (h : Hart) (c : Cpu) (s : State) : (setCpu h c s).pending = s.pending := by cases h <;> rfl
@[simp] theorem setCpu_free (h : Hart) (c : Cpu) (s : State) : (setCpu h c s).free = s.free := by cases h <;> rfl

/-! ## modCpu changes one core or engine -/

@[simp] theorem modCpu_phase (h : Hart) (f : Cpu → Cpu) (s : State) : (modCpu h f s).phase = s.phase := by cases h <;> rfl
@[simp] theorem modCpu_stageAt (h : Hart) (f : Cpu → Cpu) (s : State) : (modCpu h f s).stageAt = s.stageAt := by cases h <;> rfl
@[simp] theorem modCpu_socket (h : Hart) (f : Cpu → Cpu) (s : State) : (modCpu h f s).socket = s.socket := by cases h <;> rfl
@[simp] theorem modCpu_stamp (h : Hart) (f : Cpu → Cpu) (s : State) : (modCpu h f s).stamp = s.stamp := by cases h <;> rfl
@[simp] theorem modCpu_clk (h : Hart) (f : Cpu → Cpu) (s : State) : (modCpu h f s).clk = s.clk := by cases h <;> rfl
@[simp] theorem modCpu_mem (h : Hart) (f : Cpu → Cpu) (s : State) : (modCpu h f s).mem = s.mem := by cases h <;> rfl
@[simp] theorem modCpu_tiles (h : Hart) (f : Cpu → Cpu) (s : State) : (modCpu h f s).tiles = s.tiles := by cases h <;> rfl
@[simp] theorem modCpu_slices (h : Hart) (f : Cpu → Cpu) (s : State) : (modCpu h f s).slices = s.slices := by cases h <;> rfl
@[simp] theorem modCpu_mesh (h : Hart) (f : Cpu → Cpu) (s : State) : (modCpu h f s).mesh = s.mesh := by cases h <;> rfl
@[simp] theorem modCpu_dram (h : Hart) (f : Cpu → Cpu) (s : State) : (modCpu h f s).dram = s.dram := by cases h <;> rfl
@[simp] theorem modCpu_ras (h : Hart) (f : Cpu → Cpu) (s : State) : (modCpu h f s).ras = s.ras := by cases h <;> rfl
@[simp] theorem modCpu_objs (h : Hart) (f : Cpu → Cpu) (s : State) : (modCpu h f s).objs = s.objs := by cases h <;> rfl
@[simp] theorem modCpu_raised (h : Hart) (f : Cpu → Cpu) (s : State) : (modCpu h f s).raised = s.raised := by cases h <;> rfl
@[simp] theorem modCpu_octets (h : Hart) (f : Cpu → Cpu) (s : State) : (modCpu h f s).octets = s.octets := by cases h <;> rfl
@[simp] theorem modCpu_iotlb (h : Hart) (f : Cpu → Cpu) (s : State) : (modCpu h f s).iotlb = s.iotlb := by cases h <;> rfl
@[simp] theorem modCpu_ioRoots (h : Hart) (f : Cpu → Cpu) (s : State) : (modCpu h f s).ioRoots = s.ioRoots := by cases h <;> rfl
@[simp] theorem modCpu_ioAsids (h : Hart) (f : Cpu → Cpu) (s : State) : (modCpu h f s).ioAsids = s.ioAsids := by cases h <;> rfl
@[simp] theorem modCpu_pmuSnap (h : Hart) (f : Cpu → Cpu) (s : State) : (modCpu h f s).pmuSnap = s.pmuSnap := by cases h <;> rfl
@[simp] theorem modCpu_pmuSnapNext (h : Hart) (f : Cpu → Cpu) (s : State) : (modCpu h f s).pmuSnapNext = s.pmuSnapNext := by cases h <;> rfl
@[simp] theorem modCpu_guard (h : Hart) (f : Cpu → Cpu) (s : State) : (modCpu h f s).guard = s.guard := by cases h <;> rfl
@[simp] theorem modCpu_loss (h : Hart) (f : Cpu → Cpu) (s : State) : (modCpu h f s).loss = s.loss := by cases h <;> rfl
@[simp] theorem modCpu_localPend (h : Hart) (f : Cpu → Cpu) (s : State) : (modCpu h f s).localPend = s.localPend := by cases h <;> rfl
@[simp] theorem modCpu_src (h : Hart) (f : Cpu → Cpu) (s : State) : (modCpu h f s).src = s.src := by cases h <;> rfl
@[simp] theorem modCpu_ithresh (h : Hart) (f : Cpu → Cpu) (s : State) : (modCpu h f s).ithresh = s.ithresh := by cases h <;> rfl
@[simp] theorem modCpu_ilocal (h : Hart) (f : Cpu → Cpu) (s : State) : (modCpu h f s).ilocal = s.ilocal := by cases h <;> rfl
@[simp] theorem modCpu_timecmp (h : Hart) (f : Cpu → Cpu) (s : State) : (modCpu h f s).timecmp = s.timecmp := by cases h <;> rfl
@[simp] theorem modCpu_linsvc (h : Hart) (f : Cpu → Cpu) (s : State) : (modCpu h f s).linsvc = s.linsvc := by cases h <;> rfl
@[simp] theorem modCpu_sroot (h : Hart) (f : Cpu → Cpu) (s : State) : (modCpu h f s).sroot = s.sroot := by cases h <;> rfl
@[simp] theorem modCpu_sctl (h : Hart) (f : Cpu → Cpu) (s : State) : (modCpu h f s).sctl = s.sctl := by cases h <;> rfl
@[simp] theorem modCpu_bars (h : Hart) (f : Cpu → Cpu) (s : State) : (modCpu h f s).bars = s.bars := by cases h <;> rfl
@[simp] theorem modCpu_ptags (h : Hart) (f : Cpu → Cpu) (s : State) : (modCpu h f s).ptags = s.ptags := by cases h <;> rfl
@[simp] theorem modCpu_posted (h : Hart) (f : Cpu → Cpu) (s : State) : (modCpu h f s).posted = s.posted := by cases h <;> rfl
@[simp] theorem modCpu_links (h : Hart) (f : Cpu → Cpu) (s : State) : (modCpu h f s).links = s.links := by cases h <;> rfl
@[simp] theorem modCpu_proxies (h : Hart) (f : Cpu → Cpu) (s : State) : (modCpu h f s).proxies = s.proxies := by cases h <;> rfl
@[simp] theorem modCpu_bw (h : Hart) (f : Cpu → Cpu) (s : State) : (modCpu h f s).bw = s.bw := by cases h <;> rfl
@[simp] theorem modCpu_bwWindow (h : Hart) (f : Cpu → Cpu) (s : State) : (modCpu h f s).bwWindow = s.bwWindow := by cases h <;> rfl
@[simp] theorem modCpu_out (h : Hart) (f : Cpu → Cpu) (s : State) : (modCpu h f s).out = s.out := by cases h <;> rfl
@[simp] theorem modCpu_queues (h : Hart) (f : Cpu → Cpu) (s : State) : (modCpu h f s).queues = s.queues := by cases h <;> rfl
@[simp] theorem modCpu_chn (h : Hart) (f : Cpu → Cpu) (s : State) : (modCpu h f s).chn = s.chn := by cases h <;> rfl
@[simp] theorem modCpu_subs (h : Hart) (f : Cpu → Cpu) (s : State) : (modCpu h f s).subs = s.subs := by cases h <;> rfl
@[simp] theorem modCpu_journal (h : Hart) (f : Cpu → Cpu) (s : State) : (modCpu h f s).journal = s.journal := by cases h <;> rfl
@[simp] theorem modCpu_opidNext (h : Hart) (f : Cpu → Cpu) (s : State) : (modCpu h f s).opidNext = s.opidNext := by cases h <;> rfl
@[simp] theorem modCpu_work (h : Hart) (f : Cpu → Cpu) (s : State) : (modCpu h f s).work = s.work := by cases h <;> rfl
@[simp] theorem modCpu_ends (h : Hart) (f : Cpu → Cpu) (s : State) : (modCpu h f s).ends = s.ends := by cases h <;> rfl
@[simp] theorem modCpu_sess (h : Hart) (f : Cpu → Cpu) (s : State) : (modCpu h f s).sess = s.sess := by cases h <;> rfl
@[simp] theorem modCpu_ports (h : Hart) (f : Cpu → Cpu) (s : State) : (modCpu h f s).ports = s.ports := by cases h <;> rfl
@[simp] theorem modCpu_runId (h : Hart) (f : Cpu → Cpu) (s : State) : (modCpu h f s).runId = s.runId := by cases h <;> rfl
@[simp] theorem modCpu_mshr (h : Hart) (f : Cpu → Cpu) (s : State) : (modCpu h f s).mshr = s.mshr := by cases h <;> rfl
@[simp] theorem modCpu_accel (h : Hart) (f : Cpu → Cpu) (s : State) : (modCpu h f s).accel = s.accel := by cases h <;> rfl
@[simp] theorem modCpu_yew (h : Hart) (f : Cpu → Cpu) (s : State) : (modCpu h f s).yew = s.yew := by cases h <;> rfl
@[simp] theorem modCpu_pwr (h : Hart) (f : Cpu → Cpu) (s : State) : (modCpu h f s).pwr = s.pwr := by cases h <;> rfl
@[simp] theorem modCpu_box (h : Hart) (f : Cpu → Cpu) (s : State) : (modCpu h f s).box = s.box := by cases h <;> rfl
@[simp] theorem modCpu_sdp (h : Hart) (f : Cpu → Cpu) (s : State) : (modCpu h f s).sdp = s.sdp := by cases h <;> rfl
@[simp] theorem modCpu_net (h : Hart) (f : Cpu → Cpu) (s : State) : (modCpu h f s).net = s.net := by cases h <;> rfl
@[simp] theorem modCpu_replay (h : Hart) (f : Cpu → Cpu) (s : State) : (modCpu h f s).replay = s.replay := by cases h <;> rfl
@[simp] theorem modCpu_pending (h : Hart) (f : Cpu → Cpu) (s : State) : (modCpu h f s).pending = s.pending := by cases h <;> rfl
@[simp] theorem modCpu_free (h : Hart) (f : Cpu → Cpu) (s : State) : (modCpu h f s).free = s.free := by cases h <;> rfl

/-! ## modTile changes one tile -/

@[simp] theorem modTile_phase (t : Nat) (f : Tile → Tile) (s : State) : (modTile t f s).phase = s.phase := rfl
@[simp] theorem modTile_stageAt (t : Nat) (f : Tile → Tile) (s : State) : (modTile t f s).stageAt = s.stageAt := rfl
@[simp] theorem modTile_socket (t : Nat) (f : Tile → Tile) (s : State) : (modTile t f s).socket = s.socket := rfl
@[simp] theorem modTile_stamp (t : Nat) (f : Tile → Tile) (s : State) : (modTile t f s).stamp = s.stamp := rfl
@[simp] theorem modTile_clk (t : Nat) (f : Tile → Tile) (s : State) : (modTile t f s).clk = s.clk := rfl
@[simp] theorem modTile_cores (t : Nat) (f : Tile → Tile) (s : State) : (modTile t f s).cores = s.cores := rfl
@[simp] theorem modTile_prv (t : Nat) (f : Tile → Tile) (s : State) : (modTile t f s).prv = s.prv := rfl
@[simp] theorem modTile_mem (t : Nat) (f : Tile → Tile) (s : State) : (modTile t f s).mem = s.mem := rfl
@[simp] theorem modTile_slices (t : Nat) (f : Tile → Tile) (s : State) : (modTile t f s).slices = s.slices := rfl
@[simp] theorem modTile_mesh (t : Nat) (f : Tile → Tile) (s : State) : (modTile t f s).mesh = s.mesh := rfl
@[simp] theorem modTile_dram (t : Nat) (f : Tile → Tile) (s : State) : (modTile t f s).dram = s.dram := rfl
@[simp] theorem modTile_ras (t : Nat) (f : Tile → Tile) (s : State) : (modTile t f s).ras = s.ras := rfl
@[simp] theorem modTile_objs (t : Nat) (f : Tile → Tile) (s : State) : (modTile t f s).objs = s.objs := rfl
@[simp] theorem modTile_raised (t : Nat) (f : Tile → Tile) (s : State) : (modTile t f s).raised = s.raised := rfl
@[simp] theorem modTile_octets (t : Nat) (f : Tile → Tile) (s : State) : (modTile t f s).octets = s.octets := rfl
@[simp] theorem modTile_iotlb (t : Nat) (f : Tile → Tile) (s : State) : (modTile t f s).iotlb = s.iotlb := rfl
@[simp] theorem modTile_ioRoots (t : Nat) (f : Tile → Tile) (s : State) : (modTile t f s).ioRoots = s.ioRoots := rfl
@[simp] theorem modTile_ioAsids (t : Nat) (f : Tile → Tile) (s : State) : (modTile t f s).ioAsids = s.ioAsids := rfl
@[simp] theorem modTile_pmuSnap (t : Nat) (f : Tile → Tile) (s : State) : (modTile t f s).pmuSnap = s.pmuSnap := rfl
@[simp] theorem modTile_pmuSnapNext (t : Nat) (f : Tile → Tile) (s : State) : (modTile t f s).pmuSnapNext = s.pmuSnapNext := rfl
@[simp] theorem modTile_guard (t : Nat) (f : Tile → Tile) (s : State) : (modTile t f s).guard = s.guard := rfl
@[simp] theorem modTile_loss (t : Nat) (f : Tile → Tile) (s : State) : (modTile t f s).loss = s.loss := rfl
@[simp] theorem modTile_localPend (t : Nat) (f : Tile → Tile) (s : State) : (modTile t f s).localPend = s.localPend := rfl
@[simp] theorem modTile_src (t : Nat) (f : Tile → Tile) (s : State) : (modTile t f s).src = s.src := rfl
@[simp] theorem modTile_ithresh (t : Nat) (f : Tile → Tile) (s : State) : (modTile t f s).ithresh = s.ithresh := rfl
@[simp] theorem modTile_ilocal (t : Nat) (f : Tile → Tile) (s : State) : (modTile t f s).ilocal = s.ilocal := rfl
@[simp] theorem modTile_timecmp (t : Nat) (f : Tile → Tile) (s : State) : (modTile t f s).timecmp = s.timecmp := rfl
@[simp] theorem modTile_linsvc (t : Nat) (f : Tile → Tile) (s : State) : (modTile t f s).linsvc = s.linsvc := rfl
@[simp] theorem modTile_sroot (t : Nat) (f : Tile → Tile) (s : State) : (modTile t f s).sroot = s.sroot := rfl
@[simp] theorem modTile_sctl (t : Nat) (f : Tile → Tile) (s : State) : (modTile t f s).sctl = s.sctl := rfl
@[simp] theorem modTile_bars (t : Nat) (f : Tile → Tile) (s : State) : (modTile t f s).bars = s.bars := rfl
@[simp] theorem modTile_ptags (t : Nat) (f : Tile → Tile) (s : State) : (modTile t f s).ptags = s.ptags := rfl
@[simp] theorem modTile_posted (t : Nat) (f : Tile → Tile) (s : State) : (modTile t f s).posted = s.posted := rfl
@[simp] theorem modTile_links (t : Nat) (f : Tile → Tile) (s : State) : (modTile t f s).links = s.links := rfl
@[simp] theorem modTile_proxies (t : Nat) (f : Tile → Tile) (s : State) : (modTile t f s).proxies = s.proxies := rfl
@[simp] theorem modTile_bw (t : Nat) (f : Tile → Tile) (s : State) : (modTile t f s).bw = s.bw := rfl
@[simp] theorem modTile_bwWindow (t : Nat) (f : Tile → Tile) (s : State) : (modTile t f s).bwWindow = s.bwWindow := rfl
@[simp] theorem modTile_out (t : Nat) (f : Tile → Tile) (s : State) : (modTile t f s).out = s.out := rfl
@[simp] theorem modTile_queues (t : Nat) (f : Tile → Tile) (s : State) : (modTile t f s).queues = s.queues := rfl
@[simp] theorem modTile_chn (t : Nat) (f : Tile → Tile) (s : State) : (modTile t f s).chn = s.chn := rfl
@[simp] theorem modTile_subs (t : Nat) (f : Tile → Tile) (s : State) : (modTile t f s).subs = s.subs := rfl
@[simp] theorem modTile_journal (t : Nat) (f : Tile → Tile) (s : State) : (modTile t f s).journal = s.journal := rfl
@[simp] theorem modTile_opidNext (t : Nat) (f : Tile → Tile) (s : State) : (modTile t f s).opidNext = s.opidNext := rfl
@[simp] theorem modTile_work (t : Nat) (f : Tile → Tile) (s : State) : (modTile t f s).work = s.work := rfl
@[simp] theorem modTile_ends (t : Nat) (f : Tile → Tile) (s : State) : (modTile t f s).ends = s.ends := rfl
@[simp] theorem modTile_sess (t : Nat) (f : Tile → Tile) (s : State) : (modTile t f s).sess = s.sess := rfl
@[simp] theorem modTile_ports (t : Nat) (f : Tile → Tile) (s : State) : (modTile t f s).ports = s.ports := rfl
@[simp] theorem modTile_runId (t : Nat) (f : Tile → Tile) (s : State) : (modTile t f s).runId = s.runId := rfl
@[simp] theorem modTile_mshr (t : Nat) (f : Tile → Tile) (s : State) : (modTile t f s).mshr = s.mshr := rfl
@[simp] theorem modTile_accel (t : Nat) (f : Tile → Tile) (s : State) : (modTile t f s).accel = s.accel := rfl
@[simp] theorem modTile_yew (t : Nat) (f : Tile → Tile) (s : State) : (modTile t f s).yew = s.yew := rfl
@[simp] theorem modTile_pwr (t : Nat) (f : Tile → Tile) (s : State) : (modTile t f s).pwr = s.pwr := rfl
@[simp] theorem modTile_box (t : Nat) (f : Tile → Tile) (s : State) : (modTile t f s).box = s.box := rfl
@[simp] theorem modTile_sdp (t : Nat) (f : Tile → Tile) (s : State) : (modTile t f s).sdp = s.sdp := rfl
@[simp] theorem modTile_net (t : Nat) (f : Tile → Tile) (s : State) : (modTile t f s).net = s.net := rfl
@[simp] theorem modTile_replay (t : Nat) (f : Tile → Tile) (s : State) : (modTile t f s).replay = s.replay := rfl
@[simp] theorem modTile_pending (t : Nat) (f : Tile → Tile) (s : State) : (modTile t f s).pending = s.pending := rfl
@[simp] theorem modTile_free (t : Nat) (f : Tile → Tile) (s : State) : (modTile t f s).free = s.free := rfl

/-! ## modSlice changes one slice -/

@[simp] theorem modSlice_phase (p : Nat) (f : Slice → Slice) (s : State) : (modSlice p f s).phase = s.phase := rfl
@[simp] theorem modSlice_stageAt (p : Nat) (f : Slice → Slice) (s : State) : (modSlice p f s).stageAt = s.stageAt := rfl
@[simp] theorem modSlice_socket (p : Nat) (f : Slice → Slice) (s : State) : (modSlice p f s).socket = s.socket := rfl
@[simp] theorem modSlice_stamp (p : Nat) (f : Slice → Slice) (s : State) : (modSlice p f s).stamp = s.stamp := rfl
@[simp] theorem modSlice_clk (p : Nat) (f : Slice → Slice) (s : State) : (modSlice p f s).clk = s.clk := rfl
@[simp] theorem modSlice_cores (p : Nat) (f : Slice → Slice) (s : State) : (modSlice p f s).cores = s.cores := rfl
@[simp] theorem modSlice_prv (p : Nat) (f : Slice → Slice) (s : State) : (modSlice p f s).prv = s.prv := rfl
@[simp] theorem modSlice_mem (p : Nat) (f : Slice → Slice) (s : State) : (modSlice p f s).mem = s.mem := rfl
@[simp] theorem modSlice_tiles (p : Nat) (f : Slice → Slice) (s : State) : (modSlice p f s).tiles = s.tiles := rfl
@[simp] theorem modSlice_mesh (p : Nat) (f : Slice → Slice) (s : State) : (modSlice p f s).mesh = s.mesh := rfl
@[simp] theorem modSlice_dram (p : Nat) (f : Slice → Slice) (s : State) : (modSlice p f s).dram = s.dram := rfl
@[simp] theorem modSlice_ras (p : Nat) (f : Slice → Slice) (s : State) : (modSlice p f s).ras = s.ras := rfl
@[simp] theorem modSlice_objs (p : Nat) (f : Slice → Slice) (s : State) : (modSlice p f s).objs = s.objs := rfl
@[simp] theorem modSlice_raised (p : Nat) (f : Slice → Slice) (s : State) : (modSlice p f s).raised = s.raised := rfl
@[simp] theorem modSlice_octets (p : Nat) (f : Slice → Slice) (s : State) : (modSlice p f s).octets = s.octets := rfl
@[simp] theorem modSlice_iotlb (p : Nat) (f : Slice → Slice) (s : State) : (modSlice p f s).iotlb = s.iotlb := rfl
@[simp] theorem modSlice_ioRoots (p : Nat) (f : Slice → Slice) (s : State) : (modSlice p f s).ioRoots = s.ioRoots := rfl
@[simp] theorem modSlice_ioAsids (p : Nat) (f : Slice → Slice) (s : State) : (modSlice p f s).ioAsids = s.ioAsids := rfl
@[simp] theorem modSlice_pmuSnap (p : Nat) (f : Slice → Slice) (s : State) : (modSlice p f s).pmuSnap = s.pmuSnap := rfl
@[simp] theorem modSlice_pmuSnapNext (p : Nat) (f : Slice → Slice) (s : State) : (modSlice p f s).pmuSnapNext = s.pmuSnapNext := rfl
@[simp] theorem modSlice_guard (p : Nat) (f : Slice → Slice) (s : State) : (modSlice p f s).guard = s.guard := rfl
@[simp] theorem modSlice_loss (p : Nat) (f : Slice → Slice) (s : State) : (modSlice p f s).loss = s.loss := rfl
@[simp] theorem modSlice_localPend (p : Nat) (f : Slice → Slice) (s : State) : (modSlice p f s).localPend = s.localPend := rfl
@[simp] theorem modSlice_src (p : Nat) (f : Slice → Slice) (s : State) : (modSlice p f s).src = s.src := rfl
@[simp] theorem modSlice_ithresh (p : Nat) (f : Slice → Slice) (s : State) : (modSlice p f s).ithresh = s.ithresh := rfl
@[simp] theorem modSlice_ilocal (p : Nat) (f : Slice → Slice) (s : State) : (modSlice p f s).ilocal = s.ilocal := rfl
@[simp] theorem modSlice_timecmp (p : Nat) (f : Slice → Slice) (s : State) : (modSlice p f s).timecmp = s.timecmp := rfl
@[simp] theorem modSlice_linsvc (p : Nat) (f : Slice → Slice) (s : State) : (modSlice p f s).linsvc = s.linsvc := rfl
@[simp] theorem modSlice_sroot (p : Nat) (f : Slice → Slice) (s : State) : (modSlice p f s).sroot = s.sroot := rfl
@[simp] theorem modSlice_sctl (p : Nat) (f : Slice → Slice) (s : State) : (modSlice p f s).sctl = s.sctl := rfl
@[simp] theorem modSlice_bars (p : Nat) (f : Slice → Slice) (s : State) : (modSlice p f s).bars = s.bars := rfl
@[simp] theorem modSlice_ptags (p : Nat) (f : Slice → Slice) (s : State) : (modSlice p f s).ptags = s.ptags := rfl
@[simp] theorem modSlice_posted (p : Nat) (f : Slice → Slice) (s : State) : (modSlice p f s).posted = s.posted := rfl
@[simp] theorem modSlice_links (p : Nat) (f : Slice → Slice) (s : State) : (modSlice p f s).links = s.links := rfl
@[simp] theorem modSlice_proxies (p : Nat) (f : Slice → Slice) (s : State) : (modSlice p f s).proxies = s.proxies := rfl
@[simp] theorem modSlice_bw (p : Nat) (f : Slice → Slice) (s : State) : (modSlice p f s).bw = s.bw := rfl
@[simp] theorem modSlice_bwWindow (p : Nat) (f : Slice → Slice) (s : State) : (modSlice p f s).bwWindow = s.bwWindow := rfl
@[simp] theorem modSlice_out (p : Nat) (f : Slice → Slice) (s : State) : (modSlice p f s).out = s.out := rfl
@[simp] theorem modSlice_queues (p : Nat) (f : Slice → Slice) (s : State) : (modSlice p f s).queues = s.queues := rfl
@[simp] theorem modSlice_chn (p : Nat) (f : Slice → Slice) (s : State) : (modSlice p f s).chn = s.chn := rfl
@[simp] theorem modSlice_subs (p : Nat) (f : Slice → Slice) (s : State) : (modSlice p f s).subs = s.subs := rfl
@[simp] theorem modSlice_journal (p : Nat) (f : Slice → Slice) (s : State) : (modSlice p f s).journal = s.journal := rfl
@[simp] theorem modSlice_opidNext (p : Nat) (f : Slice → Slice) (s : State) : (modSlice p f s).opidNext = s.opidNext := rfl
@[simp] theorem modSlice_work (p : Nat) (f : Slice → Slice) (s : State) : (modSlice p f s).work = s.work := rfl
@[simp] theorem modSlice_ends (p : Nat) (f : Slice → Slice) (s : State) : (modSlice p f s).ends = s.ends := rfl
@[simp] theorem modSlice_sess (p : Nat) (f : Slice → Slice) (s : State) : (modSlice p f s).sess = s.sess := rfl
@[simp] theorem modSlice_ports (p : Nat) (f : Slice → Slice) (s : State) : (modSlice p f s).ports = s.ports := rfl
@[simp] theorem modSlice_runId (p : Nat) (f : Slice → Slice) (s : State) : (modSlice p f s).runId = s.runId := rfl
@[simp] theorem modSlice_mshr (p : Nat) (f : Slice → Slice) (s : State) : (modSlice p f s).mshr = s.mshr := rfl
@[simp] theorem modSlice_accel (p : Nat) (f : Slice → Slice) (s : State) : (modSlice p f s).accel = s.accel := rfl
@[simp] theorem modSlice_yew (p : Nat) (f : Slice → Slice) (s : State) : (modSlice p f s).yew = s.yew := rfl
@[simp] theorem modSlice_pwr (p : Nat) (f : Slice → Slice) (s : State) : (modSlice p f s).pwr = s.pwr := rfl
@[simp] theorem modSlice_box (p : Nat) (f : Slice → Slice) (s : State) : (modSlice p f s).box = s.box := rfl
@[simp] theorem modSlice_sdp (p : Nat) (f : Slice → Slice) (s : State) : (modSlice p f s).sdp = s.sdp := rfl
@[simp] theorem modSlice_net (p : Nat) (f : Slice → Slice) (s : State) : (modSlice p f s).net = s.net := rfl
@[simp] theorem modSlice_replay (p : Nat) (f : Slice → Slice) (s : State) : (modSlice p f s).replay = s.replay := rfl
@[simp] theorem modSlice_pending (p : Nat) (f : Slice → Slice) (s : State) : (modSlice p f s).pending = s.pending := rfl
@[simp] theorem modSlice_free (p : Nat) (f : Slice → Slice) (s : State) : (modSlice p f s).free = s.free := rfl

/-! ## emit appends to what the module sends -/

@[simp] theorem emit_phase (o : Out) (s : State) : (emit o s).phase = s.phase := rfl
@[simp] theorem emit_stageAt (o : Out) (s : State) : (emit o s).stageAt = s.stageAt := rfl
@[simp] theorem emit_socket (o : Out) (s : State) : (emit o s).socket = s.socket := rfl
@[simp] theorem emit_stamp (o : Out) (s : State) : (emit o s).stamp = s.stamp := rfl
@[simp] theorem emit_clk (o : Out) (s : State) : (emit o s).clk = s.clk := rfl
@[simp] theorem emit_cores (o : Out) (s : State) : (emit o s).cores = s.cores := rfl
@[simp] theorem emit_prv (o : Out) (s : State) : (emit o s).prv = s.prv := rfl
@[simp] theorem emit_mem (o : Out) (s : State) : (emit o s).mem = s.mem := rfl
@[simp] theorem emit_tiles (o : Out) (s : State) : (emit o s).tiles = s.tiles := rfl
@[simp] theorem emit_slices (o : Out) (s : State) : (emit o s).slices = s.slices := rfl
@[simp] theorem emit_mesh (o : Out) (s : State) : (emit o s).mesh = s.mesh := rfl
@[simp] theorem emit_dram (o : Out) (s : State) : (emit o s).dram = s.dram := rfl
@[simp] theorem emit_ras (o : Out) (s : State) : (emit o s).ras = s.ras := rfl
@[simp] theorem emit_objs (o : Out) (s : State) : (emit o s).objs = s.objs := rfl
@[simp] theorem emit_raised (o : Out) (s : State) : (emit o s).raised = s.raised := rfl
@[simp] theorem emit_octets (o : Out) (s : State) : (emit o s).octets = s.octets := rfl
@[simp] theorem emit_iotlb (o : Out) (s : State) : (emit o s).iotlb = s.iotlb := rfl
@[simp] theorem emit_ioRoots (o : Out) (s : State) : (emit o s).ioRoots = s.ioRoots := rfl
@[simp] theorem emit_ioAsids (o : Out) (s : State) : (emit o s).ioAsids = s.ioAsids := rfl
@[simp] theorem emit_pmuSnap (o : Out) (s : State) : (emit o s).pmuSnap = s.pmuSnap := rfl
@[simp] theorem emit_pmuSnapNext (o : Out) (s : State) : (emit o s).pmuSnapNext = s.pmuSnapNext := rfl
@[simp] theorem emit_guard (o : Out) (s : State) : (emit o s).guard = s.guard := rfl
@[simp] theorem emit_loss (o : Out) (s : State) : (emit o s).loss = s.loss := rfl
@[simp] theorem emit_localPend (o : Out) (s : State) : (emit o s).localPend = s.localPend := rfl
@[simp] theorem emit_src (o : Out) (s : State) : (emit o s).src = s.src := rfl
@[simp] theorem emit_ithresh (o : Out) (s : State) : (emit o s).ithresh = s.ithresh := rfl
@[simp] theorem emit_ilocal (o : Out) (s : State) : (emit o s).ilocal = s.ilocal := rfl
@[simp] theorem emit_timecmp (o : Out) (s : State) : (emit o s).timecmp = s.timecmp := rfl
@[simp] theorem emit_linsvc (o : Out) (s : State) : (emit o s).linsvc = s.linsvc := rfl
@[simp] theorem emit_sroot (o : Out) (s : State) : (emit o s).sroot = s.sroot := rfl
@[simp] theorem emit_sctl (o : Out) (s : State) : (emit o s).sctl = s.sctl := rfl
@[simp] theorem emit_bars (o : Out) (s : State) : (emit o s).bars = s.bars := rfl
@[simp] theorem emit_ptags (o : Out) (s : State) : (emit o s).ptags = s.ptags := rfl
@[simp] theorem emit_posted (o : Out) (s : State) : (emit o s).posted = s.posted := rfl
@[simp] theorem emit_links (o : Out) (s : State) : (emit o s).links = s.links := rfl
@[simp] theorem emit_proxies (o : Out) (s : State) : (emit o s).proxies = s.proxies := rfl
@[simp] theorem emit_bw (o : Out) (s : State) : (emit o s).bw = s.bw := rfl
@[simp] theorem emit_bwWindow (o : Out) (s : State) : (emit o s).bwWindow = s.bwWindow := rfl
@[simp] theorem emit_queues (o : Out) (s : State) : (emit o s).queues = s.queues := rfl
@[simp] theorem emit_chn (o : Out) (s : State) : (emit o s).chn = s.chn := rfl
@[simp] theorem emit_subs (o : Out) (s : State) : (emit o s).subs = s.subs := rfl
@[simp] theorem emit_journal (o : Out) (s : State) : (emit o s).journal = s.journal := rfl
@[simp] theorem emit_opidNext (o : Out) (s : State) : (emit o s).opidNext = s.opidNext := rfl
@[simp] theorem emit_work (o : Out) (s : State) : (emit o s).work = s.work := rfl
@[simp] theorem emit_ends (o : Out) (s : State) : (emit o s).ends = s.ends := rfl
@[simp] theorem emit_sess (o : Out) (s : State) : (emit o s).sess = s.sess := rfl
@[simp] theorem emit_ports (o : Out) (s : State) : (emit o s).ports = s.ports := rfl
@[simp] theorem emit_runId (o : Out) (s : State) : (emit o s).runId = s.runId := rfl
@[simp] theorem emit_mshr (o : Out) (s : State) : (emit o s).mshr = s.mshr := rfl
@[simp] theorem emit_accel (o : Out) (s : State) : (emit o s).accel = s.accel := rfl
@[simp] theorem emit_yew (o : Out) (s : State) : (emit o s).yew = s.yew := rfl
@[simp] theorem emit_pwr (o : Out) (s : State) : (emit o s).pwr = s.pwr := rfl
@[simp] theorem emit_box (o : Out) (s : State) : (emit o s).box = s.box := rfl
@[simp] theorem emit_sdp (o : Out) (s : State) : (emit o s).sdp = s.sdp := rfl
@[simp] theorem emit_net (o : Out) (s : State) : (emit o s).net = s.net := rfl
@[simp] theorem emit_replay (o : Out) (s : State) : (emit o s).replay = s.replay := rfl
@[simp] theorem emit_pending (o : Out) (s : State) : (emit o s).pending = s.pending := rfl
@[simp] theorem emit_free (o : Out) (s : State) : (emit o s).free = s.free := rfl

/-! ## send appends a message -/

@[simp] theorem send_phase (m : Msg) (s : State) : (send m s).phase = s.phase := rfl
@[simp] theorem send_stageAt (m : Msg) (s : State) : (send m s).stageAt = s.stageAt := rfl
@[simp] theorem send_socket (m : Msg) (s : State) : (send m s).socket = s.socket := rfl
@[simp] theorem send_stamp (m : Msg) (s : State) : (send m s).stamp = s.stamp := rfl
@[simp] theorem send_clk (m : Msg) (s : State) : (send m s).clk = s.clk := rfl
@[simp] theorem send_cores (m : Msg) (s : State) : (send m s).cores = s.cores := rfl
@[simp] theorem send_prv (m : Msg) (s : State) : (send m s).prv = s.prv := rfl
@[simp] theorem send_mem (m : Msg) (s : State) : (send m s).mem = s.mem := rfl
@[simp] theorem send_tiles (m : Msg) (s : State) : (send m s).tiles = s.tiles := rfl
@[simp] theorem send_slices (m : Msg) (s : State) : (send m s).slices = s.slices := rfl
@[simp] theorem send_mesh (m : Msg) (s : State) : (send m s).mesh = s.mesh := rfl
@[simp] theorem send_dram (m : Msg) (s : State) : (send m s).dram = s.dram := rfl
@[simp] theorem send_ras (m : Msg) (s : State) : (send m s).ras = s.ras := rfl
@[simp] theorem send_objs (m : Msg) (s : State) : (send m s).objs = s.objs := rfl
@[simp] theorem send_raised (m : Msg) (s : State) : (send m s).raised = s.raised := rfl
@[simp] theorem send_octets (m : Msg) (s : State) : (send m s).octets = s.octets := rfl
@[simp] theorem send_iotlb (m : Msg) (s : State) : (send m s).iotlb = s.iotlb := rfl
@[simp] theorem send_ioRoots (m : Msg) (s : State) : (send m s).ioRoots = s.ioRoots := rfl
@[simp] theorem send_ioAsids (m : Msg) (s : State) : (send m s).ioAsids = s.ioAsids := rfl
@[simp] theorem send_pmuSnap (m : Msg) (s : State) : (send m s).pmuSnap = s.pmuSnap := rfl
@[simp] theorem send_pmuSnapNext (m : Msg) (s : State) : (send m s).pmuSnapNext = s.pmuSnapNext := rfl
@[simp] theorem send_guard (m : Msg) (s : State) : (send m s).guard = s.guard := rfl
@[simp] theorem send_loss (m : Msg) (s : State) : (send m s).loss = s.loss := rfl
@[simp] theorem send_localPend (m : Msg) (s : State) : (send m s).localPend = s.localPend := rfl
@[simp] theorem send_src (m : Msg) (s : State) : (send m s).src = s.src := rfl
@[simp] theorem send_ithresh (m : Msg) (s : State) : (send m s).ithresh = s.ithresh := rfl
@[simp] theorem send_ilocal (m : Msg) (s : State) : (send m s).ilocal = s.ilocal := rfl
@[simp] theorem send_timecmp (m : Msg) (s : State) : (send m s).timecmp = s.timecmp := rfl
@[simp] theorem send_linsvc (m : Msg) (s : State) : (send m s).linsvc = s.linsvc := rfl
@[simp] theorem send_sroot (m : Msg) (s : State) : (send m s).sroot = s.sroot := rfl
@[simp] theorem send_sctl (m : Msg) (s : State) : (send m s).sctl = s.sctl := rfl
@[simp] theorem send_bars (m : Msg) (s : State) : (send m s).bars = s.bars := rfl
@[simp] theorem send_ptags (m : Msg) (s : State) : (send m s).ptags = s.ptags := rfl
@[simp] theorem send_posted (m : Msg) (s : State) : (send m s).posted = s.posted := rfl
@[simp] theorem send_links (m : Msg) (s : State) : (send m s).links = s.links := rfl
@[simp] theorem send_proxies (m : Msg) (s : State) : (send m s).proxies = s.proxies := rfl
@[simp] theorem send_bw (m : Msg) (s : State) : (send m s).bw = s.bw := rfl
@[simp] theorem send_bwWindow (m : Msg) (s : State) : (send m s).bwWindow = s.bwWindow := rfl
@[simp] theorem send_out (m : Msg) (s : State) : (send m s).out = s.out := rfl
@[simp] theorem send_queues (m : Msg) (s : State) : (send m s).queues = s.queues := rfl
@[simp] theorem send_chn (m : Msg) (s : State) : (send m s).chn = s.chn := rfl
@[simp] theorem send_subs (m : Msg) (s : State) : (send m s).subs = s.subs := rfl
@[simp] theorem send_journal (m : Msg) (s : State) : (send m s).journal = s.journal := rfl
@[simp] theorem send_opidNext (m : Msg) (s : State) : (send m s).opidNext = s.opidNext := rfl
@[simp] theorem send_work (m : Msg) (s : State) : (send m s).work = s.work := rfl
@[simp] theorem send_ends (m : Msg) (s : State) : (send m s).ends = s.ends := rfl
@[simp] theorem send_sess (m : Msg) (s : State) : (send m s).sess = s.sess := rfl
@[simp] theorem send_ports (m : Msg) (s : State) : (send m s).ports = s.ports := rfl
@[simp] theorem send_runId (m : Msg) (s : State) : (send m s).runId = s.runId := rfl
@[simp] theorem send_mshr (m : Msg) (s : State) : (send m s).mshr = s.mshr := rfl
@[simp] theorem send_accel (m : Msg) (s : State) : (send m s).accel = s.accel := rfl
@[simp] theorem send_yew (m : Msg) (s : State) : (send m s).yew = s.yew := rfl
@[simp] theorem send_pwr (m : Msg) (s : State) : (send m s).pwr = s.pwr := rfl
@[simp] theorem send_box (m : Msg) (s : State) : (send m s).box = s.box := rfl
@[simp] theorem send_sdp (m : Msg) (s : State) : (send m s).sdp = s.sdp := rfl
@[simp] theorem send_replay (m : Msg) (s : State) : (send m s).replay = s.replay := rfl
@[simp] theorem send_pending (m : Msg) (s : State) : (send m s).pending = s.pending := rfl
@[simp] theorem send_free (m : Msg) (s : State) : (send m s).free = s.free := rfl

/-! ## report touches the RAS controller only -/

@[simp] theorem report_phase (r : ErrRec) (s : State) : (report r s).phase = s.phase := by unfold report; dsimp only; split <;> rfl
@[simp] theorem report_stageAt (r : ErrRec) (s : State) : (report r s).stageAt = s.stageAt := by unfold report; dsimp only; split <;> rfl
@[simp] theorem report_socket (r : ErrRec) (s : State) : (report r s).socket = s.socket := by unfold report; dsimp only; split <;> rfl
@[simp] theorem report_stamp (r : ErrRec) (s : State) : (report r s).stamp = s.stamp := by unfold report; dsimp only; split <;> rfl
@[simp] theorem report_clk (r : ErrRec) (s : State) : (report r s).clk = s.clk := by unfold report; dsimp only; split <;> rfl
@[simp] theorem report_cores (r : ErrRec) (s : State) : (report r s).cores = s.cores := by unfold report; dsimp only; split <;> rfl
@[simp] theorem report_prv (r : ErrRec) (s : State) : (report r s).prv = s.prv := by unfold report; dsimp only; split <;> rfl
@[simp] theorem report_mem (r : ErrRec) (s : State) : (report r s).mem = s.mem := by unfold report; dsimp only; split <;> rfl
@[simp] theorem report_tiles (r : ErrRec) (s : State) : (report r s).tiles = s.tiles := by unfold report; dsimp only; split <;> rfl
@[simp] theorem report_slices (r : ErrRec) (s : State) : (report r s).slices = s.slices := by unfold report; dsimp only; split <;> rfl
@[simp] theorem report_mesh (r : ErrRec) (s : State) : (report r s).mesh = s.mesh := by unfold report; dsimp only; split <;> rfl
@[simp] theorem report_dram (r : ErrRec) (s : State) : (report r s).dram = s.dram := by unfold report; dsimp only; split <;> rfl
@[simp] theorem report_objs (r : ErrRec) (s : State) : (report r s).objs = s.objs := by unfold report; dsimp only; split <;> rfl
@[simp] theorem report_raised (r : ErrRec) (s : State) : (report r s).raised = s.raised := by unfold report; dsimp only; split <;> rfl
@[simp] theorem report_octets (r : ErrRec) (s : State) : (report r s).octets = s.octets := by unfold report; dsimp only; split <;> rfl
@[simp] theorem report_iotlb (r : ErrRec) (s : State) : (report r s).iotlb = s.iotlb := by unfold report; dsimp only; split <;> rfl
@[simp] theorem report_ioRoots (r : ErrRec) (s : State) : (report r s).ioRoots = s.ioRoots := by unfold report; dsimp only; split <;> rfl
@[simp] theorem report_ioAsids (r : ErrRec) (s : State) : (report r s).ioAsids = s.ioAsids := by unfold report; dsimp only; split <;> rfl
@[simp] theorem report_pmuSnap (r : ErrRec) (s : State) : (report r s).pmuSnap = s.pmuSnap := by unfold report; dsimp only; split <;> rfl
@[simp] theorem report_pmuSnapNext (r : ErrRec) (s : State) : (report r s).pmuSnapNext = s.pmuSnapNext := by unfold report; dsimp only; split <;> rfl
@[simp] theorem report_guard (r : ErrRec) (s : State) : (report r s).guard = s.guard := by unfold report; dsimp only; split <;> rfl
@[simp] theorem report_loss (r : ErrRec) (s : State) : (report r s).loss = s.loss := by unfold report; dsimp only; split <;> rfl
@[simp] theorem report_localPend (r : ErrRec) (s : State) : (report r s).localPend = s.localPend := by unfold report; dsimp only; split <;> rfl
@[simp] theorem report_src (r : ErrRec) (s : State) : (report r s).src = s.src := by unfold report; dsimp only; split <;> rfl
@[simp] theorem report_ithresh (r : ErrRec) (s : State) : (report r s).ithresh = s.ithresh := by unfold report; dsimp only; split <;> rfl
@[simp] theorem report_ilocal (r : ErrRec) (s : State) : (report r s).ilocal = s.ilocal := by unfold report; dsimp only; split <;> rfl
@[simp] theorem report_timecmp (r : ErrRec) (s : State) : (report r s).timecmp = s.timecmp := by unfold report; dsimp only; split <;> rfl
@[simp] theorem report_linsvc (r : ErrRec) (s : State) : (report r s).linsvc = s.linsvc := by unfold report; dsimp only; split <;> rfl
@[simp] theorem report_sroot (r : ErrRec) (s : State) : (report r s).sroot = s.sroot := by unfold report; dsimp only; split <;> rfl
@[simp] theorem report_sctl (r : ErrRec) (s : State) : (report r s).sctl = s.sctl := by unfold report; dsimp only; split <;> rfl
@[simp] theorem report_bars (r : ErrRec) (s : State) : (report r s).bars = s.bars := by unfold report; dsimp only; split <;> rfl
@[simp] theorem report_ptags (r : ErrRec) (s : State) : (report r s).ptags = s.ptags := by unfold report; dsimp only; split <;> rfl
@[simp] theorem report_posted (r : ErrRec) (s : State) : (report r s).posted = s.posted := by unfold report; dsimp only; split <;> rfl
@[simp] theorem report_links (r : ErrRec) (s : State) : (report r s).links = s.links := by unfold report; dsimp only; split <;> rfl
@[simp] theorem report_proxies (r : ErrRec) (s : State) : (report r s).proxies = s.proxies := by unfold report; dsimp only; split <;> rfl
@[simp] theorem report_bw (r : ErrRec) (s : State) : (report r s).bw = s.bw := by unfold report; dsimp only; split <;> rfl
@[simp] theorem report_bwWindow (r : ErrRec) (s : State) : (report r s).bwWindow = s.bwWindow := by unfold report; dsimp only; split <;> rfl
@[simp] theorem report_out (r : ErrRec) (s : State) : (report r s).out = s.out := by unfold report; dsimp only; split <;> rfl
@[simp] theorem report_queues (r : ErrRec) (s : State) : (report r s).queues = s.queues := by unfold report; dsimp only; split <;> rfl
@[simp] theorem report_chn (r : ErrRec) (s : State) : (report r s).chn = s.chn := by unfold report; dsimp only; split <;> rfl
@[simp] theorem report_subs (r : ErrRec) (s : State) : (report r s).subs = s.subs := by unfold report; dsimp only; split <;> rfl
@[simp] theorem report_journal (r : ErrRec) (s : State) : (report r s).journal = s.journal := by unfold report; dsimp only; split <;> rfl
@[simp] theorem report_opidNext (r : ErrRec) (s : State) : (report r s).opidNext = s.opidNext := by unfold report; dsimp only; split <;> rfl
@[simp] theorem report_work (r : ErrRec) (s : State) : (report r s).work = s.work := by unfold report; dsimp only; split <;> rfl
@[simp] theorem report_ends (r : ErrRec) (s : State) : (report r s).ends = s.ends := by unfold report; dsimp only; split <;> rfl
@[simp] theorem report_sess (r : ErrRec) (s : State) : (report r s).sess = s.sess := by unfold report; dsimp only; split <;> rfl
@[simp] theorem report_ports (r : ErrRec) (s : State) : (report r s).ports = s.ports := by unfold report; dsimp only; split <;> rfl
@[simp] theorem report_runId (r : ErrRec) (s : State) : (report r s).runId = s.runId := by unfold report; dsimp only; split <;> rfl
@[simp] theorem report_mshr (r : ErrRec) (s : State) : (report r s).mshr = s.mshr := by unfold report; dsimp only; split <;> rfl
@[simp] theorem report_accel (r : ErrRec) (s : State) : (report r s).accel = s.accel := by unfold report; dsimp only; split <;> rfl
@[simp] theorem report_yew (r : ErrRec) (s : State) : (report r s).yew = s.yew := by unfold report; dsimp only; split <;> rfl
@[simp] theorem report_pwr (r : ErrRec) (s : State) : (report r s).pwr = s.pwr := by unfold report; dsimp only; split <;> rfl
@[simp] theorem report_box (r : ErrRec) (s : State) : (report r s).box = s.box := by unfold report; dsimp only; split <;> rfl
@[simp] theorem report_sdp (r : ErrRec) (s : State) : (report r s).sdp = s.sdp := by unfold report; dsimp only; split <;> rfl
@[simp] theorem report_net (r : ErrRec) (s : State) : (report r s).net = s.net := by unfold report; dsimp only; split <;> rfl
@[simp] theorem report_replay (r : ErrRec) (s : State) : (report r s).replay = s.replay := by unfold report; dsimp only; split <;> rfl
@[simp] theorem report_pending (r : ErrRec) (s : State) : (report r s).pending = s.pending := by unfold report; dsimp only; split <;> rfl
@[simp] theorem report_free (r : ErrRec) (s : State) : (report r s).free = s.free := by unfold report; dsimp only; split <;> rfl

/-! ## raiseBits marks bits set in this tick -/

@[simp] theorem raiseBits_phase (idx sub : Nat) (b : Word) (s : State) : (raiseBits idx sub b s).phase = s.phase := rfl
@[simp] theorem raiseBits_stageAt (idx sub : Nat) (b : Word) (s : State) : (raiseBits idx sub b s).stageAt = s.stageAt := rfl
@[simp] theorem raiseBits_socket (idx sub : Nat) (b : Word) (s : State) : (raiseBits idx sub b s).socket = s.socket := rfl
@[simp] theorem raiseBits_stamp (idx sub : Nat) (b : Word) (s : State) : (raiseBits idx sub b s).stamp = s.stamp := rfl
@[simp] theorem raiseBits_clk (idx sub : Nat) (b : Word) (s : State) : (raiseBits idx sub b s).clk = s.clk := rfl
@[simp] theorem raiseBits_cores (idx sub : Nat) (b : Word) (s : State) : (raiseBits idx sub b s).cores = s.cores := rfl
@[simp] theorem raiseBits_prv (idx sub : Nat) (b : Word) (s : State) : (raiseBits idx sub b s).prv = s.prv := rfl
@[simp] theorem raiseBits_mem (idx sub : Nat) (b : Word) (s : State) : (raiseBits idx sub b s).mem = s.mem := rfl
@[simp] theorem raiseBits_tiles (idx sub : Nat) (b : Word) (s : State) : (raiseBits idx sub b s).tiles = s.tiles := rfl
@[simp] theorem raiseBits_slices (idx sub : Nat) (b : Word) (s : State) : (raiseBits idx sub b s).slices = s.slices := rfl
@[simp] theorem raiseBits_mesh (idx sub : Nat) (b : Word) (s : State) : (raiseBits idx sub b s).mesh = s.mesh := rfl
@[simp] theorem raiseBits_dram (idx sub : Nat) (b : Word) (s : State) : (raiseBits idx sub b s).dram = s.dram := rfl
@[simp] theorem raiseBits_ras (idx sub : Nat) (b : Word) (s : State) : (raiseBits idx sub b s).ras = s.ras := rfl
@[simp] theorem raiseBits_objs (idx sub : Nat) (b : Word) (s : State) : (raiseBits idx sub b s).objs = s.objs := rfl
@[simp] theorem raiseBits_octets (idx sub : Nat) (b : Word) (s : State) : (raiseBits idx sub b s).octets = s.octets := rfl
@[simp] theorem raiseBits_iotlb (idx sub : Nat) (b : Word) (s : State) : (raiseBits idx sub b s).iotlb = s.iotlb := rfl
@[simp] theorem raiseBits_ioRoots (idx sub : Nat) (b : Word) (s : State) : (raiseBits idx sub b s).ioRoots = s.ioRoots := rfl
@[simp] theorem raiseBits_ioAsids (idx sub : Nat) (b : Word) (s : State) : (raiseBits idx sub b s).ioAsids = s.ioAsids := rfl
@[simp] theorem raiseBits_pmuSnap (idx sub : Nat) (b : Word) (s : State) : (raiseBits idx sub b s).pmuSnap = s.pmuSnap := rfl
@[simp] theorem raiseBits_pmuSnapNext (idx sub : Nat) (b : Word) (s : State) : (raiseBits idx sub b s).pmuSnapNext = s.pmuSnapNext := rfl
@[simp] theorem raiseBits_guard (idx sub : Nat) (b : Word) (s : State) : (raiseBits idx sub b s).guard = s.guard := rfl
@[simp] theorem raiseBits_loss (idx sub : Nat) (b : Word) (s : State) : (raiseBits idx sub b s).loss = s.loss := rfl
@[simp] theorem raiseBits_localPend (idx sub : Nat) (b : Word) (s : State) : (raiseBits idx sub b s).localPend = s.localPend := rfl
@[simp] theorem raiseBits_src (idx sub : Nat) (b : Word) (s : State) : (raiseBits idx sub b s).src = s.src := rfl
@[simp] theorem raiseBits_ithresh (idx sub : Nat) (b : Word) (s : State) : (raiseBits idx sub b s).ithresh = s.ithresh := rfl
@[simp] theorem raiseBits_ilocal (idx sub : Nat) (b : Word) (s : State) : (raiseBits idx sub b s).ilocal = s.ilocal := rfl
@[simp] theorem raiseBits_timecmp (idx sub : Nat) (b : Word) (s : State) : (raiseBits idx sub b s).timecmp = s.timecmp := rfl
@[simp] theorem raiseBits_linsvc (idx sub : Nat) (b : Word) (s : State) : (raiseBits idx sub b s).linsvc = s.linsvc := rfl
@[simp] theorem raiseBits_sroot (idx sub : Nat) (b : Word) (s : State) : (raiseBits idx sub b s).sroot = s.sroot := rfl
@[simp] theorem raiseBits_sctl (idx sub : Nat) (b : Word) (s : State) : (raiseBits idx sub b s).sctl = s.sctl := rfl
@[simp] theorem raiseBits_bars (idx sub : Nat) (b : Word) (s : State) : (raiseBits idx sub b s).bars = s.bars := rfl
@[simp] theorem raiseBits_ptags (idx sub : Nat) (b : Word) (s : State) : (raiseBits idx sub b s).ptags = s.ptags := rfl
@[simp] theorem raiseBits_posted (idx sub : Nat) (b : Word) (s : State) : (raiseBits idx sub b s).posted = s.posted := rfl
@[simp] theorem raiseBits_links (idx sub : Nat) (b : Word) (s : State) : (raiseBits idx sub b s).links = s.links := rfl
@[simp] theorem raiseBits_proxies (idx sub : Nat) (b : Word) (s : State) : (raiseBits idx sub b s).proxies = s.proxies := rfl
@[simp] theorem raiseBits_bw (idx sub : Nat) (b : Word) (s : State) : (raiseBits idx sub b s).bw = s.bw := rfl
@[simp] theorem raiseBits_bwWindow (idx sub : Nat) (b : Word) (s : State) : (raiseBits idx sub b s).bwWindow = s.bwWindow := rfl
@[simp] theorem raiseBits_out (idx sub : Nat) (b : Word) (s : State) : (raiseBits idx sub b s).out = s.out := rfl
@[simp] theorem raiseBits_queues (idx sub : Nat) (b : Word) (s : State) : (raiseBits idx sub b s).queues = s.queues := rfl
@[simp] theorem raiseBits_chn (idx sub : Nat) (b : Word) (s : State) : (raiseBits idx sub b s).chn = s.chn := rfl
@[simp] theorem raiseBits_subs (idx sub : Nat) (b : Word) (s : State) : (raiseBits idx sub b s).subs = s.subs := rfl
@[simp] theorem raiseBits_journal (idx sub : Nat) (b : Word) (s : State) : (raiseBits idx sub b s).journal = s.journal := rfl
@[simp] theorem raiseBits_opidNext (idx sub : Nat) (b : Word) (s : State) : (raiseBits idx sub b s).opidNext = s.opidNext := rfl
@[simp] theorem raiseBits_work (idx sub : Nat) (b : Word) (s : State) : (raiseBits idx sub b s).work = s.work := rfl
@[simp] theorem raiseBits_ends (idx sub : Nat) (b : Word) (s : State) : (raiseBits idx sub b s).ends = s.ends := rfl
@[simp] theorem raiseBits_sess (idx sub : Nat) (b : Word) (s : State) : (raiseBits idx sub b s).sess = s.sess := rfl
@[simp] theorem raiseBits_ports (idx sub : Nat) (b : Word) (s : State) : (raiseBits idx sub b s).ports = s.ports := rfl
@[simp] theorem raiseBits_runId (idx sub : Nat) (b : Word) (s : State) : (raiseBits idx sub b s).runId = s.runId := rfl
@[simp] theorem raiseBits_mshr (idx sub : Nat) (b : Word) (s : State) : (raiseBits idx sub b s).mshr = s.mshr := rfl
@[simp] theorem raiseBits_accel (idx sub : Nat) (b : Word) (s : State) : (raiseBits idx sub b s).accel = s.accel := rfl
@[simp] theorem raiseBits_yew (idx sub : Nat) (b : Word) (s : State) : (raiseBits idx sub b s).yew = s.yew := rfl
@[simp] theorem raiseBits_pwr (idx sub : Nat) (b : Word) (s : State) : (raiseBits idx sub b s).pwr = s.pwr := rfl
@[simp] theorem raiseBits_box (idx sub : Nat) (b : Word) (s : State) : (raiseBits idx sub b s).box = s.box := rfl
@[simp] theorem raiseBits_sdp (idx sub : Nat) (b : Word) (s : State) : (raiseBits idx sub b s).sdp = s.sdp := rfl
@[simp] theorem raiseBits_net (idx sub : Nat) (b : Word) (s : State) : (raiseBits idx sub b s).net = s.net := rfl
@[simp] theorem raiseBits_replay (idx sub : Nat) (b : Word) (s : State) : (raiseBits idx sub b s).replay = s.replay := rfl
@[simp] theorem raiseBits_pending (idx sub : Nat) (b : Word) (s : State) : (raiseBits idx sub b s).pending = s.pending := rfl
@[simp] theorem raiseBits_free (idx sub : Nat) (b : Word) (s : State) : (raiseBits idx sub b s).free = s.free := rfl

/-! ## putByte writes memory only -/

@[simp] theorem putByte_phase (pa : Nat) (b : Byte) (s : State) : (putByte pa b s).phase = s.phase := rfl
@[simp] theorem putByte_stageAt (pa : Nat) (b : Byte) (s : State) : (putByte pa b s).stageAt = s.stageAt := rfl
@[simp] theorem putByte_socket (pa : Nat) (b : Byte) (s : State) : (putByte pa b s).socket = s.socket := rfl
@[simp] theorem putByte_stamp (pa : Nat) (b : Byte) (s : State) : (putByte pa b s).stamp = s.stamp := rfl
@[simp] theorem putByte_clk (pa : Nat) (b : Byte) (s : State) : (putByte pa b s).clk = s.clk := rfl
@[simp] theorem putByte_cores (pa : Nat) (b : Byte) (s : State) : (putByte pa b s).cores = s.cores := rfl
@[simp] theorem putByte_prv (pa : Nat) (b : Byte) (s : State) : (putByte pa b s).prv = s.prv := rfl
@[simp] theorem putByte_tiles (pa : Nat) (b : Byte) (s : State) : (putByte pa b s).tiles = s.tiles := rfl
@[simp] theorem putByte_slices (pa : Nat) (b : Byte) (s : State) : (putByte pa b s).slices = s.slices := rfl
@[simp] theorem putByte_mesh (pa : Nat) (b : Byte) (s : State) : (putByte pa b s).mesh = s.mesh := rfl
@[simp] theorem putByte_dram (pa : Nat) (b : Byte) (s : State) : (putByte pa b s).dram = s.dram := rfl
@[simp] theorem putByte_ras (pa : Nat) (b : Byte) (s : State) : (putByte pa b s).ras = s.ras := rfl
@[simp] theorem putByte_objs (pa : Nat) (b : Byte) (s : State) : (putByte pa b s).objs = s.objs := rfl
@[simp] theorem putByte_raised (pa : Nat) (b : Byte) (s : State) : (putByte pa b s).raised = s.raised := rfl
@[simp] theorem putByte_octets (pa : Nat) (b : Byte) (s : State) : (putByte pa b s).octets = s.octets := rfl
@[simp] theorem putByte_iotlb (pa : Nat) (b : Byte) (s : State) : (putByte pa b s).iotlb = s.iotlb := rfl
@[simp] theorem putByte_ioRoots (pa : Nat) (b : Byte) (s : State) : (putByte pa b s).ioRoots = s.ioRoots := rfl
@[simp] theorem putByte_ioAsids (pa : Nat) (b : Byte) (s : State) : (putByte pa b s).ioAsids = s.ioAsids := rfl
@[simp] theorem putByte_pmuSnap (pa : Nat) (b : Byte) (s : State) : (putByte pa b s).pmuSnap = s.pmuSnap := rfl
@[simp] theorem putByte_pmuSnapNext (pa : Nat) (b : Byte) (s : State) : (putByte pa b s).pmuSnapNext = s.pmuSnapNext := rfl
@[simp] theorem putByte_guard (pa : Nat) (b : Byte) (s : State) : (putByte pa b s).guard = s.guard := rfl
@[simp] theorem putByte_loss (pa : Nat) (b : Byte) (s : State) : (putByte pa b s).loss = s.loss := rfl
@[simp] theorem putByte_localPend (pa : Nat) (b : Byte) (s : State) : (putByte pa b s).localPend = s.localPend := rfl
@[simp] theorem putByte_src (pa : Nat) (b : Byte) (s : State) : (putByte pa b s).src = s.src := rfl
@[simp] theorem putByte_ithresh (pa : Nat) (b : Byte) (s : State) : (putByte pa b s).ithresh = s.ithresh := rfl
@[simp] theorem putByte_ilocal (pa : Nat) (b : Byte) (s : State) : (putByte pa b s).ilocal = s.ilocal := rfl
@[simp] theorem putByte_timecmp (pa : Nat) (b : Byte) (s : State) : (putByte pa b s).timecmp = s.timecmp := rfl
@[simp] theorem putByte_linsvc (pa : Nat) (b : Byte) (s : State) : (putByte pa b s).linsvc = s.linsvc := rfl
@[simp] theorem putByte_sroot (pa : Nat) (b : Byte) (s : State) : (putByte pa b s).sroot = s.sroot := rfl
@[simp] theorem putByte_sctl (pa : Nat) (b : Byte) (s : State) : (putByte pa b s).sctl = s.sctl := rfl
@[simp] theorem putByte_bars (pa : Nat) (b : Byte) (s : State) : (putByte pa b s).bars = s.bars := rfl
@[simp] theorem putByte_ptags (pa : Nat) (b : Byte) (s : State) : (putByte pa b s).ptags = s.ptags := rfl
@[simp] theorem putByte_posted (pa : Nat) (b : Byte) (s : State) : (putByte pa b s).posted = s.posted := rfl
@[simp] theorem putByte_links (pa : Nat) (b : Byte) (s : State) : (putByte pa b s).links = s.links := rfl
@[simp] theorem putByte_proxies (pa : Nat) (b : Byte) (s : State) : (putByte pa b s).proxies = s.proxies := rfl
@[simp] theorem putByte_bw (pa : Nat) (b : Byte) (s : State) : (putByte pa b s).bw = s.bw := rfl
@[simp] theorem putByte_bwWindow (pa : Nat) (b : Byte) (s : State) : (putByte pa b s).bwWindow = s.bwWindow := rfl
@[simp] theorem putByte_out (pa : Nat) (b : Byte) (s : State) : (putByte pa b s).out = s.out := rfl
@[simp] theorem putByte_queues (pa : Nat) (b : Byte) (s : State) : (putByte pa b s).queues = s.queues := rfl
@[simp] theorem putByte_chn (pa : Nat) (b : Byte) (s : State) : (putByte pa b s).chn = s.chn := rfl
@[simp] theorem putByte_subs (pa : Nat) (b : Byte) (s : State) : (putByte pa b s).subs = s.subs := rfl
@[simp] theorem putByte_journal (pa : Nat) (b : Byte) (s : State) : (putByte pa b s).journal = s.journal := rfl
@[simp] theorem putByte_opidNext (pa : Nat) (b : Byte) (s : State) : (putByte pa b s).opidNext = s.opidNext := rfl
@[simp] theorem putByte_work (pa : Nat) (b : Byte) (s : State) : (putByte pa b s).work = s.work := rfl
@[simp] theorem putByte_ends (pa : Nat) (b : Byte) (s : State) : (putByte pa b s).ends = s.ends := rfl
@[simp] theorem putByte_sess (pa : Nat) (b : Byte) (s : State) : (putByte pa b s).sess = s.sess := rfl
@[simp] theorem putByte_ports (pa : Nat) (b : Byte) (s : State) : (putByte pa b s).ports = s.ports := rfl
@[simp] theorem putByte_runId (pa : Nat) (b : Byte) (s : State) : (putByte pa b s).runId = s.runId := rfl
@[simp] theorem putByte_mshr (pa : Nat) (b : Byte) (s : State) : (putByte pa b s).mshr = s.mshr := rfl
@[simp] theorem putByte_accel (pa : Nat) (b : Byte) (s : State) : (putByte pa b s).accel = s.accel := rfl
@[simp] theorem putByte_yew (pa : Nat) (b : Byte) (s : State) : (putByte pa b s).yew = s.yew := rfl
@[simp] theorem putByte_pwr (pa : Nat) (b : Byte) (s : State) : (putByte pa b s).pwr = s.pwr := rfl
@[simp] theorem putByte_box (pa : Nat) (b : Byte) (s : State) : (putByte pa b s).box = s.box := rfl
@[simp] theorem putByte_sdp (pa : Nat) (b : Byte) (s : State) : (putByte pa b s).sdp = s.sdp := rfl
@[simp] theorem putByte_net (pa : Nat) (b : Byte) (s : State) : (putByte pa b s).net = s.net := rfl
@[simp] theorem putByte_replay (pa : Nat) (b : Byte) (s : State) : (putByte pa b s).replay = s.replay := rfl
@[simp] theorem putByte_pending (pa : Nat) (b : Byte) (s : State) : (putByte pa b s).pending = s.pending := rfl
@[simp] theorem putByte_free (pa : Nat) (b : Byte) (s : State) : (putByte pa b s).free = s.free := rfl

/-! ## putTagCode writes memory only -/

@[simp] theorem putTagCode_phase (pa code : Nat) (s : State) : (putTagCode pa code s).phase = s.phase := rfl
@[simp] theorem putTagCode_stageAt (pa code : Nat) (s : State) : (putTagCode pa code s).stageAt = s.stageAt := rfl
@[simp] theorem putTagCode_socket (pa code : Nat) (s : State) : (putTagCode pa code s).socket = s.socket := rfl
@[simp] theorem putTagCode_stamp (pa code : Nat) (s : State) : (putTagCode pa code s).stamp = s.stamp := rfl
@[simp] theorem putTagCode_clk (pa code : Nat) (s : State) : (putTagCode pa code s).clk = s.clk := rfl
@[simp] theorem putTagCode_cores (pa code : Nat) (s : State) : (putTagCode pa code s).cores = s.cores := rfl
@[simp] theorem putTagCode_prv (pa code : Nat) (s : State) : (putTagCode pa code s).prv = s.prv := rfl
@[simp] theorem putTagCode_tiles (pa code : Nat) (s : State) : (putTagCode pa code s).tiles = s.tiles := rfl
@[simp] theorem putTagCode_slices (pa code : Nat) (s : State) : (putTagCode pa code s).slices = s.slices := rfl
@[simp] theorem putTagCode_mesh (pa code : Nat) (s : State) : (putTagCode pa code s).mesh = s.mesh := rfl
@[simp] theorem putTagCode_dram (pa code : Nat) (s : State) : (putTagCode pa code s).dram = s.dram := rfl
@[simp] theorem putTagCode_ras (pa code : Nat) (s : State) : (putTagCode pa code s).ras = s.ras := rfl
@[simp] theorem putTagCode_objs (pa code : Nat) (s : State) : (putTagCode pa code s).objs = s.objs := rfl
@[simp] theorem putTagCode_raised (pa code : Nat) (s : State) : (putTagCode pa code s).raised = s.raised := rfl
@[simp] theorem putTagCode_octets (pa code : Nat) (s : State) : (putTagCode pa code s).octets = s.octets := rfl
@[simp] theorem putTagCode_iotlb (pa code : Nat) (s : State) : (putTagCode pa code s).iotlb = s.iotlb := rfl
@[simp] theorem putTagCode_ioRoots (pa code : Nat) (s : State) : (putTagCode pa code s).ioRoots = s.ioRoots := rfl
@[simp] theorem putTagCode_ioAsids (pa code : Nat) (s : State) : (putTagCode pa code s).ioAsids = s.ioAsids := rfl
@[simp] theorem putTagCode_pmuSnap (pa code : Nat) (s : State) : (putTagCode pa code s).pmuSnap = s.pmuSnap := rfl
@[simp] theorem putTagCode_pmuSnapNext (pa code : Nat) (s : State) : (putTagCode pa code s).pmuSnapNext = s.pmuSnapNext := rfl
@[simp] theorem putTagCode_guard (pa code : Nat) (s : State) : (putTagCode pa code s).guard = s.guard := rfl
@[simp] theorem putTagCode_loss (pa code : Nat) (s : State) : (putTagCode pa code s).loss = s.loss := rfl
@[simp] theorem putTagCode_localPend (pa code : Nat) (s : State) : (putTagCode pa code s).localPend = s.localPend := rfl
@[simp] theorem putTagCode_src (pa code : Nat) (s : State) : (putTagCode pa code s).src = s.src := rfl
@[simp] theorem putTagCode_ithresh (pa code : Nat) (s : State) : (putTagCode pa code s).ithresh = s.ithresh := rfl
@[simp] theorem putTagCode_ilocal (pa code : Nat) (s : State) : (putTagCode pa code s).ilocal = s.ilocal := rfl
@[simp] theorem putTagCode_timecmp (pa code : Nat) (s : State) : (putTagCode pa code s).timecmp = s.timecmp := rfl
@[simp] theorem putTagCode_linsvc (pa code : Nat) (s : State) : (putTagCode pa code s).linsvc = s.linsvc := rfl
@[simp] theorem putTagCode_sroot (pa code : Nat) (s : State) : (putTagCode pa code s).sroot = s.sroot := rfl
@[simp] theorem putTagCode_sctl (pa code : Nat) (s : State) : (putTagCode pa code s).sctl = s.sctl := rfl
@[simp] theorem putTagCode_bars (pa code : Nat) (s : State) : (putTagCode pa code s).bars = s.bars := rfl
@[simp] theorem putTagCode_ptags (pa code : Nat) (s : State) : (putTagCode pa code s).ptags = s.ptags := rfl
@[simp] theorem putTagCode_posted (pa code : Nat) (s : State) : (putTagCode pa code s).posted = s.posted := rfl
@[simp] theorem putTagCode_links (pa code : Nat) (s : State) : (putTagCode pa code s).links = s.links := rfl
@[simp] theorem putTagCode_proxies (pa code : Nat) (s : State) : (putTagCode pa code s).proxies = s.proxies := rfl
@[simp] theorem putTagCode_bw (pa code : Nat) (s : State) : (putTagCode pa code s).bw = s.bw := rfl
@[simp] theorem putTagCode_bwWindow (pa code : Nat) (s : State) : (putTagCode pa code s).bwWindow = s.bwWindow := rfl
@[simp] theorem putTagCode_out (pa code : Nat) (s : State) : (putTagCode pa code s).out = s.out := rfl
@[simp] theorem putTagCode_queues (pa code : Nat) (s : State) : (putTagCode pa code s).queues = s.queues := rfl
@[simp] theorem putTagCode_chn (pa code : Nat) (s : State) : (putTagCode pa code s).chn = s.chn := rfl
@[simp] theorem putTagCode_subs (pa code : Nat) (s : State) : (putTagCode pa code s).subs = s.subs := rfl
@[simp] theorem putTagCode_journal (pa code : Nat) (s : State) : (putTagCode pa code s).journal = s.journal := rfl
@[simp] theorem putTagCode_opidNext (pa code : Nat) (s : State) : (putTagCode pa code s).opidNext = s.opidNext := rfl
@[simp] theorem putTagCode_work (pa code : Nat) (s : State) : (putTagCode pa code s).work = s.work := rfl
@[simp] theorem putTagCode_ends (pa code : Nat) (s : State) : (putTagCode pa code s).ends = s.ends := rfl
@[simp] theorem putTagCode_sess (pa code : Nat) (s : State) : (putTagCode pa code s).sess = s.sess := rfl
@[simp] theorem putTagCode_ports (pa code : Nat) (s : State) : (putTagCode pa code s).ports = s.ports := rfl
@[simp] theorem putTagCode_runId (pa code : Nat) (s : State) : (putTagCode pa code s).runId = s.runId := rfl
@[simp] theorem putTagCode_mshr (pa code : Nat) (s : State) : (putTagCode pa code s).mshr = s.mshr := rfl
@[simp] theorem putTagCode_accel (pa code : Nat) (s : State) : (putTagCode pa code s).accel = s.accel := rfl
@[simp] theorem putTagCode_yew (pa code : Nat) (s : State) : (putTagCode pa code s).yew = s.yew := rfl
@[simp] theorem putTagCode_pwr (pa code : Nat) (s : State) : (putTagCode pa code s).pwr = s.pwr := rfl
@[simp] theorem putTagCode_box (pa code : Nat) (s : State) : (putTagCode pa code s).box = s.box := rfl
@[simp] theorem putTagCode_sdp (pa code : Nat) (s : State) : (putTagCode pa code s).sdp = s.sdp := rfl
@[simp] theorem putTagCode_net (pa code : Nat) (s : State) : (putTagCode pa code s).net = s.net := rfl
@[simp] theorem putTagCode_replay (pa code : Nat) (s : State) : (putTagCode pa code s).replay = s.replay := rfl
@[simp] theorem putTagCode_pending (pa code : Nat) (s : State) : (putTagCode pa code s).pending = s.pending := rfl
@[simp] theorem putTagCode_free (pa code : Nat) (s : State) : (putTagCode pa code s).free = s.free := rfl

/-! ## What an update writes -/

/-- A core written is the core read. -/
@[simp] theorem coreOf_setCpu_core (n : Nat) (c : Cpu) (s : State) : coreOf (setCpu (.core n) c s) n = c := by
  simp [coreOf, setCpu]

/-- Another core is left alone. -/
theorem coreOf_setCpu_other (n k : Nat) (c : Cpu) (s : State) (h : k ≠ n) : coreOf (setCpu (.core n) c s) k = coreOf s k := by
  simp [coreOf, setCpu, mGet_mPut_other _ _ _ _ _ _ h]

/-- An engine written leaves every core alone. -/
@[simp] theorem coreOf_setCpu_prv (n k : Nat) (c : Cpu) (s : State) : coreOf (setCpu (.prv n) c s) k = coreOf s k := rfl

/-- A core written leaves every engine alone. -/
@[simp] theorem prvOf_setCpu_core (n k : Nat) (c : Cpu) (s : State) : prvOf (setCpu (.core n) c s) k = prvOf s k := rfl

/-- A hart written is the hart read. -/
@[simp] theorem cpuOf_setCpu_same (h : Hart) (c : Cpu) (s : State) : cpuOf (setCpu h c s) h = c := by
  cases h <;> simp [cpuOf, coreOf, prvOf, setCpu]

/-- Another hart is left alone. -/
theorem cpuOf_setCpu_other (h k : Hart) (c : Cpu) (s : State) (hk : k ≠ h) : cpuOf (setCpu h c s) k = cpuOf s k := by
  cases h <;> cases k <;> simp_all [cpuOf, coreOf, prvOf, setCpu, mGet_mPut]

/-- A changed hart reads as the change of what it was. -/
@[simp] theorem cpuOf_modCpu_same (h : Hart) (f : Cpu → Cpu) (s : State) : cpuOf (modCpu h f s) h = f (cpuOf s h) := by
  simp [modCpu]

/-- Another hart is left alone by a change. -/
theorem cpuOf_modCpu_other (h k : Hart) (f : Cpu → Cpu) (s : State) (hk : k ≠ h) : cpuOf (modCpu h f s) k = cpuOf s k := by
  simp [modCpu, cpuOf_setCpu_other _ _ _ _ hk]

/-- An object written is the object read. -/
@[simp] theorem obj_setObj_same (idx sub : Nat) (v : Word) (s : State) : obj (setObj idx sub v s) idx sub = v := by
  simp [obj, setObj]

/-- Another object is left alone. -/
theorem obj_setObj_other (idx sub i j : Nat) (v : Word) (s : State) (h : okey i j ≠ okey idx sub) :
    obj (setObj idx sub v s) i j = obj s i j := by
  simp [obj, setObj, mGet_mPut_other _ _ _ _ _ _ h]

/-- A general register written is the value read, but for g0. -/
theorem gpr_setGpr_same (r : Reg) (x : GVal) (c : Cpu) (h : r ≠ 0) : gpr (setGpr r x c) r = x := by
  unfold gpr setGpr
  rw [if_neg h, if_neg h]
  exact mGet_mPut_same _ _ _ _

/-- Every other general register is left alone, and g0 whatever is written. -/
theorem gpr_setGpr_other (r q : Reg) (x : GVal) (c : Cpu) (h : q ≠ r) : gpr (setGpr r x c) q = gpr c q := by
  unfold gpr setGpr
  split
  · rfl
  · split
    · rfl
    · exact mGet_mPut_other _ _ _ _ _ _ (fun e => h (BitVec.eq_of_toNat_eq e))

/-- g0 reads 0 tagged DATA whatever is written to it (03 R60). -/
@[simp] theorem gpr_zero (c : Cpu) : gpr c 0 = ⟨0, .data⟩ := rfl

/-- A system register written is the value read. -/
@[simp] theorem sysReg_setSys_same (n : Nat) (x : Word) (c : Cpu) : sysReg (setSys n x c) n = x := by
  simp [sysReg, setSys]

/-- Every other system register is left alone. -/
theorem sysReg_setSys_other (n k : Nat) (x : Word) (c : Cpu) (h : k ≠ n) : sysReg (setSys n x c) k = sysReg c k := by
  simp [sysReg, setSys, mGet_mPut_other _ _ _ _ _ _ h]

/-- A floating-point register written is the value read. -/
@[simp] theorem fpr_setFpr_same (r : Reg) (x : Word) (c : Cpu) : fpr (setFpr r x c) r = x := by
  simp [fpr, setFpr]

/-- Every other floating-point register is left alone. -/
theorem fpr_setFpr_other (r q : Reg) (x : Word) (c : Cpu) (h : q ≠ r) : fpr (setFpr r x c) q = fpr c q := by
  simp only [fpr, setFpr]
  exact mGet_mPut_other _ _ _ _ _ _ (fun e => h (BitVec.eq_of_toNat_eq e))

/-- A vector register written is the value read. -/
@[simp] theorem vpr_setVpr_same (r : Reg) (x : BitVec 256) (c : Cpu) : vpr (setVpr r x c) r = x := by
  simp [vpr, setVpr]

/-- Every other vector register is left alone. -/
theorem vpr_setVpr_other (r q : Reg) (x : BitVec 256) (c : Cpu) (h : q ≠ r) : vpr (setVpr r x c) q = vpr c q := by
  simp only [vpr, setVpr]
  exact mGet_mPut_other _ _ _ _ _ _ (fun e => h (BitVec.eq_of_toNat_eq e))

end Sys2Proof.Machine
end

