-- ==== Sys2Proof/Laws/Memory.lean ====
section
/-! SUPPORT. Memory: every operation keeps the canonical form, and what an octet reads as after a write of the byte table. -/

namespace Sys2Proof.Machine
open Sys2Proof

/-- Soundness looks at the byte table and the tag table only. -/
theorem Sound.congr {s t : State} (hb : t.mem.bytes = s.mem.bytes) (ht : t.mem.tags = s.mem.tags) (h : Sound s) : Sound t := by
  unfold Sound Memory.wf at *
  rw [hb, ht]
  exact h

/-- A state with the same memory is as sound. -/
theorem Sound.of_mem {s t : State} (hm : t.mem = s.mem) (h : Sound s) : Sound t :=
  h.congr (by rw [hm]) (by rw [hm])

/-- The two tables of a sound state are in canonical form. -/
theorem sound_iff {s : State} : Sound s ↔ mWf 0 s.mem.bytes = true ∧ mWf 0 s.mem.tags = true := by
  simp [Sound, Memory.wf, Bool.and_eq_true]

/-- One octet written. -/
theorem Sound.putByte {s : State} (pa : Nat) (b : Byte) (h : Sound s) : Sound (putByte pa b s) := by
  rw [sound_iff] at *
  exact ⟨mWf_mPut _ _ h.1, h.2⟩

/-- One tag code written. -/
theorem Sound.putTagCode {s : State} (pa code : Nat) (h : Sound s) : Sound (putTagCode pa code s) := by
  rw [sound_iff] at *
  exact ⟨h.1, mWf_mPut _ _ h.2⟩

/-- One tag written. -/
theorem Sound.putTag {s : State} (pa : Nat) (t : Tag) (h : Sound s) : Sound (putTag pa t s) := h.putTagCode _ _

/-- Octets written one after another. -/
theorem Sound.putBytes {s : State} (pa : Nat) (bs : List Byte) (h : Sound s) : Sound (putBytes pa bs s) := by
  induction bs generalizing pa s with
  | nil => exact h
  | cons b bs ih => exact ih _ (h.putByte _ _)

/-- A fold of sound changes is sound. -/
theorem Sound.foldl {α : Type} {f : State → α → State} (hf : ∀ s a, Sound s → Sound (f s a)) (l : List α) {s : State} (h : Sound s) :
    Sound (l.foldl f s) := by
  induction l generalizing s with
  | nil => exact h
  | cons a l ih => exact ih (hf _ _ h)

/-- A line brought under its granule's current key. -/
theorem Sound.rekeyLine {s : State} (line : Nat) (h : Sound s) : Sound (rekeyLine line s) := by
  unfold Machine.rekeyLine
  split
  · exact h
  · have hp := h.putBytes (64 * line) (memBytes s (64 * line) 64)
    dsimp only
    generalize Machine.putBytes (64 * line) (memBytes s (64 * line) 64) s = t at hp ⊢
    exact hp.congr rfl rfl

/-- A line replaced. -/
theorem Sound.setLine {s : State} (line : Nat) (l : Line) (h : Sound s) : Sound (setLine line l s) := by
  have hp := (h.rekeyLine line).putBytes (64 * line) (leBytes 64 l.data.toNat)
  unfold Machine.setLine
  dsimp only
  generalize Machine.putBytes (64 * line) (leBytes 64 l.data.toNat) (Machine.rekeyLine line s) = t at hp ⊢
  exact Sound.foldl (fun s i h => Sound.putTagCode _ _ h) _ hp

/-- The tags after a store. -/
theorem Sound.storeTags {s : State} (pa n : Nat) (t : Option Tag) (h : Sound s) : Sound (storeTags pa n t s) := by
  unfold Machine.storeTags
  split
  · exact h.putTag _ _
  · refine Sound.foldl (fun s w h => ?_) _ h
    split
    · exact h
    · exact h.putTag _ _

/-- A store of octets within one line. -/
theorem Sound.storeBytes {s : State} (pa : Nat) (bs : List Byte) (t : Option Tag) (h : Sound s) : Sound (storeBytes pa bs t s) :=
  ((h.rekeyLine _).putBytes _ _).storeTags _ _ _

/-- Octets written by a device-owned unit. -/
theorem Sound.dmaWrite {s : State} (pa : Nat) (bs : List Byte) (fuel : Nat) (h : Sound s) : Sound (dmaWrite pa bs fuel s) := by
  induction fuel generalizing pa bs s with
  | zero => cases bs <;> exact h
  | succ fuel ih =>
    cases bs with
    | nil => exact h
    | cons b bs =>
      refine ih _ _ (Sound.foldl (fun s w h => ?_) _ ((h.rekeyLine _).putBytes _ _))
      split
      · exact h.putTag _ _
      · exact h

/-- A line of the combining buffer performed at its home. -/
theorem Sound.ntLinePerform {s : State} (l : NtLine) (h : Sound s) : Sound (ntLinePerform l s) := by
  refine Sound.foldl (fun s i h => ?_) _ (Sound.foldl (fun s p h => h.putByte _ _) _ (h.rekeyLine _))
  dsimp only
  split
  · exact h
  · split
    · exact h.putTag _ _
    · split
      · exact h
      · exact h.putTag _ _

/-- A change of a core or engine. -/
theorem Sound.modCpu {s : State} (k : Hart) (f : Cpu → Cpu) (h : Sound s) : Sound (modCpu k f s) := h.of_mem (by simp)

/-- A core or engine written. -/
theorem Sound.setCpu {s : State} (k : Hart) (c : Cpu) (h : Sound s) : Sound (setCpu k c s) := h.of_mem (by simp)

/-- An object written. -/
theorem Sound.setObj {s : State} (idx sub : Nat) (v : Word) (h : Sound s) : Sound (setObj idx sub v s) := h.of_mem rfl

/-- An error record sent. -/
theorem Sound.report {s : State} (r : ErrRec) (h : Sound s) : Sound (report r s) := h.of_mem (by simp)

/-- The memory at reset lists nothing, which is the canonical form of empty memory. -/
theorem reset_memory_wf : Memory.wf State.reset.mem = true := rfl

/-! ## What memory operations leave alone -/

/-- `t` differs from `s` in memory at most. -/
def MemOnly (s t : State) : Prop := t = { s with mem := t.mem }

theorem MemOnly.refl (s : State) : MemOnly s s := rfl

theorem MemOnly.trans {s t u : State} (h : MemOnly s t) (k : MemOnly t u) : MemOnly s u := by
  unfold MemOnly at *
  rw [k, h]

theorem MemOnly.foldl {α : Type} {f : State → α → State} (hf : ∀ s a, MemOnly s (f s a)) (l : List α) (s : State) : MemOnly s (l.foldl f s) := by
  induction l generalizing s with
  | nil => exact .refl s
  | cons a l ih => exact (hf s a).trans (ih _)

theorem MemOnly.putByte (pa : Nat) (b : Byte) (s : State) : MemOnly s (putByte pa b s) := rfl

theorem MemOnly.putBytes (pa : Nat) (bs : List Byte) (s : State) : MemOnly s (putBytes pa bs s) := by
  induction bs generalizing pa s with
  | nil => exact .refl s
  | cons b bs ih => exact (MemOnly.putByte pa b s).trans (ih _ _)

theorem MemOnly.rekeyLine (line : Nat) (s : State) : MemOnly s (rekeyLine line s) := by
  unfold Machine.rekeyLine
  split
  · exact .refl s
  · exact (putBytes _ _ s).trans rfl

theorem MemOnly.storeTags (pa n : Nat) (t : Option Tag) (s : State) : MemOnly s (storeTags pa n t s) := by
  unfold Machine.storeTags
  split
  · exact rfl
  · refine foldl (fun s w => ?_) _ s
    split <;> rfl

theorem MemOnly.storeBytes (pa : Nat) (bs : List Byte) (t : Option Tag) (s : State) : MemOnly s (storeBytes pa bs t s) :=
  ((rekeyLine _ s).trans (putBytes _ _ _)).trans (storeTags _ _ _ _)

theorem MemOnly.setLine (line : Nat) (l : Line) (s : State) : MemOnly s (setLine line l s) := by
  unfold Machine.setLine
  dsimp only
  refine ((rekeyLine _ s).trans (putBytes _ _ _)).trans (foldl (fun s i => ?_) _ _)
  rfl

theorem MemOnly.ntLinePerform (l : NtLine) (s : State) : MemOnly s (ntLinePerform l s) := by
  refine ((rekeyLine _ s).trans (foldl (fun s p => MemOnly.putByte _ _ s) _ _)).trans (foldl (fun s i => ?_) _ _)
  dsimp only
  repeat' split
  all_goals rfl

section
variable {s t : State} (h : MemOnly s t)
include h

theorem MemOnly.cpuOf (k : Hart) : cpuOf t k = cpuOf s k := by rw [h]; rfl
theorem MemOnly.objs : t.objs = s.objs := by rw [h]
theorem MemOnly.pending : t.pending = s.pending := by rw [h]

end

/-! ## Reads after writes -/

/-- While the keys are held and the line's ciphertext is current, an octet reads as the byte table holds it. -/
theorem memByte_eq {s : State} {pa : Nat} (hn : s.mem.noKeys = false) (hg : mGet false s.mem.noKey (pa / 2 ^ 30) = false)
    (hk : keyCurrent s (lineOf pa) = true) : memByte s pa = mGet 0 s.mem.bytes pa := by
  unfold memByte
  simp only [hn, hg, hk, Bool.or_false, Bool.false_eq_true, if_false, if_true]

/-- An octet written reads as what was written, under current keys. -/
theorem memByte_putByte_same {s : State} {pa : Nat} (b : Byte) (hn : s.mem.noKeys = false)
    (hg : mGet false s.mem.noKey (pa / 2 ^ 30) = false) (hk : keyCurrent s (lineOf pa) = true) :
    memByte (putByte pa b s) pa = b := by
  have hk' : keyCurrent (putByte pa b s) (lineOf pa) = true := hk
  rw [memByte_eq (s := putByte pa b s) hn hg hk']
  exact mGet_mPut_same _ _ _ _

/-- A write of one octet leaves the reading of every other octet alone. -/
theorem memByte_putByte_other {s : State} {pa a : Nat} (b : Byte) (h : a ≠ pa) : memByte (putByte pa b s) a = memByte s a := by
  have hb : mGet 0 (putByte pa b s).mem.bytes a = mGet 0 s.mem.bytes a := mGet_mPut_other _ _ _ _ _ _ h
  unfold memByte
  rw [hb]
  rfl

/-- A tag code written leaves every octet alone. -/
@[simp] theorem memByte_putTagCode (s : State) (pa code a : Nat) : memByte (putTagCode pa code s) a = memByte s a := rfl

/-- Octets written leave the reading of every octet outside them alone. -/
theorem memByte_putBytes_other {s : State} {pa a : Nat} (bs : List Byte) (h : a < pa ∨ pa + bs.length ≤ a) :
    memByte (putBytes pa bs s) a = memByte s a := by
  induction bs generalizing pa s with
  | nil => rfl
  | cons b bs ih =>
    simp only [List.length_cons] at h
    show memByte (putBytes (pa + 1) bs (putByte pa b s)) a = _
    rw [ih (by omega), memByte_putByte_other b (by omega)]

/-- What an octet reads as depends on memory alone. -/
theorem memByte_congr {s t : State} (h : t.mem = s.mem) (a : Nat) : memByte t a = memByte s a := by
  unfold memByte keyCurrent
  rw [h]

/-! ## Memory as it was -/

theorem MemKept.refl (s : State) : MemKept s s := ⟨fun _ => rfl, fun _ => rfl⟩

theorem MemKept.trans {s t u : State} (h : MemKept s t) (k : MemKept t u) : MemKept s u :=
  ⟨fun a => (k.1 a).trans (h.1 a), fun a => (k.2 a).trans (h.2 a)⟩

/-- States with the same memory read alike. -/
theorem MemKept.of_mem {s t : State} (h : t.mem = s.mem) : MemKept s t :=
  ⟨memByte_congr h, fun a => by unfold memTagCode; rw [h]⟩

end Sys2Proof.Machine
end

