-- ==== Sys2Proof/Laws/Run.lean ====
section
/-! SUPPORT. How a hart runs one instruction: everything `run` can answer, and what the retirement of an instruction leaves alone. -/

namespace Sys2Proof.Machine
open Sys2Proof

/-- A core's fetch that passes its checks changes nothing. -/
theorem fetchCheck_core {n : Nat} {s : State} (h : (fetchCheck (.core n) s).1 = none) : (fetchCheck (.core n) s).2 = s := by
  unfold fetchCheck at h ⊢
  dsimp only at h ⊢
  repeat' split
  all_goals first | rfl | simp_all

/-- A prediction alone has not executed early: nothing is to be checked. -/
theorem earlyCheck_fetchNext (h : Hart) (i : Instr) (s t : State) : earlyCheck h (fetchNext h i s).1 t = (t, true) := by
  cases h <;> rfl

/-- Everything `run` can answer when no held instruction is run again: a hart that does not exist, a hart that may not run, an instruction
that joins the window, a breakpoint, an event, a failed fetch, and the oldest instruction. -/
theorem run_cases (h : Hart) (i : Instr) (body : State → State × Done) (s : State) (hs : s.replay = false) :
    (∃ n, run h i body s = .fault (.noSuchUnit n)) ∨ run h i body s = .next s ∨
    (∃ n, h = .core n ∧ run h i body s = .next (present n i s)) ∨
    run h i body s = .next (modCpu h (fun c => { c with halted := true }) s) ∨
    (∃ n, h = .core n ∧ run h i body s = .next (takeEvent n s)) ∨
    (∃ b t, fetchCheck h s = (some b, t) ∧ run h i body s = .next (fetchFails h b t)) ∨
    (∃ t, fetchCheck h s = (none, t) ∧ run h i body s = .next (oldest h (fetchNext h i t).1 i body (fetchNext h i t).2)) := by
  unfold run
  by_cases h1 : ¬ hartExists h
  · exact .inl ⟨_, if_pos h1⟩
  rw [if_neg h1, if_neg (by simp [hs])]
  by_cases h2 : (cpuOf s h).win ≠ [] ∨ (cpuOf s h).wait ≠ .none
  · rw [if_pos h2]
    cases h with
    | prv n => exact .inr (.inl rfl)
    | core n =>
      dsimp only
      split
      · exact .inr (.inr (.inl ⟨n, rfl, rfl⟩))
      · exact .inr (.inl rfl)
  rw [if_neg h2]
  by_cases h3 : ¬ canRun h s
  · exact .inr (.inl (if_pos h3))
  rw [if_neg h3]
  by_cases h4 : breakHit h s
  · exact .inr (.inr (.inr (.inl (if_pos h4))))
  rw [if_neg h4]
  by_cases h5 : hartEvent h s
  · rw [if_pos h5]
    cases h with
    | core n => exact .inr (.inr (.inr (.inr (.inl ⟨n, rfl, rfl⟩))))
    | prv n => exact .inr (.inl rfl)
  rw [if_neg h5]
  rcases hf : fetchCheck h s with ⟨o, t⟩
  cases o with
  | some e => exact .inr (.inr (.inr (.inr (.inr (.inl ⟨e, t, rfl, rfl⟩)))))
  | none => exact .inr (.inr (.inr (.inr (.inr (.inr ⟨t, rfl, rfl⟩)))))

/-- Counting touches the core's counters and its local sources; memory is left alone. -/
@[simp] theorem countEv_mem (n ev k : Nat) (s : State) : (countEv n ev k s).mem = s.mem := by
  unfold countEv raiseLocal
  dsimp only
  split <;> simp

/-- A retirement leaves memory alone. -/
@[simp] theorem retire_mem (h : Hart) (next : Option Word) (s : State) : (retire h next s).mem = s.mem := by
  cases h <;> simp [retire]

end Sys2Proof.Machine
end

