-- ==== Sys2Proof/Laws/Caches.lean ====
section
/-! SUPPORT. What moving lines between caches, asking for them and filling TLBs leaves alone: everything but the caches, the home slices, the
requests and messages under way, the tag caches and the copies kept beneath dirty lines; everything of a core but its TLBs. -/

namespace Sys2Proof.Machine
open Sys2Proof

/-- `t` differs from `s` in tiles, home slices, requests and messages under way, tag caches and the copies beneath dirty lines at most. -/
def CacheOnly (s t : State) : Prop :=
  t = { s with tiles := t.tiles, slices := t.slices, net := t.net, mshr := t.mshr, dram := { s.dram with tagc := t.dram.tagc },
               mem := { s.mem with under1 := t.mem.under1, under2 := t.mem.under2, under3 := t.mem.under3 } }

theorem CacheOnly.refl (s : State) : CacheOnly s s := rfl

theorem CacheOnly.trans {s t u : State} (h : CacheOnly s t) (k : CacheOnly t u) : CacheOnly s u := by
  unfold CacheOnly at *
  rw [k, h]

/-- Either branch of a choice. -/
theorem CacheOnly.ite {p : Prop} [Decidable p] {s t u : State} (h : CacheOnly s t) (k : CacheOnly s u) :
    CacheOnly s (if p then t else u) := by
  split
  · exact h
  · exact k

theorem CacheOnly.modTile (t : Nat) (f : Tile → Tile) (s : State) : CacheOnly s (modTile t f s) := rfl
theorem CacheOnly.modSlice (p : Nat) (f : Slice → Slice) (s : State) : CacheOnly s (modSlice p f s) := rfl
theorem CacheOnly.dropUnder1 (line : Nat) (s : State) : CacheOnly s (dropUnder1 line s) := rfl
theorem CacheOnly.dropUnder2 (line : Nat) (s : State) : CacheOnly s (dropUnder2 line s) := rfl
theorem CacheOnly.dropUnder3 (line : Nat) (s : State) : CacheOnly s (dropUnder3 line s) := rfl

theorem CacheOnly.foldl {α : Type} {f : State → α → State} (hf : ∀ s a, CacheOnly s (f s a)) (l : List α) (s : State) :
    CacheOnly s (l.foldl f s) := by
  induction l generalizing s with
  | nil => exact .refl s
  | cons a l ih => exact (hf s a).trans (ih _)

theorem CacheOnly.tagUse (ch tl : Nat) (w : Bool) (s : State) : CacheOnly s (tagUse ch tl w s) := by
  unfold Machine.tagUse
  dsimp only
  split <;> rfl

theorem CacheOnly.memRead (line : Nat) (s : State) : CacheOnly s (memRead line s) := .tagUse _ _ _ s

theorem CacheOnly.memWritten (line : Nat) (s : State) : CacheOnly s (memWritten line s) := (dropUnder3 line s).trans (.tagUse _ _ _ _)

theorem CacheOnly.keepUnder3 (line : Nat) (s : State) : CacheOnly s (keepUnder3 line s) := by
  unfold Machine.keepUnder3; split <;> rfl

theorem CacheOnly.setLlc (line : Nat) (q : PSet LlcEntry) (s : State) : CacheOnly s (setLlc line q s) := rfl
theorem CacheOnly.llcMod (line : Nat) (f : LlcEntry → Option LlcEntry) (s : State) : CacheOnly s (llcMod line f s) := rfl
theorem CacheOnly.setSf (line : Nat) (q : PSet SfEntry) (s : State) : CacheOnly s (setSf line q s) := rfl
theorem CacheOnly.sfDrop (line : Nat) (s : State) : CacheOnly s (sfDrop line s) := rfl
theorem CacheOnly.l2SetState (t line : Nat) (st : Option L2State) (s : State) : CacheOnly s (l2SetState t line st s) := rfl
theorem CacheOnly.l1iDrop (t line : Nat) (s : State) : CacheOnly s (l1iDrop t line s) := rfl
theorem CacheOnly.l1dDrop (t line : Nat) (s : State) : CacheOnly s (l1dDrop t line s) := rfl
theorem CacheOnly.l1dDirty (t line : Nat) (d : Bool) (s : State) : CacheOnly s (l1dDirty t line d s) := rfl
theorem CacheOnly.l2Touch (t line : Nat) (s : State) : CacheOnly s (l2Touch t line s) := rfl
theorem CacheOnly.l1iFill (t line : Nat) (s : State) : CacheOnly s (l1iFill t line s) := rfl
theorem CacheOnly.shadowDrop (t line : Nat) (s : State) : CacheOnly s (shadowDrop t line s) := rfl

theorem CacheOnly.llcTouch (line : Nat) (s : State) : CacheOnly s (llcTouch line s) := by
  unfold Machine.llcTouch; split <;> rfl

theorem CacheOnly.homeRead (line : Nat) (s : State) : CacheOnly s (homeRead line s) := ite (.llcTouch line s) (.memRead line s)

theorem CacheOnly.tileDrop (t line : Nat) (s : State) : CacheOnly s (tileDrop t line s) :=
  (((shadowDrop t line s).trans (.l2SetState t line none _)).trans (.l1dDrop t line _)).trans (.l1iDrop t line _)

theorem CacheOnly.entryWriteBack (e : LlcEntry) (s : State) : CacheOnly s (entryWriteBack e s) :=
  CacheOnly.foldl (fun s _ => ite (.memWritten _ s) (.refl s)) _ s

theorem CacheOnly.llcAlloc (line : Nat) (dirty : Bool) (s : State) : CacheOnly s (llcAlloc line dirty s) := by
  unfold Machine.llcAlloc
  dsimp only
  have h0 : CacheOnly s (if dirty = true then Machine.keepUnder3 line s else s) := ite (.keepUnder3 line s) (.refl s)
  generalize (if dirty = true then Machine.keepUnder3 line s else s) = u at h0 ⊢
  split
  · exact h0.trans (.setLlc _ _ _)
  · refine h0.trans (CacheOnly.trans ?_ (.setLlc _ _ _))
    split
    · exact .entryWriteBack _ _
    · exact .refl _

theorem CacheOnly.homeTakeDirty (line : Nat) (s : State) : CacheOnly s (homeTakeDirty line s) :=
  ((llcAlloc line true s).trans (dropUnder2 line _)).trans (dropUnder1 line _)

theorem CacheOnly.homePlace (line : Nat) (s : State) : CacheOnly s (homePlace line s) := by
  unfold Machine.homePlace
  dsimp only
  refine CacheOnly.trans (ite ?_ (.memWritten line s)) ((dropUnder2 line _).trans (.dropUnder1 _ _))
  exact ((keepUnder3 line s).trans (llcMod _ _ _)).trans (.llcTouch _ _)

theorem CacheOnly.backInval (e : SfEntry) (s : State) : CacheOnly s (backInval e s) :=
  let h := CacheOnly.foldl (fun s t => tileDrop t e.line s) (sfHolders e) s
  ite (h.trans (.homeTakeDirty _ _)) h

theorem CacheOnly.sfStore (e : SfEntry) (s : State) : CacheOnly s (sfStore e s) := by
  unfold Machine.sfStore
  dsimp only
  split
  · exact .setSf _ _ _
  · split
    · exact (backInval _ s).trans (.setSf _ _ _)
    · exact .setSf _ _ _

theorem CacheOnly.sfLeave (t line : Nat) (s : State) : CacheOnly s (sfLeave t line s) := by
  unfold Machine.sfLeave
  dsimp only
  repeat' split
  all_goals first | exact .refl s | exact .sfDrop line s | exact .sfStore _ s

theorem CacheOnly.l2Evict (t line : Nat) (s : State) : CacheOnly s (l2Evict t line s) :=
  ((tileDrop t line s).trans (ite (.homeTakeDirty _ _) (ite (.refl _) (.llcAlloc _ _ _)))).trans (.sfLeave _ _ _)

theorem CacheOnly.l2Fill (t line : Nat) (st : L2State) (s : State) : CacheOnly s (l2Fill t line st s) := by
  unfold Machine.l2Fill
  dsimp only
  split
  · exact .modTile _ _ _
  · split
    · exact (l2Evict t _ s).trans (.modTile _ _ _)
    · exact .modTile _ _ _

theorem CacheOnly.l1dFill (t line : Nat) (s : State) : CacheOnly s (l1dFill t line s) := by
  unfold Machine.l1dFill
  dsimp only
  split
  · exact .modTile _ _ _
  · refine CacheOnly.trans ?_ (.modTile _ _ _)
    split
    · exact ite (.dropUnder1 _ s) (.refl s)
    · exact .refl s

theorem CacheOnly.sfRebuild (line : Nat) (s : State) : CacheOnly s (sfRebuild line s) := by
  unfold Machine.sfRebuild
  split
  · exact ite ((backInval _ s).trans (.sfDrop _ _)) (.refl s)
  · exact .refl s

theorem CacheOnly.acquireShared (t line : Nat) (s : State) : CacheOnly s (acquireShared t line s) := by
  unfold Machine.acquireShared
  dsimp only
  refine (sfRebuild line s).trans ?_
  generalize Machine.sfRebuild line s = u
  split
  · exact ((homeRead line u).trans (.sfStore _ _)).trans (.l2Fill _ _ _ _)
  · split
    · exact ((homeRead line u).trans (.sfStore _ _)).trans (.l2Fill _ _ _ _)
    · exact ((homeTakeDirty line u).trans (.sfStore _ _)).trans (.l2Fill _ _ _ _)
    · refine ite ((homeRead line u).trans (.l2Fill _ _ _ _)) (ite ?_ ?_)
      · exact ((((l2SetState _ line _ u).trans (.l1dDirty _ _ _ _)).trans (.homeTakeDirty _ _)).trans (.sfStore _ _)).trans (.l2Fill _ _ _ _)
      · exact ((CacheOnly.ite (.l2SetState _ line _ u) (.homeRead line u)).trans (.sfStore _ _)).trans (.l2Fill _ _ _ _)
    · exact (sfStore _ u).trans (.l2Fill _ _ _ _)

theorem CacheOnly.acquireUnique (k : Own) (t line : Nat) (s : State) : CacheOnly s (acquireUnique k t line s).1 := by
  unfold Machine.acquireUnique
  dsimp only
  refine (sfRebuild line s).trans ?_
  generalize Machine.sfRebuild line s = u
  have h := CacheOnly.foldl (fun s h => tileDrop h line s) (otherHolders u t line) u
  refine CacheOnly.trans (CacheOnly.trans ?_ (.sfStore _ _)) (.l2Fill _ _ _ _)
  generalize (otherHolders u t line).foldl (fun s h => Machine.tileDrop h line s) u = v at h ⊢
  refine h.trans ?_
  split
  · exact ite (.homeTakeDirty _ _) (.homeRead _ _)
  · exact ite (.dropUnder1 _ _) (.refl _)

theorem CacheOnly.hitRead (t line : Nat) (en : Bool) (s : State) : CacheOnly s (hitRead t line en s) :=
  ite (.l1dFill t line s) (ite ((l2Touch t line s).trans (.l1dFill t line _)) (.l2Touch t line s))

theorem CacheOnly.hitFetch (t line : Nat) (en : Bool) (s : State) : CacheOnly s (hitFetch t line en s) :=
  ite (.l1iFill t line s) (ite ((l2Touch t line s).trans (.l1iFill t line _)) (.l2Touch t line s))

theorem CacheOnly.installShadow (t line : Nat) (en : Bool) (s : State) : CacheOnly s (installShadow t line en s) := by
  unfold Machine.installShadow
  split
  · dsimp only
    split
    · exact ite ((modTile t _ s).trans (.l2Fill _ _ _ _)) (.modTile t _ s)
    · exact .modTile t _ s
  · exact .refl s

theorem CacheOnly.installRead (t line : Nat) (en : Bool) (s : State) : CacheOnly s (installRead t line en s) :=
  ite ((modTile t _ s).trans (.l1dFill t line _)) (.modTile t _ s)

theorem CacheOnly.coreRead (t line : Nat) (en : Bool) (s : State) : CacheOnly s (coreRead t line en s) :=
  ite ((hitRead t line en s).trans (.installRead _ _ _ _)) ((CacheOnly.ite (.acquireShared t line s) (.refl s)).trans (.installRead _ _ _ _))

theorem CacheOnly.coreFetch (t line : Nat) (en : Bool) (s : State) : CacheOnly s (coreFetch t line en s) :=
  ite (.hitFetch t line en s) (ite ((acquireShared t line s).trans (.l1iFill t line _)) (.refl s))

theorem CacheOnly.removeFromL2s (line : Nat) (s : State) : CacheOnly s (removeFromL2s line s).1 := by
  unfold Machine.removeFromL2s
  split
  · exact .refl s
  · exact (CacheOnly.foldl (fun s t => tileDrop t line s) _ s).trans (.sfDrop _ _)

theorem CacheOnly.homeClear (line : Nat) (whole : Bool) (s : State) : CacheOnly s (homeClear line whole s) :=
  ite ((removeFromL2s line s).trans (.homeTakeDirty _ _)) (.removeFromL2s line s)

theorem CacheOnly.homePut (line : Nat) (alloc : Bool) (s : State) : CacheOnly s (homePut line alloc s) := ite (.homeTakeDirty line s) (.homePlace line s)

theorem CacheOnly.homeWrite (line : Nat) (alloc whole : Bool) (s : State) : CacheOnly s (homeWrite line alloc whole s) :=
  (homeClear line whole s).trans (.homePut _ _ _)

theorem CacheOnly.noteFar (line : Nat) (s : State) : CacheOnly s (noteFar line s) := .modSlice _ _ s

theorem CacheOnly.ownedDirty (t line : Nat) (en : Bool) (s : State) : CacheOnly s (ownedDirty t line en s) := by
  unfold Machine.ownedDirty
  dsimp only
  have h1 : CacheOnly s (if (mFind s.mem.under2 line).isSome = true then s
      else { s with mem := { s.mem with under2 := mIns s.mem.under2 line (getLine s line) } }) := by split <;> rfl
  generalize (if (mFind s.mem.under2 line).isSome = true then s
      else { s with mem := { s.mem with under2 := mIns s.mem.under2 line (getLine s line) } }) = u at h1 ⊢
  refine h1.trans ?_
  generalize (en || (Machine.l1dState u t line).isSome) = in1
  have h2 : CacheOnly u (if Machine.l1dState u t line = some true ∨ in1 = false then u
      else { u with mem := { u.mem with under1 := mIns u.mem.under1 line (getLine s line) } }) := by split <;> rfl
  generalize (if Machine.l1dState u t line = some true ∨ in1 = false then u
      else { u with mem := { u.mem with under1 := mIns u.mem.under1 line (getLine s line) } }) = v at h2 ⊢
  have h3 := (h2.trans (.hitRead t line en v)).trans (.l2SetState t line (some .m) _)
  exact ite (h3.trans (.l1dDirty _ _ _ _)) h3

theorem CacheOnly.coreOwn (t line : Nat) (en dcz whole : Bool) (s : State) : CacheOnly s (coreOwn t line en dcz whole s).1 := by
  unfold Machine.coreOwn
  dsimp only
  have h := l1iDrop t line s
  repeat' split
  · exact h
  · exact h.trans (acquireUnique _ t line _)
  · exact h.trans (homeClear line whole _)

/-! ## Asking -/

theorem CacheOnly.send (m : Msg) (s : State) : CacheOnly s (send m s) := rfl
theorem CacheOnly.toHomeReq (opc : Nat) (q : ReqFlit) (s : State) : CacheOnly s (toHomeReq opc q s) := rfl

theorem CacheOnly.sendAsk (h : Hart) (opc line : Nat) (s : State) : CacheOnly s (sendAsk h opc line s) := by
  cases h with
  | core n => exact (modTile _ _ s).trans (.toHomeReq _ _ _)
  | prv n => exact .toHomeReq _ _ s

theorem CacheOnly.ask (h : Hart) (opc line : Nat) (s : State) : CacheOnly s (ask h opc line s) := ite (.refl s) (.sendAsk h opc line s)

theorem CacheOnly.pushOut (t line : Nat) (s : State) : CacheOnly s (pushOut t line s) :=
  (((tileDrop t line s).trans (.dropUnder1 line _)).trans (.modTile t _ _)).trans (.toHomeReq _ _ _)

theorem CacheOnly.makeRoom (t line : Nat) (s : State) : CacheOnly s (makeRoom t line s) := by
  unfold Machine.makeRoom
  refine ite (.refl s) ?_
  split
  · exact ite (.pushOut _ _ s) (.refl s)
  · exact .refl s

theorem CacheOnly.askTracked (n line : Nat) (load : Bool) (s : State) : CacheOnly s (askTracked n line load s) := by
  unfold Machine.askTracked
  dsimp only
  have h : CacheOnly s (if ¬ load = true then s
    else if (tileAt s (tileOf s n)).shadow.any (fun e => decide (e.line = line)) = true then s
    else if (tileAt s (tileOf s n)).shadow.length < 16 then
      Machine.modTile (tileOf s n) (fun x => { x with shadow := x.shadow ++ [{ line := line }] }) s else s) :=
    ite (.refl s) (ite (.refl s) (ite (.modTile _ _ s) (.refl s)))
  exact ite (h.trans (.ask _ _ _ _)) ((h.trans (.ask _ _ _ _)).trans (.modTile _ _ _))

theorem CacheOnly.prvTaken (n line : Nat) (s : State) : CacheOnly s (prvTaken n line s) := rfl

theorem CacheOnly.readLine (h : Hart) (fetch : Bool) (line : Nat) (s : State) : CacheOnly s (readLine h fetch line s).1 := by
  cases h with
  | prv n =>
    unfold Machine.readLine
    dsimp only
    repeat' split
    · exact .prvTaken n line s
    · exact .refl s
    · exact .ask _ _ _ s
  | core n =>
    have take : ∀ t en s, CacheOnly s (if fetch = true then Machine.coreFetch t line en s else Machine.coreRead t line en s) :=
      fun t en s => ite (.coreFetch _ _ _ s) (.coreRead _ _ _ s)
    unfold Machine.readLine
    dsimp only
    split
    · exact take _ _ s
    · have hr : CacheOnly s (if cacheEn s (.core n) = true then Machine.makeRoom (tileOf s n) line s else s) := ite (.makeRoom _ _ s) (.refl s)
      generalize (if cacheEn s (.core n) = true then Machine.makeRoom (tileOf s n) line s else s) = u at hr ⊢
      split
      · exact hr.trans ((installShadow _ _ _ u).trans (ite (take _ _ _) (.refl _)))
      · split
        · exact hr.trans (take _ _ u)
        · exact hr.trans (.askTracked _ _ _ u)

theorem CacheOnly.ownLine (h : Hart) (line : Nat) (dcz whole : Bool) (s : State) : CacheOnly s (ownLine h line dcz whole s).1 := by
  cases h with
  | core n =>
    unfold Machine.ownLine
    dsimp only
    repeat' split
    · exact .coreOwn _ _ _ _ _ s
    · exact (makeRoom _ _ s).trans (.coreOwn _ _ _ _ _ _)
    · exact (makeRoom _ _ s).trans (.ask _ _ _ _)
    · exact .coreOwn _ _ _ _ _ s
    · exact .ask _ _ _ s
  | prv n =>
    unfold Machine.ownLine
    dsimp only
    split
    · exact .homeClear _ _ s
    · exact .ask _ _ _ s

theorem CacheOnly.writeLine (h : Hart) (line : Nat) (s : State) : CacheOnly s (writeLine h line s) := by
  cases h with
  | core n => exact ite (.ownedDirty _ _ _ s) (.homePut _ _ s)
  | prv n => exact .homePut _ _ s

/-! ## What follows for a state -/

section
variable {s t : State} (h : CacheOnly s t)
include h

theorem CacheOnly.cores : t.cores = s.cores := by rw [h]
theorem CacheOnly.prv : t.prv = s.prv := by rw [h]
theorem CacheOnly.objs : t.objs = s.objs := by rw [h]
theorem CacheOnly.ras : t.ras = s.ras := by rw [h]
theorem CacheOnly.pending : t.pending = s.pending := by rw [h]
theorem CacheOnly.stamp : t.stamp = s.stamp := by rw [h]
theorem CacheOnly.phase : t.phase = s.phase := by rw [h]
theorem CacheOnly.bytes : t.mem.bytes = s.mem.bytes := by rw [h]
theorem CacheOnly.tags : t.mem.tags = s.mem.tags := by rw [h]
theorem CacheOnly.cpuOf (k : Hart) : cpuOf t k = cpuOf s k := by rw [h]; rfl
theorem CacheOnly.memByte (a : Nat) : memByte t a = memByte s a := by rw [h]; rfl
theorem CacheOnly.memTagCode (a : Nat) : memTagCode t a = memTagCode s a := by rw [h]; rfl
theorem CacheOnly.sound (hs : Sound s) : Sound t := hs.congr h.bytes h.tags
theorem CacheOnly.memKept : MemKept s t := ⟨h.memByte, h.memTagCode⟩

end

/-! ## TLBs -/

/-- `d` differs from `c` in its TLBs at most. -/
def TlbOnly (c d : Cpu) : Prop :=
  d = { c with itlb := d.itlb, dtlb := d.dtlb, dtrees := d.dtrees, dorder := d.dorder, l2tlb := d.l2tlb }

theorem TlbOnly.refl (c : Cpu) : TlbOnly c c := rfl

theorem TlbOnly.trans {c d e : Cpu} (h : TlbOnly c d) (k : TlbOnly d e) : TlbOnly c e := by
  unfold TlbOnly at *
  rw [k, h]

theorem TlbOnly.l2tlbTouch (va : Word) (c : Cpu) : TlbOnly c (l2tlbTouch va c) := by
  unfold Machine.l2tlbTouch
  repeat' split
  all_goals rfl

theorem TlbOnly.itlbTouch (va : Word) (e : TlbEntry) (c : Cpu) : TlbOnly c (itlbTouch va e c) := by
  unfold Machine.itlbTouch
  split <;> rfl

theorem TlbOnly.dtlbTouch (va : Word) (e : TlbEntry) (c : Cpu) : TlbOnly c (dtlbTouch va e c) := by
  unfold Machine.dtlbTouch
  dsimp only
  split <;> rfl

theorem TlbOnly.tlbUse (a : Access) (va : Word) (c : Cpu) : TlbOnly c (tlbUse a va c) := by
  unfold Machine.tlbUse
  repeat' split
  all_goals first
    | exact .refl c
    | exact .itlbTouch _ _ c
    | exact .dtlbTouch _ _ c
    | exact (l2tlbTouch va c).trans (.itlbTouch _ _ _)
    | exact (l2tlbTouch va c).trans (.dtlbTouch _ _ _)

/-! ## FETCH -/

end Sys2Proof.Machine
end

