-- ==== Sys2Proof/Laws/Objects.lean ====
section
/-! SUPPORT. Objects, their fields, and the records that units send (22, 16 R435). -/

namespace Sys2Proof.Machine
open Sys2Proof

/-! ## Objects -/

/-- Storing one object keeps every other. -/
theorem ObjsKept.setObj (idx sub : Nat) (v : Word) (s : State) : ObjsKept [(idx, sub)] s (setObj idx sub v s) := by
  intro k hk
  show mFind (mPut _ s.objs _ v) k = _
  exact mFind_mPut_other _ _ _ (fun h => hk (idx, sub) (by simp) h.symm)

theorem ObjSet.setObj (idx sub : Nat) (v : Word) (s : State) : ObjSet idx sub v s (setObj idx sub v s) := ⟨obj_setObj_same .., ObjsKept.setObj idx sub v s⟩

theorem ObjsKept.refl (ks : List (Nat × Nat)) (s : State) : ObjsKept ks s s := fun _ _ => rfl

theorem ObjsKept.trans {ks : List (Nat × Nat)} {s t u : State} (h : ObjsKept ks s t) (k : ObjsKept ks t u) : ObjsKept ks s u :=
  fun n hn => (k n hn).trans (h n hn)

theorem ObjsKept.mono {ks ls : List (Nat × Nat)} {s u : State} (h : ObjsKept ks s u) (hl : ∀ p ∈ ks, p ∈ ls) : ObjsKept ls s u :=
  fun n hn => h n (fun p hp => hn p (hl p hp))

/-! ## Records -/

/-- What sending a record does where no once-an-hour window holds it back. -/
theorem report_ras {r : ErrRec} {s : State} (hh : hourly r.cls = false) :
    (report r s).ras = { s.ras with
      inbox := s.ras.inbox ++ [{ r with stamp := s.stamp, useq := mGet 0 s.ras.useq r.unit, unaligned := !(aligned s) }]
      useq := mPut 0 s.ras.useq r.unit ((mGet 0 s.ras.useq r.unit + 1) % 2 ^ 32) } := by
  simp [report, hh]

theorem noteDev_reports (unit cls sev d0 d1 : Nat) (s : State) (hh : hourly cls = false) :
    Reports unit cls sev 0x10 d0 d1 s (noteDev unit cls sev d0 d1 s) := by
  exact ⟨_, report_ras (r := { stamp := 0, useq := 0, unit := unit, cls := cls, sev := sev, encl := 0x10, d0 := d0, d1 := d1 }) hh,
    rfl, rfl, rfl, rfl, rfl, rfl, rfl, rfl⟩

theorem noteNone_reports (unit cls sev d0 d1 : Nat) (s : State) (hh : hourly cls = false) :
    Reports unit cls sev 0xFF d0 d1 s (noteNone unit cls sev d0 d1 s) := by
  exact ⟨_, report_ras (r := { stamp := 0, useq := 0, unit := unit, cls := cls, sev := sev, encl := 0xFF, d0 := d0, d1 := d1 }) hh,
    rfl, rfl, rfl, rfl, rfl, rfl, rfl, rfl⟩

/-! ## Fields -/

/-- A field reads back what was stored in it, reduced to its width. -/
theorem fld_setFld_same {w : Word} {hi lo v : Nat} (hl : lo ≤ hi) (hh : hi < 64) : fld (setFld w hi lo v) hi lo = v % 2 ^ (hi + 1 - lo) := by
  unfold fld setFld nbits
  have hw := w.isLt
  generalize w.toNat = n at *
  have hk : lo + (hi + 1 - lo) ≤ 64 := by omega
  generalize hi + 1 - lo = k at *
  simp only [Nat.shiftRight_eq_div_pow, Nat.shiftLeft_eq, BitVec.toNat_ofNat]
  have hv : v % 2 ^ k < 2 ^ k := Nat.mod_lt _ (Nat.two_pow_pos k)
  generalize v % 2 ^ k = x at *
  have hle : n / 2 ^ lo % 2 ^ k * 2 ^ lo ≤ n :=
    Nat.le_trans (Nat.mul_le_mul_right _ (Nat.mod_le _ _)) (Nat.div_mul_le_self n _)
  -- the part above the field, the field, the part below it
  have hn : n = n / 2 ^ lo / 2 ^ k * 2 ^ (lo + k) + n / 2 ^ lo % 2 ^ k * 2 ^ lo + n % 2 ^ lo := by
    have h1 := Nat.div_add_mod n (2 ^ lo)
    have h2 := Nat.div_add_mod (n / 2 ^ lo) (2 ^ k)
    rw [Nat.pow_add, ← Nat.mul_assoc, Nat.mul_right_comm, ← Nat.add_mul, Nat.mul_comm (_ / _ / _), h2, Nat.mul_comm]
    exact h1.symm
  generalize ha : n / 2 ^ lo / 2 ^ k = a at *
  generalize hb : n / 2 ^ lo % 2 ^ k = b at *
  have hc : n % 2 ^ lo < 2 ^ lo := Nat.mod_lt _ (Nat.two_pow_pos lo)
  generalize n % 2 ^ lo = c at *
  have he : n - b * 2 ^ lo + x * 2 ^ lo = (a * 2 ^ k + x) * 2 ^ lo + c := by
    rw [Nat.add_mul, Nat.mul_assoc, ← Nat.pow_add, Nat.add_comm k lo]; omega
  have hlt : (a * 2 ^ k + x) * 2 ^ lo + c < 2 ^ 64 := by
    have h1 : a * 2 ^ (lo + k) < 2 ^ 64 := by omega
    have hdiv : 2 ^ 64 = 2 ^ (64 - (lo + k)) * 2 ^ (lo + k) := by rw [← Nat.pow_add]; congr 1; omega
    have h2 : a < 2 ^ (64 - (lo + k)) := by
      rw [hdiv] at h1; exact Nat.lt_of_mul_lt_mul_right h1
    have h3 : (a + 1) * 2 ^ (lo + k) ≤ 2 ^ 64 := by rw [hdiv]; exact Nat.mul_le_mul_right _ h2
    have h4 : (x + 1) * 2 ^ lo ≤ 2 ^ (lo + k) := by rw [Nat.add_comm lo k, Nat.pow_add]; exact Nat.mul_le_mul_right _ hv
    rw [Nat.add_mul, Nat.mul_assoc, ← Nat.pow_add, Nat.add_comm k lo]
    rw [Nat.add_mul] at h3 h4
    omega
  rw [he, Nat.mod_eq_of_lt hlt, Nat.add_comm, Nat.add_mul_div_right _ _ (Nat.two_pow_pos lo), Nat.div_eq_of_lt hc, Nat.zero_add,
    Nat.add_comm, Nat.add_mul_mod_self_right, Nat.mod_eq_of_lt hv]

end Sys2Proof.Machine
end

