-- ==== Sys2Proof/Laws/Retire.lean ====
section
/-! SUPPORT. The frame of one instruction, composed: fetch, the write of a register, and retirement. -/

namespace Sys2Proof.Machine
open Sys2Proof

theorem Kept.refl (h : Hart) (w : Writes) (s : State) : Kept h w s s :=
  ⟨fun _ _ => rfl, fun _ _ => rfl, fun _ _ => rfl, fun _ _ _ => rfl, fun _ => rfl, fun _ hm => ⟨rfl, rfl, hm⟩, fun _ => rfl, fun _ => rfl, rfl,
   fun _ _ => rfl, rfl, rfl⟩

/-! ## The parts of a core that each part of an instruction leaves alone -/

/-- A core's registers, buffers and run state other than its counters, TLBs, program counter and loop counts: what fetch and retirement
keep. -/
structure RegsKept (c d : Cpu) : Prop where
  g : d.g = c.g
  f : d.f = c.f
  v : d.v = c.v
  lk : d.lk = c.lk
  ls : d.ls = c.ls
  le : d.le = c.le
  level : d.level = c.level
  sb : d.sb = c.sb
  nt : d.nt = c.nt
  run : d.run = c.run
  wait : d.wait = c.wait
  sys : ∀ n, isCounter n = false → sysReg d n = sysReg c n
  acc : c.mulq = [] → d.ph = c.ph ∧ d.pl = c.pl ∧ d.mulq = []

theorem RegsKept.refl (c : Cpu) : RegsKept c c := ⟨rfl, rfl, rfl, rfl, rfl, rfl, rfl, rfl, rfl, rfl, rfl, fun _ _ => rfl, fun h => ⟨rfl, rfl, h⟩⟩

theorem RegsKept.trans {c d e : Cpu} (h : RegsKept c d) (k : RegsKept d e) : RegsKept c e :=
  ⟨k.g.trans h.g, k.f.trans h.f, k.v.trans h.v, k.lk.trans h.lk, k.ls.trans h.ls, k.le.trans h.le, k.level.trans h.level,
   k.sb.trans h.sb, k.nt.trans h.nt, k.run.trans h.run, k.wait.trans h.wait,
   fun n hn => (k.sys n hn).trans (h.sys n hn),
   fun hm => let a := h.acc hm
             let b := k.acc a.2.2
             ⟨b.1.trans a.1, b.2.1.trans a.2.1, b.2.2⟩⟩

/-- A change of TLBs keeps the registers. -/
theorem TlbOnly.regs {c d : Cpu} (h : TlbOnly c d) : RegsKept c d := by
  rw [h]
  exact ⟨rfl, rfl, rfl, rfl, rfl, rfl, rfl, rfl, rfl, rfl, rfl, fun _ _ => rfl, fun h => ⟨rfl, rfl, h⟩⟩

/-- A write of a counter keeps the registers. -/
theorem RegsKept.setSys {n : Nat} (h : isCounter n = true) (x : Word) (c : Cpu) : RegsKept c (setSys n x c) :=
  ⟨rfl, rfl, rfl, rfl, rfl, rfl, rfl, rfl, rfl, rfl, rfl,
   fun k hk => sysReg_setSys_other n k x c (fun e => by simp_all),
   fun h => ⟨rfl, rfl, h⟩⟩

theorem RegsKept.pmcAdd {i : Nat} (h : isCounter (pmcNum i) = true) (k : Nat) (c : Cpu) : RegsKept c (pmcAdd i k c).1 := .setSys h _ _

theorem RegsKept.pmcWrapped (i : Nat) (c : Cpu) : RegsKept c (pmcWrapped i c).1 := .setSys rfl _ _

/-- Counting in one counter keeps the registers. -/
theorem RegsKept.pmcCount (ev k i : Nat) (hi : i < 8) (r : Cpu × Bool) : RegsKept r.1 (pmcCount ev k i r).1 := by
  have hc : ∀ j, j < 8 → isCounter (pmcNum j) = true := by
    intro j hj
    have : 0x448 ≤ pmcNum j ∧ pmcNum j ≤ 0x44F := by unfold pmcNum; omega
    unfold isCounter
    rw [decide_eq_true this]
    simp
  have h1 := RegsKept.pmcAdd (hc i hi) k r.1
  unfold Machine.pmcCount
  split
  · exact .refl _
  · split
    · next heq => rw [heq] at h1; exact h1
    · next heq =>
      rw [heq] at h1
      dsimp only
      split
      · next hp =>
        split
        · exact h1
        · have h2 := RegsKept.pmcAdd (hc (i + 1) (by omega)) 1 (Machine.pmcAdd i k r.1).1
          rw [heq] at h2
          split
          · next heq2 => rw [heq2] at h2; exact h1.trans h2
          · next heq2 => rw [heq2] at h2; exact (h1.trans h2).trans (.pmcWrapped _ _)
      · exact h1.trans (.pmcWrapped _ _)

/-- Counting in a list of counters keeps the registers. -/
theorem RegsKept.pmcFold (ev k : Nat) (l : List Nat) (hl : ∀ i ∈ l, i < 8) (r : Cpu × Bool) :
    RegsKept r.1 (l.foldl (fun r i => Machine.pmcCount ev k i r) r).1 := by
  induction l generalizing r with
  | nil => exact .refl _
  | cons i l ih =>
    exact (RegsKept.pmcCount ev k i (hl i List.mem_cons_self) r).trans (ih (fun j hj => hl j (List.mem_cons_of_mem _ hj)) _)

/-- Counting an event keeps the core's registers, and every other hart. -/
theorem countEv_regs (n ev k : Nat) (s : State) : RegsKept (coreOf s n) (coreOf (countEv n ev k s) n) := by
  have h := RegsKept.pmcFold ev k (List.range 8) (fun i hi => List.mem_range.1 hi) (coreOf s n, false)
  have e : coreOf (countEv n ev k s) n = ((List.range 8).foldl (fun r i => pmcCount ev k i r) (coreOf s n, false)).1 := by
    unfold countEv
    dsimp only
    generalize (List.range 8).foldl (fun r i => pmcCount ev k i r) (coreOf s n, false) = r
    split
    · exact coreOf_setCpu_core _ _ _
    · exact coreOf_setCpu_core _ _ _
  rw [e]
  exact h

theorem countEv_others (n ev k : Nat) (s : State) (j : Hart) (hj : j ≠ .core n) : cpuOf (countEv n ev k s) j = cpuOf s j := by
  unfold countEv
  dsimp only
  generalize (List.range 8).foldl (fun r i => pmcCount ev k i r) (coreOf s n, false) = r
  split
  · exact cpuOf_setCpu_other _ _ _ _ hj
  · exact cpuOf_setCpu_other _ _ _ _ hj

theorem countEv_objs (n ev k : Nat) (s : State) : (countEv n ev k s).objs = s.objs := by
  unfold countEv raiseLocal
  dsimp only
  generalize (List.range 8).foldl (fun r i => pmcCount ev k i r) (coreOf s n, false) = r
  split <;> rfl

theorem countEv_pending (n ev k : Nat) (s : State) : (countEv n ev k s).pending = s.pending := by
  unfold countEv raiseLocal
  dsimp only
  generalize (List.range 8).foldl (fun r i => pmcCount ev k i r) (coreOf s n, false) = r
  split <;> rfl

/-- Counting in one counter changes system registers alone. -/
theorem pmcCount_sys (ev k i : Nat) (r : Cpu × Bool) : (pmcCount ev k i r).1 = { r.1 with sys := (pmcCount ev k i r).1.sys } := by
  have hp : ∀ j n (c : Cpu), (pmcAdd j n c).1 = { c with sys := (pmcAdd j n c).1.sys } := fun _ _ _ => rfl
  have ht : ∀ c d e : Cpu, d = { c with sys := d.sys } → e = { d with sys := e.sys } → e = { c with sys := e.sys } := by
    intro c d e h1 h2
    rw [h2, h1]
  unfold pmcCount
  split
  · rfl
  · have h1 := hp i k r.1
    split
    · next heq => rw [heq] at h1; exact h1
    · next c heq =>
      rw [heq] at h1
      dsimp only
      have h2 := hp (i + 1) 1 c
      repeat' split
      · exact h1
      · next heq2 => rw [heq2] at h2; exact ht _ _ _ h1 h2
      · next heq2 => rw [heq2] at h2; exact ht _ _ _ (ht _ _ _ h1 h2) rfl
      · exact ht _ _ _ h1 rfl

/-- Counting changes system registers of the core alone. -/
theorem countEv_sys (n ev k : Nat) (s : State) :
    coreOf (countEv n ev k s) n = { coreOf s n with sys := (coreOf (countEv n ev k s) n).sys } := by
  have hs : ∀ (l : List Nat) (r : Cpu × Bool), (l.foldl (fun r i => pmcCount ev k i r) r).1 =
      { r.1 with sys := (l.foldl (fun r i => pmcCount ev k i r) r).1.sys } := by
    intro l
    induction l with
    | nil => intro r; rfl
    | cons i l ih =>
      intro r
      have h := ih (pmcCount ev k i r)
      rw [pmcCount_sys] at h
      exact h
  have e : coreOf (countEv n ev k s) n = ((List.range 8).foldl (fun r i => pmcCount ev k i r) (coreOf s n, false)).1 := by
    unfold countEv
    dsimp only
    generalize (List.range 8).foldl (fun r i => pmcCount ev k i r) (coreOf s n, false) = r
    split
    · exact coreOf_setCpu_core _ _ _
    · exact coreOf_setCpu_core _ _ _
  rw [e]
  exact hs _ _

/-! ## The fetch -/

/-- What the fetch of an instruction keeps of its hart: the registers, the program counter and the loop counts. -/
structure FetchKept (c d : Cpu) : Prop extends RegsKept c d where
  pc : d.pc = c.pc
  lc : d.lc = c.lc

theorem FetchKept.refl (c : Cpu) : FetchKept c c := ⟨.refl c, rfl, rfl⟩

theorem FetchKept.trans {c d e : Cpu} (h : FetchKept c d) (k : FetchKept d e) : FetchKept c e :=
  ⟨h.toRegsKept.trans k.toRegsKept, k.pc.trans h.pc, k.lc.trans h.lc⟩

/-- `t` follows from `s` by work of the hart `h` that keeps its registers, every other hart, the objects and the waiting commands. -/
structure HartWork (h : Hart) (s t : State) : Prop where
  hart : FetchKept (cpuOf s h) (cpuOf t h)
  others : ∀ k, k ≠ h → cpuOf t k = cpuOf s k
  objs : t.objs = s.objs
  pending : t.pending = s.pending

theorem HartWork.refl (h : Hart) (s : State) : HartWork h s s := ⟨.refl _, fun _ _ => rfl, rfl, rfl⟩

theorem HartWork.trans {h : Hart} {s t u : State} (a : HartWork h s t) (b : HartWork h t u) : HartWork h s u :=
  ⟨a.hart.trans b.hart, fun k hk => (b.others k hk).trans (a.others k hk), b.objs.trans a.objs, b.pending.trans a.pending⟩

/-- Work that leaves every hart alone. -/
theorem HartWork.of_units {h : Hart} {s t : State} (hc : ∀ k, cpuOf t k = cpuOf s k) (ho : t.objs = s.objs) (hp : t.pending = s.pending) :
    HartWork h s t := ⟨by rw [hc]; exact .refl _, fun k _ => hc k, ho, hp⟩

theorem CacheOnly.work {s t : State} (c : CacheOnly s t) (h : Hart) : HartWork h s t := .of_units c.cpuOf c.objs c.pending

theorem HartWork.modCpu {h : Hart} {f : Cpu → Cpu} (s : State) (hf : FetchKept (cpuOf s h) (f (cpuOf s h))) : HartWork h s (modCpu h f s) :=
  ⟨by rw [cpuOf_modCpu_same]; exact hf, fun k hk => cpuOf_modCpu_other _ _ _ _ hk, by simp, by simp⟩

/-- Counting. -/
theorem HartWork.countEv (n ev k : Nat) (s : State) : HartWork (.core n) s (countEv n ev k s) :=
  ⟨⟨countEv_regs n ev k s, by
      show (coreOf (Machine.countEv n ev k s) n).pc = _
      rw [countEv_sys]; rfl, by
      show (coreOf (Machine.countEv n ev k s) n).lc = _
      rw [countEv_sys]; rfl⟩,
   countEv_others n ev k s, countEv_objs n ev k s, countEv_pending n ev k s⟩

/-- `d` differs from `c` in its predictors, return stack and window at most. -/
def FrontOnly (c d : Cpu) : Prop := d = { c with rstack := d.rstack, pred := d.pred, win := d.win }

theorem FrontOnly.trans {c d e : Cpu} (h : FrontOnly c d) (k : FrontOnly d e) : FrontOnly c e := by
  unfold FrontOnly at *
  rw [k, h]

theorem FrontOnly.kept {c d : Cpu} (e : FrontOnly c d) : FetchKept c d := by
  rw [e]
  exact ⟨⟨rfl, rfl, rfl, rfl, rfl, rfl, rfl, rfl, rfl, rfl, rfl, fun _ _ => rfl, fun h => ⟨rfl, rfl, h⟩⟩, rfl, rfl⟩

theorem FrontOnly.predict (pc : Word) (w : BitVec 32) (c : Cpu) : FrontOnly c (predict pc w c).2.2 := by
  unfold Machine.predict
  dsimp only
  repeat' split
  all_goals rfl

/-- The prediction of an instruction. -/
theorem HartWork.fetchNext (h : Hart) (i : Instr) (s : State) : HartWork h s (fetchNext h i s).2 := by
  cases h with
  | prv n => exact .refl _ s
  | core n =>
    have hs : HartWork (.core n) s (setCpu (.core n) (fetched i (coreOf s n).pc (coreOf s n)).2.2 s) :=
      HartWork.modCpu s (f := fun c => (fetched i c.pc c).2.2) (FrontOnly.predict _ _ _).kept
    unfold Machine.fetchNext
    dsimp only
    split
    · exact hs.trans (.countEv _ _ _ _)
    · exact hs

@[simp] theorem fetchNext_mem (h : Hart) (i : Instr) (s : State) : (fetchNext h i s).2.mem = s.mem := by
  cases h with
  | prv n => rfl
  | core n => unfold fetchNext; dsimp only; split <;> simp

/-- What a unit's work leaves of a state: every hart, the objects and the waiting commands, and memory's canonical form. -/
structure UnitWork (s t : State) : Prop where
  cpus : ∀ k, cpuOf t k = cpuOf s k
  objs : t.objs = s.objs
  pending : t.pending = s.pending
  sound : Sound s → Sound t

theorem UnitWork.refl (s : State) : UnitWork s s := ⟨fun _ => rfl, rfl, rfl, id⟩

theorem UnitWork.trans {s t u : State} (a : UnitWork s t) (b : UnitWork t u) : UnitWork s u :=
  ⟨fun k => (b.cpus k).trans (a.cpus k), b.objs.trans a.objs, b.pending.trans a.pending, fun h => b.sound (a.sound h)⟩

theorem UnitWork.report (r : ErrRec) (s : State) : UnitWork s (report r s) :=
  ⟨fun k => by cases k <;> simp [cpuOf, coreOf, prvOf], by simp, by simp, fun h => Sound.report r h⟩

theorem UnitWork.access (h : Hart) (cls k pa : Nat) (s : State) : UnitWork s (reportAccess h cls k pa s) := .report _ s

/-- The same state with either of two answers. -/
theorem UnitWork.either {p : Prop} [Decidable p] {a b : Option Nat} {s w : State} (h : UnitWork s w) :
    UnitWork s (if p then (a, w) else (b, w)).2 := by
  split <;> exact h

theorem UnitWork.setIoTlb (unit : Nat) (q : IoTlb) (s : State) : UnitWork s (setIoTlb unit q s) := ⟨fun _ => rfl, rfl, rfl, id⟩

/-- Marking a leaf (07 R183). -/
theorem UnitWork.markLeaf (pa : Nat) (leaf : Word) (s : State) : UnitWork s (markLeaf pa leaf s) := by
  unfold Machine.markLeaf
  split
  · exact .refl s
  · have c := CacheOnly.homeWrite (lineOf pa) false false s
    have m := MemOnly.storeBytes pa (leBytes 8 leaf.toNat) none (homeWrite (lineOf pa) false false s)
    exact ⟨fun k => (m.cpuOf k).trans (c.cpuOf k), m.objs.trans c.objs, m.pending.trans c.pending, fun h => (c.sound h).storeBytes _ _ _⟩

/-- A walk of an I/O translation table (07 R189, R190). -/
theorem UnitWork.ioWalkTable (unit stream encl : Nat) (r : StreamRoot) (va : Word) (store : Bool) (s : State) :
    UnitWork s (ioWalkTable unit stream encl r va store s).2 := by
  unfold Machine.ioWalkTable
  dsimp only
  split
  · next pa leaf _ =>
    generalize (if flag r.root 2 = true then markedLeaf store leaf else leaf) = x
    have h : UnitWork s (if flag r.root 2 = true then Machine.markLeaf pa x s else s) := by
      split
      · exact .markLeaf _ _ _
      · exact .refl _
    generalize (if flag r.root 2 = true then Machine.markLeaf pa x s else s) = u at h ⊢
    exact .either (h.trans (.setIoTlb _ _ _))
  · dsimp only
    split
    · exact UnitWork.trans (.setIoTlb _ _ s) (.report _ _)
    · exact .setIoTlb _ _ s
  · exact .setIoTlb _ _ s

/-- A translation of an engine's or a root complex's access. -/
theorem UnitWork.ioTranslate (unit stream encl : Nat) (r : StreamRoot) (va : Word) (store : Bool) (s : State) :
    UnitWork s (ioTranslate unit stream encl r va store s).2 := by
  unfold Machine.ioTranslate
  dsimp only
  split
  · exact .refl s
  · split
    · split
      · exact .ioWalkTable unit stream encl r va store s
      · exact .either (.setIoTlb _ _ s)
    · exact .ioWalkTable unit stream encl r va store s

/-- The checks of a fetch (03 Table 3.9). -/
theorem UnitWork.fetchCheck (h : Hart) (s : State) : UnitWork s (fetchCheck h s).2 := by
  cases h with
  | core n =>
    unfold Machine.fetchCheck
    dsimp only
    repeat' split
    all_goals first | exact .refl s | (dsimp only; exact .access _ _ _ _ _)
  | prv n =>
    have hp : UnitWork s (prvFetchPa n s).2 := by
      unfold prvFetchPa
      split
      · exact .refl s
      · exact .ioTranslate _ _ _ _ _ _ _
    unfold Machine.fetchCheck
    dsimp only
    split
    · exact .refl s
    · rcases hq : prvFetchPa n s with ⟨o, u⟩
      rw [hq] at hp
      cases o with
      | none => exact hp
      | some pa =>
        dsimp only
        repeat' split
        all_goals first | exact hp | (dsimp only; exact UnitWork.trans hp (.access _ _ _ _ _))

theorem UnitWork.work {s t : State} (k : UnitWork s t) (h : Hart) : HartWork h s t := .of_units k.cpus k.objs k.pending

/-- A line that a fetch finds with the hart, after counting a miss: registers, other harts and memory are kept. -/
theorem fetchLine_work {h : Hart} {s : State} (hd : fetchDelivers h s = true) : HartWork h s (fetchUse h s) ∧ MemKept s (fetchUse h s) ∧
    (Sound s → Sound (fetchUse h s)) := by
  have hs : storesTo (cpuOf s h) (lineOf (physAt (cpuOf s h) .fetch (cpuOf s h).pc)) = false := by
    simp only [fetchDelivers, Bool.and_eq_true, Bool.not_eq_true'] at hd
    exact hd.1
  have same : HartWork h s s ∧ MemKept s s ∧ (Sound s → Sound s) := ⟨.refl h s, .refl s, id⟩
  cases h with
  | core n =>
    have hs' : storesTo (coreOf s n) (lineOf (physAt (coreOf s n) .fetch (coreOf s n).pc)) = false := hs
    have c := CacheOnly.readLine (.core n) true (lineOf (physAt (coreOf s n) .fetch (coreOf s n).pc)) s
    unfold fetchUse fetchLine
    dsimp only
    rw [hs']
    simp only [Bool.false_eq_true, if_false, not_true_eq_false]
    split
    · exact ⟨(c.work _).trans (.countEv _ _ _ _), c.memKept.trans (.of_mem (countEv_mem _ _ _ _)), fun h => (c.sound h).of_mem (countEv_mem _ _ _ _)⟩
    · exact ⟨c.work _, c.memKept, c.sound⟩
  | prv n =>
    unfold fetchUse fetchLine
    dsimp only
    split
    · exact same
    · split
      · next pa _ =>
        have c := CacheOnly.readLine (.prv n) true (lineOf pa) s
        exact ⟨c.work _, c.memKept, c.sound⟩
      · exact same

/-- The fetch of a ready instruction: what it keeps. -/
theorem started_work {h : Hart} {i : Instr} {s : State} (hd : fetchDelivers h (toFetch h i s) = true) :
    HartWork h s (started h i s) ∧ MemKept (fetchCheck h s).2 (started h i s) ∧ (Sound s → Sound (started h i s)) := by
  have a := UnitWork.fetchCheck h s
  have b := HartWork.fetchNext h i (fetchCheck h s).2
  have m := fetchNext_mem h i (fetchCheck h s).2
  have c := fetchLine_work hd
  exact ⟨((a.work h).trans b).trans c.1, (MemKept.of_mem m).trans c.2.1, fun hs => c.2.2 ((a.sound hs).of_mem m)⟩

/-- A ready instruction runs: its effect on the state that its fetch leaves, then what follows it. -/
theorem run_ready {h : Hart} {i : Instr} {s : State} (body : State → State × Done) (hr : ready h i s = true) :
    run h i body s = .next (finish h (fetchNext h i (fetchCheck h s).2).1 (cpuOf (started h i s) h)
      (body (started h i s)).1 (body (started h i s)).2) := by
  simp only [ready, Bool.and_eq_true, Bool.not_eq_true', decide_eq_true_eq] at hr
  obtain ⟨⟨⟨⟨⟨⟨⟨⟨h1, h2⟩, h3⟩, h4⟩, h5⟩, h6⟩, h7⟩, h8⟩, h9⟩ := hr
  have hw : (cpuOf s h).wait = .none := by
    simp only [canRun, Bool.and_eq_true, decide_eq_true_eq] at h2
    exact h2.2
  have hl : legal h (cpuOf (started h i s) h) i = true := by
    unfold legal at h9 ⊢
    rw [(started_work h8).1.hart.level]
    exact h9
  have hf : (fetchLine h (toFetch h i s)).2 = true := by
    simp only [fetchDelivers, Bool.and_eq_true] at h8
    exact h8.2
  have hc : fetchCheck h s = (none, (fetchCheck h s).2) := Prod.ext h7 rfl
  unfold run
  rw [if_neg (by simp [h1]), if_neg (by simp [h4]), if_neg (by simp [h3, hw]), if_neg (by simp [h2]), if_neg (by simp [h5]),
    if_neg (by simp [h6]), hc]
  dsimp only
  unfold oldest
  dsimp only
  rw [if_neg (by simp [toFetch] at hf; simp [hf])]
  rw [if_neg (by simp [started, fetchUse, toFetch] at hl; simp [hl])]
  rw [earlyCheck_fetchNext]
  simp [started, fetchUse, toFetch]

theorem ready_delivers {h : Hart} {i : Instr} {s : State} (hr : ready h i s = true) : fetchDelivers h (toFetch h i s) = true := by
  simp only [ready, Bool.and_eq_true] at hr
  exact hr.1.2

theorem ready_check {h : Hart} {i : Instr} {s : State} (hr : ready h i s = true) : (fetchCheck h s).1 = none := by
  simp only [ready, Bool.and_eq_true, decide_eq_true_eq] at hr
  exact hr.1.1.2

/-- What a frame compares memory with, in a ready state, is memory after the fetch's checks. -/
theorem ready_walked {h : Hart} {i : Instr} {s : State} (hr : ready h i s = true) : walked h s = (fetchCheck h s).2 := by
  cases h with
  | prv n => rfl
  | core n => exact (fetchCheck_core (ready_check hr)).symm

/-! ## Retirement -/

/-- Loop evaluation changes the program counter and the loop counts only. -/
theorem loopEval_regs (a : Word) (k i : Nat) (c : Cpu) : RegsKept c (loopEval a k i c) := by
  induction k generalizing i c with
  | zero => exact ⟨rfl, rfl, rfl, rfl, rfl, rfl, rfl, rfl, rfl, rfl, rfl, fun _ _ => rfl, fun h => ⟨rfl, rfl, h⟩⟩
  | succ k ih =>
    unfold loopEval
    split
    · split
      · exact RegsKept.trans (d := { c with lc := mPut 0 c.lc i 0 })
          ⟨rfl, rfl, rfl, rfl, rfl, rfl, rfl, rfl, rfl, rfl, rfl, fun _ _ => rfl, fun h => ⟨rfl, rfl, h⟩⟩ (ih _ _)
      · exact ⟨rfl, rfl, rfl, rfl, rfl, rfl, rfl, rfl, rfl, rfl, rfl, fun _ _ => rfl, fun h => ⟨rfl, rfl, h⟩⟩
    · exact ih _ _

/-- Where no level ends, control goes to the next instruction. -/
theorem loopEval_pc (k i : Nat) (c : Cpu) (hc : ∀ j, i ≤ j → j < i + k → mGet 0 c.le j = c.pc → mGet 0 c.lc j = 0) :
    (loopEval c.pc k i c).pc = c.pc + 4 := by
  induction k generalizing i with
  | zero => rfl
  | succ k ih =>
    unfold loopEval
    split
    · next h => exact absurd (hc i (Nat.le_refl _) (by omega) h.1) h.2
    · exact ih (i + 1) (fun j h1 h2 => hc j (by omega) (by omega))

theorem ageProducts_regs (c : Cpu) : RegsKept c (ageProducts c) := by
  unfold ageProducts
  dsimp only
  split
  · next p hp =>
    refine ⟨rfl, rfl, rfl, rfl, rfl, rfl, rfl, rfl, rfl, rfl, rfl, fun _ _ => rfl, fun h => ?_⟩
    rw [h] at hp
    exact absurd hp (by simp)
  · exact ⟨rfl, rfl, rfl, rfl, rfl, rfl, rfl, rfl, rfl, rfl, rfl, fun _ _ => rfl, fun h => ⟨rfl, rfl, by simp [h]⟩⟩

@[simp] theorem ageProducts_pc (c : Cpu) : (ageProducts c).pc = c.pc := by
  unfold ageProducts
  dsimp only
  split <;> rfl

/-- Ageing products leaves the loop registers alone. -/
theorem ageProducts_loops (c : Cpu) : (ageProducts c).le = c.le ∧ (ageProducts c).lc = c.lc ∧ (ageProducts c).ls = c.ls := by
  unfold ageProducts
  dsimp only
  split <;> exact ⟨rfl, rfl, rfl⟩

/-- Loop evaluation reads the loop registers alone. -/
theorem loopEval_pc_congr {c d : Cpu} (a : Word) (k i : Nat) (h1 : d.le = c.le) (h2 : d.lc = c.lc) (h3 : d.ls = c.ls) :
    (loopEval a k i d).pc = (loopEval a k i c).pc := by
  induction k generalizing i c d with
  | zero => rfl
  | succ k ih =>
    unfold loopEval
    rw [h1, h2, h3]
    split
    · split
      · exact ih (i + 1) (by simp) (by simp) (by simp)
      · rfl
    · exact ih (i + 1) h1 h2 h3

theorem retryDone_regs (n : Nat) (c : Cpu) : RegsKept c (retryDone n c) := by
  unfold retryDone
  split
  · exact .refl c
  · exact ⟨rfl, rfl, rfl, rfl, rfl, rfl, rfl, rfl, rfl, rfl, rfl, fun _ _ => rfl, fun h => ⟨rfl, rfl, h⟩⟩

@[simp] theorem retryDone_pc (n : Nat) (c : Cpu) : (retryDone n c).pc = c.pc := by
  unfold retryDone
  split <;> rfl

theorem stepped_regs (c : Cpu) : RegsKept c (stepped c) :=
  ⟨rfl, rfl, rfl, rfl, rfl, rfl, rfl, rfl, rfl, rfl, rfl, fun _ _ => rfl, fun h => ⟨rfl, rfl, h⟩⟩

theorem retireCpu_regs (n : Nat) (next : Option Word) (c : Cpu) : RegsKept c (retireCpu n next c) := by
  have h : RegsKept c (match next with | some pc => { c with pc := pc } | none => loopEval c.pc 3 0 c) := by
    cases next with
    | some pc => exact ⟨rfl, rfl, rfl, rfl, rfl, rfl, rfl, rfl, rfl, rfl, rfl, fun _ _ => rfl, fun h => ⟨rfl, rfl, h⟩⟩
    | none => exact loopEval_regs _ _ _ c
  exact (h.trans (retryDone_regs _ _)).trans (stepped_regs _)

/-- Where control goes at a retirement. -/
theorem retireCpu_pc (n : Nat) (next : Option Word) (c : Cpu) :
    (retireCpu n next c).pc = match next with | some pc => pc | none => (loopEval c.pc 3 0 c).pc := by
  show (stepped _).pc = _
  cases next <;> simp [stepped]

theorem countRetired_regs (c : Cpu) : RegsKept c (countRetired c) := (RegsKept.setSys rfl _ c).trans (.setSys rfl _ _)

/-- Counting an event keeps PC. -/
theorem countEv_pc (n ev k : Nat) (s : State) : (cpuOf (countEv n ev k s) (.core n)).pc = (cpuOf s (.core n)).pc := by
  show (coreOf (countEv n ev k s) n).pc = _
  rw [countEv_sys]; rfl

/-- A core's retirement is counted. -/
theorem retire_core (n : Nat) (next : Option Word) (s : State) :
    retire (.core n) next s = countEv n 1 1 (modCpu (.core n) (fun c => countRetired (retireCpu s.stamp next c)) s) := by
  simp only [retire]

/-- A retirement keeps the hart's registers. -/
theorem retire_regs (h : Hart) (next : Option Word) (s : State) : RegsKept (cpuOf s h) (cpuOf (retire h next s) h) := by
  cases h with
  | core n =>
    rw [retire_core]
    refine RegsKept.trans ?_ (countEv_regs n 1 1 _)
    show RegsKept _ (cpuOf (modCpu (.core n) _ s) (.core n))
    rw [cpuOf_modCpu_same]
    exact (retireCpu_regs _ _ _).trans (countRetired_regs _)
  | prv n =>
    show RegsKept _ (cpuOf (modCpu (.prv n) _ s) (.prv n))
    rw [cpuOf_modCpu_same]
    exact (ageProducts_regs _).trans (retireCpu_regs _ _ _)

/-- Where control goes at a retirement of a hart. -/
theorem retire_pc (h : Hart) (next : Option Word) (s : State) :
    (cpuOf (retire h next s) h).pc = match next with | some pc => pc | none => (loopEval (cpuOf s h).pc 3 0 (cpuOf s h)).pc := by
  cases h with
  | core n =>
    rw [retire_core, countEv_pc, cpuOf_modCpu_same]
    exact retireCpu_pc _ _ _
  | prv n =>
    show (cpuOf (modCpu (.prv n) _ s) (.prv n)).pc = _
    rw [cpuOf_modCpu_same, retireCpu_pc]
    have h1 := ageProducts_pc (cpuOf s (.prv n))
    have h2 := ageProducts_loops (cpuOf s (.prv n))
    generalize ageProducts (cpuOf s (.prv n)) = d at h1 h2 ⊢
    cases next with
    | some pc => rfl
    | none => exact (congrArg (fun a => (loopEval a 3 0 d).pc) h1).trans (loopEval_pc_congr _ 3 0 h2.1 h2.2.1 h2.2.2)

/-- A retirement leaves every other hart alone. -/
theorem retire_others (h k : Hart) (next : Option Word) (s : State) (hk : k ≠ h) : cpuOf (retire h next s) k = cpuOf s k := by
  cases h with
  | core n => rw [retire_core]; exact (countEv_others n 1 1 _ k hk).trans (cpuOf_modCpu_other _ _ _ _ hk)
  | prv n => exact cpuOf_modCpu_other _ _ _ _ hk

theorem retire_objs (h : Hart) (next : Option Word) (s : State) : (retire h next s).objs = s.objs := by
  cases h with
  | core n => rw [retire_core]; exact (countEv_objs _ _ _ _).trans (modCpu_objs _ _ _)
  | prv n => exact modCpu_objs _ _ _

theorem retire_pending (h : Hart) (next : Option Word) (s : State) : (retire h next s).pending = s.pending := by
  cases h with
  | core n => rw [retire_core]; exact (countEv_pending _ _ _ _).trans (modCpu_pending _ _ _)
  | prv n => exact modCpu_pending _ _ _

/-! ## Flushes and predictors -/

/-- Flushed shadow entries touch the caches alone. -/
theorem CacheOnly.flushShadows (n : Nat) (install : Bool) (s : State) : CacheOnly s (flushShadows n install s) := by
  unfold Machine.flushShadows
  dsimp only
  split
  · exact .refl s
  · refine (modTile _ _ s).trans (foldl (fun s e => ?_) _ _)
    split
    · exact ((makeRoom _ _ s).trans (.l2Fill _ _ _ _)).trans (.l1dFill _ _ _)
    · exact .refl s

/-- Wasted slots are counted. -/
theorem HartWork.countWaste (n k : Nat) (s : State) : HartWork (.core n) s (countWaste n k s) := by
  unfold Machine.countWaste
  split
  · exact .refl _ s
  · refine HartWork.trans (HartWork.modCpu s ?_) (.countEv _ _ _ _)
    exact ⟨.setSys rfl _ _, rfl, rfl⟩

@[simp] theorem countWaste_mem (n k : Nat) (s : State) : (countWaste n k s).mem = s.mem := by
  unfold countWaste
  split <;> simp

/-- A flush of a core's window: registers, other harts and memory's readings are kept. -/
theorem HartWork.flushAll (n : Nat) (install : Bool) (s : State) :
    HartWork (.core n) s (flushAll n install s) ∧ MemKept s (flushAll n install s) := by
  unfold Machine.flushAll
  split
  · exact ⟨.refl _ s, .refl s⟩
  · have c := CacheOnly.flushShadows n install s
    have w := HartWork.countWaste n (renamed (coreOf s n).sb.length (coreOf s n).win) (flushShadows n install s)
    have m := countWaste_mem n (renamed (coreOf s n).sb.length (coreOf s n).win) (flushShadows n install s)
    generalize Machine.countWaste n (renamed (coreOf s n).sb.length (coreOf s n).win) (Machine.flushShadows n install s) = u at w m ⊢
    have d := CacheOnly.modTile (tileOf u n) (fun x => { x with watch := [] }) u
    refine ⟨(((c.work _).trans w).trans (d.work _)).trans (HartWork.modCpu _ (FrontOnly.kept rfl)), ?_⟩
    exact ((c.memKept.trans (.of_mem m)).trans d.memKept).trans (.of_mem (by simp))

theorem FrontOnly.train (e : WinEntry) (b : Branch) (target : Word) (taken missed : Bool) (c : Cpu) : FrontOnly c (train e b target taken missed c) := by
  have h1 : ∀ pc t c, FrontOnly c (btbTrain pc t c) := fun _ _ _ => rfl
  have h2 : ∀ pc t hs c, FrontOnly c (indTrain pc t hs c) := fun _ _ _ _ => rfl
  have h3 : ∀ pc hs t c, FrontOnly c (dirTrain pc hs t c) := by
    intro pc hs t c
    unfold dirTrain
    dsimp only
    repeat' split
    all_goals rfl
  have h0 : FrontOnly c (if taken = true then btbTrain e.pc target c else c) := by
    split
    · exact h1 _ _ _
    · rfl
  unfold Machine.train
  dsimp only
  split
  · split
    · exact (h0.trans (h3 _ _ _ _)).trans rfl
    · exact h0.trans (h3 _ _ _ _)
  · exact h0.trans (h2 _ _ _ _)
  · exact h0

/-- A resolved branch: registers, other harts and memory's readings are kept. -/
theorem HartWork.resolve (n : Nat) (e : WinEntry) (taken : Bool) (s : State) :
    HartWork (.core n) s (resolve n e taken s) ∧ MemKept s (resolve n e taken s) := by
  have hf : ∀ (b : Bool) (u : State), (HartWork (.core n) s u ∧ MemKept s u) →
      HartWork (.core n) s (if b = true then Machine.flushAll n false u else u) ∧ MemKept s (if b = true then Machine.flushAll n false u else u) := by
    intro b u h
    split
    · have k := HartWork.flushAll n false u
      exact ⟨h.1.trans k.1, h.2.trans k.2⟩
    · exact h
  unfold Machine.resolve
  dsimp only
  split
  · next b _ =>
    generalize decide (e.pred ≠ (coreOf s n).pc) = wrong
    apply hf
    have h1 : HartWork (.core n) s (if (e.resolved && !wrong) = true then s
        else Machine.modCpu (.core n) (Machine.train e b (coreOf s n).pc taken (e.missed || wrong)) s) ∧
        MemKept s (if (e.resolved && !wrong) = true then s
        else Machine.modCpu (.core n) (Machine.train e b (coreOf s n).pc taken (e.missed || wrong)) s) := by
      split
      · exact ⟨.refl _ s, .refl s⟩
      · exact ⟨HartWork.modCpu s (FrontOnly.train _ _ _ _ _ _).kept, .of_mem (by simp)⟩
    generalize (if (e.resolved && !wrong) = true then s
        else Machine.modCpu (.core n) (Machine.train e b (coreOf s n).pc taken (e.missed || wrong)) s) = u at h1 ⊢
    split
    · split
      · exact ⟨(h1.1.trans (.countEv _ _ _ _)).trans (.countEv _ _ _ _), h1.2.trans (.of_mem (by simp))⟩
      · exact ⟨h1.1.trans (.countEv _ _ _ _), h1.2.trans (.of_mem (by simp))⟩
    · exact h1
  · exact hf _ s ⟨.refl _ s, .refl s⟩

/-- What a retiring instruction's fetch does to the TLBs (06 R159). -/
theorem TlbOnly.fetchTouch (old c : Cpu) : TlbOnly c (fetchTouch old c) := by
  unfold Machine.fetchTouch
  split
  · exact .refl c
  · rfl

/-- A ready instruction's retirement keeps the hart's registers, every other hart and memory's readings. -/
theorem retired_regs (h : Hart) (e : WinEntry) (old : Cpu) (next : Option Word) (s : State) :
    RegsKept (cpuOf s h) (cpuOf (retired h e old next s) h) := by
  cases h with
  | prv n => exact retire_regs _ _ _
  | core n =>
    refine RegsKept.trans ?_ (HartWork.resolve n e next.isSome _).1.hart.toRegsKept
    refine RegsKept.trans ?_ (retire_regs (.core n) next _)
    rw [cpuOf_modCpu_same]
    exact (TlbOnly.fetchTouch old _).regs

/-- Where control goes at the retirement of an instruction. -/
theorem retired_pc (h : Hart) (e : WinEntry) (old : Cpu) (next : Option Word) (s : State) :
    (cpuOf (retired h e old next s) h).pc = match next with | some pc => pc | none => (loopEval (cpuOf s h).pc 3 0 (cpuOf s h)).pc := by
  cases h with
  | prv n => exact retire_pc (.prv n) next s
  | core n =>
    refine (HartWork.resolve n e next.isSome _).1.hart.pc.trans ?_
    rw [retire_pc, cpuOf_modCpu_same]
    have t := TlbOnly.fetchTouch old (cpuOf s (.core n))
    generalize Machine.fetchTouch old (cpuOf s (.core n)) = d at t ⊢
    cases next with
    | some pc => rfl
    | none =>
      rw [t]
      exact loopEval_pc_congr _ 3 0 rfl rfl rfl

theorem retired_memKept (h : Hart) (e : WinEntry) (old : Cpu) (next : Option Word) (s : State) : MemKept s (retired h e old next s) := by
  cases h with
  | prv n => exact .of_mem (retire_mem _ _ _)
  | core n => exact MemKept.trans (.of_mem (by simp)) (HartWork.resolve n e next.isSome _).2

/-! ## Frames -/

/-- Kept registers, other harts, objects and queue make the empty frame. -/
theorem RegsKept.kept {h : Hart} {s u : State} (hr : RegsKept (cpuOf s h) (cpuOf u h)) (ho : ∀ k, k ≠ h → cpuOf u k = cpuOf s k)
    (hb : u.objs = s.objs) (hp : u.pending = s.pending) : Kept h {} s u :=
  ⟨fun q _ => by unfold gpr; rw [hr.g], fun q _ => by unfold fpr; rw [hr.f], fun q _ => by unfold vpr; rw [hr.v],
   fun n _ hn => hr.sys n hn, fun _ => hr.lk, fun _ hm => hr.acc hm, fun _ => hr.ls, fun _ => hr.le, hr.level, ho, hb, hp⟩

/-- Work that keeps the hart's registers has the empty frame. -/
theorem HartWork.kept {h : Hart} {s t : State} (w : HartWork h s t) : Kept h {} s t := w.hart.toRegsKept.kept w.others w.objs w.pending

/-- The frame of a retirement. -/
theorem retired_kept (h : Hart) (e : WinEntry) (old : Cpu) (next : Option Word) (s : State) : Kept h {} s (retired h e old next s) := by
  refine (retired_regs h e old next s).kept ?_ ?_ ?_
  · intro k hk
    cases h with
    | prv n => exact retire_others _ k _ _ hk
    | core n => exact ((HartWork.resolve n e next.isSome _).1.others k hk).trans ((retire_others _ k _ _ hk).trans (cpuOf_modCpu_other _ _ _ _ hk))
  · cases h with
    | prv n => exact retire_objs _ _ _
    | core n => exact (HartWork.resolve n e next.isSome _).1.objs.trans ((retire_objs _ _ _).trans (modCpu_objs _ _ _))
  · cases h with
    | prv n => exact retire_pending _ _ _
    | core n => exact (HartWork.resolve n e next.isSome _).1.pending.trans ((retire_pending _ _ _).trans (modCpu_pending _ _ _))

/-- A frame between two empty frames is the frame of the whole. -/
theorem Kept.between {h : Hart} {w : Writes} {s t u v : State} (a : Kept h {} s t) (b : Kept h w t u) (c : Kept h {} u v) : Kept h w s v :=
  ⟨fun q hq => (c.g q (List.not_mem_nil)).trans ((b.g q hq).trans (a.g q (List.not_mem_nil))),
   fun q hq => (c.f q (List.not_mem_nil)).trans ((b.f q hq).trans (a.f q (List.not_mem_nil))),
   fun q hq => (c.v q (List.not_mem_nil)).trans ((b.v q hq).trans (a.v q (List.not_mem_nil))),
   fun n hn hc => (c.sys n (List.not_mem_nil) hc).trans ((b.sys n hn hc).trans (a.sys n (List.not_mem_nil) hc)),
   fun hw => (c.lk rfl).trans ((b.lk hw).trans (a.lk rfl)),
   fun hw hm =>
     let x := a.acc rfl hm
     let y := b.acc hw x.2.2
     let z := c.acc rfl y.2.2
     ⟨z.1.trans (y.1.trans x.1), z.2.1.trans (y.2.1.trans x.2.1), z.2.2⟩,
   fun hw => (c.ls rfl).trans ((b.ls hw).trans (a.ls rfl)), fun hw => (c.le rfl).trans ((b.le hw).trans (a.le rfl)),
   c.level.trans (b.level.trans a.level), fun k hk => (c.others k hk).trans ((b.others k hk).trans (a.others k hk)),
   c.objs.trans (b.objs.trans a.objs), c.pending.trans (b.pending.trans a.pending)⟩

/-- A change of the hart alone: what it keeps of the hart is what the frame says. -/
theorem Kept.modCpu {h : Hart} {w : Writes} {f : Cpu → Cpu} {s : State}
    (hk : ∀ c : Cpu, (∀ q, q ∉ w.g → gpr (f c) q = gpr c q) ∧ (∀ q, q ∉ w.f → fpr (f c) q = fpr c q) ∧
      (∀ q, q ∉ w.v → vpr (f c) q = vpr c q) ∧ (∀ n, n ∉ w.sys → isCounter n = false → sysReg (f c) n = sysReg c n) ∧
      (w.lk = false → (f c).lk = c.lk) ∧ (w.acc = false → c.mulq = [] → (f c).ph = c.ph ∧ (f c).pl = c.pl ∧ (f c).mulq = []) ∧
      (w.loops = false → (f c).ls = c.ls ∧ (f c).le = c.le) ∧ (f c).level = c.level) : Kept h w s (modCpu h f s) := by
  obtain ⟨hg, hf, hv, hs, hl, ha, ho, hx⟩ := hk (cpuOf s h)
  refine ⟨?_, ?_, ?_, ?_, ?_, ?_, ?_, ?_, ?_, fun k hk => cpuOf_modCpu_other _ _ _ _ hk, by simp, by simp⟩ <;> simp only [cpuOf_modCpu_same]
  · exact hg
  · exact hf
  · exact hv
  · exact hs
  · exact hl
  · exact ha
  · exact fun h => (ho h).1
  · exact fun h => (ho h).2
  · exact hx

/-- The write of a general register. -/
theorem setGpr_kept (h : Hart) (rd : Reg) (x : GVal) (s : State) : Kept h { g := [rd] } s (modCpu h (setGpr rd x) s) := by
  refine Kept.modCpu fun c => ?_
  have e : ∀ q, q ∉ [rd] → gpr (setGpr rd x c) q = gpr c q := fun q hq => gpr_setGpr_other rd q x c (by simpa using hq)
  refine ⟨e, ?_⟩
  unfold setGpr
  split <;> exact ⟨fun _ _ => rfl, fun _ _ => rfl, fun _ _ _ => rfl, fun _ => rfl, fun _ hm => ⟨rfl, rfl, hm⟩, fun _ => ⟨rfl, rfl⟩, rfl⟩

/-- The write of a floating-point register. -/
theorem setFpr_kept (h : Hart) (rd : Reg) (x : Word) (s : State) : Kept h { f := [rd] } s (modCpu h (setFpr rd x) s) :=
  Kept.modCpu fun c => ⟨fun _ _ => rfl, fun q hq => fpr_setFpr_other rd q x c (by simpa using hq), fun _ _ => rfl, fun _ _ _ => rfl,
    fun _ => rfl, fun _ hm => ⟨rfl, rfl, hm⟩, fun _ => ⟨rfl, rfl⟩, rfl⟩

/-- The write of a vector register. -/
theorem setVpr_kept (h : Hart) (rd : Reg) (x : BitVec 256) (s : State) : Kept h { v := [rd] } s (modCpu h (setVpr rd x) s) :=
  Kept.modCpu fun c => ⟨fun _ _ => rfl, fun _ _ => rfl, fun q hq => vpr_setVpr_other rd q x c (by simpa using hq), fun _ _ _ => rfl,
    fun _ => rfl, fun _ hm => ⟨rfl, rfl, hm⟩, fun _ => ⟨rfl, rfl⟩, rfl⟩

/-- The write of a system register that does not count by itself. -/
theorem setSys_kept (h : Hart) (n : Nat) (x : Word) (s : State) : Kept h { sys := [n] } s (modCpu h (setSys n x) s) :=
  Kept.modCpu fun c => ⟨fun _ _ => rfl, fun _ _ => rfl, fun _ _ => rfl, fun k hk _ => sysReg_setSys_other n k x c (by simpa using hk),
    fun _ => rfl, fun _ hm => ⟨rfl, rfl, hm⟩, fun _ => ⟨rfl, rfl⟩, rfl⟩

/-- Loop evaluation after a fetch finds what it would have found before. -/
theorem FetchKept.noLoopEnd {c d : Cpu} (k : FetchKept c d) (hn : noLoopEnd c) : noLoopEnd d := by
  unfold Machine.noLoopEnd at *
  rw [k.le, k.pc, k.lc]
  exact hn

/-- A ready instruction that changes its hart alone and falls through: its hart after it, its frame and where control goes. -/
theorem run_modCpu {h : Hart} {i : Instr} {s : State} {body : State → State × Done} {w : Writes} {f : Cpu → Cpu} (hr : ready h i s = true)
    (hb : body (started h i s) = (modCpu h f (started h i s), .seq)) (hf : ∀ t, Kept h w t (modCpu h f t))
    (hc : ∀ c, (f c).pc = c.pc ∧ (f c).le = c.le ∧ (f c).lc = c.lc) :
    ∃ u, run h i body s = .next u ∧ RegsKept (f (cpuOf (started h i s) h)) (cpuOf u h) ∧ Kept h w s u ∧ MemKept (walked h s) u ∧
      (noLoopEnd (cpuOf s h) → (cpuOf u h).pc = (cpuOf s h).pc + 4) := by
  obtain ⟨k, m, -⟩ := started_work (ready_delivers hr)
  refine ⟨_, run_ready body hr, ?_⟩
  rw [hb, ready_walked hr]
  generalize (fetchNext h i (fetchCheck h s).2).1 = e
  generalize started h i s = t at k m ⊢
  show RegsKept _ (cpuOf (retired h e (cpuOf t h) none (modCpu h f t)) h) ∧ Kept h w s (retired h e (cpuOf t h) none _) ∧
    MemKept _ (retired h e (cpuOf t h) none _) ∧ (_ → (cpuOf (retired h e (cpuOf t h) none (modCpu h f t)) h).pc = _)
  refine ⟨?_, k.kept.between (hf _) (retired_kept h e _ none _), (m.trans (.of_mem (by simp))).trans (retired_memKept h e _ none _), fun hn => ?_⟩
  · have := retired_regs h e (cpuOf t h) none (modCpu h f t)
    rwa [cpuOf_modCpu_same] at this
  · rw [retired_pc, cpuOf_modCpu_same]
    have hm := k.hart.noLoopEnd hn
    have hp := k.hart.pc
    generalize cpuOf t h = c at hm hp
    obtain ⟨h1, h2, h3⟩ := hc c
    show (loopEval (f c).pc 3 0 (f c)).pc = _
    rw [loopEval_pc 3 0 (f c), h1, hp]
    rw [h1, h2, h3]
    exact fun j _ hj => hm j (by omega)

@[simp] theorem setGpr_pc (r : Reg) (x : GVal) (c : Cpu) : (setGpr r x c).pc = c.pc := by unfold setGpr; split <;> rfl
@[simp] theorem setGpr_le (r : Reg) (x : GVal) (c : Cpu) : (setGpr r x c).le = c.le := by unfold setGpr; split <;> rfl
@[simp] theorem setGpr_lc (r : Reg) (x : GVal) (c : Cpu) : (setGpr r x c).lc = c.lc := by unfold setGpr; split <;> rfl

/-- A ready instruction that writes one general register and falls through: its result, its frame and where control goes. -/
theorem run_writeG {h : Hart} {i : Instr} {s : State} {body : State → State × Done} {rd : Reg} {x : GVal} (hr : ready h i s = true)
    (hb : body (started h i s) = writeG h rd x (started h i s)) :
    ∃ u, run h i body s = .next u ∧ gpr (cpuOf u h) rd = (if rd = 0 then ⟨0, .data⟩ else x) ∧ Kept h { g := [rd] } s u ∧
      MemKept (walked h s) u ∧ (noLoopEnd (cpuOf s h) → (cpuOf u h).pc = (cpuOf s h).pc + 4) := by
  obtain ⟨u, h1, h2, h3⟩ := run_modCpu hr hb (fun t => setGpr_kept h rd x t) (fun c => by simp)
  refine ⟨u, h1, ?_, h3⟩
  unfold gpr
  rw [h2.g]
  show gpr (setGpr rd x _) rd = _
  split
  · next h0 => subst h0; rfl
  · next h0 => exact gpr_setGpr_same rd x _ h0

end Sys2Proof.Machine
end

