-- ==== Sys2Proof/Laws/Operands.lean ====
section
/-! SUPPORT. What the operand checks and the shared integer forms do (03 Table 3.7, 04 R80). -/

namespace Sys2Proof.Machine
open Sys2Proof

section
variable {h : Hart} {i : Instr} {s : State} (hr : ready h i s = true)
include hr

/-- A ready instruction finds its operands as they were before its fetch. -/
theorem started_kept : Kept h {} s (started h i s) := (started_work (ready_delivers hr)).1.kept

theorem started_gpr (q : Reg) : gpr (cpuOf (started h i s) h) q = gpr (cpuOf s h) q := (started_kept hr).g q (by simp)
theorem started_fpr (q : Reg) : fpr (cpuOf (started h i s) h) q = fpr (cpuOf s h) q := (started_kept hr).f q (by simp)
theorem started_vpr (q : Reg) : vpr (cpuOf (started h i s) h) q = vpr (cpuOf s h) q := (started_kept hr).v q (by simp)
theorem started_level : (cpuOf (started h i s) h).level = (cpuOf s h).level := (started_kept hr).level
theorem started_sysReg (n : Nat) (hn : isCounter n = false) : sysReg (cpuOf (started h i s) h) n = sysReg (cpuOf s h) n :=
  (started_kept hr).sys n (by simp) hn

/-- What an operation may take before the fetch it may take after it. -/
theorem Plain.started {x : GVal} (hp : Plain (cpuOf s h) x) : Plain (cpuOf (started h i s) h) x := by
  unfold Plain at *; rwa [started_level hr]

end

/-- Operands that an operation may take raise nothing. -/
theorem srcExc_of_plain {c : Cpu} {xs : List GVal} (h : ∀ x ∈ xs, Plain c x) : srcExc c xs = none := by
  unfold srcExc
  have h1 : xs.any (fun x => decide (x.t = .pois)) = false := by
    rw [List.any_eq_false]; intro x hx; simp [(h x hx).1]
  rw [h1]
  simp only [Bool.false_eq_true, if_false]
  split
  · rfl
  · next hl =>
    rw [List.find?_eq_none.2]
    intro x hx
    rcases (h x hx).2 with h2 | h2
    · exact absurd h2 hl
    · simp [h2]

/-- A poisoned operand raises poison consumed, whatever the others are. -/
theorem srcExc_of_pois {c : Cpu} {xs : List GVal} {x : GVal} (hx : x ∈ xs) (ht : x.t = .pois) : srcExc c xs = some poisExc := by
  unfold srcExc
  rw [if_pos]
  exact List.any_eq_true.2 ⟨x, hx, by simp [ht]⟩

/-- The tags of sums and differences, as the statements name them. -/
theorem ptrTag_eq (a b : Tag) : ptrTag a b = sumTag a b := by cases a <;> cases b <;> decide
theorem subTag_eq (a b : Tag) : subTag a b = diffTag a b := by cases a <;> cases b <;> decide

/-- A meaning whose body writes one general register of the state after the fetch sets it. -/
theorem setsG_of_writeG {h : Hart} {i : Instr} {s : State} {body : State → State × Done} {rd : Reg} {x : GVal}
    (he : exec i s = run h i body s) (hb : ready h i s = true → body (started h i s) = writeG h rd x (started h i s)) : SetsG h i s rd x := by
  intro hr
  obtain ⟨u, h1, h2⟩ := run_writeG hr (hb hr)
  exact ⟨u, he.trans h1, h2⟩

/-- The register form of an integer operation, on operands it may take: the result and its tag. -/
theorem intRR_sets {h : Hart} {i : Instr} {s : State} {rd ra rb : Reg} {f : Word → Word → Word} {t : Tag → Tag → Tag} {x : GVal}
    (he : exec i s = run h i (intRR h rd ra rb f t) s)
    (ha : Plain (cpuOf s h) (gpr (cpuOf s h) ra)) (hb : Plain (cpuOf s h) (gpr (cpuOf s h) rb))
    (hx : (⟨f (gpr (cpuOf s h) ra).v (gpr (cpuOf s h) rb).v, t (gpr (cpuOf s h) ra).t (gpr (cpuOf s h) rb).t⟩ : GVal) = x) :
    SetsG h i s rd x := by
  refine setsG_of_writeG he fun hr => ?_
  unfold intRR binop
  have hp : ∀ z ∈ [gpr (cpuOf s h) ra, gpr (cpuOf s h) rb], Plain (cpuOf (started h i s) h) z := by
    intro z hz
    simp only [List.mem_cons, List.not_mem_nil, or_false] at hz
    rcases hz with rfl | rfl
    · exact ha.started hr
    · exact hb.started hr
  rw [started_gpr hr ra, started_gpr hr rb, srcExc_of_plain hp]
  exact congrArg (fun y => writeG h rd y (started h i s)) hx

/-- The immediate form: the immediate enters as DATA. -/
theorem intRI_sets {h : Hart} {i : Instr} {s : State} {rd ra : Reg} {f : Word → Word → Word} {t : Tag → Tag → Tag} {x : GVal} {imm : Word}
    (he : exec i s = run h i (intRI h rd ra imm f t) s) (ha : Plain (cpuOf s h) (gpr (cpuOf s h) ra))
    (hx : (⟨f (gpr (cpuOf s h) ra).v imm, t (gpr (cpuOf s h) ra).t .data⟩ : GVal) = x) : SetsG h i s rd x := by
  refine setsG_of_writeG he fun hr => ?_
  unfold intRI binop
  have hp : ∀ z ∈ [gpr (cpuOf s h) ra, ⟨imm, .data⟩], Plain (cpuOf (started h i s) h) z := by
    intro z hz
    simp only [List.mem_cons, List.not_mem_nil, or_false] at hz
    rcases hz with rfl | rfl
    · exact ha.started hr
    · simp [Plain]
  rw [started_gpr hr ra, srcExc_of_plain hp]
  exact congrArg (fun y => writeG h rd y (started h i s)) hx

end Sys2Proof.Machine
end

