-- ==== Sys2Proof/Tests/Slice0.lean ====
section
/-! SUPPORT. Tests: ill-formed commands refused, words decoded, and for each statement with hypotheses states that meet them. -/

namespace Sys2Proof.Tests
open Sys2Proof Sys2Proof.Machine
set_option Elab.async false

/-! ## States -/

/-- Enclosure 0 with core 0 and engine 0 at work in the first 8 GiB of 240. -/
def base : State :=
  { phase := .running, dram := { capGiB := 16 }
    objs := [(okey 0x3100 0, 0), (okey 0x3200 0, 0), (okey 0x5030 0, 0), (okey 0x7030 0, 4)]
    cores := [(0, { run := .running, pc := 0x1000 })]
    prv := [(0, { run := .running, pc := 0x1000 })] }

/-- `base` with core 0 changed. -/
def on (f : Cpu → Cpu) : State := modCpu (.core 0) f base

/-- `base` with the engine changed. -/
def onPrv (f : Cpu → Cpu) : State := modCpu (.prv 0) f base

abbrev core0 : Hart := .core 0
abbrev prv0 : Hart := .prv 0

/-- A page that U and S code may load, store and execute, mapped to itself. -/
def page (vpn : Nat) (u : Bool) : TlbEntry := ⟨vpn, 0, vpn, 0, true, true, u, true, true, true⟩

/-- Core 0 at a level below M with its code mapped. -/
def at_ (x : Level) (f : Cpu → Cpu) : State :=
  on (fun c => f { c with level := x, wired := [(0, page 1 (decide (x = .u)))] })

/-- General registers 2 and 3 hold 5 and 3. -/
def five (c : Cpu) : Cpu := { c with g := [(2, ⟨5, .data⟩), (3, ⟨3, .data⟩)] }

/-- Register 2 holds one value. -/
def two (x : GVal) (c : Cpu) : Cpu := { c with g := [(2, x)] }

/-- Every instruction of a list is ready at a state. -/
def allReady (h : Hart) (s : State) (l : List Instr) : Bool := l.all (fun i => ready h i s)

/-! ## Well-formed commands -/

/-- A transaction of another unit on the line of address 0x2000 is open at its home. -/
def busyAt (s : State) : State :=
  { s with slices := [(32, { txns := [{ line := 0x80, req := .rdUnique, q := { dest := 32, src := 9, txid := 5, addr := 0x80 }, htxid := 7 }] })] }

/-- Each check of `wellFormed` refuses a term: field past bit 63, LDX and STX widths, a PF hint, LOOP level 3 and offset 0, rm 5 and 6, an exact
FCVT with an rm, an element type, an index past the register, an MTS with a row of its own, a loop register and a counter that do not exist,
TSET of a handle, a pair at g0 and at g31, WALK intent 3, scopes with a register that must be g0, level 3 by set and way, LOCKLD by set and
way, UNLOCK of the L2. -/
theorem test_ill_formed_refused :
    [Instr.ext core0 1 2 63 1, .extu core0 1 2 1 63, .ins core0 1 2 32 32, .ldx core0 1 2 3 7 0, .stx core0 1 2 3 1 0 false, .pf core0 4 2 0,
      .loop core0 3 4 3, .loop core0 0 4 0, .fadd core0 1 2 3 true 5, .fmadd core0 1 2 3 4 true 6, .fcvtF core0 1 2 true 1, .vadd core0 1 2 3 4,
      .vext core0 1 2 4 3, .vins core0 1 2 8 2, .mts core0 0x020 2, .mtsLoopRegister core0 9 2, .mtsCounter core0 6 2, .tset core0 1 2 4,
      .tlbw core0 0, .tlbr core0 31 2, .walk core0 2 3 3, .walk core0 0 3 0, .clean core0 1 2 0 .addr, .inval core0 0 2 1 .addr,
      .clinv core0 0 2 0 (.setway 3), .lockld core0 0 2 0 (.setway 1), .unlock core0 2 1].all (fun i => wellFormed i = false) := by
  decide +kernel

/-- An ill-formed instruction is illegal, whatever the level (04 R79). -/
theorem test_ill_formed_traps : ready core0 (.loop core0 3 4 3) base = false ∧ ready core0 (.loop core0 2 4 3) base = true := by decide +kernel

/-! ## Words -/

/-- Words composed from Table 4.1's fields, one for each format: R, I, A, B, J, L, Q, V and X (04 Tables 4.2 to 4.9). -/
theorem test_words_decode :
    decodeWord core0 (0x04000000 + 1 * 0x200000 + 2 * 0x10000 + 3 * 0x800 + 0x001) = some (.sub core0 1 2 3) ∧
    decodeWord core0 (0x0C000000 + 1 * 0x200000 + 2 * 0x10000 + 0xFFFF) = some (.andi core0 1 2 0xFFFF) ∧
    decodeWord core0 (0x28000000 + 1 * 0x200000 + 0x1FFFFF) = some (.apc core0 1 0x1FFFFF) ∧
    decodeWord core0 (0xA8000000 + 1 * 0x200000 + 2 * 0x10000 + 8) = some (.beq core0 1 2 8) ∧
    decodeWord core0 (0xA4000000 + 0x3FFFFFF) = some (.call core0 0x3FFFFFF) ∧
    decodeWord core0 (0xC4000000 + 2 * 0x1000000 + 4 * 0x80000 + 1) = some (.loop core0 2 4 1) ∧
    decodeWord core0 0 = none ∧ decodeWord core0 0xFC000000 = none ∧ decodeWord core0 0xFFFFFFFF = none := by decide +kernel

/-- One field in each flit at its place in 10 Tables 10.2 to 10.5: DEST at the top, the opcode, an address, RETRY and SPR. -/
theorem test_flit_bits :
    reqBits 0x0A { dest := 1, src := 0, addr := 3, off := 8, retry := true } = BitVec.ofNat 128 (2 ^ 119 + 0x0A * 2 ^ 89 + 3 * 2 ^ 38 + 8 * 2 ^ 28 + 2 ^ 14) ∧
    snpBits 5 { dest := 1, src := 2, htxid := 4, addr := 3 } = BitVec.ofNat 96 (2 ^ 87 + 2 * 2 ^ 78 + 4 * 2 ^ 68 + 5 * 2 ^ 64 + 3 * 2 ^ 18) ∧
    rspBits 2 { dest := 1, src := 2, txid := 4, info := 3, spr := true } = BitVec.ofNat 64 (2 ^ 55 + 2 * 2 ^ 46 + 4 * 2 ^ 36 + 2 * 2 ^ 31 + 3 * 2 ^ 27 + 2 ^ 26) ∧
    datControl 9 { dest := 1, src := 2, txid := 4, be := 0xFF, half := true } =
      BitVec.ofNat 80 (2 ^ 71 + 2 * 2 ^ 62 + 4 * 2 ^ 52 + 0xFF * 2 ^ 20 + 9 * 2 ^ 16 + 2 ^ 15) := by decide +kernel

/-- The table gives its rows no bits, so no word spells a command and none is placed. -/
theorem test_table_gives_no_bits : decodeTableWord 32 0x08E5FFF0 = none ∧ State.reset.withFetchWord 32 0x08E5FFF0 = State.reset := by
  decide +kernel

/-! ## States that meet the hypotheses: the machine as a whole -/

theorem test_meets_StepRunsFrontCommand : ({ base with pending := [.heartbeat, .commitPeriodic] } : State).pending = .heartbeat :: [.commitPeriodic] := by
  decide +kernel

/-- An instruction held in an earlier tick and one held in this one; an unlocked root, and a locked one with a running core at points 0 and 4 and
a core that does not run; a route change on the next stamp. -/
theorem test_meets_IdleStepIsATick :
    (let held (k : Nat) : State := { on (fun c => { c with win := [{ i := .fence core0, pc := 0x1000, pred := 0x1004, heldAt := some k }] }) with stamp := 1 }
     (held 0).pending = [] ∧ nextHeld (held 0) = some (.fence core0) ∧ nextHeld (held 1) = none) ∧
    (State.reset.pending = [] ∧ nextHeld State.reset = none ∧ rootLocked State.reset = false) ∧
    (base.pending = [] ∧ nextHeld base = none ∧ rootLocked base = true ∧ NothingDue base ∧ switchDue { base with stamp := base.stamp + 1 } = false) ∧
    (let s : State := { base with mesh := { switchAt := some 1 } }
     nextHeld s = none ∧ rootLocked s = true ∧ NothingDue s ∧ switchDue { s with stamp := s.stamp + 1 } = true) ∧
    (coreOf base 0).run = .running ∧ (coreOf base 0).opp ≤ 4 ∧ (coreOf (on (fun c => { c with opp := 4 })) 0).opp ≤ 4 ∧
    (coreOf base 1).run ≠ .running := by
  repeat' apply And.intro
  all_goals first | decide +kernel | (unfold Translates; decide +kernel) | (unfold InMemory; decide +kernel) | (unfold AtHand; decide +kernel) | (unfold mayAccess; decide +kernel) |
    (unfold CleanWords; decide +kernel) | (unfold Owned; decide +kernel) | (unfold MayAsk; decide +kernel) | (unfold NothingDue; decide +kernel) |
    (unfold noLoopEnd; decide +kernel) | (unfold Keyed; decide +kernel)

theorem test_reset_sound : Sound State.reset := by unfold Sound; decide +kernel

/-- A sound state whose next step stores. -/
theorem test_meets_StepKeepsMemoryCanonical : Sound { base with mem := { bytes := [(0, 1), (7, 2)], tags := [(0, 1)] } } ∧
    ¬ Sound { base with mem := { bytes := [(7, 1), (0, 2)] } } ∧ ¬ Sound { base with mem := { bytes := [(7, 0)] } } := by
  unfold Sound; decide +kernel

/-- A word each way, and flits whose fields are at the ends of their ranges. -/
theorem test_meets_DecodeOfEncode : encode (.addi core0 7 5 0xFFF0) = some 0x08E5FFF0 ∧ wellFormed (.addi core0 7 5 0xFFF0) = true ∧
    (encode (.syncIo core0 [])).isSome = true ∧ decodeWord prv0 0xAC60FFFB = some (.bne prv0 3 0 0xFFFB) ∧
    fits (.req 0x14 { dest := 511, src := 511, txid := 1023, oid := 63, encl := 16, addr := 2 ^ 46 - 1, atop := 9, off := 63, len := 63, lstamp := 4095 }) = true ∧
    fits (.snp 10 { dest := 511, src := 511, htxid := 1023, addr := 2 ^ 46 - 1, lstamp := 4095 }) = true ∧
    fits (.rsp 0x0C { dest := 511, src := 511, txid := 1023, info := 15, lstamp := 4095 }) = true ∧
    fits (.dat 15 { dest := 511, src := 511, txid := 1023, lstamp := 4095 }) = true := by decide +kernel

/-! ## Nefen instructions -/

theorem test_meets_IntegerResults :
    (let s := on five
     Plain (cpuOf s core0) (gpr (cpuOf s core0) 2) ∧ Plain (cpuOf s core0) (gpr (cpuOf s core0) 3) ∧
     allReady core0 s [.add core0 1 2 3, .sub core0 1 2 3, .and core0 1 2 3, .or core0 1 2 3, .xor core0 1 2 3, .andn core0 1 2 3, .shl core0 1 2 3,
       .shr core0 1 2 3, .sra core0 1 2 3, .ror core0 1 2 3, .slt core0 1 2 3, .sltu core0 1 2 3, .seq core0 1 2 3, .mul core0 1 2 3,
       .mulh core0 1 2 3, .mulhu core0 1 2 3, .div core0 1 2 3, .divu core0 1 2 3, .rem core0 1 2 3, .remu core0 1 2 3, .div core0 0 2 0]) ∧
    (let s := onPrv five
     Plain (cpuOf s prv0) (gpr (cpuOf s prv0) 2) ∧ Plain (cpuOf s prv0) (gpr (cpuOf s prv0) 3) ∧ allReady prv0 s [.add prv0 1 2 3, .rem prv0 1 2 3]) := by
  repeat' apply And.intro
  all_goals first | decide +kernel | (unfold Translates; decide +kernel) | (unfold InMemory; decide +kernel) | (unfold mayAccess; decide +kernel)

/-- Fields that reach bit 63 and whole words, an operand 0 and another, and each shift. -/
theorem test_meets_ImmediateAndUnaryResults :
    let s := on five
    Plain (cpuOf s core0) (gpr (cpuOf s core0) 2) ∧ Plain (cpuOf s core0) (gpr (cpuOf s core0) 1) ∧ (1 : Reg) ≠ 0 ∧
    (gpr (cpuOf s core0) 2).v ≠ 0 ∧ Plain (cpuOf s core0) (gpr (cpuOf s core0) 4) ∧ (gpr (cpuOf s core0) 4).v = 0 ∧
    allReady core0 s [.clz core0 1 2, .ctz core0 1 2, .ctz core0 1 4, .popc core0 1 2, .bswap core0 1 2, .ext core0 1 2 63 0, .extu core0 1 2 0 63,
      .ins core0 1 2 31 32, .addi core0 1 2 0x8000, .andi core0 1 2 0x8000, .ori core0 1 2 0x8000, .xori core0 1 2 1, .slti core0 1 2 0xFFFF,
      .sltiu core0 1 2 0xFFFF, .shi core0 1 2 0 63, .shi core0 1 2 1 1, .shi core0 1 2 2 0, .shi core0 1 2 3 63] = true := by
  repeat' apply And.intro
  all_goals first | decide +kernel | (unfold Translates; decide +kernel) | (unfold InMemory; decide +kernel) | (unfold mayAccess; decide +kernel)

theorem test_meets_MoveAndConstantResults :
    let s := on five
    Plain (cpuOf s core0) (gpr (cpuOf s core0) 1) ∧ Plain (cpuOf s core0) (gpr (cpuOf s core0) 2) ∧ Plain (cpuOf s core0) (gpr (cpuOf s core0) 3) ∧
    Plain (cpuOf s core0) (gpr (cpuOf s core0) 4) ∧
    allReady core0 s [.mv core0 1 2, .kstart core0 1 0x8000, .knext core0 1 1, .krep core0 1 0xFFFF, .apc core0 1 0x100000, .apcD core0 1 1,
      .apcC core0 1 1, .sel core0 1 2 3 4, .sel core0 1 2 3 3, .cmov core0 1 2 4, .cmovz core0 1 2 4, .tset core0 1 2 0, .tset core0 1 2 3,
      .tget core0 1 2] = true := by
  repeat' apply And.intro
  all_goals first | decide +kernel | (unfold Translates; decide +kernel) | (unfold InMemory; decide +kernel) | (unfold mayAccess; decide +kernel)

/-- Operands of a core and of an engine, and a product on its way that is due, and one that is not. -/
theorem test_meets_ProductResults :
    (let s := on five
     Plain (coreOf s 0) (gpr (coreOf s 0) 2) ∧ Plain (coreOf s 0) (gpr (coreOf s 0) 3) ∧
     allReady core0 s [.mulw core0 2 3, .mulwu core0 2 3, .macw core0 2 3, .macwu core0 2 3] = true) ∧
    (let s := onPrv five
     Plain (prvOf s 0) (gpr (prvOf s 0) 2) ∧ Plain (prvOf s 0) (gpr (prvOf s 0) 3) ∧ (prvOf s 0).mulq = [] ∧
     allReady prv0 s [.mulw prv0 2 3, .mulwu prv0 2 3, .macw prv0 2 3, .macwu prv0 2 3] = true) ∧
    ([3, 4].all (fun k => let s := onPrv (fun c => { c with mulq := [⟨1, 2, k⟩] })
      ready prv0 (.mv prv0 1 2) s && decide ((prvOf s 0).mulq = [⟨1, 2, k⟩])) = true) := by
  repeat' apply And.intro
  all_goals first | decide +kernel | (unfold Translates; decide +kernel) | (unfold InMemory; decide +kernel) | (unfold mayAccess; decide +kernel)

/-- A poisoned operand at M, and a handle at U. -/
theorem test_meets_OperandTagTraps :
    (let s := on (two ⟨0, .pois⟩)
     (gpr (cpuOf s core0) 2).t = .pois ∧ allReady core0 s [.add core0 1 2 3, .mulw core0 3 2, .bgeu core0 2 3 1] = true) ∧
    (let s := at_ .u (two ⟨0, .hndl⟩)
     (gpr (cpuOf s core0) 2).t ≠ .pois ∧ (gpr (cpuOf s core0) 3).t ≠ .pois ∧ (cpuOf s core0).level ≠ .m ∧ (gpr (cpuOf s core0) 2).t = .hndl ∧
     allReady core0 s [.add core0 1 2 3, .mulw core0 3 2, .bgeu core0 2 3 1] = true) := by decide +kernel

theorem test_meets_BranchResults :
    let s := on five
    Plain (cpuOf s core0) (gpr (cpuOf s core0) 2) ∧ Plain (cpuOf s core0) (gpr (cpuOf s core0) 3) ∧
    allReady core0 s [.j core0 0x2000000, .call core0 1, .beq core0 2 2 0x8000, .beq core0 2 3 1, .bne core0 2 3 1, .blt core0 2 3 1, .bge core0 2 3 1,
      .bltu core0 2 3 1, .bgeu core0 2 3 1] = true := by
  repeat' apply And.intro
  all_goals first | decide +kernel | (unfold Translates; decide +kernel) | (unfold InMemory; decide +kernel) | (unfold mayAccess; decide +kernel)

/-- Targets with and without tag enforcement, and each tag that the check refuses. -/
theorem test_meets_IndirectResults :
    (let s := on five
     tagLevel core0 (cpuOf s core0) = 0 ∧ (gpr (cpuOf s core0) 2).t ≠ .pois ∧ (gpr (cpuOf s core0) 2).t ≠ .hndl ∧ (cpuOf s core0).lk.t ≠ .pois ∧
     (cpuOf s core0).lk.t ≠ .hndl ∧ allReady core0 s [.jr core0 2, .callr core0 2, .ret core0] = true) ∧
    (let s := at_ .u (fun c => { (two ⟨0x2000, .cptr⟩ c) with lk := ⟨0x2000, .link⟩, sys := [(0x410, 2)] })
     tagLevel core0 (cpuOf s core0) ≠ 0 ∧ (gpr (cpuOf s core0) 2).t = .cptr ∧ (cpuOf s core0).lk.t = .link ∧
     allReady core0 s [.jr core0 2, .callr core0 2, .ret core0] = true) ∧
    (let s := at_ .u (fun c => { (two ⟨0x2000, .dptr⟩ c) with lk := ⟨0x2000, .cptr⟩, sys := [(0x410, 1)] })
     tagLevel core0 (cpuOf s core0) ≠ 0 ∧ (gpr (cpuOf s core0) 2).t = .dptr ∧ (cpuOf s core0).lk.t = .cptr ∧
     allReady core0 s [.jr core0 2, .callr core0 2, .ret core0] = true) := by decide +kernel

/-- A count 0 and a higher one, a level that ends here with count 1 below one that goes on, and every level exhausted. -/
theorem test_meets_HardwareLoops :
    (let s := on five
     Plain (cpuOf s core0) (gpr (cpuOf s core0) 2) ∧ Plain (cpuOf s core0) (gpr (cpuOf s core0) 4) ∧ (gpr (cpuOf s core0) 4).v = 0 ∧
     (gpr (cpuOf s core0) 2).v ≠ 0 ∧ (∀ j, j < 3 → j ≠ 0 → mGet 0 (cpuOf s core0).le j ≠ (cpuOf s core0).pc) ∧
     allReady core0 s [.loop core0 0 2 1, .loop core0 2 4 3] = true) ∧
    (let s := on (fun c => { c with le := [(0, 0x1000), (1, 0x1000)], lc := [(0, 1), (1, 2)], ls := [(1, 0xF00)] })
     let c := cpuOf s core0
     mGet 0 c.le 1 = c.pc ∧ mGet 0 c.lc 1 ≠ 0 ∧ mGet 0 c.lc 1 ≠ 1 ∧ mGet 0 c.lc 0 = 1 ∧ ready core0 (.mv core0 1 2) s = true) ∧
    (let s := on (fun c => { c with le := [(0, 0x1000), (1, 0x1000)], lc := [(0, 1), (1, 1)] })
     let c := cpuOf s core0
     (∀ j, j < 3 → mGet 0 c.le j = c.pc ∧ mGet 0 c.lc j ≠ 0 → mGet 0 c.lc j = 1) ∧ ready core0 (.mv core0 1 2) s = true) := by
  repeat' apply And.intro
  all_goals first | decide +kernel | (unfold Translates; decide +kernel) | (unfold InMemory; decide +kernel) | (unfold mayAccess; decide +kernel)

/-- An exception to M, one delegated to S from U, and one that ESTAT cannot save. -/
theorem test_meets_TrapsAndFaultStop :
    (let s := base
     allReady core0 s [.ecall core0, .ebreak core0] = true ∧ flag (sysReg (coreOf s 0) (estatOf .m)) 7 = false ∧ (coreOf s 0).nt = []) ∧
    (let s := at_ .u (fun c => { c with sys := [(0xC10, 0x1800)] })
     allReady core0 s [.ecall core0, .ebreak core0] = true ∧ flag (sysReg (coreOf s 0) 0xC10) 0x0B = true ∧
     flag (sysReg (coreOf s 0) 0xC10) 0x0C = true ∧ flag (sysReg (coreOf s 0) (estatOf .s)) 7 = false) ∧
    (let s := on (fun c => { c with sys := [(0xC00, 0x80)] })
     ready core0 (.ecall core0) s = true ∧ flag (sysReg (coreOf s 0) 0xC00) 7 = true) := by decide +kernel

/-- The refill set, the ordinary set and neither. -/
theorem test_meets_EretReturns :
    (let s := on (fun c => { c with sys := [(0xC00, 0x180)] })
     ready core0 (.eret core0) s = true ∧ flag (sysReg (coreOf s 0) (estatOf (coreOf s 0).level)) 8 = true) ∧
    (let s := on (fun c => { c with sys := [(0xC00, 0x80)] })
     ready core0 (.eret core0) s = true ∧ flag (sysReg (coreOf s 0) 0xC00) 8 = false ∧ flag (sysReg (coreOf s 0) 0xC00) 7 = true) ∧
    (let s := at_ .s id
     ready core0 (.eret core0) s = true ∧ flag (sysReg (coreOf s 0) (estatOf .s)) 8 = false ∧ flag (sysReg (coreOf s 0) 0x400) 7 = false) := by
  decide +kernel

theorem test_meets_IllegalInstructions :
    (let s := at_ .u id
     hartExists core0 = true ∧ canRun core0 s = true ∧ breakHit core0 s = false ∧ hartEvent core0 s = false ∧ (fetchCheck core0 s).1 = none ∧
     (cpuOf s core0).win = [] ∧ s.replay = false ∧ fetchDelivers core0 (fetchCheck core0 s).2 = true ∧
     fetchDelivers core0 (toFetch core0 (.eret core0) s) = true ∧ decodeWord core0 0 = none ∧ (cpuOf s core0).level = .u) ∧
    (hartExists prv0 = true ∧ canRun prv0 base = true ∧ breakHit prv0 base = false ∧ hartEvent prv0 base = false ∧ (fetchCheck prv0 base).1 = none ∧
     (cpuOf base prv0).win = [] ∧ base.replay = false ∧ fetchDelivers prv0 (toFetch prv0 (.vadd prv0 1 1 1 0) base) = true) := by
  decide +kernel

/-- Register 2 points at memory of the enclosure. -/
def ptr (a : Word) : Cpu → Cpu := two ⟨a, .data⟩

/-- What the statements about loads ask of an access of core 0 at the address in register 2. -/
def LoadOk (i : Instr) (va : Word) (k : Nat) : Prop :=
  let s := on (ptr 0x2000)
  ready core0 i s = true ∧ LoadGoes 0 (started core0 i s) va k ∧
  CleanWords (coreOf (started core0 i s) 0) (started core0 i s) (physHalves (coreOf (started core0 i s) 0) va k)

/-- Aligned and misaligned addresses and an access across two lines, in memory that holds poison nowhere. -/
theorem test_load_ok : LoadOk (.ldB core0 1 2 0) 0x2000 1 ∧ LoadOk (.ldHu core0 1 2 0x3F) 0x203F 2 ∧ LoadOk (.ldW core0 1 2 0) 0x2000 4 ∧
    LoadOk (.ldD core0 1 2 0) 0x2000 8 ∧ LoadOk (.ldD core0 1 2 0x39) 0x2039 8 ∧ LoadOk (.ldx core0 1 2 3 0 3) 0x2000 1 ∧
    LoadOk (.ldfS core0 1 2 0) 0x2000 4 ∧ LoadOk (.ldfD core0 1 2 0) 0x2000 8 ∧ LoadOk (.vld core0 1 2 0) 0x2000 32 ∧ LoadOk (.ldtg core0 1 2 0) 0x2000 1 := by
  repeat' apply And.intro
  all_goals first | decide +kernel | (unfold Translates; decide +kernel) | (unfold InMemory; decide +kernel) | (unfold AtHand; decide +kernel) | (unfold mayAccess; decide +kernel) |
    (unfold CleanWords; decide +kernel) | (unfold Owned; decide +kernel) | (unfold MayAsk; decide +kernel) | (unfold NothingDue; decide +kernel) |
    (unfold noLoopEnd; decide +kernel) | (unfold Keyed; decide +kernel)

/-- The address operands, the word of LDTG, and a line that another unit's transaction keeps at its home. -/
theorem test_meets_LoadResults :
    (let c := coreOf (on (ptr 0x2000)) 0
     GoodBase core0 c (gpr c 2) ∧ GoodIndex (gpr c 3) ∧ (0x2000 : Word).toNat % 8 = 0 ∧ (0x2039 : Word).toNat % 8 ≠ 0 ∧
     allReady core0 (on (ptr 0x2000)) [.ldBu core0 1 2 0, .ldH core0 1 2 0x3F, .ldWu core0 1 2 0, .ldx core0 1 2 3 6 0, .pf core0 3 2 0] = true) ∧
    AtHand 0 (started core0 (.ldtg core0 1 2 0) (on (ptr 0x2000))) [(0x2000, 8)] ∧
    ([Instr.ldB core0 1 2 0, .ldD core0 1 2 0].all (fun i => let s := busyAt (on (ptr 0x2000))
      ready core0 i s && !(readLines core0 [(0x2000, 8)] (started core0 i s)).2 && forwards core0 (started core0 i s) (0x2000, 8)) = true) ∧
    (let t := started core0 (.ldD core0 1 2 0) (busyAt (on (ptr 0x2000)))
     Translates (coreOf t 0) .load 0x2000 8 ∧ InMemory 0 t (physHalves (coreOf t 0) 0x2000 8) ∧ physHalves (coreOf t 0) 0x2000 8 = [(0x2000, 8)]) := by
  repeat' apply And.intro
  all_goals first | decide +kernel | (unfold Translates; decide +kernel) | (unfold InMemory; decide +kernel) | (unfold AtHand; decide +kernel) | (unfold mayAccess; decide +kernel) |
    (unfold CleanWords; decide +kernel) | (unfold Owned; decide +kernel) | (unfold MayAsk; decide +kernel) | (unfold NothingDue; decide +kernel) |
    (unfold noLoopEnd; decide +kernel) | (unfold Keyed; decide +kernel)

/-- Device addresses aligned and not, a line that two stores contend for, and a device atomic. -/
theorem test_meets_RequestsLeaveTheCore :
    (let s := on (ptr 0xF000000000000)
     let t := started core0 (.ldD core0 1 2 8) s
     let c := coreOf t 0
     allReady core0 s [.ldB core0 1 2 0, .ldBu core0 1 2 0, .ldH core0 1 2 0, .ldHu core0 1 2 0, .ldW core0 1 2 4, .ldWu core0 1 2 4, .ldD core0 1 2 8,
       .ldD core0 1 2 4] = true ∧
     GoodBase core0 c (gpr c 2) ∧ Translates c .load 0xF000000000008 8 ∧ Translates c .load 0xF000000000004 8 ∧ physOf c 0xF000000000008 < locBase ∧
     placeOf t (enclOfCore t 0) 0xF000000000008 = .device ∧ (0xF000000000008 : Word).toNat % 8 = 0 ∧ (0xF000000000004 : Word).toNat % 8 ≠ 0 ∧
     (0xF000000000004 : Word).toNat % 64 + 8 ≤ 64 ∧ c.sb = [] ∧ c.devSent < 8) ∧
    (let s := on (ptr 0xF000000000000)
     let t := started core0 (.atomicAdd core0 1 2 3 true 0) s
     let c := coreOf t 0
     ready core0 (.atomicAdd core0 1 2 3 true 0) s = true ∧ GoodBase core0 c (gpr c 2) ∧ Translates c .atomic 0xF000000000000 8 ∧ Plain c (gpr c 3) ∧
     c.sb = [] ∧ c.nt = [] ∧ c.devSent < 8 ∧ placeOf t (enclOfCore t 0) (physOf c 0xF000000000000) = .device) ∧
    (let s := on (fun c => { ptr 0x2000 c with contend := [(contendIdx 0x2000, 2)] })
     let t := started core0 (.atomicAdd core0 1 2 3 false 0) s
     let c := coreOf t 0
     ready core0 (.atomicAdd core0 1 2 3 false 0) s = true ∧ GoodBase core0 c (gpr c 2) ∧ Plain c (gpr c 3) ∧ (0x2000 : Word).toNat % 4 = 0 ∧
     Translates c .atomic 0x2000 4 ∧ physOf c 0x2000 < locBase ∧ c.sb = [] ∧ c.nt = [] ∧ placeOf t (enclOfCore t 0) (physOf c 0x2000) = .mem ∧
     2 ≤ mGet 0 c.contend (contendIdx (physOf c 0x2000)) ∧ MayAsk 0 (lineOf (physOf c 0x2000)) t) := by
  repeat' apply And.intro
  all_goals first | decide +kernel | (unfold Translates; decide +kernel) | (unfold InMemory; decide +kernel) | (unfold AtHand; decide +kernel) | (unfold mayAccess; decide +kernel) |
    (unfold CleanWords; decide +kernel) | (unfold Owned; decide +kernel) | (unfold MayAsk; decide +kernel) | (unfold NothingDue; decide +kernel) |
    (unfold noLoopEnd; decide +kernel) | (unfold Keyed; decide +kernel)

/-- An entry of an ordinary store of 8 octets, and of DCZ. -/
def sbStore (dcz : Bool) : SbEntry := ⟨0x2000, if dcz then List.replicate 64 0 else leBytes 8 7, if dcz then none else some .dptr, dcz, false, false, 0x2000, 0x1000⟩

/-- An empty buffer, one that is full, a store across two lines, and the write of an ordinary entry and of DCZ. -/
theorem test_meets_StoreResults :
    (let s := on (ptr 0x2000)
     let t := started core0 (.stD core0 3 2 0x3C) s
     let c := coreOf t 0
     allReady core0 s [.stB core0 3 2 0, .stH core0 3 2 0, .stW core0 3 2 0, .stD core0 3 2 0, .stD core0 3 2 0x3C, .stx core0 3 2 4 0 0 true,
       .stx core0 3 2 4 2 1 false, .stx core0 3 2 4 4 2 false, .stx core0 3 2 4 6 3 false, .stfS core0 3 2 0, .stfD core0 3 2 0, .vst core0 3 2 0] = true ∧
     GoodBase core0 c (gpr c 2) ∧ GoodIndex (gpr c 4) ∧ Plain c (gpr c 3) ∧ Translates c .store 0x203C 8 ∧ Translates c .store 0x2000 32 ∧
     (∀ p ∈ physHalves c 0x203C 8, p.1 < locBase ∧ placeOf t (enclOfCore t 0) p.1 = .mem) ∧
     c.sb.length + (storeEntries c 0x203C (leBytes 8 7) none false).length ≤ 96) ∧
    (let s := on (fun c => { ptr 0x2000 c with sb := List.replicate 96 (sbStore false) })
     let t := started core0 (.stB core0 3 2 0) s
     let c := coreOf t 0
     (sbHead core0 t).2 = true ∧
     ready core0 (.stB core0 3 2 0) s = true ∧ c.sb.length = 96 ∧ (storeEntries c 0x2000 [1] none false).length = 1 ∧
     GoodBase core0 c (gpr c 2) ∧ GoodIndex (gpr c 4) ∧ Plain c (gpr c 3) ∧ Translates c .store 0x2000 1 ∧
     (∀ p ∈ physHalves c 0x2000 1, p.1 < locBase ∧ placeOf t (enclOfCore t 0) p.1 = .mem)) ∧
    (let s := busyAt (on (fun c => { ptr 0x2000 c with sb := List.replicate 96 (sbStore false) }))
     ready core0 (.stB core0 3 2 0) s = true ∧ (sbHead core0 (started core0 (.stB core0 3 2 0) s)).2 = false) ∧
    (let s := on (fun c => { c with sb := [sbStore false] })
     Owned core0 0x80 false false s ∧ ¬ Owned core0 0x80 false false (busyAt s) ∧ (cpuOf s core0).sb = sbStore false :: [] ∧ (sbStore false).dev = false ∧ (sbStore false).nt = false ∧ (∀ l ∈ (cpuOf s core0).nt, l.line ≠ 0x80) ∧
     Keyed s 0x2000 ∧ (sbStore false).dcz = false ∧ (sbStore false).pa % 64 + (sbStore false).bytes.length ≤ 64 ∧ (sbStore false).tag = some .dptr ∧
     (sbStore false).pa % 8 = 0) ∧
    (let s := on (fun c => { c with sb := [sbStore true] })
     (cpuOf s core0).sb = sbStore true :: [] ∧ (sbStore true).dcz = true ∧ (sbStore true).dev = false ∧ (sbStore true).nt = false ∧
     (sbStore true).pa % 64 = 0 ∧ Keyed s 0x2000 ∧ Owned core0 0x80 true true s) := by
  repeat' apply And.intro
  all_goals first | decide +kernel | (unfold Translates; decide +kernel) | (unfold Owned; decide +kernel)

/-- A word in an own line, at 64 and at 32 bits, with CAS operands that match and that do not. -/
theorem test_meets_AtomicResults :
    let s := on (fun c => { c with g := [(1, ⟨0, .data⟩), (2, ⟨0x2000, .data⟩), (3, ⟨3, .data⟩)] })
    let t := started core0 (.atomicCas core0 1 2 3 true 0) s
    let c := coreOf t 0
    Owned core0 (lineOf (physOf c 0x2000)) false false t ∧
    allReady core0 s [.atomicSwap core0 1 2 3 true 0, .atomicAdd core0 1 2 3 false 1, .atomicAnd core0 1 2 3 true 2, .atomicOr core0 1 2 3 true 3,
      .atomicXor core0 1 2 3 true 0, .atomicMin core0 1 2 3 true 0, .atomicMax core0 1 2 3 true 0, .atomicMinu core0 1 2 3 true 0,
      .atomicMaxu core0 1 2 3 true 0, .atomicCas core0 1 2 3 true 0, .atomicCas core0 3 2 3 true 0, .atomicCas core0 1 2 3 false 0] = true ∧
    GoodBase core0 c (gpr c 2) ∧ Plain c (gpr c 3) ∧ Plain c (gpr c 1) ∧ (gpr c 3).t ≠ .hndl ∧ (0x2000 : Word).toNat % 8 = 0 ∧ (0x2000 : Word).toNat % 4 = 0 ∧
    Translates c .atomic 0x2000 8 ∧ Translates c .atomic 0x2000 4 ∧ physOf c 0x2000 < locBase ∧ placeOf t (enclOfCore t 0) (physOf c 0x2000) = .mem ∧
    Keyed t (physOf c 0x2000) ∧ c.sb = [] ∧ c.nt = [] ∧ mGet 0 c.contend (contendIdx (physOf c 0x2000)) < 2 ∧ memTag t (physOf c 0x2000) = .data ∧
    memNat t (physOf c 0x2000) 8 % 2 ^ 64 = (gpr c 1).v.toNat % 2 ^ 64 ∧ memNat t (physOf c 0x2000) 8 % 2 ^ 64 ≠ (gpr c 3).v.toNat % 2 ^ 64 := by
  repeat' apply And.intro
  all_goals first | decide +kernel | (unfold Translates; decide +kernel) | (unfold InMemory; decide +kernel) | (unfold Owned; decide +kernel)

theorem test_meets_FloatResults :
    Plain (cpuOf (on five) core0) (gpr (cpuOf (on five) core0) 2) ∧
    allReady core0 (on five) [.fadd core0 1 2 3 true 7, .fsub core0 1 2 3 true 0, .fmul core0 1 2 3 false 1, .fdiv core0 1 2 3 true 2, .fsqrt core0 1 2 true 3,
      .fmin core0 1 2 3 true, .fmax core0 1 2 3 false, .fcopysign core0 1 2 3 true, .fneg core0 1 2 true, .fabs core0 1 2 false, .fcvtF core0 1 2 true 0,
      .fcvtF core0 1 2 false 4, .fmadd core0 1 2 3 4 true 7, .fmsub core0 1 2 3 4 true 7, .fnmadd core0 1 2 3 4 false 7, .fnmsub core0 1 2 3 4 true 7,
      .ffromiW core0 1 2 true 0, .ffromiWu core0 1 2 true 0, .ffromiL core0 1 2 false 0, .ffromiLu core0 1 2 true 0, .fmvFromg core0 1 2 true,
      .fceq core0 1 2 3 true, .fclt core0 1 2 3 true, .fcle core0 1 2 3 true, .fkind core0 1 2 true, .ftoiW core0 1 2 true 1, .ftoiWu core0 1 2 true 1,
      .ftoiL core0 1 2 true 1, .ftoiLu core0 1 2 true 1, .fmvTog core0 1 2 false] = true ∧
    0x7FEFFFFFFFFFFFFF < 2 ^ fW true ∧ (∀ g, fUnpack true 0x7FEFFFFFFFFFFFFF ≠ .nan g) ∧ 1 < 2 ^ fW false ∧ (∀ g, fUnpack false 1 ≠ .nan g) := by
  repeat' apply And.intro
  all_goals first | decide +kernel | (unfold Translates; decide +kernel) | (unfold InMemory; decide +kernel) | (unfold mayAccess; decide +kernel)

/-- An operand of each kind that Table 5.6 names, of both signs. -/
theorem test_meets_FloatSpecialOperands :
    fUnpack false 0x7F800001 = .nan true ∧ fUnpack false 0x7FC00000 = .nan false ∧ fUnpack false 0x7F800000 = .inf false ∧
    fUnpack false 0xFF800000 = .inf true ∧ fUnpack false 0 = .zero false ∧ fUnpack false 0x80000000 = .zero true ∧
    (∃ k e, fUnpack false 0x3F800000 = .fin false k e) ∧ (∃ k e, fUnpack false 0xBF800000 = .fin true k e) ∧
    fUnpack true 0x7FF0000000000001 = .nan true ∧ fUnpack true 0x7FF8000000000000 = .nan false ∧ xor false true ≠ xor false false :=
  ⟨by decide +kernel, by decide +kernel, by decide +kernel, by decide +kernel, by decide +kernel, by decide +kernel, ⟨_, _, rfl⟩, ⟨_, _, rfl⟩,
    by decide +kernel, by decide +kernel, by decide⟩

theorem test_meets_VectorResults :
    Plain (cpuOf (on five) core0) (gpr (cpuOf (on five) core0) 2) ∧
    allReady core0 (on five) [.vadd core0 1 2 3 0, .vsub core0 1 2 3 1, .vmul core0 1 2 3 2, .vmin core0 1 2 3 3, .vmax core0 1 2 3 0, .vminu core0 1 2 3 0,
      .vmaxu core0 1 2 3 0, .vand core0 1 2 3 0, .vor core0 1 2 3 0, .vxor core0 1 2 3 0, .vandn core0 1 2 3 0, .vshl core0 1 2 3 0, .vshr core0 1 2 3 0,
      .vsra core0 1 2 3 3, .vcmpeq core0 1 2 3 0, .vcmplt core0 1 2 3 0, .vcmpltu core0 1 2 3 0, .vperm core0 1 2 3, .vred core0 1 2 0, .vsel core0 1 2 3 4,
      .vext core0 1 2 31 0, .vext core0 1 2 3 3, .vbcast core0 1 2 3, .vins core0 1 2 31 0, .vfadd core0 1 2 3 true, .vfsub core0 1 2 3 true,
      .vfmul core0 1 2 3 true, .vfmin core0 1 2 3 true, .vfmax core0 1 2 3 true, .vfceq core0 1 2 3 false, .vfclt core0 1 2 3 true, .vfcle core0 1 2 3 true,
      .vftoi core0 1 2 true, .vffromi core0 1 2 true, .vfneg core0 1 2 true, .vfabs core0 1 2 true, .vfma core0 1 2 3 4 true] = true := by
  repeat' apply And.intro
  all_goals first | decide +kernel | (unfold Translates; decide +kernel) | (unfold InMemory; decide +kernel) | (unfold mayAccess; decide +kernel)

/-- Reads of registers of each level, and of a number nothing implements, and of one above the level. -/
theorem test_meets_ReadSystemRegister :
    ([0x001, 0x010, 0x018, 0x020, 0x021, 0x022, 0x0C0, 0x400, 0x7FF, 0xC00, 0xC21, 0xCC0].all (fun r => ready core0 (.mfs core0 1 (BitVec.ofNat 12 r)) base)) = true ∧
    coreHasSys 0xC21 = true ∧ mayAccess (coreOf base 0) 0xC21 ∧ coreHasSys 0x7FF = false ∧
    (let s := at_ .u id
     ¬ mayAccess (coreOf s 0) 0x440 ∧ userCounter (coreOf s 0) 0x440 = false ∧ mayAccess (coreOf s 0) 0x001 ∧
     ready core0 (.mfs core0 1 0x440) s = true) := by
  unfold mayAccess; decide +kernel

/-- Core 0 with one value in register 2 and a level of enforcement in CTX_TAGCTL. -/
def mtsOf (x : GVal) (tagctl : Word) (y : Level) : State := at_ y (fun c => { two x c with sys := mPut 0 c.sys 0x410 tagctl })

theorem test_meets_WriteSystemRegisters :
    (let s := on five
     let c := coreOf s 0
     Plain c (gpr c 2) ∧ c.sb = [] ∧ mayAccess c 0x401 ∧ mayAccess c 0xC08 ∧ mayAccess c 0x404 ∧ (gpr c 2).v ≠ c.pc ∧
     (∀ j, j < 3 → mGet 0 c.le j ≠ c.pc) ∧
     allReady core0 s [.mts core0 0x401 2, .mts core0 0xC08 2, .mts core0 0x404 2, .mts core0 0xC04 2, .mts core0 0x021 2, .mts core0 0x022 2,
       .mtsLoopRegister core0 0 2, .mtsLoopRegister core0 8 2, .mtsCounter core0 16 4, .mtsCounter core0 23 4, .mtsCounter core0 32 2, .mtsFcsr core0 2,
       .mtsCtxPredkey core0 2, .mtsCtxTiming core0 2, .mtsCachecfg core0 2] = true ∧
     (gpr c 4).v.toNat < 0x4000 ∧ fld (gpr c 4).v 7 0 = 0 ∧ flag (gpr c 4).v 12 = false ∧ mayAccess c 0x450 ∧ mayAccess c 0x457 ∧ mayAccess c 0x460 ∧
     fld (gpr c 2).v 10 8 ≤ 4 ∧ mayAccess c 0x411 ∧ mayAccess c 0x412 ∧ c.level = .m) ∧
    (let s := on (two ⟨0x500, .data⟩)
     4 < fld (gpr (coreOf s 0) 2).v 10 8 ∧ Plain (coreOf s 0) (gpr (coreOf s 0) 2) ∧ (coreOf s 0).sb = [] ∧ ready core0 (.mtsFcsr core0 2) s = true) ∧
    (let s := on (two ⟨0x222, .data⟩)
     let v := (gpr (coreOf s 0) 2).v
     fld v 1 0 ≤ 2 ∧ fld v 5 4 ≤ 2 ∧ fld v 9 8 ≤ 2 ∧ (coreOf s 0).level = .m ∧ fld v 2 0 ≤ 4 ∧
     allReady core0 s [.mtsCtxTagctl core0 2, .mtsPwrctl core0 2] = true) ∧
    ([16, 34].all (fun k => let s := on (two ⟨BitVec.ofNat 64 (k * 2 ^ 52), .data⟩)
      decide (16 ≤ fld (gpr (coreOf s 0) 2).v 57 52 ∧ fld (gpr (coreOf s 0) 2).v 57 52 ≤ 34) && ready core0 (.mtsPmuSnap core0 2) s)) = true ∧
    (let s := mtsOf ⟨0x2000, .link⟩ 2 .u
     tagLevel core0 (coreOf s 0) ≠ 0 ∧ (gpr (coreOf s 0) 2).t = .link ∧ ready core0 (.mtsLk core0 2) s = true) ∧
    (let s := mtsOf ⟨0x2000, .cptr⟩ 1 .u
     tagLevel core0 (coreOf s 0) ≠ 0 ∧ (gpr (coreOf s 0) 2).t = .cptr ∧ ready core0 (.mtsLk core0 2) s = true) := by
  repeat' apply And.intro
  all_goals first | decide +kernel | (unfold Translates; decide +kernel) | (unfold InMemory; decide +kernel) | (unfold mayAccess; decide +kernel)

/-- Fences of stores that leave at once, of stores whose line another unit's transaction keeps, and with a device store on its way; SYNC.IO with
and without a lost write, WFI with and without an interrupt. -/
theorem test_meets_FencesAndWaits :
    allReady core0 base [.fence core0, .fenceSl core0, .fenceNt core0, .fenceIo core0, .isync core0, .syncIo core0 [], .wfi core0] = true ∧
    (let c := coreOf base 0
     noLoopEnd c ∧ c.sb = [] ∧ c.nt = [] ∧ c.devSent = 0 ∧ c.irqM = false ∧ c.irqS = false ∧ (c.devUnits.map (·.1)).filter (fun k => mGet false base.loss (k * 1024)) = []) ∧
    (let s := on (fun c => { c with sb := [sbStore false] })
     ((fenceAll core0 (started core0 (.fence core0) s)).2 = true ∧ (sbDrain core0 (started core0 (.fenceSl core0) s)).2 = true) ∧
     (ready core0 (.fence core0) (busyAt s) = true ∧ (fenceAll core0 (started core0 (.fence core0) (busyAt s))).2 = false) ∧
     (ready core0 (.fenceSl core0) (busyAt s) = true ∧ (sbDrain core0 (started core0 (.fenceSl core0) (busyAt s))).2 = false) ∧
     (ready core0 (.fenceIo core0) (busyAt s) = true ∧ (fenceAll core0 (started core0 (.fenceIo core0) (busyAt s))).2 = false)) ∧
    (let s := on (fun c => { c with nt := [⟨0x80, [(0, 1)], [], false⟩] })
     (fenceNt core0 (started core0 (.fenceNt core0) s)).2 = true ∧ ready core0 (.fenceNt core0) (busyAt s) = true ∧
     (fenceNt core0 (started core0 (.fenceNt core0) (busyAt s))).2 = false) ∧
    (let s := on (fun c => { c with devSent := 1 })
     (coreOf s 0).sb = [] ∧ (coreOf s 0).devSent ≠ 0 ∧ ready core0 (.fenceIo core0) s = true) ∧
    (let s := { on (fun c => { c with devUnits := [(352, 0)] }) with loss := [(352 * 1024, true)] }
     ready core0 (.syncIo core0 []) s = true ∧ (coreOf s 0).devSent = 0 ∧ 352 < 512 ∧
     ((coreOf s 0).devUnits.map (·.1)).filter (fun k => mGet false s.loss (k * 1024 + 0)) = [352]) ∧
    (let s := on (fun c => { c with irqS := true })
     (coreOf s 0).irqS = true ∧ ready core0 (.wfi core0) s = true) := by
  unfold noLoopEnd; decide +kernel

/-- Two TLB entries, another core of the enclosure, and a pair to be written to the wired slots and to a set. -/
def tlbState (x y : Word) : State :=
  on (fun c => { c with g := [(2, ⟨x, .data⟩), (3, ⟨y, .data⟩)], wired := [(0, page 1 true)], dtlb := [(0, page 2 true)] })

/-- A table at 0x10000 whose only page is 1. -/
def walkState (x root : Word) : State :=
  { on (fun c => { two ⟨x, .data⟩ c with sys := [(0x420, root)] }) with
    mem := { bytes := [(0x10000, 3), (0x10001, 0x10), (0x10002, 1), (0x11000, 3), (0x11001, 0x20), (0x11002, 1), (0x12000, 3), (0x12001, 0x30), (0x12002, 1),
      (0x13008, 5), (0x13009, 0x10)] } }

theorem test_meets_TlbOperations :
    (let s := tlbState 0x1000 0
     let c := coreOf (started core0 (.tlbiAll core0 false) s) 0
     allReady core0 s [.tlbiAll core0 false, .tlbiNonglobal core0 false, .tlbiAsid core0 2 false, .tlbiVa core0 2 false, .tlbiVaAll core0 2 true] = true ∧
     (gpr c 2).t ≠ .pois ∧ (gpr c 2).t ≠ .hndl ∧ c.sb = [] ∧ tlbiTargets (started core0 (.tlbiAll core0 false) s) 0 0 = [] ∧ noLoopEnd c) ∧
    (let s := { tlbState 0x1000 0 with objs := [(okey 0x3100 0, 0), (okey 0x3200 0, 0), (okey 0x3200 1, 0), (okey 0x5030 0, 0)]
                                       cores := [(0, coreOf base 0), (1, coreOf base 0)] }
     ready core0 (.tlbiAll core0 true) s = true ∧ tlbiTargets (started core0 (.tlbiAll core0 true) s) 0 (enclOfCore (started core0 (.tlbiAll core0 true) s) 0) ≠ []) ∧
    ([0xC000000000005004, 0x8000000000005004].all (fun lo : Word =>
      let s := tlbState 0x5000 lo
      let c := coreOf (started core0 (.tlbw core0 2) s) 0
      ready core0 (.tlbw core0 2) s && decide (c.sb = [] ∧ (gpr c 2).t = .data ∧ (gpr c (2 + 1)).t = .data ∧ flag (gpr c (2 + 1)).v 63 = true ∧
        loReserved (gpr c (2 + 1)).v = false))) = true ∧
    flag (0xC000000000005004 : Word) 62 = true ∧ flag (0x8000000000005004 : Word) 62 = false ∧
    (let s := tlbState 0x7000 0
     let c := coreOf (started core0 (.tlbr core0 4 2) s) 0
     ready core0 (.tlbr core0 4 2) s = true ∧ c.sb = [] ∧ (gpr c 2).t = .data ∧ wiredFind c (gpr c 2).v = none ∧ l2tlbFind c (gpr c 2).v = none ∧
     wiredFind c 0x1000 = some (0, page 1 true)) ∧
    (let s := on (fun c => { ptr 0x9000 c with l2tlb := [(l2tlbSet 9 0, { ways := [(0, page 9 true)] })] })
     let c := coreOf (started core0 (.tlbr core0 30 2) s) 0
     ready core0 (.tlbr core0 30 2) s = true ∧ c.sb = [] ∧ wiredFind c (gpr c 2).v = none ∧ l2tlbFind c (gpr c 2).v = some (l2tlbSet 9 0, page 9 true)) := by
  repeat' apply And.intro
  all_goals first | (unfold noLoopEnd; decide +kernel) | decide +kernel | (unfold Translates; decide +kernel) | (unfold InMemory; decide +kernel) | (unfold CleanWords; decide +kernel)

/-- A leaf, an entry that is not valid, an address no table maps, a table in device space, and one that no memory stands behind, each with its
lines at hand; and a marking that has failed four times. -/
theorem test_meets_Walk :
    (let s := walkState 0x1000 0x10000
     let t := started core0 (.walk core0 4 2 0) s
     let c := coreOf t 0
     ready core0 (.walk core0 4 2 0) s = true ∧ c.sb = [] ∧ (gpr c 2).t = .data ∧ flag (sysReg c 0x420) 2 = false ∧ c.walkTries < 4) ∧
    ([((0x1000, 0x10000), WalkEnd.ok 0x13008 0x1005), ((0x2000, 0x10000), .status 1 0), ((0x0100000000000000, 0x10000), .status 3 3),
      ((0x1000, 0xF000000000000), .attrFault 0xF000000000000), ((0x1000, 0x5000000000000), .busError 0x5000000000000)].all (fun (p : (Word × Word) × WalkEnd) =>
      let t := started core0 (.walk core0 4 2 0) (walkState p.1.1 p.1.2)
      let root := sysReg (coreOf t 0) 0x420
      decide (walkRoot t (enclOfCore t 0) (fun _ => none) root (gpr (coreOf t 0) 2).v = p.2) &&
        (walkLines 0 ((walkRootReads t (enclOfCore t 0) (fun _ => none) root (gpr (coreOf t 0) 2).v).map (fun q => lineOf q.2.pa)) t).2) = true) ∧
    (4 ≤ (coreOf (started core0 (.walk core0 4 2 0) (modCpu core0 (fun c => { c with walkTries := 4 }) (walkState 0x1000 0x10000))) 0).walkTries) := by
  decide +kernel

/-- A line of memory with nothing buffered, a slice with an own way, and a locked entry in one. -/
theorem test_meets_CacheOperations :
    (let s := on (ptr 0x2000)
     let t := started core0 (.clean core0 0 2 0 .addr) s
     let c := coreOf t 0
     lineQuiet t 0x80 = true ∧ asking t (tileOf t 0) 0x80 = false ∧ wbPending t (tileOf t 0) 0x80 = false ∧ cmoFlight t (tileOf t 0) = 0 ∧ GoodBase core0 c (gpr c 2) ∧ Translates c .load 0x2000 1 ∧ Translates c .store 0x2000 1 ∧ physOf c 0x2000 < locBase ∧
     placeOf t (enclOfCore t 0) (physOf c 0x2000) = .mem ∧ c.sb.length < 96 ∧ c.sb = [] ∧ c.nt = [] ∧
     allReady core0 s [.dcz core0 2, .clean core0 0 2 0 .addr, .clinv core0 0 2 0 .addr, .inval core0 0 2 0 .addr, .lockld core0 0 2 0 .addr] = true) ∧
    ownWays (started core0 (.lockld core0 0 2 0 .addr) (on (ptr 0x2000))) (enclOfCore base 0) (slicePos 0x80) = [] ∧
    (let s := { on (ptr 0x2000) with objs := [(okey 0x3100 0, 0), (okey 0x3200 0, 0), (okey 0x4300 32, 0x00FFFFFFFFFFFFFF), (okey 0x5030 0, 0)] }
     let t := started core0 (.lockld core0 0 2 0 .addr) s
     ready core0 (.lockld core0 0 2 0 .addr) s = true ∧ ownWays t (enclOfCore t 0) (slicePos 0x80) = [15] ∧ llcFind t 0x80 = none ∧
     mFind (setOf (sliceAt t (slicePos 0x80)).llc (llcSet 0x80)).ways 15 = none) ∧
    (let s := { on (two ⟨15, .data⟩) with
                objs := [(okey 0x3100 0, 0), (okey 0x3200 0, 0), (okey 0x4300 0, 0), (okey 0x5030 0, 0)]
                slices := [(0, { llc := [(0, { ways := [(15, ⟨3, true, false, 1, 0⟩)] })] })] }
     let t := started core0 (.unlock core0 2 2) s
     let c := coreOf t 0
     let x := gpr c 2
     Plain c x ∧ setWayOk 2 x.v = true ∧ c.sb = [] ∧ ready core0 (.unlock core0 2 2) s = true ∧
     mFind (setOf (sliceAt t (fld x.v 31 24)).llc (fld x.v 19 8)).ways (fld x.v 3 0) = some ⟨3, true, false, 1, 0⟩ ∧
     wayOwner t (fld x.v 31 24) (fld x.v 3 0) = enclOfCore t 0) := by
  repeat' apply And.intro
  all_goals first | decide +kernel | (unfold Translates; decide +kernel) | (unfold InMemory; decide +kernel) | (unfold mayAccess; decide +kernel)

/-! ## The clock root, the stamp and the socket links -/

/-- `base` with the clock's own state. -/
def clocked (stamp : Nat) (c : Clk) : State := { base with stamp := stamp, clk := c }

/-- A socket that is not the master, with link 2 admitted to socket 0, the master. -/
def slave (c : Clk) : State := setObj 0x1110 1 2 (setObj 0xC100 2 3 { clocked 0 c with socket := 1 })

/-- A reference that stands, one lost for just 1 ms, a correction ahead and behind and one that may not be made yet, a socket cut off from its
master, an exchange that is due and one that is not, and offsets at and past two ticks. -/
theorem test_meets_ClockAndStamp :
    (rootLocked base = true ∧ base.clk.refLostAt = none) ∧
    ((clocked 1600000 { refLostAt := some 0 }).clk.refLostAt = some 0 ∧ (clocked 1600000 { refLostAt := some 0 }).stamp ≤ 0 + 1600000) ∧
    (let s := { base with stamp := 20, net := [⟨.req 3 { dest := 0, src := 5, lstamp := 20 }, 3, none, 0⟩, ⟨.req 3 { dest := 0, src := 5, lstamp := 20 }, 20, none, 0⟩] }
     (s.net[0]?).map (·.at_) = some 3 ∧ (s.net[1]?).map (·.at_) = some 20) ∧
    ((∀ d ∈ [(-1 : Int), 1], let s := clocked 256 { slew := d, lastAdjust := some 0 }
     rootLocked s = true ∧ s.clk.slew ≠ 0 ∧ s.clk.lastAdjust = some 0 ∧ 0 + 256 ≤ s.stamp ∧ switchDue { s with stamp := s.stamp + 2 } = false)) ∧
    NothingDue (clocked 256 { slew := 1, lastAdjust := some 0 }) ∧
    (let s := clocked 255 { slew := 1, lastAdjust := some 0 }
     s.clk.slew ≠ 0 ∧ s.clk.lastAdjust = some 0 ∧ s.stamp < 0 + 256) ∧
    (let s := setObj 0x1110 1 2 base
     isMaster s = false ∧ linkTo s (masterOf s) = none ∧ aligned s = true) ∧
    (flag (obj (setObj 0x1110 1 0x100 base) 0x1110 1) 2 = false ∧ isMaster (setObj 0x1110 1 0x10000 base) = false) ∧
    (isMaster (slave {}) = false ∧ linkTo (slave {}) (masterOf (slave {})) = some 2 ∧ (linkAt (slave {}) 2).replay.length < 512 ∧
     alignDue (slave {}) = true ∧ linkAdmitted (slave {}) 2 = true) ∧
    (let s := slave { lastAlign := some 0 }
     isMaster s = false ∧ s.clk.lastAlign = some 0 ∧ s.stamp < 0 + 4096) ∧
    ([4, 5, 6].all (fun t1 => let s := slave { t1 := some (2, t1) }
      decide (isMaster s = false ∧ s.clk.t1 = some (2, t1)))) = true ∧
    ((((4 : Int) - 0) + ((0 : Int) - 0)).tdiv 2 ≤ 2 ∧ (((0 : Int) - 4) + 0).tdiv 2 = -2 ∧ 2 < (((6 : Int) - 0) + 0).tdiv 2 ∧
     (((0 : Int) - 6) + 0).tdiv 2 < -2) := by
  repeat' apply And.intro
  all_goals first | decide +kernel | (unfold Translates; decide +kernel) | (unfold InMemory; decide +kernel) | (unfold AtHand; decide +kernel) | (unfold mayAccess; decide +kernel) |
    (unfold CleanWords; decide +kernel) | (unfold Owned; decide +kernel) | (unfold MayAsk; decide +kernel) | (unfold NothingDue; decide +kernel) |
    (unfold noLoopEnd; decide +kernel) | (unfold Keyed; decide +kernel)

/-- One message between tiles. -/
def aMsg : Msg := .rsp 0x06 { dest := 0, src := 0x170 }

/-- Links 0 and 1 of one group, admitted to socket 5; link 2 down with a flit that was not acknowledged. -/
def linked : State :=
  setObj 0xC100 1 0x503 (setObj 0xC100 0 0x503 { base with links := [(2, { replay := [(4095, [.msg aMsg])] })] })

theorem test_meets_LinkCommands :
    (3 < 4 ∧ 7 < 8 ∧ (7 : Nat) ≠ base.socket) ∧
    (let s := setObj 0x1110 1 (7 * 65536 + 1) { base with socket := 7, phase := .boot 3 }
     (6 : Nat) ≠ s.socket ∧ s.clk.slaved = false ∧ 0 < s.socket ∧ 0 < masterOf s ∧ s.phase ≠ .running) ∧
    (linkUp linked 0 = true ∧ (linkAt linked 0).held = [] ∧ 0 = (linkAt linked 0).rxSeq ∧ (linkAt linked 0).asked = none ∧
     (linkAt linked 0).replays = none ∧ (linkAt linked 0).waiting = []) ∧
    (let s := { linked with stamp := 255, links := [(0, { asked := some (0, 0) })] }
     linkUp s 0 = true ∧ (linkAt s 0).asked = some ((linkAt s 0).rxSeq, 0) ∧ s.stamp < 0 + 256) ∧
    (let s := setObj 0xC100 1 0 linked
     linkUp s 0 = true ∧ linkUp s 2 = false ∧ (2 : Nat) ≠ 0 ∧ groupOf s (linkPeer s 0) = [0] ∧ (linkAt s 0).replay.length < 512 ∧
     (linkAt s 2).replay = [(4095, [.msg aMsg])] ∧ (linkAt s 2).held = [] ∧ (linkAt s 2).waiting = [] ∧ (linkAt s 0).waiting = [] ∧
     (linkAt s 0).told = false ∧ 4095 < 4096) ∧
    (linkUp linked 1 = true ∧ linkAdmitted linked 1 = true ∧ (groupOf linked (linkPeer linked 1)).filter (· ≠ 1) = [0] ∧
     (linkAt linked 0).replay.length < 512) := by decide +kernel

/-! ## Power, Box and interrupts -/

/-- `base` with the power controller's own state. -/
def powered (p : Power) : State := { base with pwr := p }

/-- The samples at each threshold, and the holdover that has just run out. -/
theorem test_meets_EmergencyStop :
    rootLocked base = true ∧ 2 ≤ 2 ∧ 6 ≤ 6 ∧ 5 < 6 ∧ ((clocked 1600000 { refLostAt := some 0 }).clk.refLostAt = some 0 ∧ 0 + 1600000 ≤ (1600000 : Nat)) ∧
    (3399 < 3400 ∧ 49 ≤ (powered { low := 49 }).pwr.low ∧ rootLocked (powered { low := 49 }) = true) ∧
    (7700 < 7701 ∧ (powered { high := 9 }).pwr.low = 0 ∧ 9 ≤ (powered { high := 9 }).pwr.high) ∧
    ((powered { low := 48 }).pwr.low < 49) ∧ ((powered { high := 8 }).pwr.low = 0 ∧ (powered { high := 8 }).pwr.high < 9) ∧
    (3400 ≤ 3400 ∧ 7700 ≤ 7700 ∧ 0 < (powered { low := 1 }).pwr.low) := by decide +kernel

/-- An average on and above the limit, a die at 100 degrees, a guard that changes, and a point whose voltage has arrived. -/
theorem test_meets_PowerLimits :
    rootLocked base = true ∧ base.pwr.limit = false ∧ 10 * objN base 0x2010 1 < 10501 ∧ 10500 ≤ 10 * objN base 0x2010 1 ∧
    (5 < 6 ∧ (1000 : Int) ≤ 1000 ∧ mGet false base.pwr.therm 5 = false) ∧ (3 < 4 ∧ mGet false base.guard 3 ≠ true) ∧
    ((0 : Nat) < 192 ∧ (coreOf (on (fun c => { c with opp := 3, moving := some 1 })) 0).moving = some 1) := by decide +kernel

/-- Core 0 waits in CS1 and asks for CS3. -/
def waiting (p : Power) : State :=
  { on (fun c => { c with run := .wfi, sys := [(0xC30, 0x10)] }) with pwr := p }

/-- An attempt at a state, with the units that have not accepted. -/
def trying (key : Nat) (units : List Nat) : State := waiting { tries := [(key, ⟨0, units⟩)] }

/-- A core that waits for CS3, a package that has dwelt, each answer to an attempt, a wake with and without an entry under way, and a core in
CS3 whose tile holds nothing. -/
theorem test_meets_SleepHandshake :
    (let c := coreOf (waiting {}) 0
     c.run = .wfi ∧ flag (sysReg c 0xC30) 4 = true ∧ c.cs1At + fld (sysReg c 0xC30) 39 8 ≤ (waiting {}).stamp ∧ mFind (waiting {}).pwr.tries 0 = none) ∧
    (let s := { setObj 0x2020 1 2 (waiting { dwell := some (2, 0) }) with stamp := 2 ^ 40 }
     rootLocked s = true ∧ s.pwr.dwell = some (2, 0) ∧ 0 + objN s 0x2020 2 ≤ s.stamp ∧ deepest s = some 2 ∧ objN s 0x2030 1 < 2 ∧
     mFind s.pwr.tries (192 + 2) = none) ∧
    (let s := trying 194 [256, 257]
     mFind s.pwr.tries 194 = some ⟨0, [256, 257]⟩ ∧ [256, 257].contains 256 = true ∧ mustRefuse s 194 256 = 0 ∧
     [256, 257].filter (fun x => decide (x ≠ 256)) ≠ []) ∧
    (let s := setObj 0x2020 1 2 (trying 194 [256])
     mustRefuse s 194 256 = 0 ∧ [256].filter (fun x => decide (x ≠ 256)) = [] ∧ packPermitted s 2 = true ∧ packCond s 2 = true ∧
     fld (obj s 0x3000 2) 9 8 ≠ 2) ∧
    (let s := trying 0 [0]
     mFind s.pwr.tries 0 = some ⟨0, [0]⟩ ∧ 0 + 800000 < s.stamp + 800001 ∧ s.stamp + 800000 ≤ 0 + 800000 ∧ (0 : Nat) < 192) ∧
    (let s := { trying 0 [0] with stamp := 800000 }
     mFind s.pwr.tries 0 = some ⟨0, [0]⟩ ∧ [0].contains 0 = true ∧ 0 + 800000 ≤ s.stamp) ∧
    (let s := setObj 0x2030 1 4 base
     1 ≤ 1 ∧ 6 ≤ 6 ∧ objN s 0x2030 1 = 4 ∧ s.pwr.entered = none ∧ fld (obj s 0x3000 2) 9 8 ≠ 2) ∧
    (let s := setObj 0x2030 1 2 (powered { entered := some 3 })
     objN s 0x2030 1 ≠ 0 ∧ s.pwr.entered = some 3) ∧
    (let s := { on (fun c => { c with run := .cs3 }) with ilocal := [(0, 0x9F00)] }
     (coreOf s 0).run = .cs3 ∧ tileDrained s (tileOf s 0) = true ∧ intPending s 0 true = true) := by decide +kernel

/-- Box at work, not at work, under maintenance, sealed and unsealed. -/
def boxed (b : Box) : State := { base with box := b }

def goodImage : BoxImage := { digest := [1], version := 3, minver := 2, mldsa := true, ecdsa := true, keyOk := true }

theorem test_meets_BoxCommands :
    (let b := (boxed { copy0 := { seq := 1 }, copy1 := { seq := 2 } }).box
     b.on = false ∧ (boxPlace b).isSome = true ∧ b.copy0.valid = true ∧ b.copy1.valid = true) ∧
    (let b := (boxed { on := true, fine := 999999 }).box
     b.on = true ∧ b.fault = false ∧ 10 ≤ 10 ∧ b.fine < 1000000 ∧ 9 < 10 ∧ b.cflags = 0 ∧ b.cseq = none ∧ b.cmd = none ∧ (boxPlace b).isSome = true) ∧
    ((boxed { on := true, fault := true }).box.fault = true ∧ (boxed { on := true, fault := true }).box.fine < 1000000) ∧
    (let b := (boxed { on := true, maint := true }).box
     b.on = true ∧ b.maint = true ∧ b.cmd = none ∧ (boxPlace b).isSome = true ∧ unsealCheck b = 0) ∧
    (let b := (boxed { on := true, maint := true, breaks := 1 }).box
     b.on = true ∧ b.maint = true ∧ b.cmd = none ∧ (boxPlace b).isSome = true ∧ boxSealed b = false ∧ sealCheck b = 0 ∧ loadCheck b goodImage = 0 ∧
     loadCheck b { goodImage with ecdsa := false } ≠ 0) ∧
    ((boxed { on := true, maint := true, cmd := some 3 }).box.cmd = some 3) := by decide +kernel

/-- A request of core 0 to an address of device space. -/
def devReqAt (pa len : Nat) (v : Word) : ReqFlit := { dest := 363, src := 0, encl := 0, addr := pa / 64, off := pa % 64, len := len - 1, data := v, lp := false }

/-- Sources of enclosure 0 and core 0's local ones, with core 0 in a state of its own. -/
def interrupts (r : RunState) (src : FMap Word) (loc : Word) : State := { on (fun c => { c with run := r }) with src := src, ilocal := [(0, loc)] }

/-- A timer at M, a global source at S and at M, the performance source, in each state of the core; the window's registers. -/
theorem test_meets_InterruptController :
    ((∀ r ∈ [RunState.running, .gated, .wfi], let s := interrupts r [] 0x9F00
       intPending s 0 true = true ∧ intPending s 0 false = false ∧ localPending s 0 0 = true ∧ (coreOf s 0).run = r ∧ s.yew.stopped = false ∧
       s.yew.held.contains (enclOfCore s 0) = false ∧ s.yew.refused.contains (enclOfCore s 0) = false)) ∧
    intTarget base (devReqAt 0xF000002020000 8 5) = some .setpend ∧
    (let s := interrupts .running [(1023, 0xCF00000000000000)] 0
     let q := devReqAt 0xF000002010000 8 0
     intTarget s q = some (.claim 0 false) ∧ bestSource s 0 false = some 1023 ∧ 1023 < 1024 ∧ enclOfCore s 0 = q.encl) ∧
    (let s := { interrupts .running [] 0x8F with localPend := [(1, true)] }
     intTarget s (devReqAt 0xF000002010000 8 0) = some (.claim 0 false) ∧ bestSource s 0 false = some 1024 ∧ bestSource base 0 false = none) ∧
    (let s := interrupts .running [(1023, 0xBF00000000000000)] 0
     let q := devReqAt 0xF000002010018 8 1023
     intTarget s q = some (.complete 0 true) ∧ fld q.data 10 0 = 1023 ∧ enclOfCore s 0 = q.encl ∧ q.encl < 16 ∧ flag (srcWord s q.encl 1023) 61 = true ∧
     flag (srcWord s q.encl 1023) 60 = true) ∧
    (intTarget base (devReqAt 0xF0000020801F0 8 0) = some (.stream 31 false) ∧ flag (mGet 0 base.sctl (0 * 32 + 31)) 63 = false) ∧
    ([(0x11, 0xF000002020000), (0x10, 0xF000002010000), (0x11, 0xF000002010018), (0x11, 0xF0000020801F0)].all (fun p =>
      !overtakes (.req p.1 (devReqAt p.2 8 0)) base) = true) := by decide +kernel

/-! ## PCIe and performance monitoring -/

/-- Root complex 1 knows requester 0x10 as enclosure 0's first stream, whose table maps page 1 writable. -/
def pcie (f : State → State) : State :=
  f (setObj 0x3500 32 0x0010 { walkState 0 0 with sroot := [(0, 0x10000)], sctl := [(0, 0x8000000000000000)]
                                                  mem := { (walkState 0 0).mem with bytes := (walkState 0 0).mem.bytes.take 9 ++ [(0x13008, 0xAD), (0x13009, 0x11)] } })

/-- Tag 3 of root complex 1 in use. -/
def tagged (kind : Nat) (late : Bool) : State := { base with ptags := [⟨1, 3, devReqAt 0x9400000000000 8 0, kind, 16000000, late⟩] }

theorem test_meets_PcieCommands :
    ([(2, false), (1, false), (2, true)].all (fun k =>
      decide ((tagged k.1 k.2).ptags.find? (fun t => decide (t.pe = 1 ∧ t.tag = 3)) = some ⟨1, 3, devReqAt 0x9400000000000 8 0, k.1, 16000000, k.2⟩))) = true ∧
    (hartOf (tagged 1 false) (devReqAt 0x9400000000000 8 0).src = some core0 ∧ (tagged 1 false).stamp + 16000000 < 16000000 + fld (sysReg (coreOf (tagged 1 false) 0) 0xC11) 20 0) ∧
    (3 < 4 ∧ portUp (setObj 0xC010 15 0x100 base) 3 3 = true ∧ 191 < 192 ∧ base.posted = [] ∧ objN (pcie id) 0x2030 1 ≠ 4) ∧
    (let s := setObj 0x2030 1 4 base
     objN s 0x2030 1 = 4 ∧ s.pwr.entered = none ∧ requesterOf s 1 0x10 = none) ∧
    (let s := pcie id
     requesterOf s 1 0x10 = some (0, 0) ∧ (dmaResolve 1 0x10 0x1000 4 true (bwAdd 0x9411 1 4 s)).1 = .mem 0 0x1000 ∧
     touchesMsi (0x1000 : Word).toNat 4 = false ∧ Keyed s 0x1000 ∧ Keyed s 0x1003 ∧ (dmaResolve 1 0x10 0x1000 8 false s).1 = .mem 0 0x1000 ∧
     memTag (dmaResolve 1 0x10 0x1000 8 false s).2 0x1000 = .data ∧ wordsOf 0x1000 8 = [0x1000] ∧
     (dmaResolve 1 0x10 0x1000 8 true s).1 = .mem 0 0x1000 ∧ 0x1000 % 8 = 0 ∧ memTag (dmaResolve 1 0x10 0x1000 8 true s).2 0x1000 = .data) ∧
    (let s := pcie (putTag 0x1000 .hndl)
     (dmaResolve 1 0x10 0x1000 8 false s).1 = .mem 0 0x1000 ∧ memTag (dmaResolve 1 0x10 0x1000 8 false s).2 0x1000 = .hndl) ∧
    ((dmaResolve 1 0x11 0x1000 8 false (pcie id)).1 = .unknown ∧ (dmaResolve 1 0x11 0x1000 4 true (bwAdd 0x9411 1 4 (pcie id))).1 = .unknown ∧
     requesterOf (pcie id) 1 0x11 = none) ∧ (0 : Nat) < 16 ∧ 1023 < 1024 ∧ (16 ≠ 4 ∧ 16 ≠ 8) := by
  unfold Keyed; decide +kernel

/-- A counter that counts, two windows of bandwidth, and an enclosure whose snapshots are on at the end of a period. -/
theorem test_meets_PerformanceCommands :
    (let c := coreOf (on (fun c => { c with sys := [(0x457, 0xC00)] })) 0
     flag (sysReg c 0x457) 11 = true ∧ flag (sysReg c 0x457) 12 = false ∧ c.level = .m ∧ flag (sysReg c 0x457) 10 = true ∧ 7 < 8 ∧ 7 % 2 ≠ 0 ∧
     flag (sysReg c 0x450) 11 = false) ∧
    (let c := coreOf (on (fun c => { c with sys := [(0x450, 0xC00)] })) 0
     c.run = .running ∧ c.halted = false ∧ flag (sysReg c 0x450) 11 = true ∧ flag (sysReg c 0x450) 10 = true ∧ flag (sysReg c 0x451) 12 = false) ∧
    (let s := { base with stamp := 2 ^ 24, bw := [(okey 0x9100 0, 7), (okey 0x94FF 255, 1)] }
     s.stamp % 2 ^ s.bwWindow = 0 ∧ mSortedFrom 0 s.bw = true ∧ (∀ x ∈ s.bw, isBwIndex (x.1 / 256) = true) ∧ 255 < 256 ∧
     isBwIndex 0x9500 = false ∧ isBwIndex 0x90FF = false) ∧
    ({ base with stamp := 2 ^ 24 - 1 } : State).stamp % 2 ^ base.bwWindow ≠ 0 ∧
    (let s := { base with stamp := 2 ^ 16, pmuSnap := [(0, BitVec.ofNat 64 (2 ^ 63 + 16 * 2 ^ 52 + 0x8000))] }
     s.stamp % 2 ^ fld (snapOf s 0) 57 52 = 0 ∧ mFind s.pmuSnapNext 0 = none ∧ flag (snapOf s 0) 63 = true ∧ (coresOf s 0)[0]? = some 0 ∧
     fld (snapOf s 0) 51 12 * 4096 + s.stamp / 2 ^ 16 % 2 ^ fld (snapOf s 0) 3 0 * 128 * (coresOf s 0).length + 128 * 0 = 0x8000 ∧
     placeOf s 0 0x8000 = .mem ∧ placeOf s 0 0x807F = .mem ∧ Keyed s 0x8000 ∧ 127 < 128) ∧
    ({ base with stamp := 1 } : State).stamp % 2 ^ fld (snapOf base 0) 57 52 ≠ 0 := by
  unfold Keyed; decide +kernel

/-! ## Events inside cores, engines and routers -/

/-- Core 0 waits for a load of a size that timed out at stamp 9. -/
def loading (size : Nat) : State := { on (fun c => { c with wait := .devLoad 0xF000000000000 363 9 7 ⟨4, size, false, 0xF000000000000⟩ }) with stamp := 9 }

/-- A line of the combining buffer with its first and last octet. -/
def ntLine : NtLine := ⟨0x80, [(0, 1), (63, 2)], [], false⟩

/-- A load in the window, of which an early reading may have been made. -/
def winLoad (pc : Word) (e : Option Early) : WinEntry := { i := .ldD core0 1 2 0, pc := pc, pred := pc + 4, early := e }

/-- Tile 0 with one shadow entry. -/
def shadowed (x : Shadow) : State := { base with tiles := [(0, { shadow := [x] })] }

theorem test_meets_CoreEvents :
    (let e := winLoad 0x1004 (some ⟨0x2000, 8, .l1d⟩)
     let s := on (fun c => { c with win := [winLoad 0x1000 none, e, winLoad 0x1008 none], loadWait := [3] })
     canRun core0 s = true ∧ (coreOf s 0).win = [winLoad 0x1000 none] ++ e :: [winLoad 0x1008 none] ∧ e.early ≠ none ∧ (winLoad 0x1000 none).pc ≠ e.pc ∧
     (∀ v ∈ (coreOf s 0).win, v.pc ≠ 0x2000)) ∧
    (let s := on (fun c => { c with nt := [ntLine] })
     (cpuOf s core0).nt = ntLine :: [] ∧ ntLine.leaving = false ∧ lineQuiet s 0x80 = true ∧ asking s (unitOf s core0) 0x80 = false ∧
     mSortedFrom 0 ntLine.bytes = true ∧ (∀ x ∈ ntLine.bytes, x.1 < 64) ∧ Keyed s (64 * 0x80) ∧ lineQuiet (busyAt s) 0x80 = false) ∧
    (let x : Shadow := ⟨0x80, 0, 0, true, false, none, false, false⟩
     let s := shadowed x
     tileOf s 0 < 216 ∧ coreGate s (tileOf s 0) ≠ 2 ∧ (tileAt s (tileOf s 0)).shadow = [x] ∧ x.line = 0x80 ∧ x.dead = false ∧ x.fromL2 = false ∧
     x.tracked = none ∧ MayAsk 0 0x80 s) ∧
    (let s := on (fun c => { c with iobar := some 0x1000 })
     canRun core0 s = true ∧ (coreOf s 0).mcheck = [] ∧ (coreOf s 0).iobar = some 0x1000 ∧ excTarget (coreOf s 0) { code := 0x0E, tval := 0x1000 } = .m ∧
     flag (sysReg (coreOf s 0) 0xC00) 7 = false) ∧
    (canRun core0 base = true ∧ pendingEvent (coreOf base 0) = none) ∧
    ((coreOf (loading 8) 0).wait = .devLoad 0xF000000000000 363 9 7 ⟨4, 8, false, 0xF000000000000⟩ ∧ 9 ≤ (loading 8).stamp ∧ (loading 8).ptags = [] ∧
     (coreOf (loading 8) 0).ended = []) ∧
    (let s := on (fun c => { c with ended := [(0, 0xF000000000000, 363)] })
     (coreOf s 0).wait = .none ∧ (coreOf s 0).ended = [(s.stamp, 0xF000000000000, 363)] ∧ s.ptags = []) ∧
    (flag (sysReg (coreOf (loading 4) 0) 0xC00) 7 = false ∧ excTarget (coreOf (loading 4) 0) { code := 0x0D, tag := 7, tval := 0xF000000000000 } = .m) ∧
    ({ loading 8 with stamp := 8 } : State).stamp < 9 ∧ (3 < 4 ∧ 191 < 192) ∧
    (let s := on (fun c => { c with devSent := 1, devOut := [(5, 363, 0x1234)] })
     let q : RspFlit := { dest := 0, src := 363, txid := 5 }
     hartOf s q.dest = some core0 ∧ overtakes (.rsp 0x06 q) s = false ∧
     (coreOf s 0).devOut.find? (fun v => decide (v.1 = q.txid ∧ v.2.1 = q.src)) = some (5, 363, 0x1234)) ∧
    ([7, 8].all (fun tx => let f : DatFlit := { dest := 0, src := 363, txid := tx, be := 0xFF }
      decide (hartOf (loading 8) f.dest = some core0 ∧ hartOf base f.dest = some core0) && !overtakes (.dat 7 f) (loading 8) && !overtakes (.dat 7 f) base) = true) ∧
    (coreOf base 0).wait = .none := by
  repeat' apply And.intro
  all_goals first | decide +kernel | (unfold Translates; decide +kernel) | (unfold InMemory; decide +kernel) | (unfold AtHand; decide +kernel) | (unfold mayAccess; decide +kernel) |
    (unfold CleanWords; decide +kernel) | (unfold Owned; decide +kernel) | (unfold MayAsk; decide +kernel) | (unfold NothingDue; decide +kernel) |
    (unfold noLoopEnd; decide +kernel) | (unfold Keyed; decide +kernel)

/-- Core 0 waits for a TLBI's acknowledgements. -/
def shooting (ts : List TlbTarget) : State := on (fun c => { c with wait := .tlbi ts 0 0 0 0 })

/-- `base` with the mesh in a state of its own. -/
def meshed (stamp : Nat) (m : Mesh) : State := { base with stamp := stamp, mesh := m }

/-- Engines with and without another that runs, acknowledgements of a core, a PE and an engine that are awaited, routes written, held, announced,
due and draining. -/
theorem test_meets_EngineAndRouteEvents :
    (prvRuns base 0 = true ∧ engineClass (0x0D : BitVec 8).toNat = true) ∧
    (let s := { base with prv := [(0, { run := .running }), (1, { run := .running })] }
     (1 : Nat) ≠ 0 ∧ prvRuns s 0 = true ∧ prvRuns s 1 = true) ∧
    (let s := { shooting [.core 1, .pe 3] with cores := (shooting [.core 1, .pe 3]).cores ++ [(1, coreOf base 0)] }
     (coreOf s 0).wait = .tlbi [.core 1, .pe 3] 0 0 0 0 ∧ [TlbTarget.core 1, .pe 3].contains (.core 1) = true ∧
     [TlbTarget.core 1, .pe 3].erase (.core 1) ≠ [] ∧ (1 : Nat) ≠ 0 ∧ (coreOf s 1).sb = []) ∧
    (coreOf (shooting [.pe 3]) 0).wait = .tlbi [.pe 3] 0 0 0 0 ∧
    (let s := { shooting [.prv 0, .pe 3] with stamp := 12800 }
     (coreOf s 0).wait = .tlbi [.prv 0, .pe 3] 0 0 0 0 ∧ [TlbTarget.prv 0, .pe 3].contains (.prv 0) = true ∧
     [TlbTarget.prv 0, .pe 3].erase (.prv 0) ≠ [] ∧ prvRuns s 0 = true ∧ 0 + 12800 ≤ s.stamp) ∧
    (∀ j, j < 192 → (coreOf base j).wait = .none) ∧
    (15 < 16 ∧ 63 < 64 ∧ flag (mGet 0 base.ioRoots 15) 2 = false ∧ 64 ≤ 575 ∧ 575 < 576 ∧ flag (mGet 0 base.sctl (575 - 64)) 63 = false) ∧
    (base.mesh.draining = false ∧ base.mesh.switchAt = none ∧ base.mesh.epoch = false ∧ 215 < 216) ∧
    (let m := (meshed 256 { draining := true }).mesh
     m.draining = true ∧ m.heldTab = none ∧ m.latchAt + 256 ≤ (meshed 256 { draining := true }).stamp) ∧
    (base.stamp + 64 ≤ 64 ∧ 63 < base.stamp + 64) ∧
    (let s := meshed 64 { switchAt := some 64, moves := [5] }
     s.mesh.switchAt = some 64 ∧ 64 ≤ s.stamp ∧ 5 ∈ s.mesh.moves) ∧
    (let s := meshed 256 { draining := true, heldTab := some [(5, 7)] }
     s.mesh.draining = true ∧ s.mesh.latchAt + 256 ≤ s.stamp ∧ oldFlits s = 0 ∧ s.mesh.heldTab = some [(5, 7)] ∧ s.mesh.epoch = false) ∧
    (meshed 255 { draining := true }).stamp < (meshed 255 { draining := true }).mesh.latchAt + 256 := by decide +kernel

/-! ## Coherence on the mesh -/

/-- A request of tile `src` for line 0x80, whose home is position 32. -/
def reqAt (src : Nat) : ReqFlit := { dest := 32, src := src, txid := 5, addr := 0x80 }

/-- The home slice of line 0x80 with a filter entry, an LLC sector, transactions and a queue of its own. -/
def homed (sf : List SfEntry) (llc : Option (BitVec 4)) (txns : List Txn) (moving : Bool := false) : State :=
  { base with slices := [(32, {
      sf := sf.map (fun e => (sfSet 0x80, { ways := [(0, e)] })), txns := txns, moving := moving
      llc := (match llc with | none => [] | some d => [(llcSet 0x80, { ways := [(0, ⟨0x20, false, false, 1, d⟩)] })]) })] }

/-- A filter entry with one owner. -/
def loneAt (o : Nat) : SfEntry := ⟨0x80, .x, some o, false, [], [], false⟩

/-- A transaction of line 0x80 with HTXID 7. -/
def txnOf (req : HomeReq) (src : Nat) : Txn := { line := 0x80, req := req, q := reqAt src, htxid := 7 }

/-- A home whose filter set of line 0x80 is full, tile 10 owning each of its lines. -/
def fullSet : State :=
  { base with slices := [(32, { sf := [(sfSet 0x80, { ways := (List.range 16).map (fun k => (k, { loneAt 10 with line := 0x80 + 884736 * (k + 1) })) })] })] }

/-- What the statements about requests ask of a line that is not busy at its home. -/
def quietAt (opc : Nat) (q : ReqFlit) (s : State) : Bool :=
  decide (¬(356 ≤ q.dest ∧ q.dest < 360)) && mayRequest opc q.src && decide (turn opc q s = .take) && !overtakes (.req opc q) s &&
    decide (objN s 0x2030 1 < 4) && !inTransfer s 32 q && decide ((sliceAt s 32).txns = [] ∧ (sliceAt s 32).waitq = [])

/-- Every request of a tile to a home that can serve it; a sender that may not send it; a closed and a moving slice, a busy line, an owner, an
owner beside the requester, valid, dirty and locked sectors, a full set, and a write-back of the owner. -/
theorem test_meets_CoherenceRequests :
    (slicePos (reqAt 1).addr = 32 ∧ (reqAt 1).src < 216) ∧
    ([0x00, 0x01, 0x02, 0x03, 0x04, 0x05, 0x06, 0x07, 0x08, 0x09, 0x0A, 0x0B, 0x0C, 0x0D, 0x0E].all (fun opc =>
      quietAt opc (reqAt 1) (homed [] none []) && quietAt opc (reqAt 1) (homed [] (some 0) []) && quietAt opc (reqAt 1) (homed [] (some 1) []) &&
      quietAt opc (reqAt 1) (homed [loneAt 215] none []) && quietAt opc (reqAt 1) (homed [loneAt 1] none []) && quietAt opc (reqAt 1) fullSet) = true) ∧
    mayRequest 0x00 (reqAt 400).src = false ∧
    (4 ≤ objN (setObj 0x2030 1 4 (homed [] none [])) 0x2030 1 ∧ inTransfer (homed [] none [] true) 32 (reqAt 1) = true) ∧
    (let s := homed [] none [txnOf .rdOnce 2]
     inTransfer s 32 (reqAt 1) = false ∧ lineBusy s 0x80 = true ∧ turn 0x00 (reqAt 1) s = .take ∧ overtakes (.req 0x00 (reqAt 1)) s = false) ∧
    (sfFind (homed [] none []) 0x80 = none ∧ llcValid (homed [] none []) 0x80 = false ∧ entryFree (homed [] none []) 0x80 = true) ∧
    (sfFind (homed [loneAt 215] none []) 0x80 = some (loneAt 215) ∧ 215 < 216 ∧ 215 ≠ (reqAt 1).src) ∧
    (let s := homed [⟨0x80, .o, some 215, false, [1], [], false⟩] none []
     quietAt 0x02 (reqAt 1) s = true ∧ sfFind s 0x80 = some ⟨0x80, .o, some 215, false, [(reqAt 1).src], [], false⟩) ∧
    (llcValid (homed [] (some 0) []) 0x80 = true ∧ llcDirty (homed [] (some 0) []) 0x80 = false ∧ llcDirty (homed [] (some 1) []) 0x80 = true ∧
     sfFind (homed [] (some 1) []) 0x80 = none) ∧
    (let s := { base with slices := [(32, { llc := [(llcSet 0x80, { ways := [(15, ⟨0x20, true, false, 1, 1⟩)] })] })] }
     quietAt 0x0C (reqAt 1) s = true ∧ llcLocked s 0x80 = true ∧ llcDirty s 0x80 = true ∧ sfFind s 0x80 = none) ∧
    (let v := { loneAt 10 with line := 0x80 + 884736 }
     sfFind fullSet 0x80 = none ∧ entryFree fullSet 0x80 = false ∧ mFind (setOf (sliceAt fullSet 32).sf (sfSet 0x80)).ways (sfVictim fullSet 0x80) = some v ∧
     lineBusy fullSet v.line = false) ∧
    (sfFind (homed [loneAt 1] none []) 0x80 = some (loneAt (reqAt 1).src) ∧ (tileAt (homed [loneAt 1] none []) 1).wb = []) ∧
    (let s := homed [loneAt 1] none [txnOf .rdUnique 2]
     inTransfer s 32 (reqAt 1) = false ∧ turn 0x06 (reqAt 1) s = .take ∧ sfFind s 0x80 = some (loneAt 1) ∧ names s (loneAt 1) 1 = true ∧
     (sliceAt s 32).txns.find? (fun t => decide (t.line = 0x80 ∧ t.req ≠ .rdNt)) = some (txnOf .rdUnique 2)) := by decide +kernel

/-- Tile 3 with line 0x80 in a state, or with its write-back under way. -/
def tiled (st : Option L2State) (wb : List WbEntry) : State :=
  { base with tiles := [(3, { l2 := (match st with | none => [] | some x => [(l2Set 0x80, { ways := [(0, ⟨0x80, x⟩)] })]), wb := wb })] }

/-- A snoop of line 0x80 to tile 3. -/
def snpAt : SnpFlit := { dest := 3, src := 32, htxid := 7, addr := 0x80 }

/-- Each state of the line in the L2 and in a shadow entry, a write-back that still has its line's data and one that has none, a closed gate, and
an owned line whose atomic goes first. -/
theorem test_meets_SnoopAnswers :
    ([none, some .m, some .o, some .e, some .s].all (fun st =>
      decide (heldState (tiled st []) 3 0x80 = st ∧ (tileAt (tiled st []) 3).wb.find? (fun w => decide (w.line = 0x80) && !w.comp) = none ∧
        coreGate (tiled st []) 3 ≠ 2 ∧ atomicFirst (tiled st []) 3 0x80 = false) &&
      [0, 1, 2, 3, 4, 5, 6].all (fun opc => !overtakes (.snp opc snpAt) (tiled st []))) = true) ∧
    ([L2State.m, .o, .e, .s].all (fun st => let s := { base with tiles := [(3, { shadow := [⟨0x80, 0, 0, true, true, some st, false, false⟩] })] }
      decide (heldState s 3 0x80 = some st)) = true) ∧
    base.mshr.any (fun m => decide (m.1 / 1024 = 3 ∧ m.2.opc = 2 ∧ m.2.q.addr = 0x80)) = false ∧ 3 < 216 ∧
    ([true, false].all (fun d =>
      decide ((tileAt (tiled none [⟨0x80, d, 5, [], false, false⟩]) 3).wb.find? (fun w => decide (w.line = 0x80) && !w.comp) =
        some ⟨0x80, d, 5, [], false, false⟩))) = true ∧
    coreGate (setObj 0x5020 3 8 (tiled (some .m) [])) 3 = 2 ∧
    (let s := { on (fun c => { ptr 0x2000 c with win := [{ i := .atomicAdd core0 1 2 3 true 0, pc := 0x1000, pred := 0x1004, heldAt := some 0 }] }) with
                tiles := [(0, { l2 := [(l2Set 0x80, { ways := [(0, ⟨0x80, .m⟩)] })] })] }
     (2 : Nat) ≠ 6 ∧ atomicFirst s 0 0x80 = true) := by decide +kernel

/-- An answer of tile 3 to the home of line 0x80. -/
def rspAt : RspFlit := { dest := 32, src := 3, txid := 7 }
def datAt (txid : Nat) (half : Bool) : DatFlit := { dest := 32, src := 3, txid := txid, half := half }

theorem test_meets_HomeAnswers :
    posOf base 32 false = some 32 ∧ ¬(356 ≤ 32 ∧ 32 < 360) ∧ slicePos 0x80 = 32 ∧ ¬(256 ≤ 32 ∧ 32 < 272) ∧ 3 < 216 ∧
    ([0x00, 0x08, 0x09, 0x0A, 0x0B, 0x0C].all (fun opc => !overtakes (.rsp opc rspAt) base) = true) ∧
    ([8, 9, 0xA, 0xB, 0xC, 0xF].all (fun opc => !overtakes (.dat opc (datAt 7 true)) base) = true) ∧
    remoteLine base 0x80 = false ∧ (datAt 7 true).tags ≠ 0x7777 ∧
    (let s := setObj 0x5020 3 8 (homed [] none [{ txnOf .wrPtl 3 with needData := true, q := { reqAt 3 with txid := 7 } }])
     silent s rspAt.src = true) ∧
    (let s := homed [loneAt 3] none [{ txnOf .rdShared 1 with awaiting := [3, 4] }]
     sfFind s 0x80 = some (loneAt rspAt.src)) ∧
    (let s := homed [] none [{ txnOf .rdShared 3 with needAck := true, q := { reqAt 3 with txid := 7 } }]
     (sliceAt s 32).txns = [{ txnOf .rdShared 3 with needAck := true, q := { reqAt 3 with txid := 7 } }] ∧ (sliceAt s 32).waitq = []) ∧
    (let t := { txnOf .rdShared 1 with awaiting := [3, 4] }
     (sliceAt (homed [] none [t]) 32).txns = [t] ∧ t.htxid = rspAt.txid ∧ t.htxid = (datAt 7 true).txid ∧ t.awaiting = [rspAt.src, 4] ∧ t.fetched = [] ∧ t.stale = []) ∧
    (let t := { txnOf .rdShared 1 with awaiting := [3] }
     (sliceAt (homed [] none [t]) 32).txns = [t] ∧ t.awaiting = [rspAt.src] ∧ t.absorbed = [] ∧ t.gotDirty = false ∧ t.needEntry = false ∧ t.needAck = false ∧ t.needComp = false ∧ t.memHere = false) ∧
    (let t := { txnOf .cmoClean 1 with needComp := true, compLast := true }
     (sliceAt (homed [] none [t]) 32).txns = [t] ∧ t.needComp = true) ∧
    (let t := { txnOf .wrBack 3 with absorbed := [(3, 5)] }
     (sliceAt (homed [] none [t]) 32).txns = [t] ∧ t.req = .wrBack ∧ t.absorbed = [((datAt 5 true).src, (datAt 5 true).txid)]) ∧
    (let t := { txnOf .wrPtl 3 with needData := true }
     let s := homed [loneAt 4] none [t]
     (sliceAt s 32).txns = [t] ∧ t.q.src = (datAt 5 true).src ∧ t.q.txid = (datAt 5 true).txid ∧ t.req = .wrPtl ∧ t.dats = [] ∧
     sfFind s t.line = some (loneAt 4)) ∧
    (let t := { txnOf .atomFar 3 with needData := true }
     let s := homed [] none [t]
     (sliceAt s 32).txns = [t] ∧ t.req = .atomFar ∧ t.needAck = false ∧ t.ownerData = false ∧ sfFind s t.line = none ∧ llcValid s t.line = false) ∧
    (let t := { txnOf .rdOnce 3 with memAsked := true }
     (sliceAt (homed [] none [t]) 32).txns = [t] ∧ t.htxid = (datAt 7 true).txid ∧ t.req = .rdOnce ∧ t.memAsked = true ∧ t.needData = false) ∧
    (sliceAt (homed [] none [txnOf .rdNt 3]) 32).txns = [txnOf .rdNt 3] ∧ (txnOf .rdNt 3).req = .rdNt := by decide +kernel

/-- Core 0's tile 0 with a request outstanding. -/
def asked (m : Mshr) : State := { base with mshr := [(mkey 0 5, m)] }

/-- A write that a memory controller holds with its first half. -/
def halfWrite : MemWrite := { mc := 256, src := 32, htxid := 7, line := 0x80, rank := 0, errs := [], half0 := some { dest := 256, src := 32, txid := 7, be := BitVec.allOnes 32 } }

/-- A unit with a request outstanding, at an open and at a closed gate; a write-back, snooped and not; a store and a far atomic that wait for
their data's request; a shadow entry that waits for its data, alive and dead; an engine's request; Retry before and after its 64 mesh cycles; a
clean line's write to memory; and a memory write's second half. -/
theorem test_meets_RequesterAnswers :
    (let s := asked ⟨1, reqAt 0, none⟩
     hartOf s 0 = some core0 ∧ cacheEn s core0 = true ∧ coreGate s 0 ≠ 2 ∧ (tileAt s 0).shadow = [] ∧ (coreOf s 0).sb = [] ∧ l2Room s 0 0x80 = true ∧
     outstanding s 0 5 = some ⟨1, reqAt 0, none⟩ ∧ remoteLine s 0x80 = false ∧ coreGate (setObj 0x5020 0 8 s) 0 = 2 ∧
     [0x01, 0x02, 0x03, 0x04, 0x05].all (fun opc => !overtakes (.rsp opc { dest := 0, src := 32, txid := 5 }) s) = true ∧
     [0, 1, 2, 3, 4, 5, 6, 0xD, 0xE].all (fun opc => !overtakes (.dat opc { dest := 0, src := 32, txid := 5 }) s) = true) ∧
    (let s := { base with mshr := [(mkey 272 5, ⟨5, reqAt 272, none⟩)] }
     hartOf s 272 = some prv0 ∧ outstanding s 272 5 = some ⟨5, reqAt 272, none⟩) ∧
    ([false, true].all (fun dead => let s := { shadowed ⟨0x80, 0, 0, false, false, none, dead, false⟩ with mshr := [(mkey 0 5, ⟨4, reqAt 0, none⟩)] }
     decide ((tileAt s 0).shadow = [⟨0x80, 0, 0, false, false, none, dead, false⟩] ∧ outstanding s 0 5 = some ⟨4, reqAt 0, none⟩)) = true) ∧
    (let s := { base with tiles := [(0, { wb := [⟨0x80, true, 5, [], false, false⟩] })], mshr := [(mkey 0 5, ⟨6, reqAt 0, none⟩)] }
     (tileAt s 0).wb = [⟨0x80, true, 5, [], false, false⟩] ∧ outstanding s 0 5 = some ⟨6, reqAt 0, none⟩ ∧ ¬(256 ≤ 32 ∧ 32 < 272)) ∧
    (let s := { base with tiles := [(0, { wb := [⟨0x80, true, 5, [(32, 5)], false, true⟩] })] }
     (tileAt s 0).wb.map (fun w => (w.snooped, w.comp)) = [([(32, 5)], true)]) ∧
    (let s := { on (fun c => { c with sb := [sbStore false] }) with mshr := [(mkey 0 5, ⟨9, reqAt 0, none⟩)] }
     outstanding s 0 5 = some ⟨9, reqAt 0, none⟩ ∧ (coreOf s 0).nt = [] ∧ (coreOf s 0).sb = sbStore false :: [] ∧ lineOf (sbStore false).pa = (reqAt 0).addr ∧
     (sbStore false).dev = false ∧ (sbStore false).nt = false ∧ (sbStore false).dcz = false ∧ (sbStore false).bytes.length = 8 ∧ (sbStore false).pa % 64 = 0 ∧
     (tileAt s 0).wb = []) ∧
    (let s := setObj 0x5020 0 8 (homed [] none [{ txnOf .wrPtl 0 with needData := true }])
     coreGate s 0 = 2 ∧ owedBy s 0 = [(5, 0x80)]) ∧
    (let q := { reqAt 0 with len := 7, off := 56 }
     let s := { on (fun c => { c with wait := .farAtomic 0x2000 1 true ⟨3, .data⟩ ⟨0, .data⟩ ⟨1, 8, false, 0x2000⟩ }) with mshr := [(mkey 0 5, ⟨0x0A, q, none⟩)] }
     (tileAt s 0).wb = [] ∧ outstanding s 0 5 = some ⟨0x0A, q, none⟩ ∧
     (coreOf s 0).wait = .farAtomic 0x2000 1 true ⟨3, .data⟩ ⟨0, .data⟩ ⟨1, 8, false, 0x2000⟩ ∧ 56 % 8 = 0 ∧ 56 < 64) ∧
    tagOfCode (fld (0 : BitVec 16) (56 % 32 / 8 * 4 + 3) (56 % 32 / 8 * 4)) = .data ∧
    (coreOf (on (fun c => { c with wait := .farAtomic 0x2000 0 true ⟨3, .data⟩ ⟨0, .data⟩ ⟨1, 8, false, 0x2000⟩ })) 0).wait =
      .farAtomic 0x2000 0 true ⟨3, .data⟩ ⟨0, .data⟩ ⟨1, 8, false, 0x2000⟩ ∧
    (256 ≤ 271 ∧ 271 < 272 ∧ posOf base 32 false = some 32 ∧ (sliceAt (homed [] none [txnOf .cmoClean 3]) 32).txns = [txnOf .cmoClean 3]) ∧
    (let s := asked ⟨1, reqAt 0, some 0⟩
     outstanding s 0 5 = some ⟨1, reqAt 0, some 0⟩ ∧ (reqAt 0).src = 0 ∧ (reqAt 0).txid = 5 ∧ s.stamp < 0 + 48 ∧ 0 + 48 ≤ ({ s with stamp := 48 } : State).stamp ∧
     gateDiscards s 0 1 = false ∧ gateDiscards (setObj 0x5020 0 8 s) 0 1 = true) ∧
    (let s := { base with dram := { base.dram with writes := [halfWrite] } }
     s.dram.writes = [halfWrite] ∧ mFind s.mem.under3 0x80 = none ∧ mFind s.mem.under2 0x80 = none ∧ s.mem.noKeys = false ∧
     mGet false s.mem.noKey (64 * 0x80 / 2 ^ 30) = false) := by
  repeat' apply And.intro
  all_goals decide +kernel

/-! ## Laurel and Holly -/

/-- A Holly descriptor: source at 0x4000, DST at 0x6000, 16 octets of AAD at 0x5000, AUX at 0x8000, OUTH at 0xC000. -/
def holD (op alg use key slen dlen alen key2 : Nat) : List Byte :=
  leBytes 1 op ++ leBytes 1 alg ++ leBytes 2 (use * 256) ++ leBytes 4 7 ++ leBytes 8 key ++ leBytes 8 0x4000 ++ leBytes 4 slen ++ leBytes 4 dlen ++ leBytes 8 0x6000 ++
  leBytes 8 0x5000 ++ leBytes 8 16 ++ leBytes 16 0 ++ leBytes 8 0x8000 ++ leBytes 8 alen ++ leBytes 8 0xC000 ++ leBytes 8 key2 ++ leBytes 24 0

def holJ (op alg use key slen dlen alen : Nat) : Job :=
  { unit := 344, qkey := qkeyOf 2 0 0, d := holD op alg use key slen dlen alen 0, hndl := if key = 0 then [] else [1] }

/-- The handle of slot 0. -/
def handle (alg use : Nat) : Nat := use * 2 ^ 32 + alg * 2 ^ 24

/-- One descriptor at work, with one key and room for more. -/
def jobState (j : Job) (alg use : Nat) : State :=
  setObj 0x3600 0 0x100010001 { base with queues := [(j.qkey, { active := true, cqBase := 0x20000, cfg := 0x8000000000000000 })]
                                          accel := { jobs := [j], keys := [(0, ⟨0, 0, alg, use, List.replicate (keyLen alg) 1⟩)], fresh := 1 } }

/-- What `LoneJob` asks but for its keys, which `base` holds everywhere. -/
def lone (j : Job) (s : State) : Bool :=
  decide (s.accel.jobs = [j] ∧ (queueAt s j.qkey).active = true ∧ (queueAt s j.qkey).waiting = [] ∧ cqRoom (queueAt s j.qkey) = true ∧ qkKind j.qkey ≠ 0 ∧
    (∀ q ∈ s.queues, qkKind q.1 = 0 ∨ flag q.2.cfg 63 = false ∨ q.2.sqHead = q.2.sqTail) ∧ s.mem.noKeys = false ∧ s.mem.noKey = [])

theorem keyed_of_lone {j : Job} {s : State} (h : lone j s = true) (pa : Nat) : Keyed s pa := by
  unfold lone at h
  have h := of_decide_eq_true h
  exact ⟨h.2.2.2.2.2.2.1, by rw [h.2.2.2.2.2.2.2]; rfl⟩

theorem loneJob_of_lone {j : Job} {s : State} (h : lone j s = true) : LoneJob j s := by
  have k := keyed_of_lone h
  unfold lone at h
  have h := of_decide_eq_true h
  exact ⟨h.1, h.2.1, h.2.2.1, h.2.2.2.1, h.2.2.2.2.1, h.2.2.2.2.2.1, fun i _ => k _⟩

/-- Spans that a descriptor may read. -/
def mayRead (j : Job) (s : State) (ps : List (Nat × Nat)) : Bool :=
  ps.all (fun p => decide (p.2 = 0 ∨ (p.1 + p.2 - 1 < 2 ^ 52 ∧ (physFault s (jobEncl j) p.1 p.2).isNone = true)))

theorem jobRead_ok {j : Job} {s : State} {pa n : Nat} (h : mayRead j s [(pa, n)] = true) : jobRead j pa n s = (.ok (memBytes s pa n), s) := by
  unfold mayRead at h
  simp only [List.all_cons, List.all_nil, Bool.and_true, decide_eq_true_eq] at h
  unfold jobRead
  split
  · rename_i h0; subst h0; rfl
  · rename_i h0
    rcases h with h | ⟨h1, h3⟩
    · exact absurd h h0
    · rw [if_neg (by omega)]
      unfold physRead
      have h4 : physFault s (jobEncl j) pa n = none := by
        cases h4 : physFault s (jobEncl j) pa n with
        | none => rfl
        | some x => simp [h4] at h3
      simp only [h4]

theorem readSpans_ok {j : Job} {s : State} : ∀ {ps : List (Nat × Nat)}, mayRead j s ps = true →
    readSpans j ps s = (.ok (ps.map (fun p => memBytes s p.1 p.2)), s)
  | [], _ => rfl
  | p :: ps, h => by
    have h1 : mayRead j s [p] = true := by
      unfold mayRead at h ⊢; simp only [List.all_cons, Bool.and_eq_true] at h; simp only [List.all_cons, List.all_nil, Bool.and_true]; exact h.1
    have h2 : mayRead j s ps = true := by unfold mayRead at h ⊢; simp only [List.all_cons, Bool.and_eq_true] at h; exact h.2
    simp only [readSpans, jobRead_ok (pa := p.1) (n := p.2) h1, readSpans_ok h2, List.map_cons]

/-- Spans that a descriptor may write, clear of its completion entry. -/
def mayWrite (j : Job) (s : State) (ps : List (Nat × Nat)) : Bool :=
  ps.all (fun p => jobOwns s j p.1 p.2 && !overlap p (cqSlot s j.qkey, 32))

theorem writable_of {j : Job} {s : State} {p : Nat × Nat} (h : lone j s = true) (w : mayWrite j s [p] = true) : Writable j s p := by
  unfold mayWrite at w
  simp only [List.all_cons, List.all_nil, Bool.and_true, Bool.and_eq_true, Bool.not_eq_true'] at w
  exact ⟨w.1, w.2, fun i _ => keyed_of_lone h _⟩

/-- The key that a descriptor's HANDLE names is slot 0's. -/
def hasKey0 (j : Job) (s : State) (algs : Nat → Bool) (need : Nat) : Bool :=
  match keyAt s j 8 algs need with
  | .ok p => decide (p.1 = 0)
  | .error _ => false

/-- What the AES statement asks of a descriptor: spans read and written, the key, a lone descriptor. -/
def cipherOk (op alg use : Nat) (algs : Nat → Bool) (gcm decr : Bool) : Bool :=
  let j := holJ op 0 0 (handle alg use) 16 16 16
  let s := jobState j alg use
  let srcs := hSrc j :: (if gcm then hAad j :: (if decr then [hAux j 16] else []) else [])
  let dsts := hDst j 16 :: (if gcm ∧ ¬ decr then [hAux j 16] else [])
  lone j s && decide (j.unit = 344 + 0 ∧ dfld j.d 0 1 = op ∧ holBad j true false = false ∧ hAlg j = 0 ∧ leNat ((hIv j).drop 12) = 0 ∧ 16 ≤ dfld j.d 0x18 4 ∧
    spansBad j srcs dsts 16 (if gcm then 16 else 0) = false ∧ overlap (hDst j 16) (hAux j 16) = false) &&
  hasKey0 j s algs use && mayRead j s srcs && mayWrite j s dsts

theorem test_meets_HollyCiphers :
    (cipherOk 1 2 0x80 isGcm true false && cipherOk 2 1 0x40 isGcm true true && cipherOk 3 4 0x80 isXts false false && cipherOk 4 3 0x40 isXts false true &&
      cipherOk 5 2 0x80 isGcm false false) = true ∧
    (let j := holJ 1 5 0 (handle 2 0x80) 16 16 16
     lone j (jobState j 2 0x80) = true ∧ holBad j true false = false ∧ hAlg j ≠ 0) ∧
    (let j := holJ 1 0 0 0 16 16 16
     lone j (jobState j 2 0x80) = true ∧ holBad j true false = false ∧ hAlg j = 0 ∧ isHndl j 8 = false ∧
     spansBad j [hSrc j, hAad j] [hDst j 16, hAux j 16] 16 16 = false) := by decide +kernel

theorem test_meets_HollyResults :
    (let j := holJ 0x08 0x51 0 0 16 48 0
     let s := jobState j 1 0
     lone j s = true ∧ dfld j.d 0 1 = 0x08 ∧ holBad j false false = false ∧ 0x50 ≤ hAlg j ∧ digestLen (hAlg j) ≠ 0 ∧
     spansBad j [hSrc j] [hDst j 48] 48 0 = false ∧ mayRead j s [hSrc j] = true ∧ mayWrite j s [hDst j 48] = true) ∧
    (let j := holJ 0x09 0 0 (handle 0x10 0x20) 16 32 0
     let s := jobState j 0x10 0x20
     lone j s = true ∧ holBad j true false = false ∧ hAlg j = 0 ∧ hasKey0 j s isHmac 0x20 = true ∧ spansBad j [hSrc j] [hDst j 32] 32 0 = false ∧
     mayRead j s [hSrc j] = true ∧ mayWrite j s [hDst j 32] = true) ∧
    (let j := holJ 0x0A 0 0 (handle 0x12 0x10) 16 0 64
     let s := jobState j 0x12 0x10
     lone j s = true ∧ holBad j true false = false ∧ hAlg j = 0 ∧ hasKey0 j s isHmac 0x10 = true ∧ spansBad j [] [] 0 64 = false ∧
     mayRead j s [hSrc j, hAux j 64] = true) ∧
    (let j := holJ 0x10 0 0 (handle 0x20 0x20) 32 0 64
     let s := jobState j 0x20 0x20
     lone j s = true ∧ holBad j true false = false ∧ hasKey0 j s (fun a => isEcc a || isDsa a) 0x20 = true ∧ spansBad j [hSrc j] [hAux j 64] 0 64 = false ∧
     (dfld j.d 2 2).testBit 1 = false ∧ mayRead j s [hSrc j] = true ∧ flag (obj s 0x8300 1) 0 = false ∧ mayWrite j s [hAux j 64] = true) ∧
    (let j := holJ 0x11 0x39 0 0 32 2592 4627
     let s := jobState j 1 0
     lone j s = true ∧ holBad j false false = false ∧ isDsa (hAlg j) = true ∧ pubLen (hAlg j) ≤ dfld j.d 0x1C 4 ∧ sigLen (hAlg j) ≤ dfld j.d 0x50 4 ∧
     (dfld j.d 2 2).testBit 1 = false ∧ mayRead j s [hSrc j, hAux j 4627, hDst j 2592] = true) ∧
    (let j := holJ 0x1D 0 0 (handle 0x20 0x01) 0 0 65
     let s := jobState j 0x20 0x01
     lone j s = true ∧ holBad j true false = false ∧ hasKey0 j s (fun a => isEcc a || isKem a || isDsa a) 0 = true ∧ spansBad j [] [] 0 65 = false ∧
     mayWrite j s [hAux j 65] = true) ∧
    (let j := holJ 0x20 0 0 0 0 65536 0
     let s := jobState j 1 0
     lone j s = true ∧ holBad j false false = false ∧ hAlg j = 0 ∧ 0 < dfld j.d 0x1C 4 ∧ dfld j.d 0x1C 4 ≤ 65536 ∧ flag (obj s 0x8300 1) 0 = false ∧
     mayWrite j s [hDst j 65536] = true) := by decide +kernel

/-- What a new key asks: room in the quota and the store, and outputs that do not meet. -/
def keyRoom (j : Job) (s : State) (dst aux : Nat) : Bool :=
  let o := (dfld j.d 0x58 8, 8)
  decide (keysOf s (jobEncl j) < keyQuota s (jobEncl j) ∧ freeSlot s = some 1 ∧ overlap o (hDst j dst) = false ∧ overlap o (hAux j aux) = false ∧
    overlap (hDst j dst) (hAux j aux) = false ∧ flag (obj s 0x8300 1) 0 = false) && lone j s && mayWrite j s [o, hDst j dst, hAux j aux]

/-- UNWRAP with HANDLE2: the key-encryption key is slot 0's, and a blob of 16 octets stands at 0x4000. -/
def unwrapJ : Job := { unit := 344, qkey := qkeyOf 2 0 0, d := holD 0x1B 0 0 0 64 0 0 (handle 2 0x02), hndl := [12] }
def unwrapS : State := { jobState unwrapJ 2 0x02 with mem := { bytes := [(0x4000, 1), (0x4003, 1), (0x4004, 16)] } }

theorem test_meets_HollyKeys :
    (let j := holJ 0x12 0 0x08 (handle 0x20 0x01) 0 0 65
     let s := jobState j 0x20 0x01
     holBad j true false = false ∧ hAlg j = 0 ∧ hasKey0 j s isEcc 0x01 = true ∧ useOk 0x40 (hUse j) = true ∧
     spansBad j [hAux j 65] [(0xC000, 8)] 0 65 = false ∧ mayRead j s [hAux j 65] = true ∧ keyRoom j s 0 0 = true) ∧
    (let j := holJ 0x13 0x31 0x08 0 0 1568 1568
     let s := jobState j 1 0
     holBad j false false = false ∧ isKem (hAlg j) = true ∧ useOk 0x40 (hUse j) = true ∧
     spansBad j [hAux j 1568] [hDst j 1568, (0xC000, 8)] 1568 1568 = false ∧ mayRead j s [hAux j 1568] = true ∧ keyRoom j s 1568 0 = true) ∧
    (let j := holJ 0x14 0 0x08 (handle 0x30 0x01) 0 0 1088
     let s := jobState j 0x30 0x01
     holBad j true false = false ∧ hAlg j = 0 ∧ useOk 0x40 (hUse j) = true ∧ hasKey0 j s isKem 0x01 = true ∧
     spansBad j [hAux j 1088] [(0xC000, 8)] 0 1088 = false ∧ mayRead j s [hAux j 1088] = true ∧ keyRoom j s 0 0 = true) ∧
    (let j := holJ 0x18 0x20 0x20 0 0 0 65
     let s := jobState j 1 0
     holBad j false false = false ∧ keyLen (hAlg j) ≠ 0 ∧ useOk (hAlg j) (hUse j) = true ∧ spansBad j [] [] 0 65 = false ∧ keyRoom j s 0 65 = true) ∧
    (let j := holJ 0x19 2 0x80 (handle 0x41 0x08) 0 0 256
     let s := jobState j 0x41 0x08
     holBad j true false = false ∧ keyLen (hAlg j) ≠ 0 ∧ useOk (hAlg j) (hUse j) = true ∧ 0 < dfld j.d 0x50 4 ∧ dfld j.d 0x50 4 ≤ 256 ∧
     overlap (hAux j 256) (0xC000, 8) = false ∧ hasKey0 j s (fun x => decide (x = 0x40) || decide (x = 0x41) || decide (x = 0x11)) 0x08 = true ∧
     mayRead j s [hAux j 256] = true ∧ keyRoom j s 0 0 = true) ∧
    (let j := holJ 0x1A 0 0 (handle 1 0x80) 0 64 0
     let s := jobState j 1 0x80
     holBad j true true = false ∧ hAlg j = 0 ∧ hasKey0 j s (fun _ => true) 0 = true ∧ isHndl j 0x60 = false ∧ spansBad j [] [] 64 0 = false ∧
     lone j s = true ∧ flag (obj s 0x8300 1) 0 = false ∧ mayWrite j s [hDst j 64] = true) ∧
    (let b := memBytes unwrapS 0x4000 64
     holBad unwrapJ false true = false ∧ hAlg unwrapJ = 0 ∧ overlap (hSrc unwrapJ) (0xC000, 8) = false ∧
     (match kekOf unwrapS unwrapJ 0x02 with | .ok c => decide (c.length = 32) | .error _ => false) = true ∧ mayRead unwrapJ unwrapS [hSrc unwrapJ] = true ∧
     48 + dfld b 4 4 ≤ dfld unwrapJ.d 0x18 4 ∧ 16 ≤ dfld b 4 4 ∧ dfld b 4 4 ≤ 64 ∧ dfld b 0 1 = 1 ∧ dfld b 3 1 = (isHndl unwrapJ 0x60).toNat ∧
     zeros b 0x14 12 = true ∧ keyRoom unwrapJ unwrapS 0 0 = true) ∧
    (let j := holJ 0x1C 0 0 (handle 1 0x80) 0 0 0
     let s := jobState j 1 0x80
     lone j s = true ∧ holBad j true false = false ∧ hAlg j = 0 ∧ hasKey0 j s (fun _ => true) 0 = true) := by decide +kernel

/-- A Laurel descriptor: 16 octets at 0x4000, a segment list at 0x7000 with one segment of 4096 octets at 0x10000. -/
def lauJ (op depth : Nat) : Job :=
  { unit := 336, qkey := qkeyOf 1 0 0
    d := leBytes 1 op ++ leBytes 1 0 ++ leBytes 2 1 ++ leBytes 2 7 ++ leBytes 2 depth ++ leBytes 8 0x4000 ++ leBytes 8 16 ++ leBytes 8 0x7000 ++ leBytes 8 1 ++
      leBytes 24 0 }

def lauS (j : Job) : State := { jobState j 1 0 with mem := { bytes := [(0x7002, 1), (0x7009, 0x10)] } }

theorem test_meets_LaurelResults :
    ([(1, 16), (2, 0)].all (fun p =>
      let j := lauJ p.1 p.2
      let s := lauS j
      lone j s && decide (dfld j.d 0 1 = p.1 ∧ lauBad j.d = false ∧ dfld j.d 0x30 8 = 0 ∧ dfld j.d 0x28 8 = 0) &&
      (match lauSegs j s with | (.ok g, _) => decide (g = [(0x10000, 4096)]) | _ => false) && mayRead j s [(0x7000, 16), (0x4000, 16)] &&
      mayWrite j s [(0x10000, 0), (0x10000, 4096)])) = true ∧
    ([1, 2].all (fun op => let j := lauJ op 1
      lone j (lauS j) && lauBad j.d)) = true := by decide +kernel

theorem test_meets_AcceleratorEvents :
    (336 ≤ 351 ∧ 351 < 352 ∧ accelRuns base 351 = true ∧ jobsOf base 351 = [] ∧ base.queues = []) ∧
    (let j := holJ 0x20 0 0 0 0 16 0
     let s := jobState j 1 0
     lone j s = true ∧ s.accel.jobs = [j] ∧ j.unit = 344 ∧ accelRuns s 344 = true ∧ 344 + 7 ≠ 344 ∧ accelRuns s (344 + 7) = true) ∧
    accelRuns { base with accel := { failed := [(336, true)] } } 336 = false ∧
    (let s := { base with accel := { drbg := [(7 * 32 + 16, ⟨65536, 0⟩)] } }
     7 < 8 ∧ 16 ≤ 16 ∧ 65536 ≤ (mGet {} s.accel.drbg (7 * 32 + 16)).count ∧ flag (obj s 0x8300 1) 0 = false) ∧
    (let s := setObj 0x8300 1 3 { base with accel := { drbg := [(0, ⟨65536, 0⟩)] } }
     65536 ≤ (mGet {} s.accel.drbg (0 * 32 + 0)).count ∧ flag (obj s 0x8300 1) 0 = true ∧ flag (obj s 0x8300 1) 1 = true) ∧ 1 < 2 := by decide +kernel

/-! ## Memory controllers, errors and spares -/

/-- A memory request of line 0x80, whose home is position 32, at channel 0 with or without the line's tag line. -/
def memReqAt : SnpFlit := { dest := 256, src := 32, htxid := 7, addr := 0x80 }
def cached (hit : Bool) : State :=
  { base with dram := { base.dram with tagc := if hit then [(tagLineOf 0x80 % 512, { ways := [(0, ⟨tagLineOf 0x80, false⟩)] })] else [] } }

/-- A burst with one device in error in two code words, and one with two devices in error in one. -/
def loneErr : BurstErr := { errs := [(9, 0x0105)] }
def badErr : BurstErr := { errs := [(0, 1), (1, 1)] }

/-- Channel 0 has one DIMM and channel 1 two. -/
def dimmed : State := let s := cached true; { s with dram := { s.dram with dimms := [[{}], [{}, {}]] } }

theorem test_meets_MemoryControllers :
    256 ≤ memReqAt.dest ∧ memReqAt.dest < 272 ∧ (256 ≤ 271 ∧ 271 < 272) ∧ tagHit (cached true) 0 (tagLineOf memReqAt.addr) = true ∧
    tagHit (cached false) 0 (tagLineOf memReqAt.addr) = false ∧ markOf (cached true) 0 loneErr.rank (subchOf 0x80) = none ∧ 9 < 10 ∧
    0x0105 % 2 ^ 64 ≠ 0 ∧ wordsInError loneErr.errs < 4 ∧ 4 ≤ wordsInError [(9, 0x01020304)] ∧
    decodeBurst (markOf (cached true) 0 badErr.rank (subchOf 0x80)) badErr.errs = .bad ∧ objN (cached true) 0x4100 1 ≠ 0 ∧
    decodeBurst (markOf (cached true) (chanOf (64 * 0x80)) badErr.rank (subchOf 0x80)) badErr.errs = .bad ∧ 15 < 16 ∧
    ([8, 9, 0xA].all (fun opc => !overtakes (.snp opc memReqAt) (cached true)) = true) ∧ Keyed (cached true) (64 * 0x80) ∧
    1 < (dimmed.dram.dimms.getD 1 []).length ∧ (dimmed.dram.dimms.getD 0 []).length ≤ 1 ∧
    (let s := setObj 0x4100 1 0 (cached true)
     scrubOn { s with dram := { s.dram with scrubHours := [(chanOf (64 * 0x80), 0)] } } (chanOf (64 * 0x80)) = false) ∧ scrubOn (cached true) (chanOf (64 * 0x80)) = true ∧
    flag (obj (setObj 0x4409 3 0x8000000000000000 base) 0x4409 3) 63 = true ∧ flag (obj base 0x4400 3) 63 = false := by
  unfold Keyed; decide +kernel

/-- A record that waits at the RAS controller. -/
def recOf' (cls encl core : Nat) : ErrRec := { stamp := 5, useq := 0, unit := 9, cls := cls, sev := 2, encl := encl, core := core }
def waitingRec (cls encl core : Nat) : State := { base with ras := { inbox := [recOf' cls encl core] } }

/-- Records with and without a ring, a ring that is off and one with room, and values for the ring's registers. -/
theorem test_meets_ErrorRecords :
    ((waitingRec 0x0105 0x10 0xFF).ras.inbox[0]? = some (recOf' 0x0105 0x10 0xFF) ∧ (recOf' 0x0105 0x10 0xFF).cls ≠ 0x0102 ∧
      (recOf' 0x0105 0x10 0xFF).cls ≠ 0x0106 ∧ 16 ≤ (recOf' 0x0105 0x10 0xFF).encl ∧ (recOf' 0x0105 0x10 0xFF).rings = []) ∧
    (fltBase (obj (waitingRec 0x0105 0 0xFF) 0x5100 0) = 0 ∧ (recOf' 0x0105 0 0xFF).encl = 0) ∧
    (let s := setObj 0x5110 0 1 (setObj 0x5120 0 63 (setObj 0x5100 0 0x10000 (waitingRec 0x0105 0 0xFF)))
     let tail := fld (obj s 0x5120 0) 15 0
     let n := fltSize (obj s 0x5100 0)
     fltBase (obj s 0x5100 0) ≠ 0 ∧ fltOwned s 0 (obj s 0x5100 0) = true ∧ (tail + 1) % n ≠ objN s 0x5110 0 ∧ n ≤ 65536 ∧ tail < n ∧
       (fltBase (obj s 0x5100 0) + 64 * tail) % 64 = 0 ∧ Keyed s (fltBase (obj s 0x5100 0) + 64 * tail)) ∧
    ((waitingRec 0x0106 0x10 191).ras.inbox[0]? = some (recOf' 0x0106 0x10 191) ∧ (recOf' 0x0106 0x10 191).core < 192) ∧
    base.ras.inbox[0]? = none ∧ (15 < 16 ∧ fld (0x1000A : Word) 3 0 ≤ 10 ∧ 11 ≤ fld (0x1000B : Word) 3 0 ∧ fltBase 0x1000A ≠ 0 ∧
      fltOwned base 15 0x1000A = false ∧ fltOwned base 0 0x1000A = true ∧ fltBase 0xA = 0 ∧ fltOwned base 0 0x3BFFFFFFF000 = false) ∧
    (let s := setObj 0x5120 0 5 (setObj 0x5100 0 0x10000 (setObj 0x5110 0 2 base))
     let n := fltSize (obj s 0x5100 0)
     fld (obj s 0x5120 0) 15 0 = 5 ∧ objN s 0x5110 0 = 2 ∧ 5 < n ∧ (5 + n - 2) % n ≤ (5 + n - 2) % n ∧
       (5 + n - 2) % n < (6 % 2 ^ 16 + n - 2) % n ∧ n ≤ 2 ^ 15 % 2 ^ 16) := by
  unfold Keyed; decide +kernel

/-- `base` with core 0's failover at a step, tile 1 a spare, and a save slot. -/
def failing (step : Nat) (spare : Bool) : State :=
  let s := { on (fun c => { c with run := .failover, pc := 0x1000 }) with
    ras := { fail := [(0, { old := 0, trigger := 1, at_ := 0, step := step, spare := if 1 < step then some 1 else none, was := .running })], saves := [(0, { pc := 0x2000 })] } }
  setObj 0x5030 0 0xFE (if spare then setObj 0x5020 1 1 s else s)

/-- What the failover's record says at a step. -/
def failAt (step : Nat) : Failover := { old := 0, trigger := 1, at_ := 0, step := step, spare := if 1 < step then some 1 else none, was := .running }

/-- A tile's CORE gate draining or closed. -/
def gated (g : Word) (d : Nat) : State := setObj 0x5020 0 (g * 4) { base with stamp := 160000, ras := { drainAt := [(0, d)] } }

/-- A tile on which no core but core 0 stands. -/
theorem carries_of (t : Nat) (s : State) (hs : ∀ m, m < 192 → tileOf s m = t → m = 0 ∧ (coreOf s m).run ≠ .unpowered) :
    ∀ m k, m < 192 → k < 192 → tileOf s m = t → tileOf s k = t → (m = k ∧ (coreOf s m).run ≠ .unpowered) := by
  intro m k hm hk ht hu
  have a := hs m hm ht
  have b := hs k hk hu
  exact ⟨a.1.trans b.1.symm, a.2⟩

theorem test_carries : (∀ m, m < 192 → tileOf base m = 0 → m = 0 ∧ (coreOf base m).run ≠ .unpowered) ∧
    (∀ m, m < 192 → tileOf base m = 215 → m = 0 ∧ (coreOf base m).run ≠ .unpowered) ∧
    (∀ m, m < 192 → tileOf (gated 1 0) m = 0 → m = 0 ∧ (coreOf (gated 1 0) m).run ≠ .unpowered) := by decide +kernel

/-- The core at work with its retries at each count, its failover at each step, and gates open, draining and closed. -/
theorem test_meets_CoreErrors :
    (let s := on (fun c => { c with retries := 1, sb := [sbStore false] })
     (coreOf s 0).run = .running ∧ (coreOf s 0).retries < 2 ∧ (coreOf s 0).sb = sbStore false :: [] ∧ mFind s.ras.fail 0 = none ∧ tileOf s 0 < 216) ∧
    (let s := { on (fun c => { c with retries := 2, hourRetries := 64, hourWin := 1 }) with stamp := hourTicks - 1 }
     2 ≤ (coreOf s 0).retries ∧ 64 ≤ (coreOf s 0).hourRetries ∧ (coreOf s 0).hourWin = s.stamp / hourTicks + 1 ∧ mFind s.ras.fail 0 = none ∧
     tileOf s 0 < 216 ∧ (coreOf s 0).run = .running) ∧
    (mFind (failing 1 true).ras.fail 0 = some (failAt 1) ∧ (failAt 1).old < 216 ∧ pickSpare (failing 1 true) 0 = some 1 ∧
     outranked (failing 1 true) 0 (failAt 1) = false ∧ outranked (failing 1 false) 0 (failAt 1) = false ∧
     pickSpare (failing 1 false) 0 = none ∧ mFind (failing 1 false).ras.fail 0 = some (failAt 1) ∧ (coreOf (failing 1 false) 0).run = .failover) ∧
    ([2, 3, 4, 5].all (fun k => decide (mFind (failing k true).ras.fail 0 = some (failAt k) ∧ (failAt k).step = k)) = true) ∧
    ((coreOf (failing 2 true) 0).wait = .none ∧ (coreOf (failing 2 true) 0).devSent = 0 ∧ (failAt 5).spare = some 1 ∧ (failAt 5).reset = false ∧
     (coreOf (failing 5 true) 0).run ≠ .lost ∧ (coreOf (failing 5 true) 0).run ≠ .unpowered) ∧
    ((fenceAll core0 (failing 2 true)).2 = true ∧ (coreOf (fenceAll core0 (failing 2 true)).1 0).devSent = 0) ∧
    (let s := modCpu core0 (fun c => { c with devSent := 1 }) (failing 2 true)
     mFind s.ras.fail 0 = some (failAt 2) ∧ (coreOf s 0).devSent ≠ 0) ∧
    (let s := { failing 3 true with tiles := [(0, { l2 := [(l2Set 0x80, { ways := [(0, ⟨0x80, .s⟩)] })], l1i := [(1, {})] })] }
     mFind s.ras.fail 0 = some (failAt 3) ∧ (tileAt s 0).l2 = [(l2Set 0x80, { ways := [(0, ⟨0x80, .s⟩)] })] ∧ lineQuiet s 0x80 = true ∧
     asking s (failAt 3).old 0x80 = false ∧ (tileAt (failing 3 true) 0).l2 = []) ∧
    (tileDrained (failing 4 true) (failAt 4).old = true ∧
     tileDrained { failing 4 true with tiles := [(0, { l2 := [(l2Set 0x80, { ways := [(0, ⟨0x80, .s⟩)] })] })] } (failAt 4).old = false) ∧
    (let s := setObj 0x5020 2 1 (setObj 0x5020 1 2 (failing 5 true))
     mFind s.ras.fail 0 = some (failAt 5) ∧ fld (obj s 0x5020 1) 1 0 ≠ 1 ∧ pickSpare s (failAt 5).old = some 2 ∧ fld (obj (failing 5 true) 0x5020 1) 1 0 = 1) ∧
    (coreGate base 0 ≠ 2 ∧ coreGate base 215 ≠ 2 ∧ 0 = tileOf base 0 ∧ mFind base.ras.drainAt 0 = none) ∧
    (coreGate (gated 1 0) 0 = 1 ∧ mFind (gated 1 0).ras.drainAt 0 = some 0 ∧ 0 + 160000 ≤ (gated 1 0).stamp) ∧
    (coreGate (gated 2 0) 0 = 2 ∧ mGet 0 (gated 2 0).ras.hour (0 * 65536 + 0x0404) ≠ (gated 2 0).stamp / hourTicks + 1) := by decide +kernel

/-- `base` with the RAS controller in a state of its own. -/
def rased (r : Ras) : State := { base with ras := r }

theorem test_meets_ArraysAndSpares :
    (arrayExists base 3 215 = true ∧ arrayExists base 6 0 = true ∧ arrayExists base 0 0 = false ∧ mGet 0 base.ras.hour (arrayUnit base 3 215 * 65536 + 0x0201) ≠ base.stamp / hourTicks + 1 ∧
     mGet 0 (rased { hour := [(arrayUnit base 3 215 * 65536 + 0x0201, 1)] }).ras.hour (arrayUnit base 3 215 * 65536 + 0x0201) = base.stamp / hourTicks + 1) ∧
    ([14, 15].all (fun k => let s := rased { arrWin := [(215, 1)], arrCnt := [(215, k)] }
      decide (mGet 0 s.ras.arrWin 215 = s.stamp / hourTicks + 1 ∧ mGet 0 s.ras.arrCnt 215 = k ∧ (sliceAt s 215).moving = false)) = true) ∧
    (mFind base.mem.under2 0x80 = none ∧ Keyed base (64 * 0x80) ∧ 215 < 216) ∧
    (215 ∉ base.ras.subst ∧ (sliceAt base 215).moving = false ∧ base.mesh.movingPos = none) ∧
    (let s := rased { subst := [215] }
     215 ∈ s.ras.subst ∧ s.mesh.movingPos = none ∧ s.mesh.draining = false ∧ s.mesh.switchAt = none ∧ (pickSlice s 215).isSome = true) ∧
    (let s := meshed 0 { movingPos := some (215, 7) }
     s.mesh.movingPos = some (215, 7) ∧ s.mesh.switchAt = none ∧ s.mesh.draining = false ∧ (sliceAt s 215).txns = [] ∧ (sliceAt s 215).llc = [] ∧ 7 < 8) ∧
    (let s := { base with slices := [(215, { moving := true })] }
     s.mesh.movingPos = none ∧ (sliceAt s 215).moving = true ∧ transferReady s 215 = true ∧ (sliceAt s 215).llc = []) ∧
    (let s := { base with slices := [(215, { moving := true, txns := [txnOf .rdOnce 2] })] }
     transferReady s 215 = false ∧ (sliceAt base 215).moving = false) ∧
    (let f : DatFlit := { dest := 5, src := 32, txid := 7, data := 9 }
     let g : Flit := { msg := .dat 0 f, at_ := 0, pos := some (215, 3), wait := 1 }
     let s := { base with net := [g] }
     s.net = [g] ∧ g.pos = some (215, 3) ∧ (msgEnds g.msg).2.2 = 3 ∧ g.msg = .dat 0 f ∧ (∀ y ∈ s.net, y.msg ≠ .dat 1 f)) ∧
    (2 < 3 ∧ 3 ≤ 3 ∧ mGet 0 base.mesh.wires (215 * 64 + 3 * 8 + 3) < 2 ∧
     2 ≤ mGet 0 (meshed 0 { wires := [(215 * 64 + 3 * 8 + 3, 2)] }).mesh.wires (215 * 64 + 3 * 8 + 3)) := by
  unfold Keyed; decide +kernel

/-! ## Channels, ports and sessions -/

/-- An access of core 0 to the doorbell window of enclosure 0. -/
def dbAt (off : Nat) (v : Word) : ReqFlit := { dest := 366, src := 0, encl := 0, addr := (0xF000000000000 + off) / 64, off := off % 64, len := 7, data := v }

/-- Enclosure 0's Privet queue 0, with one queue slot of each kind, eight subchannels, and subchannel 0 of engine 0. -/
def ring (q : Queue) (f : State → State) : State :=
  f (setObj 0x6200 0 0 (setObj 0x3400 0 0x800000000 (setObj 0x3600 0 0x100010001 { base with queues := [(0, q)] })))

/-- A queue at work: rings of 16 entries at 0x30000 and 0x20000, signalling source 1. -/
def live : Queue := { active := true, sqBase := 0x30000, cqBase := 0x20000, cfg := 0x8000000000010000 }

/-- The octets of a START of subchannel 0 with TAG 9 and program 0x40000, at 0x30000. -/
def startBytes : List Host.Cell := [(0x30000, 0x11), (0x30002, 9), (0x3000A, 4)]

/-- Negotiated features; a channel control that offers an acceptable set. -/
def ok : Chn := { ok := true, drvLo := 1 }

/-- An access of core 0 to the BAR of enclosure 0's first stream behind root complex 1. -/
def windowed (op : Nat) : ReqFlit := { devReqAt 0x9400000100000 8 0x1234 with dest := 353, atop := op, expd := 0x77 }

/-- That BAR, with its port down. -/
def barred : State := pcie (fun s => { s with bars := [⟨1, 3, 0x10, 0x100000, 0x10000⟩] })

/-- An access through the window with all 768 tags of the root complex taken. -/
theorem test_meets_DoorbellAccesses_no_tag :
    (let q := windowed 0
     let s := { barred with ptags := (List.range 768).map (fun t => ⟨1, t, q, 4, 0, false⟩) }
     isCfg (reqPa q) = false ∧ barOf s 1 q = some ⟨1, 3, 0x10, 0x100000, 0x10000⟩ ∧ freeTag s 1 = none) := by
  refine ⟨by decide +kernel, by decide +kernel, ?_⟩
  simp only [freeTag, List.find?_eq_none, List.mem_range, List.any_map, Bool.not_eq_true, Bool.not_eq_false', List.any_eq_true]
  exact fun t ht => ⟨t, ht, by simp⟩

theorem test_meets_DoorbellAccesses :
    (let s := ring live id
     dbTarget s (dbAt 0x10 0) = some (.queue 0 0x10) ∧ dbTarget s (dbAt 0x40 0) = none ∧ dbTarget s (dbAt 0x80030 0) = some (.chn 0x30) ∧
     flag (queueAt s 0).cfg 63 = true ∧ flag (queueAt base 0).cfg 63 = false ∧ dbTarget (ring {} id) (dbAt 0x10 0x40) = some (.queue 0 0x10) ∧
     (dbAt 0x10 0).dest = 366) ∧
    (let q := windowed 0
     352 ≤ q.dest ∧ q.dest < 356 ∧ isCfg (reqPa q) = false ∧ barOf barred 1 q = some ⟨1, 3, 0x10, 0x100000, 0x10000⟩ ∧ hasAtomicOp 0 = true ∧
     hasAtomicOp 9 = true ∧ freeTag barred 1 = some 0 ∧ portUp barred 1 3 = false ∧ portUp (setObj 0xC010 7 0x100 barred) 1 3 = true) ∧
    ((domainOff (setObj 0x5020 0 8 base) 0 = true ∧ domainOff base 0 = false) ∧
     [0x10, 0x11, 0x12, 0x14].all (fun opc => !overtakes (.req opc (windowed 0)) barred && !overtakes (.req opc (dbAt 0x10 0)) (ring live id)) = true) ∧
    (mboxTarget base { dest := 361, src := 0, encl := 0, addr := (0xF000001000000 + 0x8) / 64, off := 8, len := 7 } = some (0, 8)) ∧
    (let s := interrupts .running [] 0x9F00
     intPending s 0 true = true ∧ (coreOf s 0).run = .running ∧ s.yew.stopped = false ∧ enclOfCore s 0 ∉ s.yew.held ∧ enclOfCore s 0 ∉ s.yew.refused) ∧
    (let s := ring {} id
     dbTarget s (dbAt 0 1) = some (.queue 0 0) ∧ qkKind 0 = 0 ∧ flag (queueAt s 0).cfg 63 = false ∧ (queueAt s 0).active = false ∧
     dbTarget s (dbAt 8 1) = some (.queue 0 8)) ∧
    (let s := ring live id
     dbTarget s (dbAt 0 16) = some (.queue 0 0) ∧ sqLen live ≤ (16 : Word).toNat % 2 ^ 16 ∧ (queueAt s 0).sqHead = (queueAt s 0).sqTail) ∧
    (let s := ring live (fun s => { s with mem := { bytes := startBytes } })
     let b := queueAt s 0
     let pa := fld b.sqBase 51 6 * 64 + 64 * b.sqHead
     dbTarget s (dbAt 0 1) = some (.queue 0 0) ∧ b.sqHead ≠ 1 ∧ 1 = (b.sqHead + 1) % sqLen b ∧ placeOf s (qkEncl 0) pa = .mem ∧
     physFault s (qkEncl 0) pa 64 = none ∧ engineRecords s (subEngine s (dfld (memBytes s pa 64) 4 4 % 2 ^ 18)) < 4096 ∧
     entryBad s (qkEncl 0) (memBytes s pa 64) = false) ∧
    (let s := ring { live with cqTail := 3, cqHead := 1 } id
     let b := queueAt s 0
     let ahead (x : Nat) := (x + cqLen b - b.cqHead) % cqLen b
     dbTarget s (dbAt 8 3) = some (.queue 0 8) ∧ b.active = true ∧ b.waiting = [] ∧ 3 < cqLen b ∧ ahead 3 ≤ ahead b.cqTail ∧ ahead b.cqTail < ahead 4 ∧
     cqLen b ≤ 16 ∧ s.subs = []) ∧
    (let v : Word := 0x8000000000000C0C
     let s := ring { live with active := false, cfg := 0 } (fun s => { s with chn := [(0, ok)] })
     let b := queueAt s 0
     dbTarget s (dbAt 0x20 v) = some (.queue 0 0x20) ∧ flag v 63 = true ∧ flag b.cfg 63 = false ∧ b.active = false ∧ (chnOf s (qkEncl 0)).ok = true ∧
     fld v 3 0 ≤ 12 ∧ fld v 11 8 ≤ 12 ∧ 12 < fld (0x800000000000000D : Word) 3 0 ∧ 12 < fld (0x8000000000000D00 : Word) 11 8) ∧
    (let v : Word := 0x8000000000000000
     let s := ring { live with active := false, cfg := 0 } (fun s => { s with chn := [(0, ok)] })
     let b := queueAt s 0
     let sq := fld b.sqBase 51 6 * 64
     let cq := fld b.cqBase 51 6 * 64
     sq % (2 ^ (fld v 3 0 + 4) * entrySize 0) = 0 ∧ sq / 2 ^ 30 = (sq + 2 ^ (fld v 3 0 + 4) * entrySize 0 - 1) / 2 ^ 30 ∧ placeOf s (qkEncl 0) sq = .mem ∧
     cq % (2 ^ (fld v 11 8 + 4) * 32) = 0 ∧ cq / 2 ^ 30 = (cq + 2 ^ (fld v 11 8 + 4) * 32 - 1) / 2 ^ 30 ∧ placeOf s (qkEncl 0) cq = .mem) ∧
    (let s := ring live id
     dbTarget s (dbAt 0x20 0) = some (.queue 0 0x20) ∧ flag (0 : Word) 63 = false ∧ flag (queueAt s 0).cfg 63 = true) ∧
    (let s := ring { live with active := false } (fun s => { s with chn := [(0, { drvLo := 1 })] })
     let c := chnOf s 0
     dbTarget s (dbAt 0x80020 1) = some (.chn 0x20) ∧ c.ok = false ∧ flag c.drvLo 0 = true ∧ c.drvLo &&& ~~~(0x37F : Word) = 0 ∧ c.drvHi = 0 ∧
     (∀ x ∈ s.queues, qkEncl x.1 = 0 → x.2.active = false) ∧ flag (chnOf base 0).drvLo 0 = false ∧ flag (1 : Word) 0 = true ∧ flag (1 : Word) 1 = false ∧
     flag (2 : Word) 0 = false ∧ flag (2 : Word) 1 = true ∧ dbTarget s (dbAt 0x80020 2) = some (.chn 0x20)) ∧
    (∀ x ∈ base.queues, qkKind x.1 ≠ 0 ∨ flag x.2.cfg 63 = false ∨ x.2.sqHead = x.2.sqTail) ∧
    (let s := { ring { live with unsig := 1, cfg := 0x8000000103FF0000 } id with stamp := 64 }
     let b := queueAt s (qkeyOf 0 0 0)
     b.unsig ≠ 0 ∧ fld b.cfg 47 32 ≠ 0 ∧ b.unsigAt + 64 * fld b.cfg 47 32 ≤ s.stamp ∧ fld b.cfg 31 16 ≠ 0 ∧ fld b.cfg 31 16 < 1024 ∧
     63 < b.unsigAt + 64 * fld b.cfg 47 32) := by
  repeat' apply And.intro
  all_goals decide +kernel

/-- An operation of subchannel 0, and its command without data at far endpoint 5. -/
def op : JRec := { stamp := 0, opid := 1, subch := 0, encl := 0, qkey := 0, tag := 9, path := 0, engine := 0, ckpt := 0x1000, deadline := 100, pathmask := 0 }
def sentCmd : ChCmd := { kind := 3, len := 0, drop := false, segs := [], next := 0x1020, port := 0, node := 5, tmo := 0, timer := some 0 }

/-- A description with one path: port 0 and far endpoint 5. -/
def desc0 : Desc := ⟨[0], [5], 0⟩

/-- Subchannel 0 with records and waiting entries, port 0 up, and the page of 0x1000 mapped for enclosure 0's operations, where `prog` stands. -/
def chan (b : Sub) (js : List JRec) (ws : List SubEntry) (prog : List Host.Cell) : State :=
  setObj 0x7000 1 9 (setObj 0x7020 0 0x102 (ring live (fun s =>
    { s with subs := [(0, b)], journal := js, work := ws, dram := { s.dram with csaGiB := 1 }, ioRoots := [(0, 0x10000)]
             mem := { bytes := prog ++ (walkState 0 0).mem.bytes.take 9 ++ [(0x13008, 0xAD), (0x13009, 0x11)] } })))

/-- An entry of queue 0 for subchannel 0. -/
def entry (op : Nat) : SubEntry := { qkey := 0, encl := 0, op := op, tag := 9, subch := 0, program := 0x1000, tmo := 0, pathmask := 0 }

/-- A subchannel whose operation is `op`, with its description. -/
def busy (st : SubState) : Sub := { st := st, desc := some desc0, opid := some 1 }

theorem test_meets_ChannelOperations :
    (let s := chan { desc := some desc0 } [] [entry 0x11] []
     s.work.find? (fun x => decide (x.subch = 0)) = some (entry 0x11) ∧ (entry 0x11).op = 0x11 ∧ (entry 0x11).subch = 0 ∧ (subAt s 0).opid = none ∧
     prvRuns s (subEngine s 0) = true ∧ choosePath s (subEngine s 0) 0 (entry 0x11).pathmask 0 = some 0) ∧
    (let s := chan (busy .active) [op] [entry 0x11] []
     (subAt s 0).opid = some 1 ∧ recOf s 1 = some op ∧ op.subch = 0 ∧ op.fin = none ∧ CompReady 0 s) ∧
    ([0x12, 0x22, 0x31].all (fun k => let s := chan { desc := some desc0 } [] [entry k] []
      decide (s.work.find? (fun x => decide (x.subch = 0)) = some (entry k) ∧ (subAt s 0).opid = none ∧ (subAt s 0).st = .idle)) = true) ∧
    (let s := chan (busy .suspended) [{ op with st := .suspended }] [entry 0x12] []
     recOf s 1 = some { op with st := .suspended } ∧ op.failed.testBit op.path = false ∧ CompReady (entry 0x12).qkey s) ∧
    (recOf (chan (busy .active) [{ op with cmd := some sentCmd }] [entry 0x21] []) 1 = some { op with cmd := some sentCmd } ∧
     (subAt (chan (busy .active) [op] [entry 0x21] []) 0).halts = []) ∧
    (let s := chan {} [] [entry 0x22] []
     let pa := fld (chnOf s 0).sdt 51 6 * 64 + 64 * (0 - subBase s 0)
     s.dram.csaGiB ≠ 0 ∧ placeOf s 0 pa = .mem ∧ physFault s 0 pa 64 = none ∧ descOf s 0 (memBytes s pa 64) = none) ∧
    (let s := setObj 0x3300 0 0 (chan {} [] [entry 0x22] [(0, 1), (1, 1)])
     let pa := fld (chnOf s 0).sdt 51 6 * 64 + 64 * (0 - subBase s 0)
     physFault s 0 pa 64 = none ∧ placeOf s 0 pa = .mem ∧ (descOf s 0 (memBytes s pa 64)).isSome = true) ∧
    ([0x0F, 3, 7].all (fun k => let s := chan (busy .active) [op] [] [(0x1000, k)]
      let r := readDesc op.engine op.encl op.ckpt (engineWorks op.engine op.encl s)
      decide (recOf s 1 = some op ∧ op.st = .active ∧ op.fin = none ∧ op.cancel = none ∧ op.cmd = none ∧ (subAt s op.subch).st = .active ∧
        executing s op = true ∧ prvRuns s op.engine = true ∧ r.1 = .ok 0x1000 (k :: List.replicate 31 0) ∧ recOf r.2 1 = some op ∧
        stopOk (k :: List.replicate 31 0) = decide (k = 0x0F) ∧ cmdOk r.2 op.encl (k :: List.replicate 31 0) = decide (k = 3))) = true) ∧
    (let s := { chan (busy .active) [op] [] [(0x1000, 3)] with sess := [(skey 0 5, { st := .open, crC := 1 })] }
     let t := (readDesc op.engine op.encl op.ckpt (engineWorks op.engine op.encl s)).2
     recPort t op = 0 ∧ recNode t op = 5 ∧ nodeOk t = true ∧ portLink t 0 = true ∧ (sessAt t (skey 0 5)).st = .open ∧ (sessAt t (skey 0 5)).resend = [] ∧
     (sessAt t (skey 0 5)).queue = [] ∧ hasCredit (sessAt t (skey 0 5)) false = true) ∧
    (sentCmd.timer = some 0 ∧ ({ sentCmd with timer := none } : ChCmd).timer = none ∧ ({ op with fin := some 0 } : JRec).fin.isSome = true) ∧
    (let s := setObj 0x7020 0 0 (chan (busy .active) [op] [] [])
     recOf s 1 = some op ∧ op.failed.testBit op.path = false ∧ portLink s (recPort s op) = false ∧ ({ op with failed := 1 } : JRec).failed.testBit op.path = true) ∧
    (op.deadline ≤ ({ chan (busy .active) [op] [] [] with stamp := 100 } : State).stamp ∧ (chan (busy .active) [op] [] []).stamp < op.deadline) ∧
    (mGet 0 (subAt (chan { failedAt := [(7, 5)] } [] [] []) 0).failedAt 7 ≤ ({ base with stamp := 5 } : State).stamp) ∧
    (prvRuns base 0 = true ∧ prvRuns base 1 = false) ∧
    ([RecState.suspended, .active].all (fun st => let s := { chan (busy .active) [{ op with engine := 1, st := st }] [] [] with prv := [(0, { run := .running }), (1, { run := .running, failed := true })] }
      decide (prvRuns s 0 = true ∧ s.journal = [{ op with engine := 1, st := st }] ∧ (prvOf s 1).failed = true ∧ subEngine s 0 = 0 ∧ (subAt s 0).st = .active)) = true) ∧
    (let r := { op with fin := some 255, nodes := [5] }
     let s := chan (busy .active) [r] [] []
     (subAt s 0).opid = some 1 ∧ recOf s 1 = some r ∧ r.subch = 0 ∧ r.cancel = none ∧ (subAt s 0).notice = none ∧ (subAt s 0).halts = [] ∧ r.clears = [] ∧
     CompReady r.qkey s) ∧
    (let r := { op with cancel := some ⟨0, 0, 5, 7⟩ }
     recOf ({ chan (busy .active) [r] [] [] with stamp := 7 } : State) 1 = some r ∧ 7 ≤ ({ chan (busy .active) [r] [] [] with stamp := 7 } : State).stamp ∧
     (chan (busy .active) [r] [] []).stamp < 7) := by
  unfold CompReady Keyed
  repeat' apply And.intro
  all_goals decide +kernel

/-- Port 0 owned by enclosure 0 with its link up, and one session with far endpoint 5 whose SESS is 1. -/
def ported (q : Sess) : State :=
  setObj 0x7000 1 9 (setObj 0x7020 0 0x102 (setObj 0x3300 0 0 { base with sess := [(skey 0 5, { q with sess := 1, mac := 3 })] }))

/-- A frame of a TYPE from that endpoint. -/
def frameOf (ty : Nat) : QctFrame := { dmac := 4, smac := 3, etype := 0x88B5, ty := ty, ackv := true, src := 5, dst := 9, sess := 1, txc := 1, opid := 1 }

/-- A frame sent and not acknowledged. -/
def sentFrame : TxFrame := { ty := 3, seq := 5, n := 1 }

/-- The session with a buffer behind each class, beside an operation whose command is in progress. -/
def answering (c : ChCmd) : State :=
  { chan (busy .active) [{ op with cmd := some c }] [] [] with sess := [(skey 0 5, { st := .open, sess := 1, mac := 3, bufC := [false], bufD := [true] })] }

/-- A READ of 4 octets to I/O virtual address 0x1000, and what both ask of a response. -/
def readCmd : ChCmd := { sentCmd with kind := 2, segs := [⟨0x1000, 4⟩] }

theorem test_meets_PortsAndSessions :
    (portCfgOk base 0 0x104 = true ∧ fld (0x104 : Word) 3 0 < 5 ∧ base.sess = [] ∧ base.journal = [] ∧ 144 ≤ 144 ∧ 8 ≤ fld (8 : Word) 3 0 ∧
     fld (0xC4 : Word) 11 6 < 4) ∧
    (let s := setObj 0x7010 140 0x402 (setObj 0x3300 140 0 base)
     flag (obj s 0x7020 140) 8 = false ∧ objN s 0x3300 140 ≠ 0xFF ∧ speedOk (portMode s 140) 2 = true ∧ bondMode (portMode s 140) = false ∧ 140 % 4 = 0) ∧
    (let s := ported { st := .open }
     flag (obj s 0x7020 0) 8 = true ∧ s.sess = [(skey 0 5, sessAt s (skey 0 5))] ∧ s.journal = [] ∧ (sessAt s (skey 0 5)).st = .open ∧
     flag (obj s 0x7020 1) 8 = false) ∧
    ([{ frameOf 8 with fcsOk := false }, { frameOf 8 with etype := 0 }, { frameOf 8 with ver := 2 }].map (frameCheck (ported { st := .open }) 0) =
      [some 0, some 1, some 2]) ∧
    (let s := ported { st := .opening }
     frameCheck s 0 (frameOf 2) = none ∧ objN s 0x2030 1 ≠ 4 ∧ (sessAt s (skey 0 5)).st = .opening ∧ (sessAt s (skey 0 5)).resend = [] ∧ (sessAt s (skey 0 5)).queue = []) ∧
    (let s := setObj 0x2030 1 4 base
     objN s 0x2030 1 = 4 ∧ s.pwr.entered = none ∧ frameCheck s 0 (frameOf 2) ≠ none) ∧
    (let s := ported { st := .open, unacked := [sentFrame] }
     GoodFrame 0 (frameOf 8) s ∧ GoodFrame 0 (frameOf 9) s ∧ ackFrames 5 [sentFrame] = [sentFrame] ∧
     hasCredit { sessAt s (skey 0 5) with crC := 1, crD := 0 } (dataClass sentFrame.ty) = true ∧ frameCheck s 0 (frameOf 0xB) = none) ∧
    (let s := answering sentCmd
     GoodFrame 0 (frameOf 5) s ∧ (frameOf 5).seq = (sessAt s (skey 0 5)).rxSeq ∧ (frameOf 5).txc = ((sessAt s (skey 0 5)).rxcC + 1) % 2 ^ 16 ∧
     (sessAt s (skey 0 5)).rxcC < 2 ^ 16 ∧ (sessAt s (skey 0 5)).bufC ≠ [] ∧ (sessAt s (skey 0 5)).toAck < 15 ∧
     recOf s 1 = some { op with cmd := some sentCmd } ∧ (prvOf s 0).failed = false ∧ (subAt s 0).st = .active ∧
     (sentCmd.segs.map (·.len)).foldl (· + ·) 0 = (frameOf 5).count) ∧
    (let s := answering readCmd
     let f := { frameOf 4 with payload := [1, 2, 3, 4] }
     GoodFrame 0 f s ∧ f.txc = ((sessAt s (skey 0 5)).rxcD + 1) % 2 ^ 16 ∧ (sessAt s (skey 0 5)).bufD ≠ [] ∧ readCmd.kind = 2 ∧ readCmd.drop = false ∧
     f.payload.length ≤ 4 ∧ (spanXlate 0 0 true 0x1000 4 s).1 = some [(0x1000, 4, 0x1000)] ∧ placeOf s 0 0x1000 = .mem ∧
     (∀ j, j < f.payload.length → Keyed s (0x1000 + j))) ∧
    (let s := ported { st := .open, bufD := [true], rxSeq := 0 }
     GoodFrame 0 { frameOf 4 with seq := 2 ^ 32 - 1 } s ∧ 2 ^ 32 - 1 = ((sessAt s (skey 0 5)).rxSeq + 2 ^ 32 - 1) % 2 ^ 32) ∧
    (GoodFrame 0 (frameOf 4) (ported { st := .open }) ∧ (sessAt (ported { st := .open }) (skey 0 5)).bufD = []) ∧
    (let s := ported { st := .opening, sends := 8 }
     (sessAt s (skey 0 5)).st = .opening ∧ (sessAt s (skey 0 5)).sentAt ≤ s.stamp ∧ 7 ≤ qctMax s ∧ qctMax s < 8) ∧
    (let s := { ported { st := .opening, sentAt := 1 } with stamp := 0 }
     s.stamp < (sessAt s (skey 0 5)).sentAt) ∧
    (let s := ported { st := .open, unacked := [sentFrame], crC := 1 }
     (sessAt s (skey 0 5)).unacked = [sentFrame] ∧ sentFrame.at_ ≤ s.stamp ∧ sentFrame.n ≤ qctMax s ∧ hasCredit (sessAt s (skey 0 5)) false = true ∧
     (sessAt s (skey 0 5)).probing = false ∧ (sessAt s (skey 0 5)).heardAt ≤ s.stamp ∧ s.stamp < (sessAt (ported { heardAt := 1 }) (skey 0 5)).heardAt) ∧
    (let s := { ported { st := .open, toAck := 1 } with stamp := 1600 }
     (sessAt s (skey 0 5)).toAck ≠ 0 ∧ (sessAt s (skey 0 5)).toAckAt + 1600 ≤ s.stamp ∧ 1599 < (sessAt s (skey 0 5)).toAckAt + 1600) ∧
    (∀ j ∈ portSessions (ported { st := .open }) 0, (sessAt (ported { st := .open }) j).wantC = false ∧ (sessAt (ported { st := .open }) j).wantD = false) ∧
    ((0xFFFFFFFF : Word).toNat < 2 ^ 32 ∧ 0x600 ≤ (0x600 : Word).toNat ∧ (0xFFFF : Word).toNat < 2 ^ 16 ∧ (0x5FF : Word).toNat < 0x600) ∧
    (let s := { ported { st := .open, crC := 1 } with ends := [(1, 5)] }
     (sessAt s (skey 0 5)).st = .open ∧ (sessAt s (skey 0 5)).resend = [] ∧ (sessAt s (skey 0 5)).queue = [] ∧ hasCredit (sessAt s (skey 0 5)) false = true ∧
     s.ends = [(1, 5)] ∧ (sessAt base (skey 0 5)).st ≠ .open) := by
  unfold GoodFrame LoneSess Keyed
  repeat' apply And.intro
  all_goals decide +kernel

/-! ## Boot, enclosures and management -/

/-- `base` at a boot stage, with a root hash of Rinistea. -/
def booting (k : Nat) : State := { base with phase := .boot k, yew := { rootHash := [(0, [1])] } }

/-- An accepted firmware image and one whose signature fails. -/
def goodFw : FwImage := { sig := { mldsa := true, ecdsa := true, keyHash := [1] }, secver := 0 }
def badFw : FwImage := { goodFw with sig := { mldsa := true, ecdsa := false, keyHash := [1] } }

/-- A layout without records, under an owner key enrolled in slot 3. -/
def goodLayout : Layout := { sig := { mldsa := true, ecdsa := true, keyHash := [2] } }
def enrolled (k : Nat) : State := setObj 0x3031 1 8 { booting k with octets := [(okey 0x3030 3, [2])] }

/-- The record of enclosure 0, which boots here. -/
def rec0 : List Byte := [0, 0, 1]

theorem test_meets_PowerUpAndReset :
    (State.reset.phase = .off ∧ ({} : Straps).socket % 8 < 5 ∧ State.reset.yew.lifecycle ≠ 3) ∧
    (let s := { powered { fell := true } with phase := .stopped }
     s.phase = .stopped ∧ s.pwr.fell = true ∧ s.yew.lifecycle ≠ 3) ∧
    (let s := { base with phase := .stopped }
     s.phase = .stopped ∧ s.pwr.fell = false) ∧
    (base.phase = .running ∧ ({ base with phase := .failed 3 } : State).phase = .failed 3 ∧ (booting 8).phase = .boot 8 ∧ 8 < 16) ∧
    (let s := booting 3
     ({ s with stamp := stageTicks s 3 + 1 } : State).stageAt + stageTicks { s with stamp := stageTicks s 3 + 1 } 3 < stageTicks s 3 + 1 ∧
     s.stamp ≤ s.stageAt + stageTicks s 3) ∧
    ([1, 2, 3, 4, 5, 6, 7].all (fun k => decide ((booting k).phase = .boot k ∧ (booting k).yew.lifecycle ≠ 3 ∧ ({ upto := k + 1 } : BootIn).upto = k + 1)) = true) ∧
    (fwCheck (booting 2) (some goodFw) = 0 ∧ fwCheck (booting 2) (some badFw) ≠ 0 ∧ fwCheck (booting 2) none ≠ 0 ∧ fwCheck (booting 2) (some badFw) < 256) ∧
    (let ds : List (List Dimm) := List.replicate 16 [{}]
     trainFails { dimms := ds } = none ∧ ({ dimms := ds } : BootIn).bistFail = none ∧ trainFails { dimms := ds, trainFail := some (15, 1) } = some (15, 1) ∧
     ({ speed := 5600 } : Dimm) ∈ ((ds.set 15 [{ speed := 5600 }]).getD 15 []) ∧ ({ speed := 5600 } : Dimm).speed ≠ 6400) ∧
    (pickLayout { layA := some goodLayout } (enrolled 4) = some (false, goodLayout) ∧
     pickLayout { layB := some goodLayout } (enrolled 4) = some (true, goodLayout) ∧ pickLayout {} (enrolled 4) = none) ∧
    (flag (obj (booting 5) 0x8300 1) 0 = false ∧ flag (obj (setObj 0x8300 1 3 (booting 5)) 0x8300 1) 0 = true ∧
     flag (obj (setObj 0x8300 1 3 (booting 5)) 0x8300 1) 1 = true) ∧
    ((booting 6).dram.capGiB ≤ 512 ∧ 239 < 15 * (booting 6).dram.capGiB ∧
     protBit { booting 6 with yew := { recs := [[0, 0, 1, 0, 1]] } } 0x04 24 0 < 16) ∧
    (({ booting 7 with yew := { stopped := true } } : State).yew.stopped = true) ∧
    (let s := { booting 8 with yew := { recs := [rec0] } }
     s.phase = .boot 8 ∧ s.yew.recs = [rec0] ∧ lrEncl rec0 < 16 ∧ bootsHere s (lrEncl rec0) = true ∧ s.yew.stopped = false ∧ lrEncl rec0 ∉ s.yew.held ∧
     lrEncl rec0 ∉ s.yew.refused ∧ (coresOf s (lrEncl rec0)).head? = some 0) := by
  repeat' apply And.intro
  all_goals decide +kernel

/-- `base` with Yew's state: enclosure 0's record, and sessions. -/
def owned (y : Yew) : State := { base with yew := { y with recs := [[0, 0, 3]] } }
def d1 (f : Cpu → Cpu) : State := { on f with yew := { sess := [⟨1, 0, 100⟩], recs := [[0, 0, 3]] } }
def d2 : State := { base with yew := { sess := [⟨2, 0xFF, 2 ^ 64⟩] } }

theorem test_meets_EnclosuresAndDebug :
    (let s := owned {}
     enclKnown s 0 = true ∧ s.yew.held.contains 0 = false ∧ s.yew.stopped = false ∧ recOfEncl s 0 = some [0, 0, 3] ∧ flag (obj s 0x8300 1) 0 = false ∧
     (∀ j ∈ coresOf s 0, (coreOf s j).run ≠ .lost ∧ (coreOf s j).run ≠ .unpowered ∧ (coreOf s j).run ≠ .failover) ∧ (coresOf s 0).head? = some 0 ∧
     s.yew.refused = [] ∧ bootsHere s 0 = true ∧ bootsHere { base with yew := { recs := [[0, 0, 2]] } } 0 = false ∧ enclKnown s 15 = false) ∧
    (let s := owned {}
     fld (obj s 0x3000 2) 9 8 ≠ 2 ∧ s.yew.lifecycle ≠ 3 ∧ fld (obj (setObj 0x3000 2 0x200 s) 0x3000 2) 9 8 = 2 ∧ (List.replicate 32 (0 : Byte)).length = 32 ∧ enclKnown s 0 = true) ∧
    ((owned { nonce := some ([1], 0) }).yew.nonce = some ([1], 0) ∧ 0 + 960000000 ≤ ({ base with stamp := 960000000 } : State).stamp ∧
     ({ base with stamp := 959999999 } : State).stamp < 0 + 960000000) ∧
    ((d1 id).yew.sess[0]? = some ⟨1, 0, 100⟩ ∧ 100 ≤ ({ d1 id with stamp := 100 } : State).stamp ∧ (d1 id).stamp < 100) ∧
    (base.yew.lifecycle < 3 ∧ (owned { lifecycle := 3 }).yew.lifecycle = 3) ∧
    (dbgCore (d1 id) 0 = true ∧ dbgCore d2 191 = true ∧ (coreOf (d1 (fun c => { c with halted := true })) 0).halted = true ∧ 31 % 32 ≠ 0) ∧
    (dbgMem (d1 id) 0x1000 16 = true ∧ dbgMem d2 0x1000 16 = true ∧ (∀ j, j < 16 → Keyed d2 (0x1000 + j)) ∧ (0, 0x1000) ∉ (d1 id).yew.breaks ∧
     base.yew.sess = []) := by
  unfold Keyed
  repeat' apply And.intro
  all_goals decide +kernel

/-- `base` as node 1 of its CAN ports. -/
def node (f : State → State) : State := f (setObj 0xA000 1 1 base)

/-- A request frame. -/
def ask (port idx sub flags : Nat) (data : List Byte) : SdpFrame := { port := port, flags := flags, tid := 9, idx := idx, sub := sub, len := data.length, data := data }

/-- What every request statement asks of its frame. -/
def fresh (s : State) (f : SdpFrame) : Bool :=
  decide (hears s f.port = true ∧ badFrame f = false ∧ f.flags.testBit 6 = false ∧ f.data.length = f.len) && s.sdp.saved.all (fun r => decide (r.tid ≠ f.tid))

/-- A token for a D1 session of enclosure 0 against nonce 1, and a state in which it passes. -/
def token1 : SvcIn := { tok := { level := 1, encl := 0, nonce := [1], length := 5, sig := { mldsa := true, ecdsa := true, keyHash := [] } } }
def nonced (ss : List DbgSess) : State := node (fun s => { s with yew := { nonce := some ([1], 0), recs := [[0, 0, 3]], sess := ss } })

/-- Owner key [2] in slot 0, and a request it signed. -/
def enrolledOwner : State := node (fun s => setObj 0x3031 1 1 { s with octets := [(okey 0x3030 0, [2])] })
def owner1 : SvcIn := { own := { sig := { mldsa := true, ecdsa := true, keyHash := [2] }, slot := 0, hash := List.replicate 48 7 } }

/-- A request staged on CAN-A, and a mailbox that handles a request. -/
def staging : State := { node id with sdp := { staged := [(0, ⟨2, 9, 0x2010, 1, [1], 0⟩)] } }
def mailed (w : Word) : State := { base with sdp := { mbox := [(15, { cmd := some w })] } }

theorem test_meets_ManagementServices :
    ([ask 0 0x1100 1 0 [], ask 1 0x1200 1 0 [], ask 0 0x2010 1 0 (leBytes 2 300), ask 0 0x2010 1 0 (leBytes 2 1050), ask 0 0x2010 1 0 (leBytes 2 1051),
      ask 0 0x3030 0 0 (List.replicate 48 1), ask 1 0x2010 1 32 [0, 0, 0, 0], ask 0 0x2010 1 0 (List.replicate 56 0), ask 0 0x1100 1 0 [0, 0, 0, 0, 8]].all (fun f =>
      fresh (node id) f) = true) ∧
    hears base 0 = false ∧ (fld (obj (node id) 0x3031 1) 3 0 = 0 ∧ fld (obj enrolledOwner 0x3031 1) 3 0 ≠ 0) ∧
    (fresh enrolledOwner (ask 0 0 0 0 []) = true ∧ ownerSigned enrolledOwner owner1.own.sig = true ∧ ownerSigned (node id) owner1.own.sig = false ∧
     owner1.own.hash.length = 48 ∧ flag (obj enrolledOwner 0x3031 1) 1 = false ∧ (∀ j, j < 1 → flag (obj enrolledOwner 0x3031 1) j = true) ∧ owner1.own.slot < 4) ∧
    flag (obj (node id) 0x8300 1) 0 = false ∧
    (fresh (nonced []) (ask 0 0 0 0 []) = true ∧ token1.tok.level = 1 ∧ tokenCheck (nonced []) token1.tok = 0 ∧ tokenCheck (node id) token1.tok ≠ 0 ∧
     rootLocked (nonced []) = true ∧ fresh (nonced [⟨1, 0, 50⟩]) (ask 0 0 0 0 []) = true ∧ tokenCheck (nonced [⟨1, 0, 50⟩]) token1.tok = 0 ∧
     (nonced [⟨1, 0, 50⟩]).yew.sess = [⟨1, token1.tok.encl, 50⟩]) ∧
    (let s := node (fun s => { s with yew := { resetAt := [(0, 0)] } })
     fresh s (ask 0 0 0 0 []) = true ∧ mFind s.yew.resetAt token1.tok.encl = some s.stamp) ∧
    (fresh staging (ask 0 0x2010 1 0 [1, 0, 0, 0, 5]) = true ∧ mFind staging.sdp.staged 0 = some ⟨2, 9, 0x2010, 1, [1], 0⟩ ∧
     leNat ([1, 0, 0, 0] : List Byte) = 1 ∧ mFind (node id).sdp.staged 0 = none ∧ 0 + 1600000000 ≤ ({ staging with stamp := 1600000000 } : State).stamp ∧
     staging.stamp < 0 + 1600000000) ∧
    (rootLocked (node id) = true ∧ objN (node id) 0xA020 1 ≠ 0 ∧ (node id).sdp.hbAt + objN (node id) 0xA020 1 * 1600000 ≤ ({ node id with stamp := 160000000 } : State).stamp ∧
     (node id).stamp < (node id).sdp.hbAt + objN (node id) 0xA020 1 * 1600000 ∧ objN (node id) 0xA000 1 ≠ 0 ∧ flag (obj (node id) 0xA010 0) 15 = false ∧
     flag (obj (node id) 0xA010 1) 15 = false ∧ objN (setObj 0xA020 1 0 base) 0xA020 1 = 0) ∧
    ([(0x0100000011000100, 1, 0x1100, 1), (0x0100000020100100, 1, 0x2010, 1), (0x0208000051000000, 2, 0x5100, 0), (0x0202000020100100, 2, 0x2010, 1),
      (0x0300000011000100, 3, 0x1100, 1)].all (fun (p : Word × Nat × Nat × Nat) =>
      decide ((mboxAt (mailed p.1) 15).cmd = some p.1 ∧ fld p.1 63 56 = p.2.1 ∧ fld p.1 31 16 = p.2.2.1 ∧ fld p.1 15 8 = p.2.2.2)) = true) ∧
    (fld (0x0208000051000000 : Word) 55 48 = 8 ∧ fld (0x0202000020100100 : Word) 55 48 = 2 ∧ leNat ((mboxData (mboxAt (mailed 0) 15)).take 8) = 0 ∧
     (mboxAt base 15).cmd = none) := by
  repeat' apply And.intro
  all_goals decide +kernel

end Sys2Proof.Tests
end

section
/-! SUPPORT. Fields of a word, what a hart's own work can touch, and the combining buffer that leaves. -/

namespace Sys2Proof.Machine
open Sys2Proof

/-! ## Fields of a word (00 R6) -/

/-- A word with a field replaced, bit by bit. -/
theorem flag_setFld (w : Word) {hi lo : Nat} (v j : Nat) (hl : lo ≤ hi) (hh : hi < 64) :
    flag (setFld w hi lo v) j = if lo ≤ j ∧ j ≤ hi then v.testBit (j - lo) else flag w j := by
  obtain ⟨k, rfl⟩ : ∃ k, hi = lo + k := ⟨hi - lo, by omega⟩
  unfold flag setFld nbits
  have hw := w.isLt
  generalize w.toNat = n at hw ⊢
  rw [show lo + k + 1 - lo = k + 1 by omega, BitVec.toNat_ofNat, Nat.testBit_mod_two_pow, Nat.shiftRight_eq_div_pow,
    Nat.shiftLeft_eq, Nat.shiftLeft_eq]
  have hv : (v % 2 ^ (k + 1)).testBit = fun i => decide (i < k + 1) && v.testBit i := by
    funext i; exact Nat.testBit_mod_two_pow v (k + 1) i
  have hvlt : v % 2 ^ (k + 1) < 2 ^ (k + 1) := Nat.mod_lt _ (Nat.two_pow_pos _)
  generalize v % 2 ^ (k + 1) = x at hv hvlt ⊢
  -- the part above the field, the field, the part below it
  have hn : n = 2 ^ lo * (2 ^ (k + 1) * (n / 2 ^ lo / 2 ^ (k + 1)) + n / 2 ^ lo % 2 ^ (k + 1)) + n % 2 ^ lo := by
    rw [Nat.div_add_mod, Nat.div_add_mod]
  have hb : n / 2 ^ lo % 2 ^ (k + 1) < 2 ^ (k + 1) := Nat.mod_lt _ (Nat.two_pow_pos _)
  have hc : n % 2 ^ lo < 2 ^ lo := Nat.mod_lt _ (Nat.two_pow_pos lo)
  generalize n / 2 ^ lo / 2 ^ (k + 1) = a at hn
  generalize n / 2 ^ lo % 2 ^ (k + 1) = b at hn hb ⊢
  generalize n % 2 ^ lo = c at hn hc
  have hs : n - b * 2 ^ lo + x * 2 ^ lo = 2 ^ lo * (2 ^ (k + 1) * a + x) + c := by
    rw [hn, Nat.mul_add, Nat.mul_add, Nat.mul_comm b, Nat.mul_comm x]; omega
  have hj : 64 ≤ j → n.testBit j = false := fun h =>
    Nat.testBit_lt_two_pow (Nat.lt_of_lt_of_le hw (Nat.pow_le_pow_right (by decide) h))
  rw [hs, Nat.testBit_two_pow_mul_add _ hc, Nat.testBit_two_pow_mul_add _ hvlt, hv]
  by_cases h1 : j < lo
  · rw [if_pos h1, if_neg (by omega), hn, Nat.testBit_two_pow_mul_add _ hc, if_pos h1]
    simp [show j < 64 by omega]
  · by_cases h2 : j - lo < k + 1
    · simp [h1, h2, show j < 64 by omega, show lo ≤ j ∧ j ≤ lo + k by omega]
    · rw [if_neg h1, if_neg h2, if_neg (by omega)]
      by_cases h3 : j < 64
      · rw [hn, Nat.testBit_two_pow_mul_add _ hc, if_neg h1, Nat.testBit_two_pow_mul_add _ hb, if_neg h2]
        simp [h3]
      · simp [h3, hj (by omega)]

/-- A word with one bit replaced, bit by bit. -/
theorem flag_setBit (w : Word) {i : Nat} (b : Bool) (j : Nat) (hi : i < 64) : flag (setBit w i b) j = if j = i then b else flag w j := by
  unfold setBit
  rw [flag_setFld w _ j (Nat.le_refl i) hi]
  by_cases h : j = i
  · subst h; cases b <;> simp
  · rw [if_neg (by omega), if_neg h]

/-- A field depends on its own bits alone. -/
theorem fld_congr {u w : Word} {hi lo : Nat} (h : ∀ j, lo ≤ j → j ≤ hi → flag u j = flag w j) : fld u hi lo = fld w hi lo := by
  unfold fld nbits
  refine Nat.eq_of_testBit_eq fun i => ?_
  rw [Nat.testBit_mod_two_pow, Nat.testBit_mod_two_pow, Nat.testBit_shiftRight, Nat.testBit_shiftRight]
  by_cases hi' : i < hi + 1 - lo
  · rw [show u.toNat.testBit (lo + i) = w.toNat.testBit (lo + i) from h (lo + i) (by omega) (by omega)]
  · simp [hi']

/-- A field of one bit is that bit. -/
theorem testBit_fld_one (w : Word) (i : Nat) : (fld w i i).testBit 0 = flag w i := by
  unfold fld nbits flag
  rw [Nat.testBit_mod_two_pow, Nat.testBit_shiftRight]
  simp

/-! ## What a hart's own work can touch -/

/-- `t` differs from `s` in the harts, memory and its caches, requests and messages under way, and local interrupt sources at most. -/
def HartSide (s t : State) : Prop :=
  t = { s with cores := t.cores, prv := t.prv, mem := t.mem, tiles := t.tiles, slices := t.slices, dram := t.dram, net := t.net,
               mshr := t.mshr, localPend := t.localPend }

theorem HartSide.refl (s : State) : HartSide s s := rfl

theorem HartSide.trans {s t u : State} (h : HartSide s t) (k : HartSide t u) : HartSide s u := by
  unfold HartSide at *
  rw [k, h]

theorem CacheOnly.hartSide {s t : State} (h : CacheOnly s t) : HartSide s t := by unfold HartSide; rw [h]

theorem MemOnly.hartSide {s t : State} (h : MemOnly s t) : HartSide s t := by unfold HartSide; rw [h]

section
variable {s t : State} (h : HartSide s t)
include h

theorem HartSide.objs : t.objs = s.objs := by rw [h]
theorem HartSide.ras : t.ras = s.ras := by rw [h]
theorem HartSide.replay : t.replay = s.replay := by rw [h]
theorem HartSide.pending : t.pending = s.pending := by rw [h]
theorem HartSide.iotlb : t.iotlb = s.iotlb := by rw [h]

end

theorem HartSide.setCpu (h : Hart) (c : Cpu) (s : State) : HartSide s (setCpu h c s) := by cases h <;> rfl
theorem HartSide.modCpu (h : Hart) (f : Cpu → Cpu) (s : State) : HartSide s (modCpu h f s) := .setCpu _ _ _

theorem HartSide.countEv (n ev k : Nat) (s : State) : HartSide s (countEv n ev k s) := by
  unfold Machine.countEv raiseLocal
  dsimp only
  generalize (List.range 8).foldl (fun r i => pmcCount ev k i r) (coreOf s n, false) = r
  split
  · exact (setCpu _ _ s).trans rfl
  · exact .setCpu _ _ s

theorem HartSide.fetchNext (h : Hart) (i : Instr) (s : State) : HartSide s (fetchNext h i s).2 := by
  cases h with
  | prv n => exact .refl s
  | core n =>
    unfold Machine.fetchNext
    dsimp only
    split
    · exact (setCpu _ _ s).trans (.countEv _ _ _ _)
    · exact .setCpu _ _ s

/-- A fetch that no store of the hart stands in the way of. -/
theorem HartSide.fetchUse {n : Nat} {s : State} (hd : fetchDelivers (.core n) s = true) : HartSide s (fetchUse (.core n) s) := by
  have hs : storesTo (coreOf s n) (lineOf (physAt (coreOf s n) .fetch (coreOf s n).pc)) = false := by
    simp only [fetchDelivers, Bool.and_eq_true, Bool.not_eq_true'] at hd
    exact hd.1
  have c := (CacheOnly.readLine (.core n) true (lineOf (physAt (coreOf s n) .fetch (coreOf s n).pc)) s).hartSide
  unfold Machine.fetchUse fetchLine
  dsimp only
  rw [hs]
  simp only [Bool.false_eq_true, if_false, not_true_eq_false]
  split
  · exact c.trans (.countEv _ _ _ _)
  · exact c

/-- The fetch of a ready instruction of a core. -/
theorem HartSide.started {n : Nat} {i : Instr} {s : State} (hr : ready (.core n) i s = true) : HartSide s (started (.core n) i s) := by
  have h := (fetchNext (.core n) i s).trans (HartSide.fetchUse (n := n) (s := (Machine.fetchNext (.core n) i s).2) (by
    have := ready_delivers hr
    rwa [toFetch, fetchCheck_core (ready_check hr)] at this))
  rwa [Machine.started, toFetch, fetchCheck_core (ready_check hr)]

theorem HartSide.countWaste (n k : Nat) (s : State) : HartSide s (countWaste n k s) := by
  unfold Machine.countWaste
  split
  · exact .refl s
  · exact (modCpu _ _ s).trans (.countEv _ _ _ _)

theorem HartSide.flushAll (n : Nat) (install : Bool) (s : State) : HartSide s (flushAll n install s) := by
  unfold Machine.flushAll
  split
  · exact .refl s
  · exact (((CacheOnly.flushShadows n install s).hartSide.trans (.countWaste _ _ _)).trans (CacheOnly.modTile _ _ _).hartSide).trans
      (.modCpu _ _ _)

theorem HartSide.retire (h : Hart) (next : Option Word) (s : State) : HartSide s (retire h next s) := by
  cases h with
  | core n => rw [retire_core]; exact (modCpu _ _ s).trans (.countEv _ _ _ _)
  | prv n => unfold Machine.retire; exact .modCpu _ _ s

/-! ## The combining buffer leaves (06 R150) -/

/-- `t` follows from `s` by lines of a hart's combining buffer leaving: of the harts, that buffer alone changes. -/
structure NtWork (h : Hart) (s t : State) : Prop where
  hart : cpuOf t h = { cpuOf s h with nt := (cpuOf t h).nt }
  others : ∀ k, k ≠ h → cpuOf t k = cpuOf s k
  side : HartSide s t

theorem NtWork.refl (h : Hart) (s : State) : NtWork h s s := ⟨rfl, fun _ _ => rfl, .refl s⟩

theorem NtWork.trans {h : Hart} {s t u : State} (a : NtWork h s t) (b : NtWork h t u) : NtWork h s u := by
  refine ⟨?_, fun k hk => (b.others k hk).trans (a.others k hk), a.side.trans b.side⟩
  rw [b.hart, a.hart]

/-- Work that leaves every hart alone. -/
theorem NtWork.of_units {h : Hart} {s t : State} (hc : ∀ k, cpuOf t k = cpuOf s k) (hs : HartSide s t) : NtWork h s t :=
  ⟨by rw [hc], fun k _ => hc k, hs⟩

theorem CacheOnly.ntWork {s t : State} (c : CacheOnly s t) (h : Hart) : NtWork h s t := .of_units c.cpuOf c.hartSide
theorem MemOnly.ntWork {s t : State} (m : MemOnly s t) (h : Hart) : NtWork h s t := .of_units m.cpuOf m.hartSide

/-- A change of the buffer. -/
theorem NtWork.modNt (h : Hart) (f : Cpu → List NtLine) (s : State) : NtWork h s (modCpu h (fun c => { c with nt := f c }) s) :=
  ⟨by rw [cpuOf_modCpu_same], fun _ hk => cpuOf_modCpu_other _ _ _ _ hk, .modCpu _ _ s⟩

theorem NtWork.ntLeave (h : Hart) (line : Nat) (s : State) : NtWork h s (ntLeave h line s).1 := by
  unfold Machine.ntLeave
  split
  · exact .refl h s
  · next l _ =>
    split
    · exact .refl h s
    · split
      · exact ((modNt h _ s).trans ((CacheOnly.homeWrite line (isPrv h) _ _).ntWork h)).trans ((MemOnly.ntLinePerform l _).ntWork h)
      · have a := (CacheOnly.ask h 9 line s).ntWork h
        dsimp only
        split
        · exact a
        · exact a.trans (modNt h _ _)

theorem NtWork.ntDrain (h : Hart) (s : State) : NtWork h s (ntDrain h s).1 := by
  exact List.foldlRecOn (motive := fun r : State × Bool => NtWork h s r.1) _ _ (NtWork.refl h s)
    (fun (r : State × Bool) hr (l : NtLine) _ => hr.trans (ntLeave h l.line r.1))

/-- An empty buffer has nothing to leave. -/
theorem ntDrain_nil {h : Hart} {s : State} (hn : (cpuOf s h).nt = []) : (ntDrain h s).1 = s := by
  unfold ntDrain
  rw [hn]
  rfl

end Sys2Proof.Machine
end

section
/-! PROOF. ECALL, EBREAK and fault stop on a main core (O16): what an entry makes of a core, and a core that has stopped. -/

namespace Sys2Proof.Machine
open Sys2Proof

/-! ## Exceptions (03 R68-R70) -/

/-- The exception registers of a level by their distance from its ESTAT (03 Table 3.3). -/
theorem lvlReg_eq (x : Level) (k : Nat) : lvlReg x (0x400 + k) = estatOf x + k := by
  unfold lvlReg estatOf
  split <;> omega

/-- The exception registers do not count by themselves. -/
theorem isCounter_estatOf (x : Level) (k : Nat) (hk : k < 16) : isCounter (estatOf x + k) = false := by
  unfold isCounter estatOf
  split <;> simp <;> omega

/-- ESTAT after an entry from level `l` that is no refill: EXL set, PPL and PIE stacked, IE clear (03 R69). -/
def stackedEstat (est : Word) (l : Level) : Word :=
  setBit (setFld (setFld (setBit est 7 true) 5 4 (levelCode l)) 3 3 (fld est 1 1)) 1 false

theorem stackedEstat_exl (est : Word) (l : Level) : flag (stackedEstat est l) 7 = true := by
  simp [stackedEstat, flag_setBit, flag_setFld]

theorem stackedEstat_ppl (est : Word) (l : Level) : fld (stackedEstat est l) 5 4 = levelCode l := by
  rw [fld_congr (w := setFld (setBit est 7 true) 5 4 (levelCode l)), fld_setFld_same (by decide) (by decide)]
  · cases l <;> rfl
  · intro j h1 h2
    rw [stackedEstat, flag_setBit _ _ _ (by decide), if_neg (by omega), flag_setFld _ _ _ (by decide) (by decide), if_neg (by omega)]

theorem stackedEstat_pie (est : Word) (l : Level) : flag (stackedEstat est l) 3 = flag est 1 := by
  rw [stackedEstat, flag_setBit _ _ _ (by decide), if_neg (by decide), flag_setFld _ _ _ (by decide) (by decide)]
  exact testBit_fld_one est 1

theorem stackedEstat_ie (est : Word) (l : Level) : flag (stackedEstat est l) 1 = false := by
  rw [stackedEstat, flag_setBit _ _ _ (by decide), if_pos rfl]

/-- What an entry that is no refill makes of a core (03 R69). -/
def entered (x : Level) (e : Exc) (epc : Word) (c : Cpu) : Cpu :=
  let b := estatOf x
  { setSys b (stackedEstat (sysReg c b) c.level) (setSys (b + 1) epc (setSys (b + 2) (causeWord e) (setSys (b + 3) e.tval c))) with
    level := x, pc := sysReg c (b + 4) + BitVec.ofNat 64 (64 * e.code), rstack := [] }

/-- An exception that is no refill enters its level, where ESTAT holds none (03 R69). -/
theorem enterExc_free (x : Level) (e : Exc) (epc : Word) (c : Cpu) (hr : isRefill e.code = false)
    (hx : flag (sysReg c (estatOf x)) 7 = false) : enterExc x e epc c = (entered x e epc c, none) := by
  have r (k : Nat) : lvlReg x (0x400 + k) = estatOf x + k := lvlReg_eq x k
  have he : flag (sysReg c (lvlReg x 0x400)) 7 = false := by rw [r 0]; exact hx
  unfold enterExc
  simp only [hr, Bool.false_eq_true, false_and, if_false, he]
  rw [r 0, r 1, r 2, r 3, r 4]
  have h4 : sysReg (setSys (estatOf x + 1) epc (setSys (estatOf x + 2) (causeWord e) (setSys (estatOf x + 3) e.tval c))) (estatOf x + 4) =
      sysReg c (estatOf x + 4) := by
    rw [sysReg_setSys_other _ _ _ _ (by omega), sysReg_setSys_other _ _ _ _ (by omega), sysReg_setSys_other _ _ _ _ (by omega)]
  rw [h4]
  rfl

/-- The core after an entry is as the statements say (03 R69, Table 3.6). -/
theorem entered_entered (x : Level) (e : Exc) (epc : Word) (c : Cpu) :
    Entered x e.code (causeWord e) e.tval epc c (stepped (entered x e epc c)) := by
  have hsys (n : Nat) : sysReg (stepped (entered x e epc c)) n = sysReg (setSys (estatOf x) (stackedEstat (sysReg c (estatOf x)) c.level)
      (setSys (estatOf x + 1) epc (setSys (estatOf x + 2) (causeWord e) (setSys (estatOf x + 3) e.tval c)))) n := rfl
  have hest : sysReg (stepped (entered x e epc c)) (estatOf x) = stackedEstat (sysReg c (estatOf x)) c.level := by
    rw [hsys, sysReg_setSys_same]
  have hg : (stepped (entered x e epc c)).g = c.g := by simp only [stepped, entered, setSys]
  refine ⟨rfl, rfl, ?_, ?_, ?_, ?_, ?_, ?_, ?_, fun q => ?_, fun n h0 h1 h2 h3 _ => ?_, rfl⟩
  · rw [hsys, sysReg_setSys_other _ _ _ _ (by omega), sysReg_setSys_same]
  · rw [hsys, sysReg_setSys_other _ _ _ _ (by omega), sysReg_setSys_other _ _ _ _ (by omega), sysReg_setSys_same]
  · rw [hsys, sysReg_setSys_other _ _ _ _ (by omega), sysReg_setSys_other _ _ _ _ (by omega), sysReg_setSys_other _ _ _ _ (by omega),
      sysReg_setSys_same]
  · rw [hest]; exact stackedEstat_exl _ _
  · rw [hest]; exact stackedEstat_ppl _ _
  · rw [hest]; exact stackedEstat_pie _ _
  · rw [hest]; exact stackedEstat_ie _ _
  · unfold gpr; rw [hg]
  · rw [hsys, sysReg_setSys_other _ _ _ _ h0, sysReg_setSys_other _ _ _ _ h1, sysReg_setSys_other _ _ _ _ h2, sysReg_setSys_other _ _ _ _ h3]

/-- `d` has the level, the general registers and the system registers of `c` that an entry saves and reads. -/
structure EntryKept (c d : Cpu) : Prop where
  level : d.level = c.level
  g : d.g = c.g
  sys : ∀ n, isCounter n = false → sysReg d n = sysReg c n

theorem EntryKept.trans {c d e : Cpu} (h : EntryKept c d) (k : EntryKept d e) : EntryKept c e :=
  ⟨k.level.trans h.level, k.g.trans h.g, fun n hn => (k.sys n hn).trans (h.sys n hn)⟩

theorem RegsKept.entryKept {c d : Cpu} (k : RegsKept c d) : EntryKept c d := ⟨k.level, k.g, k.sys⟩

theorem EntryKept.estat {c d : Cpu} (k : EntryKept c d) (x : Level) : sysReg d (estatOf x) = sysReg c (estatOf x) :=
  k.sys (estatOf x) (isCounter_estatOf x 0 (by decide))

/-- The level that takes an exception depends on the level and M's delegation register. -/
theorem EntryKept.excTarget {c d : Cpu} (k : EntryKept c d) (e : Exc) : excTarget d e = excTarget c e := by
  unfold Machine.excTarget
  rw [k.level, k.sys 0xC10 rfl]

/-- An entry from a core is an entry from one with the same level and registers. -/
theorem Entered.of_kept {x : Level} {code : Nat} {cause tval epc : Word} {c c' d : Cpu} (k : EntryKept c c')
    (h : Entered x code cause tval epc c' d) : Entered x code cause tval epc c d := by
  obtain ⟨hlevel, hpc, hepc, hcause, htval, hexl, hppl, hpie, hie, hg, hsys, hrs⟩ := h
  refine ⟨hlevel, ?_, hepc, hcause, htval, hexl, ?_, ?_, hie, fun q => ?_, fun n h0 h1 h2 h3 hn => ?_, hrs⟩
  · rw [hpc, k.sys _ (isCounter_estatOf x 4 (by decide))]
  · rw [hppl, k.level]
  · rw [hpie, k.estat]
  · rw [hg]; unfold gpr; rw [k.g]
  · rw [hsys n h0 h1 h2 h3 hn, k.sys n hn]

/-- An exception that ESTAT cannot save changes nothing of the core (03 R70). -/
theorem enterExc_pending (x : Level) (e : Exc) (epc : Word) (c : Cpu) (hr : isRefill e.code = false)
    (hx : flag (sysReg c (estatOf x)) 7 = true) : enterExc x e epc c = (c, some e) := by
  have he : flag (sysReg c (lvlReg x 0x400)) 7 = true := by rw [lvlReg_eq x 0]; exact hx
  unfold enterExc
  simp only [hr, Bool.false_eq_true, false_and, if_false, he, if_true]

/-! ## Taking an exception on a core -/

/-- The instructions behind are flushed and the combining buffer has left as far as it can: the state that an entry starts from (06 R145, R150). -/
def drained (n : Nat) (e : Exc) (s : State) : State := (ntDrain (.core n) (flushAll n (isAsync e.code) s)).1

section
variable (n : Nat) (e : Exc) (s : State)

theorem drained_kept : EntryKept (coreOf s n) (coreOf (drained n e s) n) := by
  have f := (HartWork.flushAll n (isAsync e.code) s).1.hart.toRegsKept.entryKept
  have d := (NtWork.ntDrain (.core n) (flushAll n (isAsync e.code) s)).hart
  refine f.trans ?_
  show EntryKept (cpuOf (flushAll n (isAsync e.code) s) (.core n)) (cpuOf (drained n e s) (.core n))
  rw [drained, d]
  exact ⟨rfl, rfl, fun _ _ => rfl⟩

theorem drained_others (k : Hart) (hk : k ≠ .core n) : cpuOf (drained n e s) k = cpuOf s k :=
  ((NtWork.ntDrain (.core n) _).others k hk).trans ((HartWork.flushAll n (isAsync e.code) s).1.others k hk)

theorem HartSide.drained : HartSide s (drained n e s) := (flushAll n (isAsync e.code) s).trans (NtWork.ntDrain (.core n) _).side

/-- With nothing in the combining buffer memory keeps its readings. -/
theorem drained_memKept (hn : (coreOf s n).nt = []) : MemKept s (drained n e s) := by
  have f := HartWork.flushAll n (isAsync e.code) s
  rw [drained, ntDrain_nil (f.1.hart.nt.trans hn)]
  exact f.2

end

/-- An exception that is no refill, taken where the level's ESTAT holds none (03 R69). -/
theorem takeAt_free {n : Nat} {x : Level} {e : Exc} (epc : Word) {s : State} (hr : isRefill e.code = false)
    (hx : flag (sysReg (coreOf s n) (estatOf x)) 7 = false) :
    takeAt n x e epc s = setCpu (.core n) (stepped (entered x e epc (coreOf (drained n e s) n))) (drained n e s) := by
  have hd : flag (sysReg (coreOf (drained n e s) n) (estatOf x)) 7 = false := by rw [(drained_kept n e s).estat]; exact hx
  have hc : countRefill n e.code (drained n e s) = drained n e s := by
    simp only [isRefill, decide_eq_false_iff_not, not_or] at hr
    simp [countRefill, hr]
  unfold takeAt
  dsimp only
  rw [show (ntDrain (.core n) (flushAll n (isAsync e.code) s)).1 = drained n e s from rfl, enterExc_free x e epc _ hr hd]
  dsimp only
  rw [hc, enterExc_free x e epc _ hr hd]

/-- An exception that is no refill, where ESTAT cannot save it: the core stops (03 R70). -/
theorem takeAt_pending {n : Nat} {x : Level} {e : Exc} (epc : Word) {s : State} (hr : isRefill e.code = false)
    (hx : flag (sysReg (coreOf s n) (estatOf x)) 7 = true) : takeAt n x e epc s = faultStop n e epc (drained n e s) := by
  have hd : flag (sysReg (coreOf (drained n e s) n) (estatOf x)) 7 = true := by rw [(drained_kept n e s).estat]; exact hx
  unfold takeAt
  dsimp only
  rw [show (ntDrain (.core n) (flushAll n (isAsync e.code) s)).1 = drained n e s from rfl, enterExc_pending x e epc _ hr hd]

/-- A ready instruction whose effect is an exception takes it at its address. -/
theorem traps_of_exc {h : Hart} {i : Instr} {s : State} {e : Exc} (he : exec i s = run h i (fun t => (t, .exc e)) s) : Traps h i s e :=
  fun hr => he.trans (run_ready _ hr)

/-- Control stands at the instruction while its fetch is under way. -/
theorem started_pc {h : Hart} {i : Instr} {s : State} (hr : ready h i s = true) : (cpuOf (started h i s) h).pc = (cpuOf s h).pc :=
  (started_work (ready_delivers hr)).1.hart.pc

section
variable {n : Nat} {i : Instr} {s : State} {e : Exc} (hr : ready (.core n) i s = true) (he : isRefill e.code = false)
include hr he

/-- A ready instruction of a core takes an exception that is no refill (03 R68, R69): the entry and what it leaves alone. -/
theorem takeSync_enters (hx : flag (sysReg (coreOf s n) (estatOf (excTarget (coreOf s n) e))) 7 = false) :
    let u := takeSync (.core n) e (started (.core n) i s)
    Entered (excTarget (coreOf s n) e) e.code (causeWord e) e.tval (coreOf s n).pc (coreOf s n) (coreOf u n) ∧
      (∀ k, k ≠ .core n → cpuOf u k = cpuOf s k) ∧ HartSide s u ∧ ((coreOf s n).nt = [] → MemKept s u) := by
  obtain ⟨w, m, -⟩ := started_work (ready_delivers hr)
  have k : EntryKept (coreOf s n) (coreOf (started (.core n) i s) n) := w.hart.toRegsKept.entryKept
  have hp : (coreOf (started (.core n) i s) n).pc = (coreOf s n).pc := started_pc hr
  have hm : MemKept s (started (.core n) i s) := by rwa [fetchCheck_core (ready_check hr)] at m
  have hn : (coreOf (started (.core n) i s) n).nt = (coreOf s n).nt := w.hart.nt
  have side := HartSide.started hr
  dsimp only
  unfold takeSync
  dsimp only
  rw [k.excTarget, hp, takeAt_free _ he (by rw [k.estat]; exact hx), coreOf_setCpu_core]
  refine ⟨(entered_entered _ e _ _).of_kept (k.trans (drained_kept n e _)), fun j hj => ?_, (side.trans (.drained n e _)).trans (.setCpu _ _ _),
    fun h0 => ?_⟩
  · rw [cpuOf_setCpu_other _ _ _ _ hj, drained_others n e _ j hj]
    exact w.others j hj
  · exact (hm.trans (drained_memKept n e _ (hn.trans h0))).trans (.of_mem (by simp))

/-- A ready instruction of a core takes an exception that is no refill and cannot be saved (03 R70). -/
theorem takeSync_stops (hx : flag (sysReg (coreOf s n) (estatOf (excTarget (coreOf s n) e))) 7 = true) :
    let u := takeSync (.core n) e (started (.core n) i s)
    (coreOf u n).run = .faultStop ∧ u.replay = s.replay ∧
      ∃ r, u.ras.inbox = s.ras.inbox ++ [r] ∧ r.cls = 0x0104 ∧ r.core = n ∧ r.d0 = e.code := by
  have k : EntryKept (coreOf s n) (coreOf (started (.core n) i s) n) := (started_work (ready_delivers hr)).1.hart.toRegsKept.entryKept
  have side := (HartSide.started hr).trans (.drained n e _)
  dsimp only
  unfold takeSync
  dsimp only
  rw [k.excTarget, takeAt_pending _ he (by rw [k.estat]; exact hx)]
  generalize drained n e (started (.core n) i s) = t at side
  unfold faultStop
  refine ⟨?_, by simp [side.replay], ?_⟩
  · show (cpuOf _ (.core n)).run = _
    rw [(UnitWork.report _ _).cpus, cpuOf_modCpu_same]
  · dsimp only
    rw [report_ras (by rfl), modCpu_ras, side.ras]
    exact ⟨_, rfl, rfl, rfl, rfl⟩

end

/-- A core that has stopped does nothing of any instruction (03 R70). -/
theorem run_of_stopped {n : Nat} {u : State} (hn : n < 192) (hp : u.replay = false) (hs : (coreOf u n).run = .faultStop) (i : Instr)
    (body : State → State × Done) : run (.core n) i body u = .next u := by
  have h1 : hartExists (.core n) = true := by simp [hartExists, hn]
  have h2 : canRun (.core n) u = false := by simp [canRun, cpuOf, hs]
  unfold run
  rw [if_neg (by simp [h1]), if_neg (by simp [hp])]
  split
  · simp [hs]
  · rw [if_pos (by simp [h2])]

theorem ready_exists {h : Hart} {i : Instr} {s : State} (hr : ready h i s = true) : hartExists h = true := by
  simp only [ready, Bool.and_eq_true] at hr
  obtain ⟨⟨⟨⟨⟨⟨⟨⟨h1, -⟩, -⟩, -⟩, -⟩, -⟩, -⟩, -⟩, -⟩ := hr
  exact h1

theorem ready_replay {h : Hart} {i : Instr} {s : State} (hr : ready h i s = true) : s.replay = false := by
  simp only [ready, Bool.and_eq_true, Bool.not_eq_true'] at hr
  obtain ⟨⟨⟨⟨⟨⟨⟨⟨-, -⟩, -⟩, h4⟩, -⟩, -⟩, -⟩, -⟩, -⟩ := hr
  exact h4

theorem ecall_traps (h : Hart) (s : State) : Traps h (.ecall h) s { code := 0x0B } := traps_of_exc rfl
theorem ebreak_traps (h : Hart) (s : State) : Traps h (.ebreak h) s { code := 0x0C } := traps_of_exc rfl

/-- The level that takes an environment call or a breakpoint (03 R69). -/
theorem excTarget_of_call {c : Cpu} {code : Nat} (h : code = 0x0B ∨ code = 0x0C) :
    excTarget c { code := code } = if c.level ≠ .m ∧ flag (sysReg c 0xC10) code = true then .s else .m := by
  rcases h with rfl | rfl <;> simp [excTarget]

/-- A call or breakpoint instruction of a core that is ready enters the level that takes it. -/
theorem call_enters {n : Nat} {i : Instr} {s : State} {code : Nat} (hc : code = 0x0B ∨ code = 0x0C) (ht : Traps (.core n) i s { code := code })
    (hr : ready (.core n) i s = true) {x : Level}
    (hl : x = if (coreOf s n).level ≠ .m ∧ flag (sysReg (coreOf s n) 0xC10) code = true then .s else .m)
    (hx : flag (sysReg (coreOf s n) (estatOf x)) 7 = false) :
    ∃ u, exec i s = .next u ∧ Entered x code (BitVec.ofNat 64 code) 0 (coreOf s n).pc (coreOf s n) (coreOf u n) ∧
      (∀ k, k ≠ .core n → cpuOf u k = cpuOf s k) ∧ u.objs = s.objs ∧ ((coreOf s n).nt = [] → MemKept s u) := by
  have he : isRefill code = false := by rcases hc with rfl | rfl <;> rfl
  have hw : causeWord { code := code } = BitVec.ofNat 64 code := by rcases hc with rfl | rfl <;> rfl
  obtain rfl : excTarget (coreOf s n) { code := code } = x := (excTarget_of_call hc).trans hl.symm
  obtain ⟨h1, h2, h3, h4⟩ := takeSync_enters hr (e := { code := code }) he hx
  rw [hw] at h1
  exact ⟨_, ht hr, h1, h2, h3.objs, h4⟩

/-- Settles O16: an entry flushes and drains, then stacks ESTAT; where ESTAT is taken the core stops and its record goes out. -/
theorem trapsAndFaultStop : Obligations.TrapsAndFaultStop := by
  unfold Obligations.TrapsAndFaultStop
  refine ⟨?_, ?_⟩
  · intro n s p hp
    dsimp only
    intro hr hx
    simp only [List.mem_cons, List.not_mem_nil, or_false] at hp
    rcases hp with rfl | rfl
    · exact call_enters (.inl rfl) (ecall_traps _ s) hr rfl hx
    · exact call_enters (.inr rfl) (ebreak_traps _ s) hr rfl hx
  · intro n s hr
    dsimp only
    intro hx
    have hf : flag (sysReg (coreOf s n) (estatOf (excTarget (coreOf s n) { code := 0x0B }))) 7 = true := by
      rw [excTarget_of_call (.inl rfl)]
      split at hx
      · next h => rw [if_pos h]; exact hx
      · next h => rw [if_neg h]; exact hx
    obtain ⟨h1, h2, h3⟩ := takeSync_stops hr (e := { code := 0x0B }) rfl hf
    have hn : n < 192 := by simpa [hartExists] using ready_exists hr
    exact ⟨_, ecall_traps _ s hr, h1, h3, run_of_stopped hn (h2.trans (ready_replay hr)) h1⟩

end Sys2Proof.Machine
end

section
/-! SUPPORT. Shootdowns, failed engines and I/O translation walks: what each changes and leaves alone. -/

namespace Sys2Proof.Machine
open Sys2Proof

/-! ## An engine declared failed (13 R361, 16 R463) -/

section
variable {α : Type} {f : Option α → α → Option α} (hf : ∀ b k, f b k = some k ∨ ∃ j, b = some j ∧ f b k = some j)
include hf

/-- A fold that takes an element or keeps the pick it has ends with a pick once it has one: that one or a later element. -/
theorem foldl_picks_some (l : List α) (j : α) : ∃ k, l.foldl f (some j) = some k ∧ k ∈ j :: l := by
  induction l generalizing j with
  | nil => exact ⟨j, rfl, List.mem_cons_self⟩
  | cons a l ih =>
    rw [List.foldl_cons]
    rcases hf (some j) a with h | ⟨i, hi, h⟩
    · obtain ⟨k, hk, hm⟩ := ih a
      exact ⟨k, by rw [h]; exact hk, List.mem_cons_of_mem _ hm⟩
    · obtain ⟨k, hk, hm⟩ := ih i
      obtain rfl := Option.some.inj hi
      refine ⟨k, by rw [h]; exact hk, ?_⟩
      simp only [List.mem_cons] at hm ⊢
      exact hm.imp_right .inr

/-- Such a fold of a list with elements picks one of them. -/
theorem foldl_picks {l : List α} {a : α} (ha : a ∈ l) : ∃ k, l.foldl f none = some k ∧ k ∈ l := by
  cases l with
  | nil => exact absurd ha List.not_mem_nil
  | cons x l =>
    rw [List.foldl_cons]
    rcases hf none x with h | ⟨j, hj, -⟩
    · rw [h]; exact foldl_picks_some hf l x
    · exact absurd hj (by simp)

end

/-- The engines of a die. -/
def dieEngines (d : Nat) : List Nat := (List.range 32).map (fun i => 32 * d + i)

theorem mem_dieEngines (j : Nat) : j ∈ dieEngines (j / 32) :=
  List.mem_map.2 ⟨j % 32, List.mem_range.2 (Nat.mod_lt _ (by decide)), by omega⟩

/-- The pick between an engine picked so far and the next one: the lighter loaded, the lower numbered of equals. -/
def lighter (s : State) (b : Option Nat) (k : Nat) : Option Nat :=
  match b with
  | none => some k
  | some j => if mapCount s k < mapCount s j then some k else some j

theorem lighter_cases (s : State) (b : Option Nat) (k : Nat) : lighter s b k = some k ∨ ∃ j, b = some j ∧ lighter s b k = some j := by
  unfold lighter
  cases b with
  | none => exact .inl rfl
  | some j =>
    dsimp only
    split
    · exact .inl rfl
    · exact .inr ⟨j, rfl, rfl⟩

/-- The engine of least load among those of a die that run (16 R463). -/
def leastLoaded (s : State) (d : Nat) : Option Nat := ((dieEngines d).filter (prvRuns s)).foldl (lighter s) none

theorem takingEngine_eq (s : State) (n : Nat) : takingEngine s n = (leastLoaded s (n / 32)).or (leastLoaded s (1 - n / 32)) := by
  have h : takingEngine s n = match leastLoaded s (n / 32) with | some k => some k | none => leastLoaded s (1 - n / 32) := rfl
  rw [h]
  cases leastLoaded s (n / 32) <;> rfl

/-- Where an engine of the die runs, one that runs is picked. -/
theorem leastLoaded_of_runs {s : State} {d j : Nat} (hj : prvRuns s j = true) (hd : j ∈ dieEngines d) :
    ∃ k, leastLoaded s d = some k ∧ prvRuns s k = true := by
  obtain ⟨k, hk, hm⟩ := foldl_picks (lighter_cases s) (List.mem_filter.2 ⟨hd, hj⟩)
  exact ⟨k, hk, (List.mem_filter.1 hm).2⟩

/-- What is picked in a die runs. -/
theorem leastLoaded_runs {s : State} {d k : Nat} (h : leastLoaded s d = some k) : prvRuns s k = true := by
  cases hl : (dieEngines d).filter (prvRuns s) with
  | nil => rw [leastLoaded, hl] at h; exact absurd h (by simp)
  | cons j l =>
    obtain ⟨hd, hj⟩ := List.mem_filter.1 (hl ▸ List.mem_cons_self : j ∈ (dieEngines d).filter (prvRuns s))
    obtain ⟨i, hi, hr⟩ := leastLoaded_of_runs hj hd
    rw [h] at hi
    exact Option.some.inj hi ▸ hr

/-- While an engine runs, one that runs takes a failed engine's map entry (16 R463): the engine's own die is searched first, then the other. -/
theorem takingEngine_runs {s : State} {n j : Nat} (hn : n < 64) (hj : prvRuns s j = true) :
    ∃ k, takingEngine s n = some k ∧ prvRuns s k = true := by
  have hj64 : j < 64 := by
    simp only [prvRuns, Bool.and_eq_true, decide_eq_true_eq] at hj
    exact hj.1.1
  rw [takingEngine_eq]
  obtain ⟨j', hs, hr⟩ := leastLoaded_of_runs hj (mem_dieEngines j)
  cases hd : leastLoaded s (n / 32) with
  | some k => exact ⟨k, rfl, leastLoaded_runs hd⟩
  | none =>
    have hne : j / 32 ≠ n / 32 := fun h => by rw [h, hd] at hs; exact absurd hs (by simp)
    rw [show 1 - n / 32 = j / 32 by omega]
    exact ⟨j', hs, hr⟩

/-- The map entry `i` of the failed engine `n` goes to an engine that runs. -/
def mapMoved (n : Nat) (s : State) (i : Nat) : State :=
  if objN s 0x6200 i = n then (match takingEngine s n with | some k => setObj 0x6200 i (BitVec.ofNat 64 k) s | none => s) else s

/-- `t` differs from `s` in its objects at most. -/
def ObjsOnly (s t : State) : Prop := t = { s with objs := t.objs }

theorem ObjsOnly.mapsMoved (n : Nat) (l : List Nat) (s : State) : ObjsOnly s (l.foldl (mapMoved n) s) := by
  refine List.foldlRecOn (motive := ObjsOnly s) _ _ rfl fun t ht i _ => ?_
  unfold ObjsOnly mapMoved at *
  split
  · split
    · rw [ht]; rfl
    · exact ht
  · exact ht

/-- The state in which an engine's failure is reported. -/
def engineClosed (n : Nat) (s : State) : State := modCpu (.prv n) (fun c => { c with failed := true, run := .gated }) s


/-- The record of an engine's failure (16 R463). -/
def failRecord (n reason : Nat) (s : State) : ErrRec :=
  { stamp := 0, useq := 0, unit := 272 + n, cls := 0x0501, sev := 1, encl := 0x10, d0 := reason
    d1 := (takingEngine (engineClosed n s) n).getD 0xFF, rings := engineWork s n }

/-- An engine closed, its failure reported and its map entries moved. -/
def engineMoved (n reason : Nat) (s : State) : State := (List.range 64).foldl (mapMoved n) (report (failRecord n reason s) (engineClosed n s))

/-- What the failure of an engine does: where no engine runs to take its entries, the operations under way end as well. -/
theorem engineFail_eq (n reason : Nat) (s : State) : engineFail n reason s = if (takingEngine (engineClosed n s) n).isSome then engineMoved n reason s
    else { engineMoved n reason s with journal := (engineMoved n reason s).journal.map (fun r =>
      if (r.st = .active ∨ r.st = .suspended) ∧ r.fin.isNone then { r with fin := some 6 } else r) } := by
  unfold engineFail engineMoved failRecord engineClosed
  rfl

/-- Whether or not another engine runs, the failure is the moved state but for the journal. -/
theorem engineFail_frame (n reason : Nat) (s : State) :
    engineFail n reason s = { engineMoved n reason s with journal := (engineFail n reason s).journal } := by
  rw [engineFail_eq]
  generalize engineMoved n reason s = t
  split <;> rfl

theorem engineMoved_frame (n reason : Nat) (s : State) :
    engineMoved n reason s = { report (failRecord n reason s) (engineClosed n s) with objs := (engineMoved n reason s).objs } :=
  ObjsOnly.mapsMoved n _ _

section
variable (n reason : Nat) (s : State)

theorem engineFail_cores : (engineFail n reason s).cores = s.cores := by
  rw [engineFail_frame, engineMoved_frame]
  exact report_cores _ _

theorem engineFail_mem : (engineFail n reason s).mem = s.mem := by
  rw [engineFail_frame, engineMoved_frame]
  exact report_mem _ _

theorem engineFail_pending : (engineFail n reason s).pending = s.pending := by
  rw [engineFail_frame, engineMoved_frame]
  exact report_pending _ _

theorem engineFail_prv : (engineFail n reason s).prv = (engineClosed n s).prv := by
  rw [engineFail_frame, engineMoved_frame]
  exact report_prv _ _

/-- The failed engine stands, marked. -/
theorem prvOf_engineFail_same : prvOf (engineFail n reason s) n = { prvOf s n with failed := true, run := .gated } := by
  unfold prvOf
  rw [engineFail_prv]
  exact cpuOf_modCpu_same (.prv n) _ s

theorem prvOf_engineFail_other {j : Nat} (hj : j ≠ n) : prvOf (engineFail n reason s) j = prvOf s j := by
  unfold prvOf
  rw [engineFail_prv]
  exact cpuOf_modCpu_other (.prv n) (.prv j) _ s (by simpa using hj)

/-- The failure's record goes to the RAS controller. -/
theorem engineFail_inbox : ∃ r, (engineFail n reason s).ras.inbox = s.ras.inbox ++ [r] ∧ r.unit = 272 + n ∧ r.cls = 0x0501 ∧ r.d0 = reason := by
  rw [engineFail_frame, engineMoved_frame]
  dsimp only
  rw [report_ras (by rfl)]
  exact ⟨_, rfl, rfl, rfl, rfl⟩

end

/-! ### The failed engine's map entries (16 R463) -/

/-- Whether an engine runs depends on the engines alone. -/
theorem prvRuns_congr {s t : State} (h : t.prv = s.prv) (j : Nat) : prvRuns t j = prvRuns s j := by unfold prvRuns prvOf; rw [h]

theorem okey_inj {idx i j : Nat} : okey idx i = okey idx j ↔ i = j := by unfold okey; omega

section
variable {n : Nat} {s : State} (hn : n < 64) (hf : prvRuns s n = false) {j : Nat} (hj : prvRuns s j = true)
include hn hf hj

/-- While another engine runs, the failed engine's entry names an engine that runs. -/
theorem objN_mapMoved_same (i : Nat) : objN (mapMoved n s i) 0x6200 i ≠ n := by
  obtain ⟨k, hk, hr⟩ := takingEngine_runs hn hj
  have hkn : k ≠ n := fun h => by rw [h, hf] at hr; exact absurd hr (by simp)
  have hk64 : k < 64 := by
    simp only [prvRuns, Bool.and_eq_true, decide_eq_true_eq] at hr
    exact hr.1.1
  unfold mapMoved
  split
  · rw [hk]
    show (obj _ 0x6200 i).toNat ≠ n
    rw [obj_setObj_same, BitVec.toNat_ofNat, Nat.mod_eq_of_lt (by omega)]
    exact hkn
  · assumption

/-- No move makes an entry name the failed engine. -/
theorem objN_mapMoved_ne (i : Nat) {m : Nat} (hm : objN s 0x6200 m ≠ n) : objN (mapMoved n s i) 0x6200 m ≠ n := by
  by_cases h : m = i
  · subst h; exact objN_mapMoved_same hn hf hj m
  · unfold mapMoved
    split
    · split
      · show (obj _ 0x6200 m).toNat ≠ n
        rw [obj_setObj_other _ _ _ _ _ _ (fun e => h (okey_inj.1 e))]
        exact hm
      · exact hm
    · exact hm

/-- When the entries of a list have moved, none of them names the failed engine. -/
theorem objN_mapsMoved (l : List Nat) {m : Nat} (hm : m ∈ l ∨ objN s 0x6200 m ≠ n) : objN (l.foldl (mapMoved n) s) 0x6200 m ≠ n := by
  induction l generalizing s with
  | nil => exact hm.resolve_left List.not_mem_nil
  | cons i l ih =>
    have hp : (mapMoved n s i).prv = s.prv := by
      have h : ObjsOnly s (mapMoved n s i) := ObjsOnly.mapsMoved n [i] s
      rw [h]
    rw [List.foldl_cons]
    refine ih (by rw [prvRuns_congr hp, hf]) (by rw [prvRuns_congr hp, hj]) ?_
    rcases hm with hm | hm
    · rcases List.mem_cons.1 hm with rfl | hm
      · exact .inr (objN_mapMoved_same hn hf hj m)
      · exact .inl hm
    · exact .inr (objN_mapMoved_ne hn hf hj i hm)

end

/-- A closed engine does not run; the others run as before. -/
theorem prvRuns_engineClosed_same (n : Nat) (s : State) : prvRuns (engineClosed n s) n = false := by
  unfold prvRuns
  have h : prvOf (engineClosed n s) n = { prvOf s n with failed := true, run := .gated } := cpuOf_modCpu_same (.prv n) _ s
  rw [h]
  simp

theorem prvRuns_engineClosed_other {n j : Nat} (s : State) (hj : j ≠ n) : prvRuns (engineClosed n s) j = prvRuns s j := by
  unfold prvRuns
  have h : prvOf (engineClosed n s) j = prvOf s j := cpuOf_modCpu_other (.prv n) (.prv j) _ s (by simpa using hj)
  rw [h]

/-- While another engine runs, its failure ends no operation, and no map entry names it any more (16 R463). -/
theorem engineFail_taken {n j : Nat} (reason : Nat) {s : State} (hn : n < 64) (hjn : j ≠ n) (hj : prvRuns s j = true) :
    (engineFail n reason s).journal = s.journal ∧ ∀ i, i < 64 → objN (engineFail n reason s) 0x6200 i ≠ n := by
  have hj' : prvRuns (engineClosed n s) j = true := by rw [prvRuns_engineClosed_other s hjn, hj]
  obtain ⟨k, hk, -⟩ := takingEngine_runs hn hj'
  rw [engineFail_eq, if_pos (by rw [hk]; rfl)]
  refine ⟨by rw [engineMoved_frame]; exact report_journal _ _, fun i hi => ?_⟩
  have hp (m : Nat) : prvRuns (report (failRecord n reason s) (engineClosed n s)) m = prvRuns (engineClosed n s) m :=
    prvRuns_congr (report_prv _ _) m
  exact objN_mapsMoved hn (by rw [hp]; exact prvRuns_engineClosed_same n s) (by rw [hp]; exact hj') _ (.inl (List.mem_range.2 hi))

/-- The state in which an engine's exception has been recorded (03 R77). -/
theorem stopEngine_eq (n code : Nat) (s : State) : ∃ r, stopEngine n code s = engineFail n 0 (report r s) ∧ hourly r.cls = false ∧
    r.unit = 272 + n ∧ r.cls = 0x0107 ∧ r.d0 = code ∧ r.d1 = (prvOf s n).pc.toNat := ⟨_, rfl, rfl, rfl, rfl, rfl, rfl⟩

/-! ## Shootdowns (07 R186-R188) -/

/-- Entries removed from a set are filtered out. -/
theorem psMap_none_ways {α : Type} (p : α → Bool) (q : PSet α) : (psMap p (fun _ => none) q).ways = q.ways.filter (fun e => !p e.2) := by
  have h : (fun e : Nat × α => if p e.2 then ((fun _ => none : α → Option α) e.2).map (fun x => (e.1, x)) else some e) =
      Option.guard (fun e => !p e.2) := by
    funext e
    cases hp : p e.2 <;> simp [hp, Option.guard]
  unfold psMap
  dsimp only
  rw [← List.filterMap_eq_filter, ← h]

/-- Removal takes the entries that satisfy `p` out of every structure of the TLBs. -/
theorem tlbEntries_tlbRemove (p : TlbEntry → Bool) (c : Cpu) : tlbEntries (tlbRemove p c) = (tlbEntries c).filter (fun x => !p x) := by
  unfold tlbEntries tlbRemove
  simp only [psMap_none_ways, List.filter_append, List.filter_map, List.filter_flatMap, List.flatMap_map, Function.comp_def]

/-- `d` differs from `c` in its system registers and its window at most. -/
def WindowOnly (c d : Cpu) : Prop := d = { c with sys := d.sys, win := d.win }

theorem WindowOnly.refl (c : Cpu) : WindowOnly c c := rfl

theorem WindowOnly.trans {c d e : Cpu} (h : WindowOnly c d) (k : WindowOnly d e) : WindowOnly c e := by
  unfold WindowOnly at *
  rw [k, h]

theorem WindowOnly.tlbEntries {c d : Cpu} (h : WindowOnly c d) : tlbEntries d = tlbEntries c := by rw [h]; rfl

/-- A changed core reads as the change of what it was. -/
theorem coreOf_modCpu_same (n : Nat) (f : Cpu → Cpu) (s : State) : coreOf (modCpu (.core n) f s) n = f (coreOf s n) := cpuOf_modCpu_same (.core n) f s

/-- Another core is left alone by a change of a core. -/
theorem coreOf_modCpu_other {n j : Nat} (f : Cpu → Cpu) (s : State) (h : j ≠ n) : coreOf (modCpu (.core n) f s) j = coreOf s j :=
  coreOf_setCpu_other _ _ _ _ h

theorem WindowOnly.countEv (n ev k : Nat) (s : State) : WindowOnly (coreOf s n) (coreOf (countEv n ev k s) n) := by
  unfold WindowOnly
  rw [countEv_sys]

theorem WindowOnly.countWaste (n k : Nat) (s : State) : WindowOnly (coreOf s n) (coreOf (countWaste n k s) n) := by
  unfold Machine.countWaste
  split
  · exact .refl _
  · refine WindowOnly.trans ?_ (.countEv _ _ _ _)
    rw [coreOf_modCpu_same]
    rfl

/-- A flush of a core's window touches its window and counters alone. -/
theorem WindowOnly.flushAll (n : Nat) (install : Bool) (s : State) : WindowOnly (coreOf s n) (coreOf (flushAll n install s) n) := by
  have hc : coreOf (flushShadows n install s) n = coreOf s n := (CacheOnly.flushShadows n install s).cpuOf (.core n)
  unfold Machine.flushAll
  split
  · exact .refl _
  · have w := countWaste n (renamed (coreOf s n).sb.length (coreOf s n).win) (flushShadows n install s)
    rw [hc] at w
    refine w.trans ?_
    rw [coreOf_modCpu_same]
    rfl

/-- A core with nothing in its store buffer takes a shootdown at once: of the cores its own TLBs lose what the operation names (07 R187). -/
theorem tlbiAt_core {k : Nat} {s : State} (hb : (coreOf s k).sb = []) (e form : Nat) (va : Word) (asid cur : Nat) :
    ∃ v, tlbiAt (.core k) e form va asid cur s = (v, true) ∧
      tlbEntries (coreOf v k) = (tlbEntries (coreOf s k)).filter (fun x => !(tlbiHits form va asid cur x)) ∧
      (coreOf v k).g = (coreOf s k).g ∧ (∀ j, j ≠ .core k → cpuOf v j = cpuOf s j) ∧ HartSide s v ∧ MemKept s v := by
  have removed : ∀ t, WindowOnly (coreOf s k) (coreOf t k) → HartWork (.core k) s t → HartSide s t → MemKept s t →
      let v := modCpu (.core k) (tlbRemove (tlbiHits form va asid cur)) t
      tlbEntries (coreOf v k) = (tlbEntries (coreOf s k)).filter (fun x => !(tlbiHits form va asid cur x)) ∧
        (coreOf v k).g = (coreOf s k).g ∧ (∀ j, j ≠ .core k → cpuOf v j = cpuOf s j) ∧ HartSide s v ∧ MemKept s v := by
    intro t w hw hs hm
    dsimp only
    rw [coreOf_modCpu_same, tlbEntries_tlbRemove, w.tlbEntries]
    exact ⟨rfl, hw.hart.g, fun j hj => (cpuOf_modCpu_other _ _ _ _ hj).trans (hw.others j hj), hs.trans (.modCpu _ _ t),
      hm.trans (.of_mem (by simp))⟩
  have same := removed s (.refl _) (.refl _ s) (.refl s) (.refl s)
  unfold tlbiAt
  dsimp only
  split
  · exact ⟨_, rfl, same⟩
  · have drains : ∀ t, (coreOf t k).sb = [] → sbDrain (.core k) (modCpu (.core k) (tlbRemove (tlbiHits form va asid cur)) t) =
        (modCpu (.core k) (tlbRemove (tlbiHits form va asid cur)) t, true) := by
      intro t ht
      unfold sbDrain
      rw [cpuOf_modCpu_same]
      show sbDrainN _ (coreOf t k).sb.length _ = _
      rw [ht]
      rfl
    unfold tlbiCore
    dsimp only
    split
    · exact ⟨_, drains s hb, same⟩
    · have f := HartWork.flushAll k false s
      exact ⟨_, drains _ (f.1.hart.sb.trans hb), removed _ (.flushAll k false s) f.1 (.flushAll k false s) f.2⟩

/-- The streams of an enclosure's entries at a root complex (07 R190). -/
def peStreams (e x : Nat) : Bool := decide (64 + 32 * e ≤ x ∧ x < 96 + 32 * e)

/-- A root complex takes a shootdown at once. -/
theorem tlbiAt_pe (k e form : Nat) (va : Word) (asid cur : Nat) (s : State) :
    tlbiAt (.pe k) e form va asid cur s = (ioTlbi (352 + k) (peStreams e) form va asid cur s, true) := rfl

/-! ### The acknowledgement at the core that waits -/

section
variable {n : Nat} {t : TlbTarget} {s : State} {ts : List TlbTarget} {form asid at_ : Nat} {va : Word}
  (hw : (coreOf s n).wait = .tlbi ts form va asid at_) (hc : ts.contains t = true)
include hw hc

/-- One of several acknowledgements. -/
theorem tlbiAck_more (he : ts.erase t ≠ []) :
    tlbiAck n t s = modCpu (.core n) (fun c => { c with wait := .tlbi (ts.erase t) form va asid at_ }) s := by
  unfold tlbiAck
  rw [hw]
  dsimp only
  rw [if_neg (not_not_intro hc), if_neg he]

/-- The last acknowledgement: the TLBI retires. -/
theorem tlbiAck_last (he : ts.erase t = []) :
    tlbiAck n t s = retireWaited (.core n) [] (modCpu (.core n) (fun c => { c with wait := .none }) s) := by
  unfold tlbiAck
  rw [hw]
  dsimp only
  rw [if_neg (not_not_intro hc), if_pos he]

/-- A shootdown that its target takes at once. -/
theorem shootdown_acked {v : State} (hv : tlbiAt t (enclOfCore s n) form va asid (curAsid (coreOf s n)) s = (v, true)) :
    shootdown t n s = tlbiAck n t v := by
  unfold shootdown
  rw [hw]
  dsimp only
  rw [if_neg (not_not_intro hc), hv]
  rfl

end

/-- What the fetch of a retiring instruction that has waited leaves for its retirement. -/
theorem retireWaited_nil (n : Nat) (s : State) :
    retireWaited (.core n) [] s = retire (.core n) none (modCpu (.core n) (fun c => fetchTouch c c) s) := rfl

/-- An instruction that has waited retires: its core's registers stay. -/
theorem retireWaited_regs (n : Nat) (s : State) : RegsKept (coreOf s n) (coreOf (retireWaited (.core n) [] s) n) := by
  have h := retire_regs (.core n) none (modCpu (.core n) (fun c => fetchTouch c c) s)
  rw [cpuOf_modCpu_same] at h
  exact (TlbOnly.fetchTouch _ _).regs.trans h

/-- It falls through where no loop ends. -/
theorem retireWaited_pc {n : Nat} {s : State} (hn : noLoopEnd (coreOf s n)) : (coreOf (retireWaited (.core n) [] s) n).pc = (coreOf s n).pc + 4 := by
  have h := retire_pc (.core n) none (modCpu (.core n) (fun c => fetchTouch c c) s)
  rw [cpuOf_modCpu_same] at h
  refine h.trans ?_
  show (loopEval (fetchTouch (coreOf s n) (coreOf s n)).pc 3 0 (fetchTouch (coreOf s n) (coreOf s n))).pc = _
  have t := TlbOnly.fetchTouch (coreOf s n) (coreOf s n)
  generalize fetchTouch (coreOf s n) (coreOf s n) = d at t
  rw [loopEval_pc 3 0 d (by rw [t]; exact fun j _ hj => hn j (by omega)), t]

theorem retireWaited_others (n : Nat) (s : State) (k : Hart) (hk : k ≠ .core n) : cpuOf (retireWaited (.core n) [] s) k = cpuOf s k := by
  rw [retireWaited_nil, retire_others _ k _ _ hk, cpuOf_modCpu_other _ _ _ _ hk]

theorem HartSide.retireWaited (n : Nat) (s : State) : HartSide s (retireWaited (.core n) [] s) := by
  rw [retireWaited_nil]
  exact (modCpu _ _ s).trans (.retire _ _ _)

/-- An acknowledgement changes of the harts the waiting core alone. -/
theorem tlbiAck_work (n : Nat) (t : TlbTarget) (s : State) :
    (∀ k, k ≠ .core n → cpuOf (tlbiAck n t s) k = cpuOf s k) ∧ HartSide s (tlbiAck n t s) := by
  have same : (∀ k, k ≠ .core n → cpuOf s k = cpuOf s k) ∧ HartSide s s := ⟨fun _ _ => rfl, .refl s⟩
  unfold tlbiAck
  split
  · split
    · exact same
    · split
      · exact ⟨fun k hk => (retireWaited_others n _ k hk).trans (cpuOf_modCpu_other _ _ _ _ hk), (HartSide.modCpu _ _ s).trans (.retireWaited n _)⟩
      · exact ⟨fun k hk => cpuOf_modCpu_other _ _ _ _ hk, .modCpu _ _ s⟩
  · exact same

/-- Acknowledgements for several cores leave every hart alone that is none of them. -/
theorem tlbiAcks_work (t : TlbTarget) (l : List Nat) (s : State) :
    (∀ k, (∀ j ∈ l, k ≠ .core j) → cpuOf (l.foldl (fun s j => tlbiAck j t s) s) k = cpuOf s k) ∧
      HartSide s (l.foldl (fun s j => tlbiAck j t s) s) := by
  induction l generalizing s with
  | nil => exact ⟨fun _ _ => rfl, .refl s⟩
  | cons j l ih =>
    obtain ⟨h1, h2⟩ := tlbiAck_work j t s
    obtain ⟨h3, h4⟩ := ih (tlbiAck j t s)
    rw [List.foldl_cons]
    exact ⟨fun k hk => (h3 k fun i hi => hk i (List.mem_cons_of_mem _ hi)).trans (h1 k (hk j List.mem_cons_self)), h2.trans h4⟩

/-- Of acknowledgements for distinct cores, a core that awaits further ones sees its own. -/
theorem tlbiAcks_more {t : TlbTarget} {l : List Nat} {s : State} {k : Nat} {ts : List TlbTarget} {form asid at_ : Nat} {va : Word} (hl : l.Nodup)
    (hk : k ∈ l) (hw : (coreOf s k).wait = .tlbi ts form va asid at_) (hc : ts.contains t = true) (he : ts.erase t ≠ []) :
    (coreOf (l.foldl (fun s j => tlbiAck j t s) s) k).wait = .tlbi (ts.erase t) form va asid at_ := by
  induction l generalizing s with
  | nil => exact absurd hk List.not_mem_nil
  | cons j l ih =>
    obtain ⟨hj, hl⟩ := List.nodup_cons.1 hl
    rw [List.foldl_cons]
    by_cases h : k = j
    · subst h
      have hr : coreOf (l.foldl (fun s j => tlbiAck j t s) (tlbiAck k t s)) k = coreOf (tlbiAck k t s) k :=
        (tlbiAcks_work t l _).1 (.core k) fun i hi e => hj (by cases e; exact hi)
      rw [hr, tlbiAck_more hw hc he, coreOf_modCpu_same]
    · have hr : coreOf (tlbiAck j t s) k = coreOf s k := (tlbiAck_work j t s).1 (.core k) (by simpa using h)
      exact ih hl ((List.mem_cons.1 hk).resolve_left h) (by rw [hr, hw])

/-- The TLBIs whose acknowledgement an engine owes. -/
theorem mem_tlbiOverdue {n k : Nat} {s : State} : k ∈ tlbiOverdue n s ↔
    k < 192 ∧ ∃ ts form va asid at_, (coreOf s k).wait = .tlbi ts form va asid at_ ∧ ts.contains (.prv n) = true ∧ at_ + 12800 ≤ s.stamp := by
  unfold tlbiOverdue
  rw [List.mem_filter, List.mem_range]
  refine and_congr_right fun _ => ?_
  split
  · next ts form va asid at_ h =>
    rw [Bool.and_eq_true, decide_eq_true_eq]
    constructor
    · exact fun ⟨h1, h2⟩ => ⟨ts, form, va, asid, at_, h, h1, h2⟩
    · rintro ⟨_, _, _, _, _, h', h1, h2⟩
      rw [h] at h'
      cases h'
      exact ⟨h1, h2⟩
  · next hne => exact ⟨fun h => absurd h (by simp), fun ⟨ts, form, va, asid, at_, h, _⟩ => (hne ts form va asid at_ h).elim⟩

/-! ## I/O translation caches (07 R189-R191) -/

theorem ioTlbOf_setIoTlb_same (unit : Nat) (q : IoTlb) (s : State) : ioTlbOf (setIoTlb unit q s) unit = q := mGet_mPut_same _ _ _ _

theorem ioTlbOf_setIoTlb_other {unit j : Nat} (q : IoTlb) (s : State) (h : j ≠ unit) : ioTlbOf (setIoTlb unit q s) j = ioTlbOf s j :=
  mGet_mPut_other _ _ _ _ _ _ h

theorem ioTlbOf_congr {s t : State} (h : t.iotlb = s.iotlb) (j : Nat) : ioTlbOf t j = ioTlbOf s j := by unfold ioTlbOf; rw [h]

theorem markLeaf_iotlb (pa : Nat) (leaf : Word) (s : State) : (markLeaf pa leaf s).iotlb = s.iotlb := by
  unfold markLeaf
  split
  · rfl
  · have c := CacheOnly.homeWrite (lineOf pa) false false s
    have m := MemOnly.storeBytes pa (leBytes 8 leaf.toNat) none (homeWrite (lineOf pa) false false s)
    exact (c.hartSide.trans m.hartSide).iotlb

/-- What an I/O translation leaves: a leaf may be marked, where the root asks for it (07 R183); then the unit's cache changes; then a record may
go out. -/
def IoWalked (unit : Nat) (root : Word) (s t : State) : Prop :=
  ∃ m q, (m = s ∨ flag root 2 = true ∧ ∃ pa leaf, m = markLeaf pa leaf s) ∧ (t = setIoTlb unit q m ∨ ∃ r, t = report r (setIoTlb unit q m))

/-- The caches of the other units stay. -/
theorem IoWalked.others {unit j : Nat} {root : Word} {s t : State} (h : IoWalked unit root s t) (hj : j ≠ unit) : ioTlbOf t j = ioTlbOf s j := by
  obtain ⟨m, q, hm, ht⟩ := h
  have hmj : ioTlbOf m j = ioTlbOf s j := by
    rcases hm with hm | ⟨-, pa, leaf, hm⟩
    · rw [hm]
    · rw [hm, ioTlbOf_congr (markLeaf_iotlb pa leaf s) j]
  rcases ht with ht | ⟨r, ht⟩
  · rw [ht, ioTlbOf_setIoTlb_other q m hj, hmj]
  · rw [ht, ioTlbOf_congr (report_iotlb r _) j, ioTlbOf_setIoTlb_other q m hj, hmj]

/-- Without marking the caches and the records alone change. -/
theorem IoWalked.unmarked {unit : Nat} {root : Word} {s t : State} (h : IoWalked unit root s t) (hr : flag root 2 = false) :
    t = { s with iotlb := t.iotlb, ras := t.ras } := by
  obtain ⟨m, q, hm, ht⟩ := h
  obtain rfl : m = s := by
    rcases hm with hm | ⟨hm, -⟩
    · exact hm
    · rw [hr] at hm; exact absurd hm (by simp)
  rcases ht with rfl | ⟨r, rfl⟩
  · rfl
  · unfold report
    dsimp only
    split <;> rfl

/-- The same state with either of two answers. -/
theorem IoWalked.either {p : Prop} [Decidable p] {a b : Option Nat} {unit : Nat} {root : Word} {s t : State} (h : IoWalked unit root s t) :
    IoWalked unit root s (if p then (a, t) else (b, t)).2 := by
  split <;> exact h

theorem IoWalked.setIoTlb (unit : Nat) (root : Word) (q : IoTlb) (s : State) : IoWalked unit root s (setIoTlb unit q s) :=
  ⟨s, q, .inl rfl, .inl rfl⟩

theorem IoWalked.ioWalkTable (unit stream encl : Nat) (r : StreamRoot) (va : Word) (store : Bool) (s : State) :
    IoWalked unit r.root s (ioWalkTable unit stream encl r va store s).2 := by
  unfold Machine.ioWalkTable
  dsimp only
  split
  · next pa leaf _ =>
    generalize (if flag r.root 2 = true then markedLeaf store leaf else leaf) = x
    have hm : (if flag r.root 2 = true then markLeaf pa x s else s) = s ∨
        flag r.root 2 = true ∧ ∃ a l, (if flag r.root 2 = true then markLeaf pa x s else s) = markLeaf a l s := by
      split
      · next h => exact .inr ⟨h, pa, x, rfl⟩
      · exact .inl rfl
    generalize (if flag r.root 2 = true then markLeaf pa x s else s) = m at hm ⊢
    exact .either ⟨m, _, hm, .inl rfl⟩
  · dsimp only
    split
    · exact ⟨s, _, .inl rfl, .inr ⟨_, rfl⟩⟩
    · exact .setIoTlb _ _ _ s
  · exact .setIoTlb _ _ _ s

/-- A translation is refused at once, or ends with a hit or a walk. -/
theorem ioTranslate_cases (unit stream encl : Nat) (r : StreamRoot) (va : Word) (store : Bool) (s : State) :
    (ioTranslate unit stream encl r va store s).2 = s ∨ IoWalked unit r.root s (ioTranslate unit stream encl r va store s).2 := by
  have walk := IoWalked.ioWalkTable unit stream encl r va store s
  unfold ioTranslate
  dsimp only
  split
  · exact .inl rfl
  · right
    split
    · split
      · exact walk
      · exact .either (.setIoTlb _ _ _ s)
    · exact walk

/-- What a shootdown leaves in an I/O translation cache: no pointer entry, and no entry of the streams that the operation names (07 R186). -/
theorem ioTlbi_clears (unit : Nat) (streams : Nat → Bool) (form : Nat) (va : Word) (asid cur : Nat) (s : State) :
    (ioTlbOf (ioTlbi unit streams form va asid cur s) unit).ptrs.ways = [] ∧
      ∀ x ∈ (ioTlbOf (ioTlbi unit streams form va asid cur s) unit).ents.ways,
        ¬(streams x.2.stream = true ∧ tlbiHits form va asid cur x.2.e = true) := by
  unfold ioTlbi
  dsimp only
  rw [ioTlbOf_setIoTlb_same]
  dsimp only
  rw [psMap_none_ways]
  refine ⟨rfl, fun x hx h => ?_⟩
  have := (List.mem_filter.1 hx).2
  rw [h.1, h.2] at this
  exact absurd this (by simp)

end Sys2Proof.Machine
end

section
/-! PROOF. Engine exceptions, shootdowns, I/O walks and route epochs (O41). -/

namespace Sys2Proof.Machine
open Sys2Proof

/-! ## Engines and shootdowns -/

/-- ENGINE_EXCEPTION at an engine that runs (03 R77): it is closed, and its exception and its failure are recorded. -/
theorem engineException_answers {n : Nat} {code : BitVec 8} {s : State} (hr : prvRuns s n = true) (hc : engineClass code.toNat = true) :
    Answers (.engineException n code) s (fun u =>
      (prvOf u n).failed = true ∧ (prvOf u n).run = .gated ∧ (∀ j, j ≠ n → prvOf u j = prvOf s j) ∧
      (∃ a b, u.ras.inbox = s.ras.inbox ++ [a, b] ∧ a.unit = 272 + n ∧ a.cls = 0x0107 ∧ a.d0 = code.toNat ∧ a.d1 = (prvOf s n).pc.toNat ∧
        b.unit = 272 + n ∧ b.cls = 0x0501 ∧ b.d0 = 0) ∧
      ((∃ j, j ≠ n ∧ prvRuns s j = true) → u.journal = s.journal ∧ ∀ i, i < 64 → objN u 0x6200 i ≠ n) ∧ u.mem = s.mem ∧ u.cores = s.cores) := by
  obtain ⟨r, he, hh, h1, h2, h3, h4⟩ := stopEngine_eq n code.toNat s
  have hx : exec (.engineException n code) s = .next (engineFail n 0 (report r s)) := by
    show Host.Outcome.next (if prvRuns s n ∧ engineClass code.toNat then stopEngine n code.toNat s else s) = _
    rw [if_pos ⟨hr, hc⟩, he]
  have hn : n < 64 := by
    simp only [prvRuns, Bool.and_eq_true, decide_eq_true_eq] at hr
    exact hr.1.1
  have hp (j : Nat) : prvOf (report r s) j = prvOf s j := (UnitWork.report r s).cpus (.prv j)
  obtain ⟨b, hb, b1, b2, b3⟩ := engineFail_inbox n 0 (report r s)
  refine ⟨_, hx, ⟨?_, ?_, fun j hj => ?_, ?_, ?_, ?_, ?_⟩, ?_⟩
  · rw [prvOf_engineFail_same]
  · rw [prvOf_engineFail_same]
  · rw [prvOf_engineFail_other _ _ _ hj, hp]
  · rw [hb, report_ras hh]
    exact ⟨_, b, List.append_assoc _ _ _, h1, h2, h3, h4, b1, b2, b3⟩
  · rintro ⟨j, hj, hrj⟩
    have t := engineFail_taken 0 (s := report r s) hn hj (by rw [prvRuns_congr (report_prv r s), hrj])
    rwa [report_journal] at t
  · rw [engineFail_mem, report_mem]
  · rw [engineFail_cores, report_cores]
  · rw [engineFail_pending, report_pending]

section
variable {n k : Nat} {s : State} {ts : List TlbTarget} {form asid at_ : Nat} {va : Word}

/-- TLBI_SHOOTDOWN at a core that is not the last target (07 R187). -/
theorem tlbiShootdown_core (hw : (coreOf s n).wait = .tlbi ts form va asid at_) (hc : ts.contains (.core k) = true)
    (he : ts.erase (.core k) ≠ []) (hk : k ≠ n) (hb : (coreOf s k).sb = []) :
    Answers (.tlbiShootdown (.core k) n) s (fun u =>
      tlbEntries (coreOf u k) = (tlbEntries (coreOf s k)).filter (fun x => !(tlbiHits form va asid (curAsid (coreOf s n)) x)) ∧
      (∀ q, gpr (coreOf u k) q = gpr (coreOf s k) q) ∧ coreOf u n = { coreOf s n with wait := .tlbi (ts.erase (.core k)) form va asid at_ } ∧
      (∀ j, j ≠ n → j ≠ k → coreOf u j = coreOf s j) ∧ u.objs = s.objs ∧ MemKept s u) := by
  obtain ⟨v, hv, ht, hg, ho, hs, hm⟩ := tlbiAt_core hb (enclOfCore s n) form va asid (curAsid (coreOf s n))
  have hvn : coreOf v n = coreOf s n := ho (.core n) (by simpa using hk.symm)
  have hx : exec (.tlbiShootdown (.core k) n) s = .next (shootdown (.core k) n s) := rfl
  rw [shootdown_acked hw hc hv, tlbiAck_more (by rw [hvn, hw]) hc he] at hx
  refine ⟨_, hx, ⟨?_, fun q => ?_, ?_, fun j hj hjk => ?_, ?_, ?_⟩, ?_⟩
  · rw [coreOf_modCpu_other _ _ hk, ht]
  · rw [coreOf_modCpu_other _ _ hk]
    unfold gpr
    rw [hg]
  · rw [coreOf_modCpu_same, hvn]
  · rw [coreOf_modCpu_other _ _ hj]
    exact ho (.core j) (by simpa using hjk)
  · rw [modCpu_objs, hs.objs]
  · exact hm.trans (.of_mem (by simp))
  · rw [modCpu_pending, hs.pending]

/-- TLBI_SHOOTDOWN at a root complex that is the last target (07 R186, R187): the TLBI retires. -/
theorem tlbiShootdown_pe (hw : (coreOf s n).wait = .tlbi [.pe k] form va asid at_) :
    Answers (.tlbiShootdown (.pe k) n) s (fun u =>
      (coreOf u n).wait = .none ∧ (noLoopEnd (coreOf s n) → (coreOf u n).pc = (coreOf s n).pc + 4) ∧ (ioTlbOf u (352 + k)).ptrs.ways = [] ∧
      ∀ x ∈ (ioTlbOf u (352 + k)).ents.ways, ¬(64 + 32 * enclOfCore s n ≤ x.2.stream ∧ x.2.stream < 96 + 32 * enclOfCore s n ∧
        tlbiHits form va asid (curAsid (coreOf s n)) x.2.e = true)) := by
  obtain ⟨h1, h2⟩ := ioTlbi_clears (352 + k) (peStreams (enclOfCore s n)) form va asid (curAsid (coreOf s n)) s
  have hx : exec (.tlbiShootdown (.pe k) n) s = .next (shootdown (.pe k) n s) := rfl
  have hc : [TlbTarget.pe k].contains (.pe k) = true := by simp
  rw [shootdown_acked hw hc (tlbiAt_pe k _ form va asid _ s)] at hx
  have hvn : coreOf (ioTlbi (352 + k) (peStreams (enclOfCore s n)) form va asid (curAsid (coreOf s n)) s) n = coreOf s n := rfl
  have hvp : (ioTlbi (352 + k) (peStreams (enclOfCore s n)) form va asid (curAsid (coreOf s n)) s).pending = s.pending := rfl
  generalize ioTlbi (352 + k) (peStreams (enclOfCore s n)) form va asid (curAsid (coreOf s n)) s = v at h1 h2 hvn hvp hx
  rw [tlbiAck_last (by rw [hvn, hw]) hc (by simp)] at hx
  have hs := (HartSide.modCpu (.core n) (fun c => { c with wait := .none }) v).trans (.retireWaited n _)
  have hio := ioTlbOf_congr hs.iotlb (352 + k)
  refine ⟨_, hx, ⟨?_, fun hl => ?_, ?_, fun x hm hh => ?_⟩, ?_⟩
  · rw [(retireWaited_regs n _).wait, coreOf_modCpu_same]
  · rw [retireWaited_pc, coreOf_modCpu_same, hvn]
    rw [coreOf_modCpu_same, hvn]
    exact hl
  · rw [hio, h1]
  · rw [hio] at hm
    obtain ⟨a, b, d⟩ := hh
    exact h2 x hm ⟨decide_eq_true ⟨a, b⟩, d⟩
  · rw [hs.pending, hvp]

/-- IO_TLBI_ACK_TIMEOUT when it is due (07 R188): the engine is failed, which counts as its acknowledgement. -/
theorem ioTlbiAckTimeout_due (hk : k < 192) (hw : (coreOf s k).wait = .tlbi ts form va asid at_) (hc : ts.contains (.prv n) = true)
    (he : ts.erase (.prv n) ≠ []) (hr : prvRuns s n = true) (hd : at_ + 12800 ≤ s.stamp) :
    Answers (.ioTlbiAckTimeout n) s (fun u => (prvOf u n).failed = true ∧ (coreOf u k).wait = .tlbi (ts.erase (.prv n)) form va asid at_) := by
  have hov : tlbiOverdue n s ≠ [] := List.ne_nil_of_mem (mem_tlbiOverdue.2 ⟨hk, ts, form, va, asid, at_, hw, hc, hd⟩)
  have hx : exec (.ioTlbiAckTimeout n) s = .next ((List.range 192).foldl (fun s k => tlbiAck k (.prv n) s) (engineFail n 2 s)) := by
    show Host.Outcome.next (ioTlbiTimeout n s) = _
    unfold ioTlbiTimeout
    rw [if_neg hov, if_pos hr]
  obtain ⟨ho, hs⟩ := tlbiAcks_work (.prv n) (List.range 192) (engineFail n 2 s)
  have hwk : (coreOf (engineFail n 2 s) k).wait = .tlbi ts form va asid at_ := by
    unfold coreOf
    rw [engineFail_cores]
    exact hw
  refine ⟨_, hx, ⟨?_, tlbiAcks_more List.nodup_range (List.mem_range.2 hk) hwk hc he⟩, ?_⟩
  · have h : prvOf _ n = prvOf (engineFail n 2 s) n := ho (.prv n) (by simp)
    rw [h, prvOf_engineFail_same]
  · rw [hs.pending, engineFail_pending]

/-- IO_TLBI_ACK_TIMEOUT before any is due (07 R188). -/
theorem ioTlbiAckTimeout_early (h : ∀ j ts form va asid a, j < 192 → (coreOf s j).wait = .tlbi ts form va asid a → s.stamp < a + 12800) :
    exec (.ioTlbiAckTimeout n) s = .next s := by
  have hov : tlbiOverdue n s = [] := List.eq_nil_iff_forall_not_mem.2 fun j hj => by
    obtain ⟨hj, ts, form, va, asid, a, hw, -, hd⟩ := mem_tlbiOverdue.1 hj
    have := h j ts form va asid a hj hw
    omega
  show Host.Outcome.next (ioTlbiTimeout n s) = _
  unfold ioTlbiTimeout
  rw [if_pos hov]

end

/-! ## I/O translation walks (07 R190) -/

/-- IO_TRANSLATION_WALK at an engine. -/
theorem ioTranslationWalk_prv {n e : Nat} {va : Word} {store : Bool} {s : State} (he : e < 16) (hn : n < 64) :
    Answers (.ioTranslationWalk (.prv n) e va store) s (fun u =>
      u = (ioTranslate (272 + n) e e ⟨mGet 0 s.ioRoots e, (mGet 0 s.ioAsids e).toNat % 4096⟩ va store s).2 ∧
      (flag (mGet 0 s.ioRoots e) 2 = false → u = { s with iotlb := u.iotlb, ras := u.ras }) ∧ (∀ j, j ≠ 272 + n → ioTlbOf u j = ioTlbOf s j)) := by
  have hx : exec (.ioTranslationWalk (.prv n) e va store) s =
      .next (ioTranslate (272 + n) e e ⟨mGet 0 s.ioRoots e, (mGet 0 s.ioAsids e).toNat % 4096⟩ va store s).2 := by
    show Host.Outcome.next (ioWalk (.prv n) e va store s) = _
    unfold ioWalk
    dsimp only
    rw [if_pos ⟨he, hn⟩]
  refine ⟨_, hx, ⟨rfl, ?_⟩, (UnitWork.ioTranslate (272 + n) e e _ va store s).pending⟩
  rcases ioTranslate_cases (272 + n) e e ⟨mGet 0 s.ioRoots e, (mGet 0 s.ioAsids e).toNat % 4096⟩ va store s with h | h
  · rw [h]
    exact ⟨fun _ => rfl, fun _ _ => rfl⟩
  · exact ⟨fun hf => h.unmarked hf, fun j hj => h.others hj⟩

/-- IO_TRANSLATION_WALK at a root complex for a stream that is not enabled. -/
theorem ioTranslationWalk_disabled {n stream : Nat} {va : Word} {store : Bool} {s : State}
    (hf : flag (mGet 0 s.sctl (stream - 64)) 63 = false) : exec (.ioTranslationWalk (.pe n) stream va store) s = .next s := by
  show Host.Outcome.next (ioWalk (.pe n) stream va store s) = _
  unfold ioWalk
  dsimp only
  refine congrArg _ (if_neg ?_)
  rintro ⟨-, -, -, h⟩
  rw [hf] at h
  exact absurd h (by simp)

/-! ## Route epochs (10 R265-R268) -/

section
variable {s : State} {p v : Nat}

/-- One entry written to a table: the positions that read another slice than before. -/
theorem moved_of_one (tab : FMap Nat) (hp : p < 216) : (List.range 216).filter (fun j => decide (mGet j (mPut p tab p v) j ≠ mGet j tab j)) =
    if mGet p tab p = v then [] else [p] := by
  have h (j : Nat) : mGet j (mPut p tab p v) j ≠ mGet j tab j ↔ j = p ∧ mGet p tab p ≠ v := by
    by_cases hj : j = p
    · subst hj; simp [eq_comm]
    · simp [hj, mGet_mPut_other]
  simp only [h]
  by_cases hv : mGet p tab p = v
  · simp [hv]
  · simp only [hv, ne_eq, not_false_eq_true, and_true, if_false]
    rw [List.filter_eq, List.count_range, if_pos hp]
    rfl

/-- One entry written while the second table is not current: the rest of it is copied from the current one. -/
theorem tableWrite_one (he : s.mesh.epoch = false) (hp : p < 216) : tableWrite [(p, v)] s =
    { s with mesh := { s.mesh with table1 := mPut p s.mesh.table0 p v, moves := if mGet p s.mesh.table0 p = v then [] else [p] } } := by
  unfold tableWrite
  simp only [he, List.foldl_cons, List.foldl_nil, hp, if_true, Bool.false_eq_true, if_false, moved_of_one s.mesh.table0 hp]

/-- ROUTE_TABLE_WRITE of one entry while the first table is current and no change is under way. -/
theorem routeTableWrite_taken (hd : s.mesh.draining = false) (hs : s.mesh.switchAt = none) (he : s.mesh.epoch = false) (hp : p < 216) :
    Answers (.routeTableWrite [(p, v)]) s (fun u =>
      mGet p u.mesh.table1 p = v ∧ (∀ j, j ≠ p → mGet j u.mesh.table1 j = mGet j s.mesh.table0 j) ∧
      u = { s with mesh := { s.mesh with table1 := u.mesh.table1, moves := if mGet p s.mesh.table0 p = v then [] else [p] } }) := by
  have hx : exec (.routeTableWrite [(p, v)]) s = .next (tableWrite [(p, v)] s) := by
    show Host.Outcome.next (routeWrite [(p, v)] s) = _
    unfold routeWrite
    rw [if_neg (by simp [hd]), if_neg (by simp [hs])]
  rw [tableWrite_one he hp] at hx
  exact ⟨_, hx, ⟨mGet_mPut_same _ _ _ _, fun j hj => mGet_mPut_other _ _ _ _ _ _ hj, rfl⟩, rfl⟩

/-- ROUTE_TABLE_WRITE while old flits drain (10 R267). -/
theorem routeTableWrite_held (hd : s.mesh.draining = true) (hh : s.mesh.heldTab = none) :
    Answers (.routeTableWrite [(p, v)]) s (fun u => u = { s with mesh := { s.mesh with heldTab := some [(p, v)] } }) := by
  have hx : exec (.routeTableWrite [(p, v)]) s = .next { s with mesh := { s.mesh with heldTab := some [(p, v)] } } := by
    show Host.Outcome.next (routeWrite [(p, v)] s) = _
    unfold routeWrite
    rw [if_pos hd, hh]
    rfl
  exact ⟨_, hx, rfl, rfl⟩

end

section
variable {s : State} {t : Nat}

theorem switchDue_none (h : s.mesh.switchAt = none) : switchDue s = false := by unfold switchDue; rw [h]

theorem switchDue_some {k : Nat} (h : s.mesh.switchAt = some k) (hk : k ≤ s.stamp) : switchDue s = true := by
  unfold switchDue; rw [h]; exact decide_eq_true hk

/-- ROUTE_SWITCH at least 64 ticks ahead (10 R266). -/
theorem routeSwitch_announced (h : s.mesh.switchAt = none) (hd : s.mesh.draining = false) (ht : s.stamp + 64 ≤ t) :
    Answers (.routeSwitch t) s (fun u => u = { s with mesh := { s.mesh with switchAt := some t } }) := by
  have hx : exec (.routeSwitch t) s = .next { s with mesh := { s.mesh with switchAt := some t } } := by
    show Host.Outcome.next (routeSwitch t s) = _
    unfold routeSwitch
    rw [if_neg (by simp [switchDue_none h]), if_pos (by simp [h, hd, ht])]
  exact ⟨_, hx, rfl, rfl⟩

/-- ROUTE_SWITCH for a tick too near (10 R266). -/
theorem routeSwitch_refused (h : s.mesh.switchAt = none) (ht : t < s.stamp + 64) : exec (.routeSwitch t) s = .next s := by
  show Host.Outcome.next (routeSwitch t s) = _
  unfold routeSwitch
  rw [if_neg (by simp [switchDue_none h]), if_neg (by omega)]

/-- A slice changed reads as the change of what it was; the others stay. -/
theorem sliceAt_modSlice (p j : Nat) (f : Slice → Slice) (s : State) : sliceAt (modSlice p f s) j = if j = p then f (sliceAt s p) else sliceAt s j :=
  mGet_mPut _ _ _ _ _

/-- The home slices at these positions begin their transfer (10 R268). -/
def slicesMoving (l : List Nat) (s : State) : State := l.foldl (fun s p => modSlice p (fun x => { x with moving := true }) s) s

theorem slicesMoving_frame (l : List Nat) (s : State) : slicesMoving l s = { s with slices := (slicesMoving l s).slices } := by
  refine List.foldlRecOn (motive := fun u : State => u = { s with slices := u.slices }) _ _ rfl fun (u : State) hu (p : Nat) _ => ?_
  rw [hu]
  rfl

/-- Each of them is in transfer, and the others stay. -/
theorem slicesMoving_slices (l : List Nat) (s : State) : (∀ j, j ∈ l ∨ (sliceAt s j).moving = true → (sliceAt (slicesMoving l s) j).moving = true) ∧
    ∀ j, j ∉ l → sliceAt (slicesMoving l s) j = sliceAt s j := by
  induction l generalizing s with
  | nil => exact ⟨fun j hj => hj.resolve_left List.not_mem_nil, fun _ _ => rfl⟩
  | cons p l ih =>
    obtain ⟨h1, h2⟩ := ih (modSlice p (fun x => { x with moving := true }) s)
    refine ⟨fun j hj => h1 j ?_, fun j hj => ?_⟩
    · rw [sliceAt_modSlice]
      by_cases h : j = p
      · exact .inr (by rw [if_pos h])
      · rw [if_neg h]
        exact hj.imp_left fun hj => (List.mem_cons.1 hj).resolve_left h
    · obtain ⟨hjp, hjl⟩ := not_or.1 (fun h => hj (List.mem_cons.2 h))
      refine (h2 j hjl).trans ?_
      rw [sliceAt_modSlice, if_neg hjp]

/-- ROUTE_SWITCH at the announced tick (10 R266, R268). -/
theorem routeSwitch_due {k : Nat} (h : s.mesh.switchAt = some k) (hk : k ≤ s.stamp) : Answers (.routeSwitch t) s (fun u =>
    u = { s with
      slices := u.slices
      mesh := { s.mesh with epoch := !s.mesh.epoch, switchAt := none, draining := true, latches := [], latchAt := s.stamp, moves := [] } } ∧
    (∀ j ∈ s.mesh.moves, (sliceAt u j).moving = true) ∧ ∀ j, j ∉ s.mesh.moves → sliceAt u j = sliceAt s j) := by
  have hx : exec (.routeSwitch t) s = .next (switchNow s) := by
    show Host.Outcome.next (routeSwitch t s) = _
    unfold routeSwitch
    rw [if_pos (switchDue_some h hk)]
  have hs : switchNow s = { s with
      slices := (slicesMoving s.mesh.moves s).slices
      mesh := { s.mesh with epoch := !s.mesh.epoch, switchAt := none, draining := true, latches := [], latchAt := s.stamp, moves := [] } } := by
    show { slicesMoving s.mesh.moves s with
      mesh := { (slicesMoving s.mesh.moves s).mesh with
        epoch := !s.mesh.epoch, switchAt := none, draining := true, latches := [], latchAt := s.stamp, moves := [] } } = _
    rw [slicesMoving_frame]
  obtain ⟨h1, h2⟩ := slicesMoving_slices s.mesh.moves s
  rw [hs] at hx
  exact ⟨_, hx, ⟨rfl, fun j hj => h1 j (.inl hj), h2⟩, rfl⟩

end

section
variable {s : State}

/-- The counts latched: the old epoch has drained at sum 0 (10 R267). -/
def latched (s : State) : State :=
  { s with mesh := { s.mesh with latches := s.mesh.latches ++ [oldFlits s], latchAt := s.stamp, draining := decide (oldFlits s ≠ 0) } }

/-- The counts latched and no change held any more. -/
def released (s : State) : State := { latched s with mesh := { (latched s).mesh with heldTab := none } }

/-- EPOCH_DRAIN_LATCH when it is due: a change that was held is written once the old epoch has drained. -/
theorem drainLatch_due (hd : s.mesh.draining = true) (ht : s.mesh.latchAt + 256 ≤ s.stamp) : drainLatch s =
    match (if oldFlits s = 0 then s.mesh.heldTab else none) with
    | some tab => tableWrite tab (released s)
    | none => latched s := by
  unfold drainLatch
  rw [if_neg (by simp [hd]; omega)]
  rfl

/-- EPOCH_DRAIN_LATCH with no change held. -/
theorem epochDrainLatch_latches (hd : s.mesh.draining = true) (ht : s.mesh.latchAt + 256 ≤ s.stamp) (hh : s.mesh.heldTab = none) :
    Answers .epochDrainLatch s (fun u => u = { s with mesh := { s.mesh with
      latches := s.mesh.latches ++ [oldFlits s], latchAt := s.stamp, draining := decide (oldFlits s ≠ 0) } }) := by
  have hx : exec .epochDrainLatch s = .next (latched s) := by
    show Host.Outcome.next (drainLatch s) = _
    rw [drainLatch_due hd ht, hh, ite_self]
  exact ⟨_, hx, rfl, rfl⟩

/-- EPOCH_DRAIN_LATCH that ends the drain with a change of one entry held. -/
theorem epochDrainLatch_writes {p v : Nat} (hd : s.mesh.draining = true) (ht : s.mesh.latchAt + 256 ≤ s.stamp) (ho : oldFlits s = 0)
    (hh : s.mesh.heldTab = some [(p, v)]) (he : s.mesh.epoch = false) (hp : p < 216) :
    Answers .epochDrainLatch s (fun u => u.mesh.draining = false ∧ u.mesh.heldTab = none ∧ mGet p u.mesh.table1 p = v ∧
      ∀ j, j ≠ p → mGet j u.mesh.table1 j = mGet j s.mesh.table0 j) := by
  have hx : exec .epochDrainLatch s = .next (tableWrite [(p, v)] (released s)) := by
    show Host.Outcome.next (drainLatch s) = _
    rw [drainLatch_due hd ht, hh, if_pos ho]
  rw [tableWrite_one (s := released s) he hp] at hx
  refine ⟨_, hx, ⟨?_, rfl, mGet_mPut_same _ _ _ _, fun j hj => mGet_mPut_other _ _ _ _ _ _ hj⟩, rfl⟩
  simp [released, latched, ho]

/-- EPOCH_DRAIN_LATCH before its 256 ticks (10 R267). -/
theorem epochDrainLatch_early (ht : s.stamp < s.mesh.latchAt + 256) : exec .epochDrainLatch s = .next s := by
  show Host.Outcome.next (drainLatch s) = _
  unfold drainLatch
  rw [if_pos (.inr ht)]

end

/-- Settles O41, one lemma for each command and condition. -/
theorem engineAndRouteEvents : Obligations.EngineAndRouteEvents := by
  unfold Obligations.EngineAndRouteEvents
  intro s n k t e p v at_ code ts form asid stream va store
  dsimp only
  refine ⟨engineException_answers, tlbiShootdown_core, tlbiShootdown_pe, ioTlbiAckTimeout_due, ioTlbiAckTimeout_early, ioTranslationWalk_prv,
    fun _ _ _ => ioTranslationWalk_disabled, routeTableWrite_taken, routeTableWrite_held, routeSwitch_announced, routeSwitch_refused,
    routeSwitch_due, epochDrainLatch_latches, epochDrainLatch_writes, epochDrainLatch_early⟩

end Sys2Proof.Machine
end

section
/-! SUPPORT. Loop evaluation (04 R91), and what a ready instruction leaves that completes, branches or traps. -/

namespace Sys2Proof.Machine
open Sys2Proof

/-! ## Loop evaluation (04 R91) -/

/-- Level `j` of the loop registers ends at the instruction at `a`. -/
def LoopEnds (a : Word) (c : Cpu) (j : Nat) : Prop := mGet 0 c.le j = a ∧ mGet 0 c.lc j ≠ 0

/-- A core with a level's count used up. -/
def usedUp (i : Nat) (c : Cpu) : Cpu := { c with lc := mPut 0 c.lc i 0 }

theorem usedUp_lc_same (i : Nat) (c : Cpu) : mGet 0 (usedUp i c).lc i = 0 := mGet_mPut_same 0 c.lc i 0

theorem usedUp_lc_other {i j : Nat} (c : Cpu) (h : j ≠ i) : mGet 0 (usedUp i c).lc j = mGet 0 c.lc j := mGet_mPut_other 0 0 c.lc i j 0 h

theorem usedUp_ends {a : Word} {i j : Nat} {c : Cpu} (h : j ≠ i) : LoopEnds a (usedUp i c) j ↔ LoopEnds a c j := by
  unfold LoopEnds; rw [usedUp_lc_other c h]; rfl

/-- A level that ends with count 1 is used up, and the next is tried. -/
theorem loopEval_last {a : Word} {k i : Nat} {c : Cpu} (he : LoopEnds a c i) (h1 : mGet 0 c.lc i = 1) :
    loopEval a (k + 1) i c = loopEval a k (i + 1) (usedUp i c) := by
  unfold LoopEnds at he
  rw [loopEval, if_pos he, if_pos h1]; rfl

/-- A level that ends with a higher count counts down, and control returns to its start. -/
theorem loopEval_again {a : Word} {k i : Nat} {c : Cpu} (he : LoopEnds a c i) (h1 : mGet 0 c.lc i ≠ 1) :
    loopEval a (k + 1) i c = { c with lc := mPut 0 c.lc i (mGet 0 c.lc i - 1), pc := mGet 0 c.ls i } := by
  unfold LoopEnds at he
  rw [loopEval, if_pos he, if_neg h1]

/-- A level that does not end is passed over. -/
theorem loopEval_skip {a : Word} {k i : Nat} {c : Cpu} (he : ¬ LoopEnds a c i) : loopEval a (k + 1) i c = loopEval a k (i + 1) c := by
  unfold LoopEnds at he
  rw [loopEval, if_neg he]

/-- Where no level ends, control falls through and the counts stay. -/
theorem loopEval_none {a : Word} {c : Cpu} (k i : Nat) (h : ∀ j, i ≤ j → j < i + k → ¬ LoopEnds a c j) :
    loopEval a k i c = { c with pc := a + 4 } := by
  induction k generalizing i with
  | zero => rfl
  | succ k ih =>
    rw [loopEval_skip (h i (Nat.le_refl i) (by omega))]
    exact ih (i + 1) fun j h1 h2 => h j (by omega) (by omega)

/-- The levels that have been tried keep their counts. -/
theorem loopEval_lc_below {a : Word} {k i j : Nat} {c : Cpu} (hj : j < i) : mGet 0 (loopEval a k i c).lc j = mGet 0 c.lc j := by
  induction k generalizing i c with
  | zero => rfl
  | succ k ih =>
    by_cases he : LoopEnds a c i
    · by_cases h1 : mGet 0 c.lc i = 1
      · rw [loopEval_last he h1, ih (by omega), usedUp_lc_other c (by omega)]
      · rw [loopEval_again he h1]; exact mGet_mPut_other _ _ _ _ _ _ (by omega)
    · rw [loopEval_skip he, ih (by omega)]

/-- The first level that ends with a count above 1, `m`, counts down and control returns to its start: the levels before it that end are
exhausted, those after it untouched. -/
theorem loopEval_returns {a : Word} {k i m : Nat} {c : Cpu} (him : i ≤ m) (hmk : m < i + k) (hm : LoopEnds a c m) (h1 : mGet 0 c.lc m ≠ 1)
    (hl : ∀ j, i ≤ j → j < m → LoopEnds a c j → mGet 0 c.lc j = 1) :
    (loopEval a k i c).pc = mGet 0 c.ls m ∧ mGet 0 (loopEval a k i c).lc m = mGet 0 c.lc m - 1 ∧
      (∀ j, i ≤ j → j < m → LoopEnds a c j → mGet 0 (loopEval a k i c).lc j = 0) ∧
      ∀ j, m < j → mGet 0 (loopEval a k i c).lc j = mGet 0 c.lc j := by
  induction k generalizing i c with
  | zero => omega
  | succ k ih =>
    rcases Nat.eq_or_lt_of_le him with rfl | hlt
    · rw [loopEval_again hm h1]
      exact ⟨rfl, mGet_mPut_same _ _ _ _, fun j _ _ => by omega, fun j hj => mGet_mPut_other _ _ _ _ _ _ (by omega)⟩
    · by_cases he : LoopEnds a c i
      · have hi := hl i (Nat.le_refl i) hlt he
        obtain ⟨hpc, hlc, hbelow, habove⟩ := ih (c := usedUp i c) hlt (by omega) ((usedUp_ends (by omega)).2 hm)
          (by rwa [usedUp_lc_other c (by omega)])
          fun j hij hjm hj => by rw [usedUp_lc_other c (by omega)]; exact hl j (by omega) hjm ((usedUp_ends (by omega)).1 hj)
        rw [loopEval_last he hi]
        refine ⟨hpc, by rw [hlc, usedUp_lc_other c (by omega)], fun j hij hjm hj => ?_, fun j hj => ?_⟩
        · rcases Nat.eq_or_lt_of_le hij with rfl | hij
          · rw [loopEval_lc_below (Nat.lt_succ_self _), usedUp_lc_same]
          · exact hbelow j hij hjm ((usedUp_ends (by omega)).2 hj)
        · rw [habove j hj, usedUp_lc_other c (by omega)]
      · obtain ⟨hpc, hlc, hbelow, habove⟩ := ih hlt (by omega) hm h1 fun j hij => hl j (by omega)
        rw [loopEval_skip he]
        refine ⟨hpc, hlc, fun j hij hjm hj => hbelow j ?_ hjm hj, habove⟩
        exact Nat.lt_of_le_of_ne hij fun h => he (h ▸ hj)

/-- Where every level that ends has count 1, all of them are exhausted and control falls through. -/
theorem loopEval_exhausts {a : Word} {k i : Nat} {c : Cpu} (hl : ∀ j, i ≤ j → j < i + k → LoopEnds a c j → mGet 0 c.lc j = 1) :
    (loopEval a k i c).pc = a + 4 ∧ ∀ j, i ≤ j → j < i + k → LoopEnds a c j → mGet 0 (loopEval a k i c).lc j = 0 := by
  induction k generalizing i c with
  | zero => exact ⟨rfl, fun j _ _ => by omega⟩
  | succ k ih =>
    by_cases he : LoopEnds a c i
    · have hi := hl i (Nat.le_refl i) (by omega) he
      obtain ⟨hpc, hzero⟩ := ih (i := i + 1) (c := usedUp i c) fun j hij hjk hj => by
        rw [usedUp_lc_other c (by omega)]; exact hl j (by omega) (by omega) ((usedUp_ends (by omega)).1 hj)
      rw [loopEval_last he hi]
      refine ⟨hpc, fun j hij hjk hj => ?_⟩
      rcases Nat.eq_or_lt_of_le hij with rfl | hij
      · rw [loopEval_lc_below (Nat.lt_succ_self _), usedUp_lc_same]
      · exact hzero j hij (by omega) ((usedUp_ends (by omega)).2 hj)
    · obtain ⟨hpc, hzero⟩ := ih (i := i + 1) (c := c) fun j hij hjk => hl j (by omega) (by omega)
      rw [loopEval_skip he]
      refine ⟨hpc, fun j hij hjk hj => hzero j ?_ (by omega) hj⟩
      exact Nat.lt_of_le_of_ne hij fun h => he (h ▸ hj)

/-! ## The loop counts at a retirement (04 R91) -/

/-- Loop evaluation reads the loop registers alone, and leaves the same counts. -/
theorem loopEval_lc_congr {c d : Cpu} (a : Word) (k i : Nat) (h1 : d.le = c.le) (h2 : d.lc = c.lc) :
    (loopEval a k i d).lc = (loopEval a k i c).lc := by
  induction k generalizing i c d with
  | zero => exact h2
  | succ k ih =>
    unfold loopEval
    rw [h1, h2]
    split
    · split
      · exact ih (i + 1) (by simp) (by simp)
      · rfl
    · exact ih (i + 1) h1 h2

/-- A hart whose control has gone on: to an address, or to where loop evaluation sends it. -/
def wentOn (next : Option Word) (c : Cpu) : Cpu :=
  match next with
  | some pc => { c with pc := pc }
  | none => loopEval c.pc 3 0 c

@[simp] theorem wentOn_some (pc : Word) (c : Cpu) : wentOn (some pc) c = { c with pc := pc } := rfl
@[simp] theorem wentOn_none (c : Cpu) : wentOn none c = loopEval c.pc 3 0 c := rfl

theorem wentOn_lc_congr {c d : Cpu} (next : Option Word) (hp : d.pc = c.pc) (h1 : d.le = c.le) (h2 : d.lc = c.lc) :
    (wentOn next d).lc = (wentOn next c).lc := by
  cases next with
  | some _ => exact h2
  | none => rw [wentOn_none, wentOn_none, hp]; exact loopEval_lc_congr c.pc 3 0 h1 h2

theorem retireCpu_lc (n : Nat) (next : Option Word) (c : Cpu) : (retireCpu n next c).lc = (wentOn next c).lc := by
  have h (d : Cpu) : (stepped (retryDone n d)).lc = d.lc := by unfold retryDone; split <;> rfl
  cases next <;> exact h _

theorem retire_lc (h : Hart) (next : Option Word) (s : State) : (cpuOf (retire h next s) h).lc = (wentOn next (cpuOf s h)).lc := by
  cases h with
  | core n =>
    rw [retire_core, (HartWork.countEv n 1 1 _).hart.lc, cpuOf_modCpu_same]
    exact retireCpu_lc _ _ _
  | prv n =>
    obtain ⟨hle, hlc, -⟩ := ageProducts_loops (cpuOf s (.prv n))
    show (cpuOf (modCpu (.prv n) _ s) (.prv n)).lc = _
    rw [cpuOf_modCpu_same, retireCpu_lc, wentOn_lc_congr next (ageProducts_pc _) hle hlc]

theorem retired_lc (h : Hart) (e : WinEntry) (old : Cpu) (next : Option Word) (s : State) :
    (cpuOf (retired h e old next s) h).lc = (wentOn next (cpuOf s h)).lc := by
  cases h with
  | prv n => exact retire_lc (.prv n) next s
  | core n =>
    refine (HartWork.resolve n e next.isSome _).1.hart.lc.trans ?_
    rw [retire_lc, cpuOf_modCpu_same]
    have t := TlbOnly.fetchTouch old (cpuOf s (.core n))
    generalize Machine.fetchTouch old (cpuOf s (.core n)) = d at t ⊢
    exact wentOn_lc_congr next (by rw [t]) (by rw [t]) (by rw [t])

/-! ## A ready instruction, whatever it does and wherever it goes -/

theorem ready_wellFormed {h : Hart} {i : Instr} {s : State} (hr : ready h i s = true) : wellFormed i = true := by
  simp only [ready, legal, Bool.and_eq_true] at hr
  obtain ⟨-, ⟨hw, -⟩, -⟩ := hr
  exact hw

/-- How an instruction ends that completes: a transfer of control to an address, or falling through. -/
def doneAt : Option Word → Done
  | some pc => .jump pc
  | none => .seq

/-- A ready instruction whose effect leaves `t` and completes: its hart, its frame, and where control goes. -/
theorem run_retires {h : Hart} {i : Instr} {s t : State} {body : State → State × Done} {w : Writes} {next : Option Word}
    (hr : ready h i s = true) (hb : body (started h i s) = (t, doneAt next)) (hk : Kept h w (started h i s) t)
    (hm : MemKept (started h i s) t) :
    ∃ u, run h i body s = .next u ∧ RegsKept (cpuOf t h) (cpuOf u h) ∧ Kept h w s u ∧ MemKept (walked h s) u ∧
      (cpuOf u h).pc = (wentOn next (cpuOf t h)).pc ∧ (cpuOf u h).lc = (wentOn next (cpuOf t h)).lc := by
  obtain ⟨k, m, -⟩ := started_work (ready_delivers hr)
  have hf (e : WinEntry) (old : Cpu) : finish h e old t (doneAt next) = retired h e old next t := by cases next <;> rfl
  refine ⟨_, run_ready body hr, ?_⟩
  rw [hb, ready_walked hr, hf]
  exact ⟨retired_regs h _ _ next t, k.kept.between hk (retired_kept h _ _ next t), (m.trans hm).trans (retired_memKept h _ _ next t),
    (retired_pc h _ _ next t).trans (by cases next <;> rfl), retired_lc h _ _ next t⟩

/-- A meaning whose effect completes the instruction, keeping the loop registers and control as the fetch left them. -/
theorem runs_of_work {h : Hart} {i : Instr} {s : State} {body : State → State × Done} {w : Writes} {next : Option Word} {P : Cpu → Prop}
    (he : exec i s = run h i body s)
    (hb : ready h i s = true → ∃ t, body (started h i s) = (t, doneAt next) ∧ Kept h w (started h i s) t ∧ MemKept (started h i s) t ∧
      (next = none → FetchKept (cpuOf (started h i s) h) (cpuOf t h)) ∧ ∀ d, RegsKept (cpuOf t h) d → P d) :
    Runs h i s w next P := by
  intro hr
  obtain ⟨t, hbody, hkept, hmem, hloops, hpost⟩ := hb hr
  obtain ⟨u, hrun, hregs, hframe, hmem', hpc, -⟩ := run_retires hr hbody hkept hmem
  refine ⟨u, he.trans hrun, hpost _ hregs, hframe, hmem', ?_⟩
  cases next with
  | some pc => exact hpc
  | none =>
    intro hn
    have k := (started_work (ready_delivers hr)).1.hart.trans (hloops rfl)
    rw [hpc, wentOn_none, loopEval_pc 3 0 _ fun j _ hj => k.noLoopEnd hn j (by omega), k.pc]

/-- A meaning whose effect on the state after the fetch is an exception takes it. -/
theorem traps_of_body {h : Hart} {i : Instr} {s : State} {body : State → State × Done} {e : Exc} (he : exec i s = run h i body s)
    (hb : ready h i s = true → body (started h i s) = (started h i s, .exc e)) : Traps h i s e := by
  intro hr
  rw [he, run_ready body hr, hb hr]
  rfl

/-! ## Branches (04 R87, R88) -/

/-- Counting an event on a hart keeps its registers, every other hart and memory. -/
theorem HartWork.countH (h : Hart) (ev k : Nat) (s : State) : HartWork h s (countH h ev k s) ∧ MemKept s (countH h ev k s) := by
  cases h with
  | core n => exact ⟨.countEv n ev k s, .of_mem (countEv_mem n ev k s)⟩
  | prv n => exact ⟨.refl _ s, .refl s⟩

/-- A meaning that only counts a branch and goes where it goes. -/
theorem runs_of_branch {h : Hart} {i : Instr} {s : State} {body : State → State × Done} {next : Option Word}
    (he : exec i s = run h i body s)
    (hb : ready h i s = true → body (started h i s) = (countH h 0x10 1 (started h i s), doneAt next)) :
    Runs h i s {} next (fun _ => True) := by
  refine runs_of_work he fun hr => ?_
  obtain ⟨k, m⟩ := HartWork.countH h 0x10 1 (started h i s)
  exact ⟨_, hb hr, k.kept, m, fun _ => k.hart, fun _ _ => trivial⟩

/-- A hart whose link register names an address to return to. -/
def linked (a : Word) (c : Cpu) : Cpu := { c with lk := ⟨a, .link⟩ }

theorem linked_kept (h : Hart) (a : Word) (s : State) : Kept h { lk := true } s (modCpu h (linked a) s) :=
  Kept.modCpu fun _ => ⟨fun _ _ => rfl, fun _ _ => rfl, fun _ _ => rfl, fun _ _ _ => rfl, nofun, fun _ hm => ⟨rfl, rfl, hm⟩,
    fun _ => ⟨rfl, rfl⟩, rfl⟩

theorem callTo_eq (h : Hart) (target : Word) (s : State) :
    callTo h target s = (countH h 0x10 1 (modCpu h (linked ((cpuOf s h).pc + 4)) s), doneAt (some target)) := rfl

/-- A call leaves the address after it in LK, and goes to its target (04 R87, R88). -/
theorem runs_of_call {h : Hart} {i : Instr} {s : State} {body : State → State × Done} {target : Word} (he : exec i s = run h i body s)
    (hb : ready h i s = true → body (started h i s) = callTo h target (started h i s)) :
    Runs h i s { lk := true } (some target) (fun d => d.lk = ⟨(cpuOf s h).pc + 4, .link⟩) := by
  refine runs_of_work he fun hr => ?_
  obtain ⟨k, m⟩ := HartWork.countH h 0x10 1 (modCpu h (linked ((cpuOf s h).pc + 4)) (started h i s))
  refine ⟨_, ?_, (Kept.refl h {} _).between (linked_kept h _ (started h i s)) k.kept, (MemKept.of_mem (by simp)).trans m, nofun,
    fun d hd => ?_⟩
  · rw [hb hr, callTo_eq, started_pc hr]
  · rw [hd.lk, k.hart.lk, cpuOf_modCpu_same]; rfl

end Sys2Proof.Machine
end

section
/-! PROOF. Three-register integer operations and known words (O8, O6). -/

namespace Sys2Proof.Machine
open Sys2Proof

/-! ## Values (04 R82, R84) -/

/-- A comparison's value, as the statements write it. -/
theorem cmpW_eq (b : Bool) : cmpW b = if b = true then 1 else 0 := rfl

/-- The high half of a 128-bit product known as an integer. -/
theorem setWidth_shiftRight_ofInt (x : Int) : ((BitVec.ofInt 128 x) >>> 64).setWidth 64 = BitVec.ofInt 64 (x / 2 ^ 64) := by
  apply BitVec.eq_of_toNat_eq
  rw [BitVec.toNat_setWidth, BitVec.toNat_ushiftRight, BitVec.toNat_ofInt, BitVec.toNat_ofInt, Nat.shiftRight_eq_div_pow]
  omega

theorem mulhS_eq (a b : Word) : mulhS a b = ((a.signExtend 128 * b.signExtend 128) >>> 64).setWidth 64 := by
  have hp : a.signExtend 128 * b.signExtend 128 = BitVec.ofInt 128 (a.toInt * b.toInt) := by
    rw [BitVec.ofInt_mul]; rfl
  rw [hp, setWidth_shiftRight_ofInt]; rfl

theorem mulhU_eq (a b : Word) : mulhU a b = ((a.setWidth 128 * b.setWidth 128) >>> 64).setWidth 64 := by
  have hp : a.setWidth 128 * b.setWidth 128 = BitVec.ofInt 128 ((a.toNat * b.toNat : Nat) : Int) := by
    rw [BitVec.ofInt_natCast, BitVec.ofNat_mul]; simp
  rw [hp, setWidth_shiftRight_ofInt]
  exact (BitVec.ofInt_natCast 64 (a.toNat * b.toNat / 2 ^ 64)).symm

theorem divS_eq (a b : Word) : divS a b = if b = 0 then BitVec.allOnes 64 else a.sdiv b := by
  have h : BitVec.ofInt 64 (a.toInt.tdiv b.toInt) = a.sdiv b := BitVec.eq_of_toInt_eq (by rw [BitVec.toInt_ofInt, BitVec.toInt_sdiv])
  rw [divS, h]

theorem divU_eq (a b : Word) : divU a b = if b = 0 then BitVec.allOnes 64 else a / b := by rw [divU, BitVec.udiv_def]

theorem remS_eq (a b : Word) : remS a b = if b = 0 then a else a.srem b := by
  rw [remS, ← BitVec.toInt_srem, BitVec.ofInt_toInt]

theorem remU_eq (a b : Word) : remU a b = if b = 0 then a else a % b := by rw [remU, BitVec.umod_def]

/-- An arithmetic shift divides, rounding down. -/
theorem sshiftRight_eq_div (a : Word) (n : Nat) : a.sshiftRight n = BitVec.ofInt 64 (a.toInt / 2 ^ n) := by
  rw [BitVec.sshiftRight, Int.shiftRight_eq_div_pow]
  push_cast
  rfl

/-- A rotation by less than the width joins two shifts, where a shift by nothing stands for one by the width. -/
theorem rotateRight_eq_or (a : Word) {n : Nat} (hn : n < 64) : a.rotateRight n = (a >>> n) ||| (a <<< ((64 - n) % 64)) := by
  rw [BitVec.rotateRight_def, Nat.mod_eq_of_lt hn]
  rcases Nat.eq_zero_or_pos n with rfl | h
  · simp
  · rw [Nat.mod_eq_of_lt (by omega : 64 - n < 64)]

/-! ## Integer operations by the tag they give (03 Table 3.7) -/

section
variable {h : Hart} {i : Instr} {s : State} {rd ra rb : Reg} {f : Word → Word → Word} {v : Word}
  (ha : Plain (cpuOf s h) (gpr (cpuOf s h) ra)) (hb : Plain (cpuOf s h) (gpr (cpuOf s h) rb))
include ha hb

theorem intRR_sets_data (he : exec i s = run h i (intRR h rd ra rb f dataTag) s) (hv : f (gpr (cpuOf s h) ra).v (gpr (cpuOf s h) rb).v = v) :
    SetsG h i s rd ⟨v, .data⟩ := intRR_sets he ha hb (by rw [hv]; rfl)

theorem intRR_sets_sum (he : exec i s = run h i (intRR h rd ra rb f ptrTag) s) :
    SetsG h i s rd ⟨f (gpr (cpuOf s h) ra).v (gpr (cpuOf s h) rb).v, sumTag (gpr (cpuOf s h) ra).t (gpr (cpuOf s h) rb).t⟩ :=
  intRR_sets he ha hb (by rw [ptrTag_eq])

theorem intRR_sets_diff (he : exec i s = run h i (intRR h rd ra rb f subTag) s) :
    SetsG h i s rd ⟨f (gpr (cpuOf s h) ra).v (gpr (cpuOf s h) rb).v, diffTag (gpr (cpuOf s h) ra).t (gpr (cpuOf s h) rb).t⟩ :=
  intRR_sets he ha hb (by rw [subTag_eq])

end

/-- Settles O8: each operation is the register form of its value, which is the statement's by the lemmas above. -/
theorem integerResults : Obligations.IntegerResults := by
  unfold Obligations.IntegerResults
  intro h rd ra rb s
  dsimp only
  intro hx hy
  refine ⟨?add, ?sub, ?and, ?or, ?xor, ?andn, ?shl, ?shr, ?sra, ?ror, ?slt, ?sltu, ?seq, ?mul, ?mulh, ?mulhu, ?div, ?divu, ?rem, ?remu⟩
  case add => exact intRR_sets_sum hx hy rfl
  case sub => exact intRR_sets_diff hx hy rfl
  case and => exact intRR_sets_sum hx hy rfl
  case or => exact intRR_sets_sum hx hy rfl
  case xor => exact intRR_sets_sum hx hy rfl
  case andn => exact intRR_sets_data hx hy rfl rfl
  case shl => exact intRR_sets_data hx hy rfl rfl
  case shr => exact intRR_sets_data hx hy rfl rfl
  case sra => exact intRR_sets_data hx hy rfl (sshiftRight_eq_div _ _)
  case ror => exact intRR_sets_data hx hy rfl (rotateRight_eq_or _ (Nat.mod_lt _ (by decide)))
  case slt => exact intRR_sets_data hx hy rfl (by simp [cmpW_eq, BitVec.slt_iff_toInt_lt])
  case sltu => exact intRR_sets_data hx hy rfl (by simp [cmpW_eq, BitVec.ult_iff_toNat_lt])
  case seq => exact intRR_sets_data hx hy rfl (by simp [cmpW_eq])
  case mul => exact intRR_sets_data hx hy rfl rfl
  case mulh => exact intRR_sets_data hx hy rfl (mulhS_eq _ _)
  case mulhu => exact intRR_sets_data hx hy rfl (mulhU_eq _ _)
  case div => exact intRR_sets_data hx hy rfl (divS_eq _ _)
  case divu => exact intRR_sets_data hx hy rfl (divU_eq _ _)
  case rem => exact intRR_sets_data hx hy rfl (remS_eq _ _)
  case remu => exact intRR_sets_data hx hy rfl (remU_eq _ _)

/-- Settles O6: each word's major opcode picks its row, whose fields are read off. -/
theorem encodingOfKnownWords : Obligations.EncodingOfKnownWords := by
  unfold Obligations.EncodingOfKnownWords
  intro h
  have addi : decodeWord h 0x08E5FFF0 = decodeOp02 h 0x08E5FFF0 := rfl
  have bne : decodeWord h 0xAC60FFFB = decodeOp2B h 0xAC60FFFB := rfl
  have loop : decodeWord h 0xC4200003 = decodeOp31 h 0xC4200003 := rfl
  rw [addi, bne, loop]
  exact ⟨rfl, rfl, rfl, rfl⟩

end Sys2Proof.Machine
end

section
/-! PROOF. Direct branches, indirect transfers and hardware loops (O13, O14, O15). -/

namespace Sys2Proof.Machine
open Sys2Proof

/-! ## Addresses (04 R87, R88) -/

/-- Two places to the left are four times the value. -/
theorem shiftLeft_two (x : Word) : x <<< 2 = x * 4 := by
  apply BitVec.eq_of_toNat_eq
  rw [BitVec.toNat_shiftLeft, BitVec.toNat_mul, Nat.shiftLeft_eq]
  rfl

/-- An address with bits 1:0 cleared is the address less what those bits hold. -/
theorem alignTarget_eq (w : Word) : alignTarget w = w - BitVec.ofNat 64 (w.toNat % 4) := by
  have hbits : alignTarget w = (w >>> 2) <<< 2 := by
    refine BitVec.eq_of_getLsbD_eq fun i hi => ?_
    have h3 : (3 : Word).getLsbD i = decide (i < 2) := Nat.testBit_two_pow_sub_one 2 i
    rw [alignTarget, BitVec.getLsbD_and, BitVec.getLsbD_not, h3, BitVec.getLsbD_shiftLeft, BitVec.getLsbD_ushiftRight]
    by_cases h : i < 2
    · simp [h]
    · simp [h, hi, show 2 + (i - 2) = i by omega]
  rw [hbits]
  apply BitVec.eq_of_toNat_eq
  rw [BitVec.toNat_shiftLeft, BitVec.toNat_ushiftRight, BitVec.toNat_sub, BitVec.toNat_ofNat, Nat.shiftLeft_eq, Nat.shiftRight_eq_div_pow]
  have := w.isLt
  omega

/-! ## Conditional branches (04 R87) -/

/-- A conditional branch on operands it may take goes to its target when its comparison holds, and falls through otherwise. -/
theorem condBranch_runs {h : Hart} {i : Instr} {s : State} {ra rb : Reg} {off : BitVec 16} {p : Word → Word → Bool} {P : Prop} [Decidable P]
    (ha : Plain (cpuOf s h) (gpr (cpuOf s h) ra)) (hb : Plain (cpuOf s h) (gpr (cpuOf s h) rb))
    (he : exec i s = run h i (condBranch h ra rb off p) s) (hp : p (gpr (cpuOf s h) ra).v (gpr (cpuOf s h) rb).v = true ↔ P) :
    Runs h i s {} (if P then some ((cpuOf s h).pc + off.signExtend 64 * 4) else none) (fun _ => True) := by
  refine runs_of_branch he fun hr => ?_
  have hx : srcExc (cpuOf (started h i s) h) [gpr (cpuOf s h) ra, gpr (cpuOf s h) rb] = none := by
    refine srcExc_of_plain fun z hz => ?_
    simp only [List.mem_cons, List.not_mem_nil, or_false] at hz
    rcases hz with rfl | rfl
    · exact ha.started hr
    · exact hb.started hr
  unfold condBranch
  dsimp only
  rw [started_gpr hr, started_gpr hr, started_pc hr, hx, shiftLeft_two]
  by_cases hP : P
  · rw [if_pos hP, if_pos (hp.2 hP)]; rfl
  · rw [if_neg hP, if_neg (mt hp.1 hP)]; rfl

/-- Settles O13: every direct branch counts itself and goes to its target or on; CALL writes LK before it goes. -/
theorem branchResults : Obligations.BranchResults := by
  unfold Obligations.BranchResults
  intro h ra rb off far s
  dsimp only
  refine ⟨?j, ?call, fun ha hb => ⟨?beq, ?bne, ?blt, ?bge, ?bltu, ?bgeu⟩⟩
  case j => exact runs_of_branch rfl fun hr => by rw [pcOf, started_pc hr, shiftLeft_two]; rfl
  case call => exact runs_of_call rfl fun hr => by rw [pcOf, started_pc hr, shiftLeft_two]
  case beq => exact condBranch_runs ha hb rfl beq_iff_eq
  case bne => exact condBranch_runs ha hb rfl bne_iff_ne
  case blt => exact condBranch_runs ha hb rfl BitVec.slt_iff_toInt_lt
  case bge => exact condBranch_runs ha hb rfl (by simp [BitVec.slt_eq_decide])
  case bltu => exact condBranch_runs ha hb rfl BitVec.ult_iff_toNat_lt
  case bgeu => exact condBranch_runs ha hb rfl (by simp [BitVec.ult_eq_decide])

/-! ## Indirect transfers (04 R88, R89) -/

/-- A target that neither poison nor a handle stands in, with the tag that the level asks for, passes. -/
theorem targetExc_passes {h : Hart} {c : Cpu} {x : GVal} {sub : Nat} (hf : x.t ≠ .pois ∧ x.t ≠ .hndl)
    (ht : tagLevel h c = 0 ∨ x.t = .link ∨ (sub = 0x01 ∧ x.t = .cptr)) : targetExc h c x sub = none := by
  rw [targetExc, if_neg hf.1, if_neg hf.2, if_pos ht]

/-- With enforcement on, a target whose tag is not the one asked for is refused, and its value goes to TVAL. -/
theorem targetExc_refuses {h : Hart} {c : Cpu} {x : GVal} {sub : Nat} (hf : x.t ≠ .pois ∧ x.t ≠ .hndl)
    (ht : ¬ (tagLevel h c = 0 ∨ x.t = .link ∨ (sub = 0x01 ∧ x.t = .cptr))) :
    targetExc h c x sub = some { code := 0x03, sub := sub, tag := tagCode x.t, tval := x.v } := by
  rw [targetExc, if_neg hf.1, if_neg hf.2, if_neg ht, tagExc, if_neg hf.2]

section
variable {h : Hart} {i : Instr} {s : State} (hr : ready h i s = true)
include hr

theorem started_lk : (cpuOf (started h i s) h).lk = (cpuOf s h).lk := (started_kept hr).lk rfl

/-- The enforcement level is found as it was before the fetch. -/
theorem started_tagLevel : tagLevel h (cpuOf (started h i s) h) = tagLevel h (cpuOf s h) := by
  unfold tagLevel
  cases h with
  | prv n => rfl
  | core n => dsimp only; rw [started_level hr, started_sysReg hr 0x410 rfl]

/-- A target is checked after the fetch as before it. -/
theorem started_targetExc (x : GVal) (sub : Nat) : targetExc h (cpuOf (started h i s) h) x sub = targetExc h (cpuOf s h) x sub := by
  unfold targetExc; rw [started_tagLevel hr]

/-- JR and CALLR on a target that passes. -/
theorem indirect_passes {ra : Reg} (go : Word → State → State × Done) (hx : targetExc h (cpuOf s h) (gpr (cpuOf s h) ra) 0x01 = none) :
    indirect h ra go (started h i s) = go (alignTarget (gpr (cpuOf s h) ra).v) (started h i s) := by
  unfold indirect
  dsimp only
  rw [started_gpr hr, started_targetExc hr, hx]

/-- JR and CALLR on a target that is refused. -/
theorem indirect_refused {ra : Reg} {e : Exc} (go : Word → State → State × Done)
    (hx : targetExc h (cpuOf s h) (gpr (cpuOf s h) ra) 0x01 = some e) : indirect h ra go (started h i s) = (started h i s, .exc e) := by
  unfold indirect
  dsimp only
  rw [started_gpr hr, started_targetExc hr, hx]

/-- RET on a link that passes. -/
theorem returnTo_passes (hx : targetExc h (cpuOf s h) (cpuOf s h).lk 0x02 = none) :
    returnTo h (started h i s) = branchTo h (alignTarget (cpuOf s h).lk.v) (started h i s) := by
  unfold returnTo
  dsimp only
  rw [started_lk hr, started_targetExc hr, hx]

/-- RET on a link that is refused. -/
theorem returnTo_refused {e : Exc} (hx : targetExc h (cpuOf s h) (cpuOf s h).lk 0x02 = some e) :
    returnTo h (started h i s) = (started h i s, .exc e) := by
  unfold returnTo
  dsimp only
  rw [started_lk hr, started_targetExc hr, hx]

end

/-- Settles O14: the target's check passes or refuses before any effect; one that passes is an aligned branch or call. -/
theorem indirectResults : Obligations.IndirectResults := by
  unfold Obligations.IndirectResults
  intro h ra s
  dsimp only
  simp only [← alignTarget_eq]
  refine ⟨fun hf ht => ?_, fun hf ht => ?_, fun hl ht => ?_, fun hl ht => ?_⟩
  · have hx : targetExc h (cpuOf s h) (gpr (cpuOf s h) ra) 0x01 = none :=
      targetExc_passes hf (ht.imp_right fun h => h.symm.imp_right fun h => ⟨rfl, h⟩)
    exact ⟨runs_of_branch rfl fun hr => indirect_passes hr (branchTo h) hx, runs_of_call rfl fun hr => indirect_passes hr (callTo h) hx⟩
  · have hx : targetExc h (cpuOf s h) (cpuOf s h).lk 0x02 = none := targetExc_passes hf (ht.imp_right .inl)
    exact runs_of_branch rfl fun hr => returnTo_passes hr hx
  · have hx := targetExc_refuses (h := h) (c := cpuOf s h) (x := gpr (cpuOf s h) ra) (sub := 0x01)
      (by rcases ht with ht | ht <;> simp [ht]) (by rcases ht with ht | ht <;> simp [ht, hl])
    exact ⟨traps_of_body rfl fun hr => indirect_refused hr (branchTo h) hx, traps_of_body rfl fun hr => indirect_refused hr (callTo h) hx⟩
  · have hx := targetExc_refuses (h := h) (c := cpuOf s h) (x := (cpuOf s h).lk) (sub := 0x02)
      (by rcases ht with ht | ht | ht <;> simp [ht]) (by rcases ht with ht | ht | ht <;> simp [ht, hl])
    exact traps_of_body rfl fun hr => returnTo_refused hr hx

/-! ## Hardware loops (04 R90, R91) -/

/-- A level of the loop registers set up from the instruction at PC: its start is the next address. -/
def setLoop (k : Nat) (last count : Word) (c : Cpu) : Cpu :=
  { c with ls := mPut 0 c.ls k (c.pc + 4), le := mPut 0 c.le k last, lc := mPut 0 c.lc k count }

theorem setLoop_kept (h : Hart) (k : Nat) (last count : Word) (s : State) : Kept h { loops := true } s (modCpu h (setLoop k last count) s) :=
  Kept.modCpu fun _ => ⟨fun _ _ => rfl, fun _ _ => rfl, fun _ _ => rfl, fun _ _ _ => rfl, fun _ => rfl, fun _ hm => ⟨rfl, rfl, hm⟩,
    nofun, rfl⟩

@[simp] theorem setLoop_pc (k : Nat) (last count : Word) (c : Cpu) : (setLoop k last count c).pc = c.pc := rfl

/-- A LOOP on a count it may take sets up its level; with count 0 control goes past the loop. -/
theorem loopSetup_sets {h : Hart} {i : Instr} {lvl : BitVec 2} {rc : Reg} {off : BitVec 19} {s : State} (hr : ready h i s = true)
    (hp : Plain (cpuOf s h) (gpr (cpuOf s h) rc)) :
    let last := (cpuOf s h).pc + off.setWidth 64 * 4
    let n := (gpr (cpuOf s h) rc).v
    loopSetup h lvl rc off (started h i s) =
      (modCpu h (setLoop lvl.toNat last n) (started h i s), doneAt (if n = 0 then some (last + 4) else none)) := by
  have hx : srcExc (cpuOf (started h i s) h) [gpr (cpuOf s h) rc] = none :=
    srcExc_of_plain fun z hz => by rw [List.mem_singleton.1 hz]; exact hp.started hr
  have hoff : BitVec.zeroExtend 64 off <<< 2 = off.setWidth 64 * 4 := shiftLeft_two _
  unfold loopSetup
  dsimp only
  rw [started_gpr hr, started_pc hr, hx, hoff]
  dsimp only
  split <;> rfl

/-- The last instruction of a loop stands behind its LOOP: `off19` is not 0 in a well-formed one, and reaches less than 2 MiB. -/
theorem loop_last_ne {off : BitVec 19} (hoff : off ≠ 0) (pc : Word) : pc + off.setWidth 64 * 4 ≠ pc := by
  intro h
  have h0 : 0 < off.toNat := Nat.pos_of_ne_zero fun h => hoff (BitVec.eq_of_toNat_eq h)
  have hlt := off.isLt
  have h4 : (off.setWidth 64 * 4).toNat = 0 := by rw [show off.setWidth 64 * 4 = 0#64 by simpa using h]; rfl
  rw [BitVec.toNat_mul, BitVec.toNat_setWidth, show (4 : Word).toNat = 4 from rfl] at h4
  omega

/-- Where the other levels do not end at the LOOP, no level does: its own ends later. -/
theorem setLoop_ends {k j : Nat} {last count : Word} {c : Cpu} (hl : last ≠ c.pc) (ho : j ≠ k → mGet 0 c.le j ≠ c.pc) :
    ¬ LoopEnds c.pc (setLoop k last count c) j := by
  rintro ⟨he, -⟩
  replace he : mGet 0 (mPut 0 c.le k last) j = c.pc := he
  by_cases hj : j = k
  · subst hj; rw [mGet_mPut_same] at he; exact hl he
  · rw [mGet_mPut_other _ _ _ _ _ _ hj] at he; exact ho hj he

/-- LOOP, ready (04 R90). -/
theorem loop_sets {h : Hart} {lvl : BitVec 2} {rc : Reg} {off : BitVec 19} {s : State} (hp : Plain (cpuOf s h) (gpr (cpuOf s h) rc))
    (hr : ready h (.loop h lvl rc off) s = true) :
    let c := cpuOf s h
    let n := (gpr c rc).v
    let k := lvl.toNat
    let last := c.pc + off.setWidth 64 * 4
    ∃ u, exec (.loop h lvl rc off) s = .next u ∧ Kept h { loops := true } s u ∧ MemKept (walked h s) u ∧
      (cpuOf u h).ls = mPut 0 c.ls k (c.pc + 4) ∧ (cpuOf u h).le = mPut 0 c.le k last ∧
      (n = 0 → (cpuOf u h).pc = last + 4 ∧ (cpuOf u h).lc = mPut 0 c.lc k n) ∧
      (n ≠ 0 → (∀ j, j < 3 → j ≠ k → mGet 0 c.le j ≠ c.pc) → (cpuOf u h).pc = c.pc + 4 ∧ (cpuOf u h).lc = mPut 0 c.lc k n) := by
  dsimp only
  have hwf : (decide (lvl ≠ 3) && decide (off ≠ 0)) = true := ready_wellFormed hr
  have hoff : off ≠ 0 := of_decide_eq_true (Bool.and_eq_true_iff.1 hwf).2
  have k := (started_work (ready_delivers hr)).1.hart
  obtain ⟨u, hrun, hregs, hframe, hmem, hpc, hlc⟩ :=
    run_retires hr (loopSetup_sets (lvl := lvl) (off := off) hr hp) (setLoop_kept h _ _ _ _) (.of_mem (by simp))
  rw [cpuOf_modCpu_same] at hregs hpc hlc
  have hlast : (cpuOf s h).pc + off.setWidth 64 * 4 ≠ (cpuOf (started h (.loop h lvl rc off) s) h).pc := by
    rw [k.pc]; exact loop_last_ne hoff _
  rw [← k.ls, ← k.le, ← k.lc]
  generalize cpuOf (started h (.loop h lvl rc off) s) h = d at *
  refine ⟨u, hrun, hframe, hmem, ?_, hregs.le, fun hn => ?_, fun hn ho => ?_⟩
  · rw [hregs.ls, setLoop, k.pc]
  · rw [if_pos hn] at hpc hlc
    exact ⟨hpc, hlc⟩
  · have hends (j : Nat) (hj : j < 3) := setLoop_ends (count := (gpr (cpuOf s h) rc).v) hlast fun hk => by
      rw [k.pc]; exact ho j hj hk
    rw [if_neg hn, wentOn_none, setLoop_pc, loopEval_none 3 0 fun j _ hj => hends j (by omega)] at hpc hlc
    exact ⟨by rw [hpc, ← k.pc], hlc⟩

@[simp] theorem setGpr_ls (r : Reg) (x : GVal) (c : Cpu) : (setGpr r x c).ls = c.ls := by unfold setGpr; split <;> rfl

/-- MV, ready: control and the loop counts are what loop evaluation makes of them (04 R91). -/
theorem mv_evaluates {h : Hart} {rd ra : Reg} {s : State} (hr : ready h (.mv h rd ra) s = true) :
    let c := cpuOf s h
    ∃ u, exec (.mv h rd ra) s = .next u ∧ (cpuOf u h).pc = (loopEval c.pc 3 0 c).pc ∧ (cpuOf u h).lc = (loopEval c.pc 3 0 c).lc := by
  dsimp only
  obtain ⟨k, -, -⟩ := started_work (ready_delivers hr)
  obtain ⟨u, hrun, -, -, -, hpc, hlc⟩ := run_retires hr (next := none) (body := fun s => writeG h rd (gpr (cpuOf s h) ra) s) rfl
    (setGpr_kept h rd _ _) (.of_mem (by simp))
  rw [cpuOf_modCpu_same, wentOn_none, setGpr_pc, k.hart.pc] at hpc hlc
  have hle := (setGpr_le rd (gpr (cpuOf (started h (.mv h rd ra) s) h) ra) _).trans k.hart.le
  have hcnt := (setGpr_lc rd (gpr (cpuOf (started h (.mv h rd ra) s) h) ra) _).trans k.hart.lc
  have hls := (setGpr_ls rd (gpr (cpuOf (started h (.mv h rd ra) s) h) ra) _).trans k.hart.ls
  exact ⟨u, hrun, hpc.trans (loopEval_pc_congr _ 3 0 hle hcnt hls), hlc.trans (loopEval_lc_congr _ 3 0 hle hcnt)⟩

/-- Settles O15: LOOP's own level never ends at the LOOP itself, so its count stands; MV's retirement is loop evaluation from level 0. -/
theorem hardwareLoops : Obligations.HardwareLoops := by
  unfold Obligations.HardwareLoops
  refine ⟨?_, ?_⟩
  · intro h lvl rc off s
    dsimp only
    intro hp hr
    obtain ⟨u, hrun, hframe, hmem, hls, hle, hpast, hinto⟩ := loop_sets hp hr
    refine ⟨u, hrun, hframe, hmem, by rw [hls, mGet_mPut_same], by rw [hle, mGet_mPut_same], fun j hj => ?_, fun hn => ?_, fun hn hj => ?_⟩
    · exact ⟨by rw [hls, mGet_mPut_other _ _ _ _ _ _ hj], by rw [hle, mGet_mPut_other _ _ _ _ _ _ hj]⟩
    · obtain ⟨hpc, hlc⟩ := hpast hn
      exact ⟨hpc, by rw [hlc, mGet_mPut_same, hn]⟩
    · obtain ⟨hpc, hlc⟩ := hinto hn hj
      exact ⟨hpc, by rw [hlc, mGet_mPut_same]⟩
  · intro h rd ra s hr
    dsimp only
    obtain ⟨u, hrun, hpc, hlc⟩ := mv_evaluates hr
    refine ⟨u, hrun, fun i hi he h1 hl => ?_, fun hl => ?_⟩
    · obtain ⟨h2, h3, h4, h5⟩ := loopEval_returns (Nat.zero_le i) (by omega : i < 0 + 3) he h1 fun j _ => hl j
      rw [hpc, hlc]
      exact ⟨h2, h3, fun j => h4 j (Nat.zero_le j), h5⟩
    · obtain ⟨h2, h3⟩ := loopEval_exhausts (k := 3) (i := 0) fun j _ hj => hl j (by omega)
      rw [hpc, hlc]
      exact ⟨h2, fun j hj => h3 j (Nat.zero_le j) (by omega)⟩

end Sys2Proof.Machine
end

section
/-! PROOF. Illegal words and instructions, and MFS (O18, O26). -/

namespace Sys2Proof.Machine
open Sys2Proof

/-! ## Illegal words and instructions (04 R79) -/

/-- What keeps an instruction from being legal reads the level alone. -/
theorem legal_congr {h : Hart} {c d : Cpu} (i : Instr) (hl : d.level = c.level) : legal h d i = legal h c i := by unfold legal; rw [hl]

/-- An instruction is not legal below the level it needs. -/
theorem not_legal_of_level {h : Hart} {c : Cpu} {i : Instr} (hl : levelCode c.level < minLevelCode i) : legal h c i = false := by
  rw [legal, decide_eq_false (Nat.not_le.2 hl), Bool.and_false, Bool.false_and]

/-- An instruction that Nefen-C leaves out is not legal on an engine. -/
theorem not_legal_on_prv {n : Nat} {c : Cpu} {i : Instr} (ha : absentOnPrv i = true) : legal (.prv n) c i = false := by
  rw [legal, ha]; exact Bool.and_false _

section
variable {h : Hart} {s : State} (h1 : hartExists h = true) (h2 : canRun h s = true) (h3 : breakHit h s = false) (h4 : hartEvent h s = false)
  (h5 : (fetchCheck h s).1 = none) (h6 : (cpuOf s h).win = [])
include h1 h2 h3 h4 h5 h6

/-- An instruction that is fetched and not legal raises illegal instruction, whatever its effect would be. -/
theorem run_illegal {i : Instr} (body : State → State × Done) (h7 : s.replay = false) (hd : fetchDelivers h (toFetch h i s) = true)
    (hl : legal h (cpuOf s h) i = false) : run h i body s = .next (takeSync h (illegalExc i) (started h i s)) := by
  have hw : (cpuOf s h).wait = .none := by
    simp only [canRun, Bool.and_eq_true, decide_eq_true_eq] at h2
    exact h2.2
  have hl' : legal h (cpuOf (fetchLine h (toFetch h i s)).1 h) i = false := (legal_congr i (started_work hd).1.hart.level).trans hl
  have hf : (fetchLine h (toFetch h i s)).2 = true := by
    simp only [fetchDelivers, Bool.and_eq_true] at hd
    exact hd.2
  have hc : fetchCheck h s = (none, (fetchCheck h s).2) := Prod.ext h5 rfl
  unfold run
  rw [if_neg (by simp [h1]), if_neg (by simp [h7]), if_neg (by simp [h6, hw]), if_neg (by simp [h2]), if_neg (by simp [h3]),
    if_neg (by simp [h4]), hc]
  show Host.Outcome.next (oldest h _ i body (toFetch h i s)) = _
  unfold oldest
  dsimp only
  rw [if_neg (by simp [hf]), if_pos (by simp [hl'])]
  rfl

/-- A word that no instruction has, fetched as the oldest of its hart. -/
theorem illegalWord_traps {w : BitVec 32} (hw : decodeWord h w = none) (hd : fetchDelivers h (fetchCheck h s).2 = true) :
    illegalWord h w s = takeSync h { code := 0x02, tval := w.setWidth 64 } (fetchUse h (fetchCheck h s).2) := by
  have hf : (fetchLine h (fetchCheck h s).2).2 = true := by
    simp only [fetchDelivers, Bool.and_eq_true] at hd
    exact hd.2
  have hc : fetchCheck h s = (none, (fetchCheck h s).2) := Prod.ext h5 rfl
  unfold illegalWord
  rw [if_neg (by simp [h1, h2, h6]), if_neg (by simp [h3]), if_neg (by simp [h4]), hc, hw]
  dsimp only
  rw [if_neg (by decide), if_pos hf]
  rfl

end

/-- Settles O18: the fetch delivers, the legality check fails, and the exception is taken with the word in TVAL. -/
theorem illegalInstructions : Obligations.IllegalInstructions := by
  unfold Obligations.IllegalInstructions
  intro h s h1 h2 h3 h4 h5 h6 h7
  dsimp only
  refine ⟨fun w hw hd => ?_, fun rd hu => ⟨fun hd => ?_, fun hd => ?_⟩, fun n rd hn hd => ?_⟩
  · exact congrArg Host.Outcome.next (illegalWord_traps h1 h2 h3 h4 h5 h6 hw hd)
  · exact run_illegal h1 h2 h3 h4 h5 h6 (eret h) h7 hd (not_legal_of_level (by rw [hu]; decide : levelCode (cpuOf s h).level < 1))
  · exact run_illegal h1 h2 h3 h4 h5 h6 _ h7 hd (not_legal_of_level (by rw [hu]; decide : levelCode (cpuOf s h).level < 3))
  · subst hn
    exact run_illegal h1 h2 h3 h4 h5 h6 _ h7 hd (not_legal_on_prv rfl)

/-! ## What the fetch of an instruction leaves of a core (06) -/

/-- `d` differs from `c` in its predictors, return stack, window and system registers at most. -/
def FetchOnly (c d : Cpu) : Prop := d = { c with rstack := d.rstack, pred := d.pred, win := d.win, sys := d.sys }

theorem FetchOnly.refl (c : Cpu) : FetchOnly c c := rfl

theorem FetchOnly.trans {c d e : Cpu} (h : FetchOnly c d) (k : FetchOnly d e) : FetchOnly c e := by
  unfold FetchOnly at *
  rw [k, h]

theorem FetchOnly.countEv (n ev k : Nat) (s : State) : FetchOnly (coreOf s n) (coreOf (countEv n ev k s) n) := by
  unfold FetchOnly
  rw [countEv_sys]

theorem FetchOnly.of_cacheOnly {n : Nat} {s t : State} (c : CacheOnly s t) : FetchOnly (coreOf s n) (coreOf t n) := by
  rw [show coreOf t n = coreOf s n from c.cpuOf (.core n)]; exact .refl _

theorem FetchOnly.fetchNext (n : Nat) (i : Instr) (s : State) : FetchOnly (coreOf s n) (coreOf (fetchNext (.core n) i s).2 n) := by
  have hs : FetchOnly (coreOf s n) (coreOf (setCpu (.core n) (fetched i (coreOf s n).pc (coreOf s n)).2.2 s) n) := by
    have hp : FrontOnly (coreOf s n) (fetched i (coreOf s n).pc (coreOf s n)).2.2 := .predict _ _ _
    rw [coreOf_setCpu_core, hp]
    rfl
  unfold Machine.fetchNext
  dsimp only
  split
  · exact hs.trans (.countEv _ _ _ _)
  · exact hs

theorem FetchOnly.fetchUse {n : Nat} {s : State} (hd : fetchDelivers (.core n) s = true) :
    FetchOnly (coreOf s n) (coreOf (fetchUse (.core n) s) n) := by
  have hs : storesTo (coreOf s n) (lineOf (physAt (coreOf s n) .fetch (coreOf s n).pc)) = false := by
    simp only [fetchDelivers, Bool.and_eq_true, Bool.not_eq_true'] at hd
    exact hd.1
  have c := FetchOnly.of_cacheOnly (n := n) (CacheOnly.readLine (.core n) true (lineOf (physAt (coreOf s n) .fetch (coreOf s n).pc)) s)
  unfold Machine.fetchUse fetchLine
  dsimp only
  rw [hs]
  simp only [Bool.false_eq_true, if_false, not_true_eq_false]
  split
  · exact c.trans (.countEv _ _ _ _)
  · exact c

/-- The fetch of a ready instruction of a core. -/
theorem FetchOnly.started {n : Nat} {i : Instr} {s : State} (hr : ready (.core n) i s = true) :
    FetchOnly (coreOf s n) (coreOf (started (.core n) i s) n) := by
  have hd := ready_delivers hr
  have hc := fetchCheck_core (ready_check hr)
  rw [toFetch, hc] at hd
  rw [Machine.started, toFetch, hc]
  exact (fetchNext n i s).trans (.fetchUse hd)

theorem started_stamp {n : Nat} {i : Instr} {s : State} (hr : ready (.core n) i s = true) : (started (.core n) i s).stamp = s.stamp := by
  rw [HartSide.started hr]

/-! ## MFS (03 R62, 04 R109) -/

section
variable {n r : Nat} {rd : Reg} {s : State}

/-- Whether a register may be read is found as it was before the fetch. -/
theorem started_canRead {i : Instr} (hr : ready (.core n) i s = true) (r : Nat) :
    canRead (.core n) (coreOf (started (.core n) i s) n) r = canRead (.core n) (coreOf s n) r := by
  have hl : (coreOf (started (.core n) i s) n).level = (coreOf s n).level := started_level hr
  have hu : sysReg (coreOf (started (.core n) i s) n) 0x460 = sysReg (coreOf s n) 0x460 := started_sysReg hr 0x460 rfl
  unfold canRead userCounter
  rw [hl, hu]

/-- The numbers a core implements fit the field of an instruction. -/
theorem coreHasSys_lt (h : coreHasSys r = true) : r < 4096 := by
  simp only [coreHasSys, Bool.decide_or, Bool.or_eq_true, decide_eq_true_eq] at h
  omega

/-- Every level may access a number of the lowest quarter. -/
theorem mayAccess_user {c : Cpu} (hr : r < 1024) : mayAccess c r := by unfold mayAccess; omega

/-- A register that a core implements and its level admits may be read. -/
theorem canRead_of_access {c : Cpu} (hs : coreHasSys r = true) (ha : mayAccess c r) : canRead (.core n) c r = true := by
  have hl : decide (sysLevel r ≤ levelCode c.level) = true := decide_eq_true ha
  rw [canRead, hl, show hasSys (.core n) r = true from hs]; rfl

/-- A register that a core does not implement, or may not read at its level, may not be read. -/
theorem canRead_of_refused {c : Cpu} (h : coreHasSys r = false ∨ (¬ mayAccess c r ∧ userCounter c r = false)) : canRead (.core n) c r = false := by
  unfold canRead
  rcases h with h | ⟨ha, hu⟩
  · rw [show hasSys (.core n) r = false from h]; rfl
  · have hl : decide (sysLevel r ≤ levelCode c.level) = false := decide_eq_false ha
    rw [hl, hu]; simp

/-- MFS of a number by its meaning. -/
theorem exec_mfs (hr : r < 4096) : exec (.mfs (.core n) rd (BitVec.ofNat 12 r)) s =
    run (.core n) (.mfs (.core n) rd (BitVec.ofNat 12 r)) (mfs (.core n) (.mfs (.core n) rd (BitVec.ofNat 12 r)) rd r) s := by
  have h : (BitVec.ofNat 12 r).toNat = r := by rw [BitVec.toNat_ofNat]; exact Nat.mod_eq_of_lt hr
  show run _ _ (mfs _ _ rd (BitVec.ofNat 12 r).toNat) s = _
  rw [h]

/-- With an empty store buffer nothing stands before an effect that waits for older stores (06 R144). -/
theorem afterStores_empty {h : Hart} {t : State} (act : State → State × Done) (hb : (cpuOf t h).sb = []) : afterStores h act t = act t := by
  unfold afterStores sbDrain
  rw [hb]
  rfl

/-- A ready MFS of a register that may be read sets rd to what the register reads as after the fetch. -/
theorem mfs_sets {x : GVal} (hs : coreHasSys r = true) (ha : mayAccess (coreOf s n) r) (hb : r = 0x0C0 → (coreOf s n).sb = [])
    (hx : ready (.core n) (.mfs (.core n) rd (BitVec.ofNat 12 r)) s = true →
      readSys (.core n) (started (.core n) (.mfs (.core n) rd (BitVec.ofNat 12 r)) s) r = x) :
    SetsG (.core n) (.mfs (.core n) rd (BitVec.ofNat 12 r)) s rd x := by
  refine setsG_of_writeG (exec_mfs (coreHasSys_lt hs)) fun hr => ?_
  have hc := (started_canRead hr r).trans (canRead_of_access (n := n) hs ha)
  unfold mfs
  rw [if_neg (by simpa [cpuOf] using hc)]
  split
  · next h =>
    have hsb : (cpuOf (started (.core n) (.mfs (.core n) rd (BitVec.ofNat 12 r)) s) (.core n)).sb = [] :=
      (started_work (ready_delivers hr)).1.hart.sb.trans (hb h.1)
    rw [afterStores_empty _ hsb, hx hr]
  · rw [hx hr]

/-- A register of the lowest quarter other than STAMP whose reading the fetch leaves alone. -/
theorem mfs_sets_user {x : GVal} (hs : coreHasSys r = true) (hr : r < 1024) (h0 : r ≠ 0x0C0)
    (hx : ∀ t : State, FetchOnly (coreOf s n) (coreOf t n) → readSys (.core n) t r = x) :
    SetsG (.core n) (.mfs (.core n) rd (BitVec.ofNat 12 r)) s rd x :=
  mfs_sets hs (mayAccess_user hr) (fun h => absurd h h0) fun hr => hx _ (.started hr)

/-- A ready MFS of a number that may not be read raises illegal instruction. -/
theorem mfs_traps (hn : r < 4096) (h : coreHasSys r = false ∨ (¬ mayAccess (coreOf s n) r ∧ userCounter (coreOf s n) r = false)) :
    Traps (.core n) (.mfs (.core n) rd (BitVec.ofNat 12 r)) s (illegalExc (.mfs (.core n) rd (BitVec.ofNat 12 r))) := by
  refine traps_of_body (exec_mfs hn) fun hr => ?_
  have hc := (started_canRead hr r).trans (canRead_of_refused (n := n) h)
  unfold mfs
  rw [if_pos (by simpa [cpuOf] using hc)]

/-- What MFS reads of a register held by number: the numbers that have a reading of their own are left out (03 Table 3.3). -/
theorem readSys_held {h : Hart} {t : State} (hr : r = 0x001 ∨ 0x400 ≤ r) (h1 : r ≠ 0xC40) (h2 : r ≠ 0xCC0) :
    readSys h t r = ⟨sysReg (cpuOf t h) r, .data⟩ := by
  unfold readSys
  dsimp only
  rw [if_neg (by omega), if_neg (by omega), if_neg (by omega), if_neg (by omega), if_neg (by omega), if_neg (by omega), if_neg (by omega),
    if_neg h1, if_neg h2]

/-- What MFS reads of the loop registers: LS, LE and LC of level `k` stand side by side. -/
theorem readSys_loops {h : Hart} {t : State} {k : Nat} (hk : k < 3) :
    readSys h t (0x010 + 3 * k) = ⟨mGet 0 (cpuOf t h).ls k, .data⟩ ∧ readSys h t (0x011 + 3 * k) = ⟨mGet 0 (cpuOf t h).le k, .data⟩ ∧
      readSys h t (0x012 + 3 * k) = ⟨mGet 0 (cpuOf t h).lc k, .data⟩ := by
  obtain rfl | rfl | rfl : k = 0 ∨ k = 1 ∨ k = 2 := by omega
  all_goals exact ⟨rfl, rfl, rfl⟩

/-- The loop registers are implemented. -/
theorem coreHasSys_loop (h1 : 0x010 ≤ r) (h2 : r ≤ 0x018) : coreHasSys r = true := by simp [coreHasSys, h1, h2]

end

/-- Settles O26: what may be read is checked as before the fetch, and the fetch changes no register but the counters. -/
theorem readSystemRegister : Obligations.ReadSystemRegister := by
  unfold Obligations.ReadSystemRegister
  intro n rd s
  dsimp only
  refine ⟨fun k hk => ?loops, ?lk, ?ph, ?pl, fun hsb => ?stamp, fun r hs ha hr h1 h2 => ?held, fun r hr h => mfs_traps hr h⟩
  case loops =>
    have loop (t : State) := readSys_loops (h := .core n) (t := t) hk
    refine ⟨mfs_sets_user (coreHasSys_loop (by omega) (by omega)) (by omega) (by omega) fun t ht => ?_,
      mfs_sets_user (coreHasSys_loop (by omega) (by omega)) (by omega) (by omega) fun t ht => ?_,
      mfs_sets_user (coreHasSys_loop (by omega) (by omega)) (by omega) (by omega) fun t ht => ?_⟩
    · rw [(loop t).1, cpuOf, ht]
    · rw [(loop t).2.1, cpuOf, ht]
    · rw [(loop t).2.2, cpuOf, ht]
  case lk => exact mfs_sets_user rfl (by decide) (by decide) fun t ht => show (coreOf t n).lk = _ by rw [ht]
  case ph => exact mfs_sets_user rfl (by decide) (by decide) fun t ht => show (⟨(coreOf t n).ph, .data⟩ : GVal) = _ by rw [ht]
  case pl => exact mfs_sets_user rfl (by decide) (by decide) fun t ht => show (⟨(coreOf t n).pl, .data⟩ : GVal) = _ by rw [ht]
  case stamp =>
    exact mfs_sets rfl (mayAccess_user (by decide)) (fun _ => hsb) fun hr =>
      congrArg (fun k => (⟨BitVec.ofNat 64 k, .data⟩ : GVal)) (started_stamp hr)
  case held =>
    refine mfs_sets hs ha (fun h => by omega) fun hrd => ?_
    rw [readSys_held hr h1 h2]
    split
    · rfl
    · next hc => exact congrArg (fun w => (⟨w, .data⟩ : GVal)) (started_sysReg hrd r (by simpa using hc))

end Sys2Proof.Machine
end

section
/-! PROOF. Special operands of the floating-point operations (O24): NaN operands, invalid operations and signed zeros, by the rows of Table 5.6. -/

namespace Sys2Proof.Machine
open Sys2Proof

/-! ## NaN operands -/

section
variable {d : Bool} {l : List FNum} {r : Nat × FFlags}

/-- A signalling NaN decides the result, whatever the numbers would give. -/
theorem getD_nanOf_of_snan (h : .nan true ∈ l) : (nanOf d l).getD r = fInvalid d := by
  have hs : l.any (fun x => decide (x = .nan true)) = true := List.any_eq_true.2 ⟨_, h, by simp⟩
  rw [nanOf, if_pos hs, Option.getD_some]

/-- A quiet NaN decides the result where no operand signals. -/
theorem getD_nanOf_of_qnan (h : .nan true ∉ l ∧ .nan false ∈ l) : (nanOf d l).getD r = (fNan d, {}) := by
  have hs : ¬ l.any (fun x => decide (x = .nan true)) = true := by simpa using h.1
  have hq : l.any (fun x => decide (x = .nan false)) = true := List.any_eq_true.2 ⟨_, h.2, by simp⟩
  rw [nanOf, if_neg hs, if_pos hq, Option.getD_some]

/-- Numbers alone give the operation's own result. -/
theorem getD_nanOf_of_numbers (h : ∀ g, .nan g ∉ l) : (nanOf d l).getD r = r := by
  have hn (g : Bool) : ¬ l.any (fun x => decide (x = .nan g)) = true := by simpa using h g
  rw [nanOf, if_neg (hn true), if_neg (hn false), Option.getD_none]

/-- The two NaN rows of Table 5.6, for an operation that asks `nanOf` first. -/
theorem getD_nanOf_rows (d : Bool) (l : List FNum) (r : Nat × FFlags) :
    (.nan true ∈ l → (nanOf d l).getD r = (fNan d, { nv := true })) ∧
      (.nan true ∉ l ∧ .nan false ∈ l → (nanOf d l).getD r = (fNan d, {})) :=
  ⟨getD_nanOf_of_snan, getD_nanOf_of_qnan⟩

end

@[simp] theorem isNan_nan (g : Bool) : isNan (.nan g) = true := rfl

@[simp] theorem isSnan_nan (g : Bool) : isSnan (.nan g) = g := by cases g <;> rfl

theorem isNan_iff {a : FNum} : isNan a = true ↔ ∃ g, a = .nan g := by cases a <;> simp [isNan]

theorem isNan_eq_false {a : FNum} (h : ∀ g, a ≠ .nan g) : isNan a = false :=
  Bool.eq_false_iff.2 fun hn => (isNan_iff.1 hn).elim h

theorem isSnan_eq_false {a : FNum} (h : ∀ g, a ≠ .nan g) : isSnan a = false := decide_eq_false (h true)

/-! ## The FMADD family -/

/-- The product that no third operand mends: 0 × ∞ or ∞ × 0. -/
def ZeroTimesInf (a b : FNum) : Prop := ∃ p q, (a = .zero p ∧ b = .inf q) ∨ (a = .inf p ∧ b = .zero q)

/-- An infinite product: both factors infinite, or one of them and the other finite and not zero; their signs are `p` and `q`. -/
def InfProduct (a b : FNum) (p q : Bool) : Prop :=
  (a = .inf p ∧ b = .inf q) ∨ ∃ k e, (a = .inf p ∧ b = .fin q k e) ∨ (a = .fin p k e ∧ b = .inf q)

section
variable {d sub neg : Bool} {m x y z : Nat}

/-- 0 × ∞ is invalid before any NaN is looked at. -/
theorem fFma_of_zeroTimesInf (h : ZeroTimesInf (fUnpack d x) (fUnpack d y)) : fFma d m sub neg x y z = fInvalid d := by
  obtain ⟨p, q, ⟨ha, hb⟩ | ⟨ha, hb⟩⟩ := h <;> simp [fFma, ha, hb]

/-- Without 0 × ∞ the NaN operands decide next. -/
theorem fFma_of_not_zeroTimesInf (h : ¬ ZeroTimesInf (fUnpack d x) (fUnpack d y)) :
    ∃ r, fFma d m sub neg x y z = (nanOf d [fUnpack d x, fUnpack d y, fUnpack d z]).getD r := by
  unfold fFma
  dsimp only
  split
  · next p q ha hb => exact absurd ⟨p, q, .inl ⟨ha, hb⟩⟩ h
  · next p q ha hb => exact absurd ⟨p, q, .inr ⟨ha, hb⟩⟩ h
  · exact ⟨_, if_neg Bool.false_ne_true⟩

theorem fMulNum_of_infProduct {a b : FNum} {p q : Bool} (h : InfProduct a b p q) : fMulNum a b = some (.inf (xor p q)) := by
  obtain ⟨rfl, rfl⟩ | ⟨k, e, ⟨rfl, rfl⟩ | ⟨rfl, rfl⟩⟩ := h <;> rfl

/-- Infinities of unlike sign have no sum. -/
theorem fAddNum_inf_inf_of_ne {p q : Bool} (h : p ≠ q) : fAddNum d m (.inf p) (.inf q) = fInvalid d := if_neg h

/-- ∞ - ∞ in effect: the negated forms invert both addends, so their signs differ still. -/
theorem fFma_of_infProduct {p q r : Bool} (h : InfProduct (fUnpack d x) (fUnpack d y) p q) (hc : fUnpack d z = .inf r)
    (hs : xor r sub ≠ xor p q) : fFma d m sub neg x y z = fInvalid d := by
  have hn : ∀ g, .nan g ∉ [fUnpack d x, fUnpack d y, fUnpack d z] := by
    obtain ⟨ha, hb⟩ | ⟨k, e, ⟨ha, hb⟩ | ⟨ha, hb⟩⟩ := h <;> simp [ha, hb, hc]
  have hsub : (if sub then fFlip (fUnpack d z) else fUnpack d z) = .inf (xor r sub) := by cases sub <;> simp [hc, fFlip]
  have hsum : fAddNum d m (.inf (xor p q)) (.inf (xor r sub)) = fInvalid d := fAddNum_inf_inf_of_ne hs.symm
  have hneg : fAddNum d m (.inf (!xor p q)) (.inf (!xor r sub)) = fInvalid d :=
    fAddNum_inf_inf_of_ne fun h => hs (Bool.not_inj h).symm
  unfold fFma
  dsimp only
  split
  · exact if_pos rfl
  · exact if_pos rfl
  · rw [if_neg Bool.false_ne_true, getD_nanOf_of_numbers hn, hsub, fMulNum_of_infProduct h]
    dsimp only [fFlip]
    split
    · exact hneg
    · exact hsum

end

/-! ## Sums, products, quotients and roots -/

section
variable {d : Bool} {m x y : Nat}

/-- ∞ - ∞ as a sum. -/
theorem fAdd_inf_inf {p : Bool} (ha : fUnpack d x = .inf p) (hb : fUnpack d y = .inf (!p)) : fAdd d m x y = fInvalid d := by
  simp [fAdd, ha, hb, getD_nanOf_of_numbers, fAddNum]

/-- ∞ - ∞ as a difference. -/
theorem fSub_inf_inf {p : Bool} (ha : fUnpack d x = .inf p) (hb : fUnpack d y = .inf p) : fSub d m x y = fInvalid d := by
  simp [fSub, ha, hb, getD_nanOf_of_numbers, fFlip, fAddNum]

theorem fMul_of_zeroTimesInf (h : ZeroTimesInf (fUnpack d x) (fUnpack d y)) : fMul d m x y = fInvalid d := by
  obtain ⟨p, q, ⟨ha, hb⟩ | ⟨ha, hb⟩⟩ := h <;> simp [fMul, ha, hb, getD_nanOf_of_numbers, fMulNum]

theorem fDiv_zero_zero {p q : Bool} (ha : fUnpack d x = .zero p) (hb : fUnpack d y = .zero q) : fDiv d m x y = fInvalid d := by
  simp [fDiv, ha, hb, getD_nanOf_of_numbers]

theorem fDiv_inf_inf {p q : Bool} (ha : fUnpack d x = .inf p) (hb : fUnpack d y = .inf q) : fDiv d m x y = fInvalid d := by
  simp [fDiv, ha, hb, getD_nanOf_of_numbers]

/-- A division by zero is exact: an infinity, with DZ alone. -/
theorem fDiv_fin_zero {p q : Bool} {k : Nat} {e : Int} (ha : fUnpack d x = .fin p k e) (hb : fUnpack d y = .zero q) :
    fDiv d m x y = (fInf d (xor p q), { dz := true }) := by
  simp [fDiv, ha, hb, getD_nanOf_of_numbers]

theorem fSqrt_neg_zero (ha : fUnpack d x = .zero true) : fSqrt d m x = (fZero d true, {}) := by
  simp [fSqrt, ha, getD_nanOf_of_numbers]

theorem fSqrt_neg_fin {k : Nat} {e : Int} (ha : fUnpack d x = .fin true k e) : fSqrt d m x = fInvalid d := by
  simp [fSqrt, ha, getD_nanOf_of_numbers]

theorem fSqrt_neg_inf (ha : fUnpack d x = .inf true) : fSqrt d m x = fInvalid d := by
  simp [fSqrt, ha, getD_nanOf_of_numbers]

end

/-! ## Encodings of zero -/

/-- An encoding is its sign, exponent field and fraction, side by side (05 R121). -/
theorem mod_eq_fields (d : Bool) (x : Nat) :
    x % 2 ^ fW d = (fSign d x).toNat * 2 ^ (fW d - 1) + fExp d x * 2 ^ (fP d - 1) + fFrac d x := by
  rw [fSign, fExp, fFrac, Nat.toNat_testBit]
  cases d
  · change x % 2 ^ 32 = x / 2 ^ 31 % 2 * 2 ^ 31 + x / 2 ^ 23 % 256 * 2 ^ 23 + x % 2 ^ 23
    omega
  · change x % 2 ^ 64 = x / 2 ^ 63 % 2 * 2 ^ 63 + x / 2 ^ 52 % 2048 * 2 ^ 52 + x % 2 ^ 52
    omega

theorem fields_of_fUnpack_zero {d p : Bool} {x : Nat} (h : fUnpack d x = .zero p) : fSign d x = p ∧ fExp d x = 0 ∧ fFrac d x = 0 := by
  unfold fUnpack at h
  dsimp only at h
  split at h
  · split at h <;> cases h
  · split at h
    · next he =>
      split at h
      · next hf => exact ⟨FNum.zero.inj h, he, hf⟩
      · cases h
    · cases h

/-- The bits of an operand that reads as a zero. -/
theorem mod_of_fUnpack_zero {d p : Bool} {x : Nat} (h : fUnpack d x = .zero p) : x % 2 ^ fW d = fZero d p := by
  obtain ⟨hs, he, hf⟩ := fields_of_fUnpack_zero h
  rw [mod_eq_fields, hs, he, hf, Nat.zero_mul, Nat.add_zero, fZero]

theorem fSign_fZero (d p : Bool) : fSign d (fZero d p) = p := by cases d <;> cases p <;> decide

/-! ## Minima, comparisons and conversions to integers -/

section
variable {d : Bool} {m x y : Nat}

/-- One NaN operand gives the other operand, and NV where the NaN signals. -/
theorem fMinMax_nan_left {mx g : Bool} (ha : fUnpack d x = .nan g) (hb : ∀ k, fUnpack d y ≠ .nan k) :
    fMinMax d mx x y = (y % 2 ^ fW d, { nv := g }) := by
  simp [fMinMax, ha, isNan_eq_false hb, isSnan_eq_false hb]

theorem fMinMax_nan_right {mx g : Bool} (hb : fUnpack d y = .nan g) (ha : ∀ k, fUnpack d x ≠ .nan k) :
    fMinMax d mx x y = (x % 2 ^ fW d, { nv := g }) := by
  simp [fMinMax, hb, isNan_eq_false ha, isSnan_eq_false ha]

theorem fMinMax_nan_nan {mx g k : Bool} (ha : fUnpack d x = .nan g) (hb : fUnpack d y = .nan k) :
    fMinMax d mx x y = (fNan d, { nv := g || k }) := by
  simp [fMinMax, ha, hb]

/-- Zeros compare equal, so the sign alone tells FMIN and FMAX which to take. -/
theorem fMinMax_zeros {mx p : Bool} (ha : fUnpack d x = .zero p) (hb : fUnpack d y = .zero (!p)) :
    fMinMax d mx x y = (fZero d (!mx), {}) := by
  have hpick : (if p = mx then fZero d (!p) else fZero d p) = fZero d (!mx) := by cases p <;> cases mx <;> rfl
  simp [fMinMax, ha, hb, isNan, fCmp, mod_of_fUnpack_zero ha, mod_of_fUnpack_zero hb, fSign_fZero, hpick]

/-- A comparison with a NaN is false; FCLT and FCLE raise NV for every NaN, FCEQ for a signalling one. -/
theorem fCompare_nan {g : Bool} (h : fUnpack d x = .nan g ∨ fUnpack d y = .nan g) (k : Nat) :
    fCompare d k x y = (false, { nv := decide (k ≠ 0) || decide (.nan true ∈ [fUnpack d x, fUnpack d y]) }) := by
  have hn : isNan (fUnpack d x) ∨ isNan (fUnpack d y) := h.imp (isNan_iff.2 ⟨g, ·⟩) (isNan_iff.2 ⟨g, ·⟩)
  have hs : (isSnan (fUnpack d x) || isSnan (fUnpack d y)) = decide (.nan true ∈ [fUnpack d x, fUnpack d y]) := by
    simp [isSnan, eq_comm]
  unfold fCompare
  dsimp only
  rw [if_pos hn, Bool.or_assoc, hs]

/-- The largest unsigned value has every bit set. -/
theorem ofInt_two_pow_sub_one (w : Nat) : BitVec.ofInt w (2 ^ w - 1) = BitVec.allOnes w := by
  have hcast : (2 ^ w - 1 : Int) = ((2 ^ w - 1 : Nat) : Int) := by
    rw [Int.ofNat_sub Nat.one_le_two_pow, Int.natCast_pow]
    rfl
  have hlt : 2 ^ w - 1 < 2 ^ w := Nat.sub_lt (Nat.two_pow_pos w) Nat.one_pos
  apply BitVec.eq_of_toNat_eq
  rw [hcast, BitVec.ofInt_natCast, BitVec.toNat_ofNat, Nat.mod_eq_of_lt hlt, BitVec.toNat_allOnes]

/-- The largest value of the integer type, with NV (05 Table 5.6). -/
theorem fToI_nan {g : Bool} (w : Nat) (h : fUnpack d x = .nan g) :
    fToI d m w true x = ((BitVec.ofInt w (2 ^ (w - 1) - 1)).toNat, { nv := true }) ∧
      fToI d m w false x = ((BitVec.allOnes w).toNat, { nv := true }) := by
  constructor
  · simp [fToI, h]
  · simp [fToI, h, ofInt_two_pow_sub_one]

end

/-- Settles O24, row by row of Table 5.6: an operation asks for NaN operands first, the FMADD family for 0 × ∞ before that. -/
theorem floatSpecialOperands : Obligations.FloatSpecialOperands := by
  unfold Obligations.FloatSpecialOperands
  intro d m x y z
  dsimp only
  refine ⟨fun sub neg => ⟨fFma_of_zeroTimesInf, fun hz hs => ?fmaSnan, fun hz hq => ?fmaQnan⟩,
    getD_nanOf_rows .., getD_nanOf_rows .., getD_nanOf_rows .., getD_nanOf_rows .., (getD_nanOf_rows ..).1, (getD_nanOf_rows ..).2,
    fun h => getD_nanOf_of_snan (by simp [h]), fun h => getD_nanOf_of_qnan (by simp [h]),
    fun p q r sub neg hc hs h => fFma_of_infProduct h hc hs, fun p => fAdd_inf_inf, fun p => fSub_inf_inf, fMul_of_zeroTimesInf,
    fun p q => fDiv_zero_zero, fun p q => fDiv_inf_inf, fun p k e q => fDiv_fin_zero, fSqrt_neg_zero, fun k e => fSqrt_neg_fin, fSqrt_neg_inf,
    fun mx => ⟨fun g => fMinMax_nan_left, fun g => fMinMax_nan_right, fun g k => fMinMax_nan_nan, fun p => fMinMax_zeros⟩,
    fun g h => ⟨fCompare_nan h 0, fCompare_nan h 1, fCompare_nan h 2⟩, fun w g => fToI_nan w⟩
  case fmaSnan =>
    obtain ⟨r, hr⟩ := fFma_of_not_zeroTimesInf hz
    exact hr.trans (getD_nanOf_of_snan hs)
  case fmaQnan =>
    obtain ⟨r, hr⟩ := fFma_of_not_zeroTimesInf hz
    exact hr.trans (getD_nanOf_of_qnan hq)

end Sys2Proof.Machine
end

section
/-! SUPPORT. Core TLBs: what the fetch of a retiring instruction may move, what removing and writing entries leaves in them, and the words of an entry. -/

namespace Sys2Proof.Machine
open Sys2Proof

/-! ## What a retirement does to the TLBs (06 R159) -/

/-- `d` holds the TLB entries that `c` holds, each where it stands. -/
structure TlbsKept (c d : Cpu) : Prop where
  itlb : d.itlb = c.itlb
  dtlb : d.dtlb = c.dtlb
  l2tlb : d.l2tlb = c.l2tlb
  wired : d.wired = c.wired

theorem TlbsKept.trans {c d e : Cpu} (h : TlbsKept c d) (k : TlbsKept d e) : TlbsKept c e :=
  ⟨k.itlb.trans h.itlb, k.dtlb.trans h.dtlb, k.l2tlb.trans h.l2tlb, k.wired.trans h.wired⟩

theorem TlbsKept.tlbEntries {c d : Cpu} (h : TlbsKept c d) : tlbEntries d = tlbEntries c := by
  unfold Machine.tlbEntries
  rw [h.itlb, h.dtlb, h.l2tlb, h.wired]

theorem FrontOnly.fetchOnly {c d : Cpu} (h : FrontOnly c d) : FetchOnly c d := by
  rw [h]; rfl

theorem WindowOnly.fetchOnly {c d : Cpu} (h : WindowOnly c d) : FetchOnly c d := by
  rw [h]; rfl

theorem FetchOnly.tlbs {c d : Cpu} (h : FetchOnly c d) : TlbsKept c d := by
  rw [h]; exact ⟨rfl, rfl, rfl, rfl⟩

theorem loopEval_tlbs (a : Word) (k i : Nat) (c : Cpu) : TlbsKept c (loopEval a k i c) := by
  induction k generalizing i c with
  | zero => exact ⟨rfl, rfl, rfl, rfl⟩
  | succ k ih =>
    unfold loopEval
    split
    · split
      · exact TlbsKept.trans (d := { c with lc := mPut 0 c.lc i 0 }) ⟨rfl, rfl, rfl, rfl⟩ (ih _ _)
      · exact ⟨rfl, rfl, rfl, rfl⟩
    · exact ih _ _

theorem retireCpu_tlbs (n : Nat) (next : Option Word) (c : Cpu) : TlbsKept c (countRetired (retireCpu n next c)) := by
  have h (d : Cpu) : TlbsKept d (countRetired (stepped (retryDone n d))) := by
    unfold retryDone
    split <;> exact ⟨rfl, rfl, rfl, rfl⟩
  cases next with
  | some pc => exact TlbsKept.trans (d := { c with pc := pc }) ⟨rfl, rfl, rfl, rfl⟩ (h _)
  | none => exact (loopEval_tlbs c.pc 3 0 c).trans (h _)

/-- A resolved branch touches the front end of its core and its counters alone. -/
theorem FetchOnly.resolve (n : Nat) (e : WinEntry) (taken : Bool) (s : State) : FetchOnly (coreOf s n) (coreOf (resolve n e taken s) n) := by
  have flushed (b : Bool) (u : State) (h : FetchOnly (coreOf s n) (coreOf u n)) :
      FetchOnly (coreOf s n) (coreOf (if b = true then Machine.flushAll n false u else u) n) := by
    split
    · exact h.trans (WindowOnly.flushAll n false u).fetchOnly
    · exact h
  have trained (p : Prop) [Decidable p] (b : Branch) (target : Word) (missed : Bool) :
      FetchOnly (coreOf s n) (coreOf (if p then s else Machine.modCpu (.core n) (Machine.train e b target taken missed) s) n) := by
    split
    · exact .refl _
    · rw [coreOf_modCpu_same]
      exact (FrontOnly.train e b target taken missed _).fetchOnly
  unfold Machine.resolve
  dsimp only
  split
  · next b _ =>
    apply flushed
    split
    · split
      · exact ((trained _ b _ _).trans (.countEv _ _ _ _)).trans (.countEv _ _ _ _)
      · exact (trained _ b _ _).trans (.countEv _ _ _ _)
    · exact trained _ b _ _
  · exact flushed _ s (.refl _)

/-- A retirement leaves in the TLBs what the instruction's fetch makes of them. -/
theorem retired_tlbs (n : Nat) (e : WinEntry) (old : Cpu) (next : Option Word) (s : State) :
    TlbsKept (fetchTouch old (coreOf s n)) (coreOf (retired (.core n) e old next s) n) := by
  refine TlbsKept.trans ?_ (FetchOnly.resolve n e next.isSome _).tlbs
  rw [retire_core]
  refine TlbsKept.trans ?_ (FetchOnly.countEv n 1 1 _).tlbs
  rw [coreOf_modCpu_same, coreOf_modCpu_same]
  exact retireCpu_tlbs _ _ _

/-! ## Where an entry may stand -/

/-- The entries of the ITLB and of the L2 TLB: those that fetches move. -/
def fetchEntries (c : Cpu) : List TlbEntry := c.itlb.ways.map (·.2) ++ c.l2tlb.flatMap (fun q => q.2.ways.map (·.2))

theorem mem_tlbEntries {c : Cpu} {e : TlbEntry} :
    e ∈ tlbEntries c ↔ e ∈ fetchEntries c ∨ e ∈ c.dtlb.map (·.2) ∨ e ∈ c.wired.map (·.2) := by
  unfold tlbEntries fetchEntries
  simp only [List.mem_append, or_assoc]
  exact or_congr_right or_left_comm

theorem mem_of_mFind {α : Type} {m : FMap α} {n : Nat} {v : α} (h : mFind m n = some v) : (n, v) ∈ m := by
  induction m with
  | nil => exact absurd h (by simp [mFind])
  | cons p m ih =>
    unfold mFind at h
    split at h
    · next hk => cases hk; cases h; exact List.mem_cons_self
    · exact List.mem_cons_of_mem _ (ih h)

theorem mem_of_mem_mPut {α : Type} [DecidableEq α] {d : α} {m : FMap α} {n : Nat} {v : α} {e : Nat × α} (h : e ∈ mPut d m n v) :
    e = (n, v) ∨ e ∈ m := by
  unfold mPut at h
  split at h
  · exact .inr (mem_mDel h)
  · exact mem_mIns h

theorem mem_fetchEntries {c : Cpu} {e : TlbEntry} :
    e ∈ fetchEntries c ↔ (∃ w, (w, e) ∈ c.itlb.ways) ∨ ∃ i q w, (i, q) ∈ c.l2tlb ∧ (w, e) ∈ q.ways := by
  simp only [fetchEntries, List.mem_append, List.mem_map, List.mem_flatMap, Prod.exists, exists_eq_right]
  constructor
  · rintro (⟨w, h⟩ | ⟨i, q, hq, w, h⟩)
    · exact .inl ⟨w, h⟩
    · exact .inr ⟨i, q, w, hq, h⟩
  · rintro (⟨w, h⟩ | ⟨i, q, w, hq, h⟩)
    · exact .inl ⟨w, h⟩
    · exact .inr ⟨i, q, hq, w, h⟩

/-- What stands in a set of the L2 TLB is an entry of it. -/
theorem mem_fetchEntries_of_set {c : Cpu} {i w : Nat} {e : TlbEntry} (h : (w, e) ∈ (setOf c.l2tlb i).ways) : e ∈ fetchEntries c := by
  unfold setOf mGet at h
  cases hq : mFind c.l2tlb i with
  | none => rw [hq] at h; exact absurd h List.not_mem_nil
  | some q => rw [hq] at h; exact mem_fetchEntries.2 (.inr ⟨i, q, w, mem_of_mFind hq, h⟩)

/-- A set of the L2 TLB put in another's place. -/
theorem mem_fetchEntries_putSet {c : Cpu} {i : Nat} {q : PSet TlbEntry} {e : TlbEntry}
    (h : e ∈ fetchEntries { c with l2tlb := putSet i q c.l2tlb }) : (∃ w, (w, e) ∈ q.ways) ∨ e ∈ fetchEntries c := by
  rcases mem_fetchEntries.1 h with h | ⟨j, p, w, hp, hw⟩
  · exact .inr (mem_fetchEntries.2 (.inl h))
  · rcases mem_of_mem_mPut hp with hp | hp
    · cases hp; exact .inl ⟨w, hw⟩
    · exact .inr (mem_fetchEntries.2 (.inr ⟨j, p, w, hp, hw⟩))

theorem setOf_putSet {α : Type} [DecidableEq α] (m : FMap (PSet α)) (i j : Nat) (q : PSet α) :
    setOf (putSet i q m) j = if j = i then q else setOf m j := mGet_mPut ({} : PSet α) m i j q

/-- `d` follows from `c` by a fetch that hits or refills the ITLB: no entry is new, and the DTLB and the L2 TLB hold what they held. -/
structure TlbRefill (c d : Cpu) : Prop where
  entries : ∀ e ∈ fetchEntries d, e ∈ fetchEntries c
  dtlb : d.dtlb = c.dtlb
  l2tlb : ∀ i, (setOf d.l2tlb i).ways = (setOf c.l2tlb i).ways

theorem TlbRefill.refl (c : Cpu) : TlbRefill c c := ⟨fun _ h => h, rfl, fun _ => rfl⟩

theorem TlbRefill.trans {c d e : Cpu} (h : TlbRefill c d) (k : TlbRefill d e) : TlbRefill c e :=
  ⟨fun x hx => h.entries x (k.entries x hx), k.dtlb.trans h.dtlb, fun i => (k.l2tlb i).trans (h.l2tlb i)⟩

/-- An entry of the L2 TLB, or of the ITLB, enters the ITLB or is hit there. -/
theorem TlbRefill.itlbTouch {va : Word} {e : TlbEntry} {c : Cpu} (he : e ∈ fetchEntries c) : TlbRefill c (itlbTouch va e c) := by
  unfold Machine.itlbTouch
  split
  · exact ⟨fun _ h => h, rfl, fun _ => rfl⟩
  · refine ⟨fun x hx => ?_, rfl, fun _ => rfl⟩
    rcases mem_fetchEntries.1 hx with ⟨w, hw⟩ | h
    · rcases mem_mIns hw with hw | hw
      · cases hw; exact he
      · exact mem_fetchEntries.2 (.inl ⟨w, hw⟩)
    · exact mem_fetchEntries.2 (.inr h)

/-- A hit in the L2 TLB moves the tree of a set. -/
theorem TlbRefill.l2tlbTouch (va : Word) (c : Cpu) : TlbRefill c (l2tlbTouch va c) := by
  unfold Machine.l2tlbTouch
  split
  · exact .refl c
  · next i e _ =>
    split
    · next w _ =>
      refine ⟨fun x hx => ?_, rfl, fun j => ?_⟩
      · rcases mem_fetchEntries_putSet hx with ⟨v, hv⟩ | h
        · exact mem_fetchEntries_of_set hv
        · exact h
      · rw [setOf_putSet]
        split
        · next h => rw [h]; rfl
        · rfl
    · exact .refl c

theorem mem_of_psEntry {α : Type} {p : α → Bool} {q : PSet α} {e : α} (h : psEntry p q = some e) : ∃ w, (w, e) ∈ q.ways := by
  unfold psEntry at h
  obtain ⟨⟨w, x⟩, hx, rfl⟩ := Option.map_eq_some_iff.1 h
  exact ⟨w, List.mem_of_find?_eq_some hx⟩

theorem mem_of_l2tlbFind {c : Cpu} {va : Word} {i : Nat} {e : TlbEntry} (h : l2tlbFind c va = some (i, e)) :
    ∃ w, (w, e) ∈ (setOf c.l2tlb i).ways := by
  obtain ⟨k, -, hk⟩ := List.exists_of_findSome?_eq_some h
  obtain ⟨x, hx, hxe⟩ := Option.map_eq_some_iff.1 hk
  cases hxe
  exact mem_of_psEntry hx

/-- The use of a translation by a fetch. -/
theorem TlbRefill.tlbUse (va : Word) (c : Cpu) : TlbRefill c (tlbUse .fetch va c) := by
  unfold Machine.tlbUse
  dsimp only
  split
  · exact .refl c
  · split
    · next e h =>
      rw [l1tlbFind, if_pos rfl] at h
      exact itlbTouch (mem_fetchEntries.2 (.inl (mem_of_psEntry h)))
    · split
      · exact .refl c
      · split
        · next i e h =>
          have l := l2tlbTouch va c
          obtain ⟨w, hw⟩ := mem_of_l2tlbFind h
          rw [← l.l2tlb i] at hw
          exact l.trans (itlbTouch (mem_fetchEntries_of_set hw))
        · exact .refl c

/-- The fetch of a retiring instruction. -/
theorem TlbRefill.fetchTouch (old c : Cpu) : TlbRefill c (fetchTouch old c) := by
  unfold Machine.fetchTouch
  split
  · exact .refl c
  · have k : TlbRefill c (keepTlbs c old) := ⟨fun _ h => h, rfl, fun _ => rfl⟩
    have u := k.trans (tlbUse old.pc (keepTlbs c old))
    exact ⟨u.entries, u.dtlb, u.l2tlb⟩

theorem fetchTouch_wired (old c : Cpu) : (fetchTouch old c).wired = c.wired := by rw [TlbOnly.fetchTouch old c]

theorem fetchTouch_m {old : Cpu} (c : Cpu) (h : old.level = .m) : fetchTouch old c = c := if_pos h

/-- The fetch of a retiring instruction brings no entry into the TLBs. -/
theorem mem_tlbEntries_fetchTouch {old c : Cpu} {e : TlbEntry} (h : e ∈ tlbEntries (fetchTouch old c)) : e ∈ tlbEntries c := by
  have r := TlbRefill.fetchTouch old c
  rw [mem_tlbEntries, r.dtlb, fetchTouch_wired] at h
  exact mem_tlbEntries.2 (h.imp_left (r.entries e))

/-! ## A ready instruction that changes the TLBs -/

/-- Where no loop ends at an instruction, control that goes on from its hart falls through. -/
theorem wentOn_falls {c d : Cpu} (hp : d.pc = c.pc) (h1 : d.le = c.le) (h2 : d.lc = c.lc) (hn : noLoopEnd c) :
    (wentOn none d).pc = c.pc + 4 := by
  rw [wentOn_none, loopEval_pc 3 0 d (by rw [h1, hp, h2]; exact fun j _ hj => hn j (by omega)), hp]

/-- A ready instruction of a core that keeps its registers and falls through: what its TLBs hold is what its effect left, but for its own fetch. -/
theorem run_modTlbs {n : Nat} {i : Instr} {s : State} {body : State → State × Done} {f : Cpu → Cpu} (hr : ready (.core n) i s = true)
    (hb : body (started (.core n) i s) = (modCpu (.core n) f (started (.core n) i s), .seq))
    (hf : FetchKept (coreOf (started (.core n) i s) n) (f (coreOf (started (.core n) i s) n))) :
    ∃ u, run (.core n) i body s = .next u ∧ Kept (.core n) {} s u ∧ MemKept s u ∧
      (noLoopEnd (coreOf (started (.core n) i s) n) → (coreOf u n).pc = (coreOf (started (.core n) i s) n).pc + 4) ∧
      TlbsKept (fetchTouch (coreOf (started (.core n) i s) n) (f (coreOf (started (.core n) i s) n))) (coreOf u n) := by
  have w : HartWork (.core n) (started (.core n) i s) (modCpu (.core n) f (started (.core n) i s)) := .modCpu _ hf
  obtain ⟨u, hu, -, hk, hm, hpc, -⟩ := run_retires (next := none) hr hb w.kept (.of_mem (by simp))
  refine ⟨u, hu, hk, hm, fun hn => hpc.trans (wentOn_falls w.hart.pc w.hart.le w.hart.lc hn), ?_⟩
  rw [run_ready body hr, hb] at hu
  cases hu
  have t := retired_tlbs n (fetchNext (.core n) i (fetchCheck (.core n) s).2).1 (coreOf (started (.core n) i s) n) none
    (modCpu (.core n) f (started (.core n) i s))
  rwa [coreOf_modCpu_same] at t

/-! ## Entries removed and written (07 R178, R185) -/

/-- `d` differs from `c` in its TLBs, their wired slots and the count of a walk's failed compares at most. -/
def TranslationOnly (c d : Cpu) : Prop :=
  d = { c with itlb := d.itlb, dtlb := d.dtlb, dtrees := d.dtrees, dorder := d.dorder, l2tlb := d.l2tlb, wired := d.wired,
               walkTries := d.walkTries }

theorem TranslationOnly.kept {c d : Cpu} (h : TranslationOnly c d) : FetchKept c d := by
  rw [h]
  exact ⟨⟨rfl, rfl, rfl, rfl, rfl, rfl, rfl, rfl, rfl, rfl, rfl, fun _ _ => rfl, fun h => ⟨rfl, rfl, h⟩⟩, rfl, rfl⟩

theorem tlbRemove_kept (p : TlbEntry → Bool) (c : Cpu) : FetchKept c (tlbRemove p c) := TranslationOnly.kept rfl

/-- A page stands in an entry's block where it agrees with the entry's page above the block. -/
theorem inBlock_eq (e : TlbEntry) (vpn : Nat) : inBlock e vpn = decide (vpn / 16 ^ e.cont = e.vpn / 16 ^ e.cont) := by
  unfold inBlock
  rw [Nat.shiftRight_eq_div_pow, Nat.shiftRight_eq_div_pow, Nat.pow_mul]

/-- An entry to be written reaches over a page of another entry's block just where its operand does: bits below its own block are ignored. -/
theorem overlaps_entryOf (f : TlbEntry) (hi lo : Word) : overlaps f (entryOf hi lo) = true ↔
    fld hi 56 12 / 16 ^ max f.cont (entryOf hi lo).cont = f.vpn / 16 ^ max f.cont (entryOf hi lo).cont ∧
      (f.g = true ∨ (entryOf hi lo).g = true ∨ f.asid = (entryOf hi lo).asid) := by
  have hv : (entryOf hi lo).vpn >>> (4 * max f.cont (entryOf hi lo).cont) = fld hi 56 12 >>> (4 * max f.cont (entryOf hi lo).cont) := by
    obtain ⟨j, hj⟩ : ∃ j, max f.cont (entryOf hi lo).cont = fld lo 11 10 + j := ⟨_, (Nat.add_sub_cancel' (Nat.le_max_right _ _)).symm⟩
    rw [hj, Nat.mul_add, Nat.shiftRight_add, Nat.shiftRight_add]
    show (fld hi 56 12 >>> (4 * fld lo 11 10) <<< (4 * fld lo 11 10)) >>> (4 * fld lo 11 10) >>> (4 * j) = _
    rw [Nat.shiftLeft_shiftRight]
  have hp (k m : Nat) : k >>> (4 * m) = k / 16 ^ m := by rw [Nat.shiftRight_eq_div_pow, Nat.pow_mul]
  unfold overlaps
  simp only [Bool.and_eq_true, Bool.or_eq_true, decide_eq_true_eq, hv, hp, or_assoc]
  rw [eq_comm]

/-- TLBW's write of a valid entry (07 R178): what overlaps it goes, and it takes its wired slot or a way of its set. -/
def tlbWritten (hi lo : Word) (c : Cpu) : Cpu :=
  let e := entryOf hi lo
  let c := tlbRemove (fun x => overlaps x e) c
  if flag lo 62 then { c with wired := mIns c.wired (fld lo 61 58) e }
  else
    let q := setOf c.l2tlb (l2tlbSet e.vpn e.cont)
    { c with l2tlb := putSet (l2tlbSet e.vpn e.cont) (psPut 3 (psVictim 3 (fun _ => true) q) e q) c.l2tlb }

section
variable {hi lo : Word} {c : Cpu}

theorem tlbWritten_kept : FetchKept c (tlbWritten hi lo c) := by
  unfold tlbWritten
  dsimp only
  split <;> exact TranslationOnly.kept rfl

theorem tlbWritten_wired (h : flag lo 62 = true) : mFind (tlbWritten hi lo c).wired (fld lo 61 58) = some (entryOf hi lo) := by
  unfold tlbWritten
  dsimp only
  rw [if_pos h]
  exact mFind_mIns_same _ _ _

theorem tlbWritten_set (h : flag lo 62 = false) :
    ∃ w, mFind (setOf (tlbWritten hi lo c).l2tlb (l2tlbSet (entryOf hi lo).vpn (entryOf hi lo).cont)).ways w = some (entryOf hi lo) := by
  unfold tlbWritten
  dsimp only
  rw [if_neg (by simp [h]), setOf_putSet, if_pos rfl]
  exact ⟨_, mFind_mIns_same _ _ _⟩

/-- Beside the new entry stand only entries that it does not overlap. -/
theorem mem_tlbWritten {f : TlbEntry} (hf : f ∈ tlbEntries (tlbWritten hi lo c)) (ho : overlaps f (entryOf hi lo) = true) : f = entryOf hi lo := by
  have gone : f ∉ tlbEntries (tlbRemove (fun x => overlaps x (entryOf hi lo)) c) := by
    rw [tlbEntries_tlbRemove, List.mem_filter]
    exact fun h => by simp [ho] at h
  unfold tlbWritten at hf
  dsimp only at hf
  generalize tlbRemove (fun x => overlaps x (entryOf hi lo)) c = d at gone hf
  split at hf
  · rcases mem_tlbEntries.1 hf with h | h | h
    · exact (gone (mem_tlbEntries.2 (.inl h))).elim
    · exact (gone (mem_tlbEntries.2 (.inr (.inl h)))).elim
    · obtain ⟨x, hx, rfl⟩ := List.mem_map.1 h
      rcases mem_mIns hx with rfl | hx
      · rfl
      · exact (gone (mem_tlbEntries.2 (.inr (.inr (List.mem_map_of_mem hx))))).elim
  · rcases mem_tlbEntries.1 hf with h | h
    · rcases mem_fetchEntries_putSet h with ⟨w, hw⟩ | h
      · rcases mem_mIns hw with hw | hw
        · cases hw; rfl
        · exact (gone (mem_tlbEntries.2 (.inl (mem_fetchEntries_of_set hw)))).elim
      · exact (gone (mem_tlbEntries.2 (.inl h))).elim
    · exact (gone (mem_tlbEntries.2 (.inr h))).elim

end

/-! ## The words of an entry (07 Table 7.9) -/

theorem fld_lt (w : Word) (hi lo : Nat) : fld w hi lo < 2 ^ (hi + 1 - lo) := Nat.mod_lt _ (Nat.two_pow_pos _)

/-- ENTRY_LO of an entry that is not wired, field by field. -/
theorem entryLo_fields {e : TlbEntry} (hp : e.ppn < 2 ^ 40) (hc : e.cont < 4) :
    let w := entryLo e none
    flag w 63 = true ∧ flag w 62 = false ∧ fld w 51 12 = e.ppn ∧ fld w 11 10 = e.cont ∧ flag w 8 = e.d ∧ flag w 6 = e.g ∧ flag w 5 = e.u ∧
      flag w 4 = e.x ∧ flag w 3 = e.w ∧ flag w 2 = e.r := by
  have hd := Bool.toNat_lt e.d
  have hg := Bool.toNat_lt e.g
  have hu := Bool.toNat_lt e.u
  have hx := Bool.toNat_lt e.x
  have hw := Bool.toNat_lt e.w
  have hr := Bool.toNat_lt e.r
  have bit (b : Bool) {k : Nat} (h : k = b.toNat) : decide (k = 1) = b := by subst h; cases b <;> rfl
  dsimp only
  unfold flag fld nbits entryLo
  dsimp only
  rw [BitVec.toNat_ofNat, Nat.mod_eq_of_lt (by omega)]
  simp only [Nat.testBit_eq_decide_div_mod_eq, Nat.shiftRight_eq_div_pow]
  refine ⟨decide_eq_true ?_, decide_eq_false ?_, ?_, ?_, bit _ ?_, bit _ ?_, bit _ ?_, bit _ ?_, bit _ ?_, bit _ ?_⟩
  all_goals omega

theorem entryHi_level (lvl wst vpn : Nat) : entryHi lvl wst vpn 0 = BitVec.ofNat 64 (lvl * 2 ^ 62 + wst * 2 ^ 57 + vpn * 4096) := by
  rw [entryHi, Nat.add_zero]

theorem entryHi_status (wst vpn : Nat) : entryHi 0 wst vpn 0 = BitVec.ofNat 64 (wst * 2 ^ 57 + vpn * 4096) := by simp [entryHi]

theorem entryHi_page (vpn asid : Nat) : entryHi 0 0 vpn asid = BitVec.ofNat 64 (vpn * 4096 + asid) := by simp [entryHi]

/-- ENTRY_LO of the entry that a leaf gives (07 Tables 7.4, 7.9): its page, its contiguity and its bits. -/
theorem entryLo_leaf (vpn asid : Nat) (leaf : Word) :
    let w := entryLo (leafEntry vpn asid leaf) none
    flag w 63 = true ∧ flag w 62 = false ∧ fld w 51 12 = fld leaf 51 12 ∧ fld w 11 10 = fld leaf 10 9 ∧
      ∀ k ∈ [2, 3, 4, 5, 6, 8], flag w k = flag leaf k := by
  obtain ⟨valid, wired, ppn, cont, d, g, u, x, w, r⟩ := entryLo_fields (e := leafEntry vpn asid leaf) (fld_lt leaf 51 12) (fld_lt leaf 10 9)
  refine ⟨valid, wired, ppn, cont, ?_⟩
  simpa only [List.forall_mem_cons, List.not_mem_nil, false_implies, implies_true, and_true] using ⟨r, w, x, u, g, d⟩

end Sys2Proof.Machine
end

section
/-! PROOF. TLBI, TLBW, TLBR and WALK (O29). -/

namespace Sys2Proof.Machine
open Sys2Proof

/-! ## What the operations share (06 R144, 07 R177, R182) -/

theorem badOperand_of_tags {xs : List GVal} (h : ∀ x ∈ xs, x.t ≠ .pois ∧ x.t ≠ .hndl) : badOperand xs = false := by
  simpa [badOperand] using h

/-- With an empty store buffer nothing stands before an effect of a core that waits for older stores. -/
theorem afterStores_core {n : Nat} {t : State} (act : State → State × Done) (hb : (coreOf t n).sb = []) : afterStores (.core n) act t = act t :=
  afterStores_empty act hb

/-! ## TLBI (07 Table 7.14, R185, R186) -/

theorem enclOfCore_modCpu (h : Hart) (f : Cpu → Cpu) (s : State) (k : Nat) : enclOfCore (modCpu h f s) k = enclOfCore s k := by
  unfold enclOfCore objN obj
  rw [modCpu_objs]

/-- Whom a broadcast waits for is seen from the other cores and the I/O caches. -/
theorem tlbiTargets_modCpu (n e : Nat) (f : Cpu → Cpu) (s : State) : tlbiTargets (modCpu (.core n) f s) n e = tlbiTargets s n e := by
  have hp (k : Nat) : prvOf (modCpu (.core n) f s) k = prvOf s k := rfl
  have ht (k : Nat) : ioTlbOf (modCpu (.core n) f s) k = ioTlbOf s k := rfl
  unfold tlbiTargets
  simp only [enclOfCore_modCpu, hp, ht]
  congr 3
  refine List.filter_congr fun k _ => ?_
  by_cases hk : k = n
  · simp [hk]
  · rw [coreOf_modCpu_other f s hk]

/-- A core that waits for what a broadcast TLBI tells. -/
def tellsTlbi (ts : List TlbTarget) (form : Nat) (va : Word) (at_ : Nat) (c : Cpu) : Cpu :=
  { c with wait := .tlbi ts form va (fld va 11 0) at_ }

theorem tellsTlbi_kept (h : Hart) (ts : List TlbTarget) (form : Nat) (va : Word) (at_ : Nat) (s : State) :
    Kept h {} s (modCpu h (tellsTlbi ts form va at_) s) :=
  Kept.modCpu fun _ => ⟨fun _ _ => rfl, fun _ _ => rfl, fun _ _ => rfl, fun _ _ _ => rfl, fun _ => rfl, fun _ hm => ⟨rfl, rfl, hm⟩,
    fun _ => ⟨rfl, rfl⟩, rfl⟩

section
variable {n : Nat} {b : Bool} {s : State} {form : Nat} {x : GVal} {p : TlbEntry → Bool}
  (hx : badOperand [x] = false) (hp : tlbiHits form x.v (fld x.v 11 0) (curAsid (coreOf s n)) = p)
include hx hp

/-- TLBI on an operand that it may take removes what its form names, and waits where the broadcast has anyone to tell. -/
theorem tlbi_core : tlbi (.core n) form x b s =
    if (if b = true then tlbiTargets s n (enclOfCore s n) else []) = [] then (modCpu (.core n) (tlbRemove p) s, .seq)
    else (modCpu (.core n) (tellsTlbi (if b = true then tlbiTargets s n (enclOfCore s n) else []) form x.v s.stamp)
      (modCpu (.core n) (tlbRemove p) s), .stay) := by
  subst hp
  unfold tlbi
  simp only [hx, Bool.false_eq_true, if_false, enclOfCore_modCpu, tlbiTargets_modCpu, modCpu_stamp]
  rfl

/-- TLBI without the broadcast, or with nobody to tell: its removal is all it does. -/
theorem tlbi_local (h : b = false ∨ tlbiTargets s n (enclOfCore s n) = []) :
    tlbi (.core n) form x b s = (modCpu (.core n) (tlbRemove p) s, .seq) := by
  rw [tlbi_core hx hp, if_pos]
  rcases h with rfl | h
  · rfl
  · rw [h, ite_self]

/-- TLBI with cores or I/O caches to tell: the core waits for them. -/
theorem tlbi_broadcast (hb : b = true) (h : tlbiTargets s n (enclOfCore s n) ≠ []) :
    tlbi (.core n) form x b s = (modCpu (.core n) (tellsTlbi (tlbiTargets s n (enclOfCore s n)) form x.v s.stamp)
      (modCpu (.core n) (tlbRemove p) s), .stay) := by
  rw [tlbi_core hx hp, if_pos hb, if_neg h]

end

/-- TLBI VA names the entries of a page that are global or the current address space's (07 Table 7.14). -/
theorem tlbiHits_va (va : Word) (asid cur : Nat) : tlbiHits 2 va asid cur =
    fun e => decide (fld va 56 12 / 16 ^ e.cont = e.vpn / 16 ^ e.cont) && (e.g || decide (e.asid = cur)) :=
  funext fun e => congrArg (· && (e.g || decide (e.asid = cur))) (inBlock_eq e (vpnOf va))

/-- TLBI VA_ALL names every entry of a page. -/
theorem tlbiHits_vaAll (va : Word) (asid cur : Nat) : tlbiHits 3 va asid cur =
    fun e => decide (fld va 56 12 / 16 ^ e.cont = e.vpn / 16 ^ e.cont) := funext fun e => inBlock_eq e (vpnOf va)

/-- A ready TLBI, whichever form names the entries that `p` picks. -/
theorem tlbi_removes {n : Nat} {i : Instr} {b : Bool} {s : State} {form : Nat} {x : GVal} {p : TlbEntry → Bool} {body : State → State × Done}
    (he : exec i s = run (.core n) i body s) (hr : ready (.core n) i s = true)
    (hb : body (started (.core n) i s) = tlbi (.core n) form x b (started (.core n) i s)) (hx : badOperand [x] = false)
    (hp : tlbiHits form x.v (fld x.v 11 0) (curAsid (coreOf (started (.core n) i s) n)) = p) :
    let t := started (.core n) i s
    let c := coreOf t n
    let ts := tlbiTargets t n (enclOfCore t n)
    ∃ u, exec i s = .next u ∧ Kept (.core n) {} s u ∧ MemKept s u ∧
      (∀ e ∈ tlbEntries (coreOf u n), e ∈ tlbEntries c ∧ p e = false) ∧
      (coreOf u n).dtlb = c.dtlb.filter (fun e => !(p e.2)) ∧ (coreOf u n).wired = c.wired.filter (fun e => !(p e.2)) ∧
      (c.level = .m → tlbEntries (coreOf u n) = (tlbEntries c).filter (fun e => !(p e))) ∧
      (b = false ∨ ts = [] → (noLoopEnd c → (coreOf u n).pc = c.pc + 4)) ∧
      (b = true → ts ≠ [] → (coreOf u n).pc = c.pc ∧ tlbEntries (coreOf u n) = (tlbEntries c).filter (fun e => !(p e)) ∧
        ∃ form va asid, (coreOf u n).wait = .tlbi ts form va asid s.stamp) := by
  dsimp only
  have left {e : TlbEntry} (h : e ∈ tlbEntries (tlbRemove p (coreOf (started (.core n) i s) n))) :
      e ∈ tlbEntries (coreOf (started (.core n) i s) n) ∧ p e = false := by
    rw [tlbEntries_tlbRemove, List.mem_filter] at h
    simpa using h
  by_cases h : b = false ∨ tlbiTargets (started (.core n) i s) n (enclOfCore (started (.core n) i s) n) = []
  · obtain ⟨u, hu, hk, hm, hpc, ht⟩ := run_modTlbs hr (hb.trans (tlbi_local hx hp h)) (tlbRemove_kept p _)
    refine ⟨u, he.trans hu, hk, hm, fun e he => ?_, ?_, ?_, fun hl => ?_, fun _ => hpc, fun h1 h2 => ?_⟩
    · rw [ht.tlbEntries] at he
      exact left (mem_tlbEntries_fetchTouch he)
    · rw [ht.dtlb, (TlbRefill.fetchTouch _ _).dtlb]; rfl
    · rw [ht.wired, fetchTouch_wired]; rfl
    · rw [ht.tlbEntries, fetchTouch_m _ hl, tlbEntries_tlbRemove]
    · rcases h with h | h
      · exact absurd (h1.symm.trans h) (by decide)
      · exact absurd h h2
  · obtain ⟨h1, h2⟩ : b = true ∧ tlbiTargets (started (.core n) i s) n (enclOfCore (started (.core n) i s) n) ≠ [] := by simpa using h
    obtain ⟨k, m, -⟩ := started_work (ready_delivers hr)
    rw [fetchCheck_core (ready_check hr)] at m
    have w := HartWork.modCpu (h := .core n) (started (.core n) i s) (tlbRemove_kept p _)
    have hrun := he.trans (run_ready body hr)
    rw [hb, tlbi_broadcast hx hp h1 h2] at hrun
    refine ⟨_, hrun, (k.trans w).kept.between (tellsTlbi_kept _ _ _ _ _ _) (.refl _ _ _), m.trans (.of_mem (by simp [finish])), ?_⟩
    dsimp only [finish]
    rw [coreOf_modCpu_same, coreOf_modCpu_same, started_stamp hr]
    generalize tlbiTargets (started (.core n) i s) n (enclOfCore (started (.core n) i s) n) = ts at h ⊢
    generalize coreOf (started (.core n) i s) n = c at left ⊢
    have entries : tlbEntries (tellsTlbi ts form x.v s.stamp (tlbRemove p c)) = (tlbEntries c).filter (fun e => !(p e)) :=
      tlbEntries_tlbRemove p c
    exact ⟨fun e => left, rfl, rfl, fun _ => entries, fun h' => absurd h' h, fun _ _ => ⟨rfl, entries, _, _, _, rfl⟩⟩

/-! ## A pair of registers is written (07 R179, R180) -/

theorem RegsKept.gpr {c d : Cpu} (h : RegsKept c d) (q : Reg) : gpr d q = gpr c q := by
  unfold Machine.gpr
  rw [h.g]

theorem pair_ne {rd : Reg} (h : pairReg rd = true) : rd ≠ 0 ∧ rd + 1 ≠ 0 ∧ rd ≠ rd + 1 := by
  revert rd; decide

theorem setPair_kept (h : Hart) (rd : Reg) (x y : GVal) (s : State) :
    Kept h { g := [rd, rd + 1] } s (modCpu h (fun c => setGpr (rd + 1) y (setGpr rd x c)) s) := by
  refine Kept.modCpu fun c => ⟨fun q hq => ?_, ?_⟩
  · simp only [List.mem_cons, List.not_mem_nil, or_false, not_or] at hq
    rw [gpr_setGpr_other _ _ _ _ hq.2, gpr_setGpr_other _ _ _ _ hq.1]
  · unfold setGpr
    split <;> split <;> exact ⟨fun _ _ => rfl, fun _ _ => rfl, fun _ _ _ => rfl, fun _ => rfl, fun _ hm => ⟨rfl, rfl, hm⟩, fun _ => ⟨rfl, rfl⟩, rfl⟩

/-- A ready instruction of a core whose effect, after work that keeps its registers, is to write a pair of registers. -/
theorem completes_of_pair {n : Nat} {i : Instr} {s t : State} {rd : Reg} {hi lo : Word} {body : State → State × Done}
    (he : exec i s = run (.core n) i body s) (hr : ready (.core n) i s = true) (hrd : pairReg rd = true)
    (hb : body (started (.core n) i s) = writePair (.core n) rd hi lo t) (hw : HartWork (.core n) (started (.core n) i s) t)
    (hm : MemKept (started (.core n) i s) t) :
    Completes (.core n) i s { g := [rd, rd + 1] } none (fun d => gpr d rd = ⟨hi, .data⟩ ∧ gpr d (rd + 1) = ⟨lo, .data⟩) := by
  obtain ⟨h0, h1, h2⟩ := pair_ne hrd
  obtain ⟨u, hu, hregs, hk, hm, hpc, -⟩ := run_retires (next := none) hr hb (hw.kept.between (setPair_kept _ rd _ _ t) (.refl _ _ _))
    (hm.trans (.of_mem (by simp)))
  rw [cpuOf_modCpu_same] at hregs hpc
  have k := (started_work (ready_delivers hr)).1.hart.trans hw.hart
  refine ⟨u, he.trans hu, ?_, hk, hm, fun hn => hpc.trans (wentOn_falls ?_ ?_ ?_ hn)⟩
  · exact ⟨(hregs.gpr rd).trans ((gpr_setGpr_other _ _ _ _ h2).trans (gpr_setGpr_same _ _ _ h0)),
      (hregs.gpr (rd + 1)).trans (gpr_setGpr_same _ _ _ h1)⟩
  · simpa using k.pc
  · simpa using k.le
  · simpa using k.lc

theorem Completes.imp {h : Hart} {i : Instr} {s : State} {w : Writes} {next : Option Word} {P Q : Cpu → Prop} (hc : Completes h i s w next P)
    (hpq : ∀ d, P d → Q d) : Completes h i s w next Q := by
  obtain ⟨u, hu, hp, hrest⟩ := hc
  exact ⟨u, hu, hpq _ hp, hrest⟩

/-- A ready instruction whose effect ends in an exception takes it in the state that its effect left. -/
theorem exec_raises {h : Hart} {i : Instr} {s v : State} {e : Exc} {body : State → State × Done} (he : exec i s = run h i body s)
    (hr : ready h i s = true) (hb : body (started h i s) = (v, .exc e)) : exec i s = .next (takeSync h e v) := by
  rw [he, run_ready body hr, hb]
  rfl

/-! ## WALK's outcomes (07 R180, R183) -/

theorem CacheOnly.walkLine (n line : Nat) (s : State) : CacheOnly s (walkLine n line s).1 := by
  have enters (t : State) : CacheOnly t (if remoteLine t line ∨ llcValid t line then t else Machine.llcAlloc line false t) :=
    ite (.refl t) (.llcAlloc line false t)
  have m := CacheOnly.makeRoom (tileOf s n) line s
  unfold Machine.walkLine
  dsimp only
  split
  · exact (l2Touch _ line s).trans (enters _)
  · split
    · split
      · exact .installShadow _ line false s
      · split
        · exact .refl s
        · exact .ask _ 0 line s
    · split
      · exact (m.trans (.installShadow _ line true _)).trans (enters _)
      · split
        · exact (m.trans (.acquireShared _ line _)).trans (enters _)
        · exact m.trans (.ask _ 0 line _)

theorem CacheOnly.walkLines (n : Nat) (lines : List Nat) (s : State) : CacheOnly s (walkLines n lines s).1 :=
  List.foldlRecOn (motive := fun r : State × Bool => CacheOnly s r.1) _ _ (.refl s) fun r hr l _ => by
    split
    · exact hr.trans (.walkLine n l r.1)
    · exact hr

/-- A record about an access touches no core and no memory. -/
theorem reportAccess_kept (p : Prop) [Decidable p] (h : Hart) (cls kind pa : Nat) {t r : State} (hc : CacheOnly t r) :
    (if p then reportAccess h cls kind pa r else r).cores = t.cores ∧ MemKept t (if p then reportAccess h cls kind pa r else r) := by
  split
  · exact ⟨(report_cores _ r).trans hc.cores, hc.memKept.trans (.of_mem (report_mem _ r))⟩
  · exact ⟨hc.cores, hc.memKept⟩

/-- The lines that WALK reads. -/
def walkNeeds (n : Nat) (ra : Reg) (t : State) : List Nat :=
  (walkRootReads t (enclOfCore t n) (fun _ => none) (sysReg (coreOf t n) 0x420) (gpr (coreOf t n) ra).v).map (fun p => lineOf p.2.pa)

/-- How WALK ends once its lines are with the core, where the root asks for no marking. -/
def walkEnds (n : Nat) (rd ra : Reg) (t r : State) : WalkEnd → State × Done
  | .busError pa => (if placeOf t (enclOfCore t n) pa = .unbacked then reportAccess (.core n) 0x0305 5 pa r else r,
      .exc { code := 0x09, tval := BitVec.ofNat 64 pa })
  | .attrFault pa => (r, .exc { code := 0x0A, tval := BitVec.ofNat 64 pa })
  | .status wst lvl => writePair (.core n) rd (entryHi lvl wst (vpnOf (gpr (coreOf t n) ra).v) 0) 0 r
  | .ok _ leaf => walkGives (.core n) rd (vpnOf (gpr (coreOf t n) ra).v) leaf r

section
variable {n : Nat} {rd ra : Reg} {t : State} (hx : badOperand [gpr (coreOf t n) ra] = false)
include hx

/-- After four failed compares WALK gives CONTENDED (07 R183). -/
theorem walk_contended (intent : BitVec 2) (h4 : 4 ≤ (coreOf t n).walkTries) : walk (.core n) rd ra intent t =
    writePair (.core n) rd (entryHi 0 4 (vpnOf (gpr (coreOf t n) ra).v) 0) 0 (modCpu (.core n) (fun c => { c with walkTries := 0 }) t) := by
  unfold walk
  dsimp only [cpuOf]
  rw [if_neg (Bool.eq_false_iff.1 hx), if_pos h4]

/-- WALK with its lines at hand ends as the walk of its root does (07 R180). -/
theorem walk_read {intent : BitVec 2} {w : WalkEnd} (h4 : (coreOf t n).walkTries < 4)
    (hl : (walkLines n (walkNeeds n ra t) t).2 = true)
    (hw : walkRoot t (enclOfCore t n) (fun _ => none) (sysReg (coreOf t n) 0x420) (gpr (coreOf t n) ra).v = w)
    (hm : ∀ pa leaf, w = .ok pa leaf → flag (sysReg (coreOf t n) 0x420) 2 = false) : ∃ r, CacheOnly t r ∧
      walk (.core n) rd ra intent t = walkEnds n rd ra t r w := by
  refine ⟨_, .walkLines n (walkNeeds n ra t) t, ?_⟩
  unfold walk
  dsimp only [cpuOf, enclOf]
  unfold walkNeeds at hl ⊢
  rw [if_neg (Bool.eq_false_iff.1 hx), if_neg (by omega), if_neg (by simp [hl]), hw]
  cases w with
  | ok pa leaf =>
    dsimp only
    rw [if_neg (Bool.eq_false_iff.1 (hm pa leaf rfl)), if_pos rfl]
    rfl
  | status _ _ => rfl
  | busError _ => rfl
  | attrFault _ => rfl

end

/-! ## TLBR (07 R179) -/

section
variable {n : Nat} {rd ra : Reg} {t : State} {k : Nat} {e : TlbEntry} (hx : badOperand [gpr (coreOf t n) ra] = false)
include hx

theorem tlbr_wired (h : wiredFind (coreOf t n) (gpr (coreOf t n) ra).v = some (k, e)) :
    tlbr (.core n) rd ra t = writePair (.core n) rd (entryHi 0 0 e.vpn e.asid) (entryLo e (some k)) t := by
  unfold tlbr
  dsimp only [cpuOf]
  rw [if_neg (Bool.eq_false_iff.1 hx), h]

variable (hw : wiredFind (coreOf t n) (gpr (coreOf t n) ra).v = none)
include hw

theorem tlbr_l2tlb (h : l2tlbFind (coreOf t n) (gpr (coreOf t n) ra).v = some (k, e)) :
    tlbr (.core n) rd ra t = writePair (.core n) rd (entryHi 0 0 e.vpn e.asid) (entryLo e none) t := by
  unfold tlbr
  dsimp only [cpuOf]
  rw [if_neg (Bool.eq_false_iff.1 hx), hw, h]

theorem tlbr_miss (h : l2tlbFind (coreOf t n) (gpr (coreOf t n) ra).v = none) :
    tlbr (.core n) rd ra t = writePair (.core n) rd (entryHi 0 1 (vpnOf (gpr (coreOf t n) ra).v) 0) 0 t := by
  unfold tlbr
  dsimp only [cpuOf]
  rw [if_neg (Bool.eq_false_iff.1 hx), hw, h]

end

/-! ## TLBW (07 R178) -/

theorem tlbw_valid {n : Nat} {ra : Reg} {t : State} (hx : badOperand [gpr (coreOf t n) ra, gpr (coreOf t n) (ra + 1)] = false)
    (hv : flag (gpr (coreOf t n) (ra + 1)).v 63 = true) (hr : loReserved (gpr (coreOf t n) (ra + 1)).v = false) :
    tlbw (.core n) ra t = (modCpu (.core n) (tlbWritten (gpr (coreOf t n) ra).v (gpr (coreOf t n) (ra + 1)).v) t, .seq) := by
  unfold tlbw tlbWritten nextReg
  dsimp only [cpuOf]
  rw [if_neg (Bool.eq_false_iff.1 hx), if_neg (not_or.2 ⟨not_not_intro hv, Bool.eq_false_iff.1 hr⟩)]
  split <;> (unfold modCpu; rfl)

/-- Settles O29: each operation's effect is carried through the instruction's retirement, whose own fetch brings no entry into the TLBs. -/
theorem tlbOperations : Obligations.TlbOperations := by
  unfold Obligations.TlbOperations
  refine ⟨?tlbi, fun n rd ra s => ⟨?tlbw, ?tlbr⟩, ?walk⟩
  case tlbi =>
    rintro n ra b s ⟨i, p⟩
    dsimp only
    intro hf hr hp hh hsb
    have hx : badOperand [gpr (coreOf (started (.core n) i s) n) ra] = false := badOperand_of_tags (by simpa using ⟨hp, hh⟩)
    have act (a : State → State × Done) := afterStores_core a hsb
    simp only [List.mem_cons, List.not_mem_nil, or_false, Prod.mk.injEq] at hf
    rcases hf with ⟨rfl, rfl⟩ | ⟨rfl, rfl⟩ | ⟨rfl, rfl⟩ | ⟨rfl, rfl⟩ | ⟨rfl, rfl⟩
    · exact tlbi_removes rfl hr (act _) rfl rfl
    · exact tlbi_removes rfl hr (act _) rfl rfl
    · exact tlbi_removes rfl hr (act _) hx rfl
    · exact tlbi_removes rfl hr (act _) hx (tlbiHits_va _ _ _)
    · exact tlbi_removes rfl hr (act _) hx (tlbiHits_vaAll _ _ _)
  case tlbw =>
    dsimp only
    intro hr hsb h1 h2 h3 h4 hv hlo
    have hb := (afterStores_core (tlbw (.core n) ra) hsb).trans (tlbw_valid (badOperand_of_tags (by simpa using ⟨⟨h1, h2⟩, h3, h4⟩)) hv hlo)
    obtain ⟨u, hu, hk, hm, -, ht⟩ := run_modTlbs hr hb tlbWritten_kept
    refine ⟨u, hu, hk, hm, fun h => ?_, fun h => ?_, fun f hf hfits => ?_⟩
    · rw [ht.wired, fetchTouch_wired]
      exact tlbWritten_wired h
    · rw [ht.l2tlb, (TlbRefill.fetchTouch _ _).l2tlb]
      exact tlbWritten_set h
    · rw [ht.tlbEntries] at hf
      exact mem_tlbWritten (mem_tlbEntries_fetchTouch hf) ((overlaps_entryOf _ _ _).2 hfits)
  case tlbr =>
    dsimp only
    intro hr hsb hp hh
    have hx : badOperand [gpr (coreOf (started (.core n) (.tlbr (.core n) rd ra) s) n) ra] = false := badOperand_of_tags (by simpa using ⟨hp, hh⟩)
    have act := afterStores_core (tlbr (.core n) rd ra) hsb
    have gives {hi lo : Word} (h : tlbr (.core n) rd ra (started (.core n) (.tlbr (.core n) rd ra) s) =
        writePair (.core n) rd hi lo (started (.core n) (.tlbr (.core n) rd ra) s)) :=
      completes_of_pair rfl hr (ready_wellFormed hr) (act.trans h) (.refl _ _) (.refl _)
    refine ⟨fun k f hw => gives (tlbr_wired hx hw), fun k f hw hl => gives (tlbr_l2tlb hx hw hl), fun hw hl => ?_⟩
    exact gives (tlbr_miss hx hw hl)
  case walk =>
    intro n rd ra s
    dsimp only
    intro hr hsb hp hh
    have hx : badOperand [gpr (coreOf (started (.core n) (.walk (.core n) rd ra 0) s) n) ra] = false := badOperand_of_tags (by simpa using ⟨hp, hh⟩)
    have act := afterStores_core (walk (.core n) rd ra 0) hsb
    have hrd : pairReg rd = true := by simpa [wellFormed] using ready_wellFormed hr
    refine ⟨fun h4 => ?contended, fun h4 hl => ⟨fun st lvl hw => ?status, fun pa leaf hroot hw => ?leaf, fun pa hw => ?attrFault,
      fun pa hw => ?busError⟩⟩
    case contended =>
      rw [← entryHi_status]
      exact completes_of_pair rfl hr hrd (act.trans (walk_contended hx 0 h4)) (.modCpu _ (TranslationOnly.kept rfl)) (.of_mem (by simp))
    case status =>
      rw [← entryHi_level]
      obtain ⟨r, hc, he⟩ := walk_read hx h4 hl hw nofun
      exact completes_of_pair rfl hr hrd (act.trans he) (hc.work _) hc.memKept
    case leaf =>
      obtain ⟨r, hc, he⟩ := walk_read hx h4 hl hw fun _ _ _ => hroot
      rw [walkEnds, walkGives, hc.cpuOf] at he
      refine (completes_of_pair rfl hr hrd (act.trans he) (hc.work _) hc.memKept).imp fun d ⟨hhi, hlo⟩ => ?_
      rw [← entryHi_page, hlo]
      exact ⟨hhi, rfl, entryLo_leaf _ _ leaf⟩
    case attrFault =>
      obtain ⟨r, hc, he⟩ := walk_read hx h4 hl hw nofun
      exact ⟨r, exec_raises rfl hr (act.trans he), hc.cores, hc.memKept⟩
    case busError =>
      obtain ⟨r, hc, he⟩ := walk_read hx h4 hl hw nofun
      exact ⟨_, exec_raises rfl hr (act.trans he), reportAccess_kept _ _ _ _ _ hc⟩

end Sys2Proof.Machine
end

section
/-! SUPPORT. The data address of a core, what a retirement leaves of the home slices, and what work on the copies of a line leaves alone. -/

namespace Sys2Proof.Machine
open Sys2Proof

/-! ## The data address of a core (03 Table 3.8, 07 R164, R171) -/

theorem addrExc_of_goodBase {h : Hart} {c : Cpu} {x : GVal} (hg : GoodBase h c x) : addrExc h c x [] [] = none := by
  obtain ⟨hp, hh, ht⟩ := hg
  have hl : ¬ (tagLevel h c = 2 ∧ x.t ≠ .dptr) := fun ⟨h2, hd⟩ => hd (ht h2)
  simp [addrExc, hp, hh, hl]

/-- An access of one octet is one half. -/
theorem halves_one (va : Word) : halves va 1 = [(va, 1)] := if_pos (by omega)

/-- Data accesses of every kind search the same TLBs. -/
theorem tlbFind_data {a : Access} (ha : a ≠ .fetch) (c : Cpu) (va : Word) : tlbFind c a va = tlbFind c .load va := by
  simp [tlbFind, l1tlbFind, ha]

theorem xlate_of_translates {n : Nat} {a : Access} {t : State} {va : Word} (ht : Translates (coreOf t n) a va 1) :
    xlate (.core n) a [(va, 1)] t = (.ok [physOf (coreOf t n) va], t) := by
  obtain ⟨hrefill, hprot⟩ := ht (va, 1) (by simp [halves_one])
  simp [xlate, hrefill, hprot]

/-- Below M an address that translates is found in the TLBs. -/
theorem tlbFind_of_translates {c : Cpu} {a : Access} {va : Word} (ha : a ≠ .fetch) (ht : Translates c a va 1) (hl : c.level ≠ .m) :
    ∃ e, tlbFind c .load va = some e := by
  obtain ⟨hrefill, hprot⟩ := ht (va, 1) (by simp [halves_one])
  have hc : canonical va = true := by
    cases hc : canonical va with
    | true => rfl
    | false => simp [protCheck, hl, hc] at hprot
  rw [← tlbFind_data ha]
  cases he : tlbFind c a va with
  | some e => exact ⟨e, rfl⟩
  | none => simp [refillCheck, hl, hc, he] at hrefill

theorem entryPa_mod_page (e : TlbEntry) (va : Word) : entryPa e va % 4096 = va.toNat % 4096 := by
  rw [entryPa, Nat.mul_add_mod', Nat.mod_mod_of_dvd]
  exact ⟨2 ^ (4 * e.cont), Nat.shiftLeft_eq _ _⟩

/-- Translation keeps an address's place in its page. -/
theorem physOf_mod_page {c : Cpu} {a : Access} {va : Word} (ha : a ≠ .fetch) (ht : Translates c a va 1) :
    physOf c va % 4096 = va.toNat % 4096 := by
  unfold physOf physAt
  split
  · rfl
  · next hl =>
    obtain ⟨e, he⟩ := tlbFind_of_translates ha ht hl
    rw [he]
    exact entryPa_mod_page e va

/-- Where an access goes depends on its granule alone. -/
theorem placeOf_congr {p q : Nat} (s : State) (e : Nat) (h : p / 2 ^ 30 = q / 2 ^ 30) : placeOf s e p = placeOf s e q := by
  have top : p >>> 48 = q >>> 48 := by simp only [Nat.shiftRight_eq_div_pow]; omega
  have granule : (p % 2 ^ 48) >>> 30 = (q % 2 ^ 48) >>> 30 := by simp only [Nat.shiftRight_eq_div_pow]; omega
  have port : nbits p 47 46 = nbits q 47 46 := by simp only [nbits, Nat.shiftRight_eq_div_pow]; omega
  have bound : p ≥ 2 ^ 52 ↔ q ≥ 2 ^ 52 := by omega
  simp only [placeOf, top, granule, port, bound]

theorem placeOf_line (s : State) (e pa : Nat) : placeOf s e (pa / 64 * 64) = placeOf s e pa := placeOf_congr s e (by omega)

theorem placeOf_modCpu (h : Hart) (f : Cpu → Cpu) (s : State) (e pa : Nat) : placeOf (modCpu h f s) e pa = placeOf s e pa := by
  cases h <;> rfl

/-- The line of an address, found by the translation of its page. -/
theorem paIn_line {va : Word} {pa : Nat} (h : pa % 4096 = va.toNat % 4096) :
    paIn [(va, pa)] (BitVec.ofNat 64 (va.toNat / 64 * 64)) = pa / 64 * 64 := by
  have hv : (BitVec.ofNat 64 (va.toNat / 64 * 64)).toNat = va.toNat / 64 * 64 := by
    rw [BitVec.toNat_ofNat]
    have := va.isLt
    omega
  have hp : va.toNat / 4096 = va.toNat / 64 * 64 / 4096 := by omega
  simp only [paIn, hv, hp, List.find?_cons, decide_true]
  omega

/-! ## What a retirement leaves of the homes (06 R145) -/

/-- The home slices and memory stand as they stood. -/
structure HomesKept (s t : State) : Prop where
  slices : t.slices = s.slices
  mem : t.mem = s.mem

theorem HomesKept.refl (s : State) : HomesKept s s := ⟨rfl, rfl⟩

theorem HomesKept.trans {s t u : State} (a : HomesKept s t) (b : HomesKept t u) : HomesKept s u :=
  ⟨b.slices.trans a.slices, b.mem.trans a.mem⟩

theorem HomesKept.modCpu (h : Hart) (f : Cpu → Cpu) (s : State) : HomesKept s (modCpu h f s) := ⟨by simp, by simp⟩
theorem HomesKept.modTile (t : Nat) (f : Tile → Tile) (s : State) : HomesKept s (modTile t f s) := ⟨rfl, rfl⟩

/-- Counting writes a core's counters and its local sources. -/
theorem countEv_frame (n ev k : Nat) (s : State) :
    countEv n ev k s = { s with cores := (countEv n ev k s).cores, localPend := (countEv n ev k s).localPend } := by
  unfold countEv raiseLocal
  dsimp only
  generalize (List.range 8).foldl (fun r i => pmcCount ev k i r) (coreOf s n, false) = r
  split <;> rfl

theorem HomesKept.countEv (n ev k : Nat) (s : State) : HomesKept s (countEv n ev k s) := by
  rw [countEv_frame]; exact ⟨rfl, rfl⟩

theorem HomesKept.countWaste (n k : Nat) (s : State) : HomesKept s (countWaste n k s) := by
  unfold Machine.countWaste
  split
  · exact .refl s
  · exact (modCpu _ _ s).trans (.countEv _ _ _ _)

/-- A flush by an instruction installs no line. -/
theorem HomesKept.flushShadows (n : Nat) (s : State) : HomesKept s (flushShadows n false s) := by
  unfold Machine.flushShadows
  dsimp only
  split
  · exact .refl s
  · have none (l : List Shadow) : l.filter (fun _ => false) = [] := List.filter_eq_nil_iff.2 fun _ _ => Bool.false_ne_true
    simp only [Bool.and_false, Bool.false_and, none, List.foldl_nil]
    exact .modTile _ _ s

theorem HomesKept.flushAll (n : Nat) (s : State) : HomesKept s (flushAll n false s) := by
  unfold Machine.flushAll
  split
  · exact .refl s
  · exact (((flushShadows n s).trans (.countWaste _ _ _)).trans (.modTile _ _ _)).trans (.modCpu _ _ _)

theorem HomesKept.resolve (n : Nat) (e : WinEntry) (taken : Bool) (s : State) : HomesKept s (resolve n e taken s) := by
  have flushed (p : Prop) [Decidable p] (u : State) (h : HomesKept s u) : HomesKept s (if p then Machine.flushAll n false u else u) := by
    split
    · exact h.trans (.flushAll n u)
    · exact h
  have trained (p : Prop) [Decidable p] (f : Cpu → Cpu) : HomesKept s (if p then s else Machine.modCpu (.core n) f s) := by
    split
    · exact .refl s
    · exact .modCpu _ f s
  unfold Machine.resolve
  dsimp only
  split
  · apply flushed
    split
    · split
      · exact ((trained _ _).trans (.countEv _ _ _ _)).trans (.countEv _ _ _ _)
      · exact (trained _ _).trans (.countEv _ _ _ _)
    · exact trained _ _
  · exact flushed _ s (.refl s)

theorem HomesKept.retired (n : Nat) (e : WinEntry) (old : Cpu) (next : Option Word) (s : State) :
    HomesKept s (retired (.core n) e old next s) := by
  refine HomesKept.trans ?_ (.resolve n e next.isSome _)
  rw [retire_core]
  exact ((modCpu _ _ s).trans (.modCpu _ _ _)).trans (.countEv _ _ _ _)

/-- A ready instruction of a core whose effect leaves `v` and falls through: the homes stand as its effect left them. -/
theorem run_falls {n : Nat} {i : Instr} {s v : State} {body : State → State × Done} (hr : ready (.core n) i s = true)
    (hb : body (started (.core n) i s) = (v, .seq)) :
    ∃ u, run (.core n) i body s = .next u ∧ RegsKept (coreOf v n) (coreOf u n) ∧ Kept (.core n) {} v u ∧ HomesKept v u := by
  refine ⟨_, run_ready body hr, ?_⟩
  rw [hb]
  exact ⟨retired_regs (.core n) _ _ none v, retired_kept (.core n) _ _ none v, .retired n _ _ none v⟩

/-- The fetch of a ready instruction of a core leaves what memory reads as alone. -/
theorem started_memKept {n : Nat} {i : Instr} {s : State} (hr : ready (.core n) i s = true) : MemKept s (started (.core n) i s) := by
  have m := (started_work (ready_delivers hr)).2.1
  rwa [fetchCheck_core (ready_check hr)] at m

/-! ## Copies of lines move, and no request is sent -/

/-- `t` follows from `s` by moving copies of lines at a home and in the caches, with no request sent. -/
structure CopiesMoved (s t : State) : Prop where
  caches : CacheOnly s t
  mshr : t.mshr = s.mshr

theorem CopiesMoved.refl (s : State) : CopiesMoved s s := ⟨.refl s, rfl⟩

theorem CopiesMoved.trans {s t u : State} (a : CopiesMoved s t) (b : CopiesMoved t u) : CopiesMoved s u :=
  ⟨a.caches.trans b.caches, b.mshr.trans a.mshr⟩

theorem CopiesMoved.ite {p : Prop} [Decidable p] {s t u : State} (a : CopiesMoved s t) (b : CopiesMoved s u) :
    CopiesMoved s (if p then t else u) := by
  split
  · exact a
  · exact b

theorem CopiesMoved.foldl {α : Type} {f : State → α → State} (hf : ∀ s a, CopiesMoved s (f s a)) (l : List α) (s : State) :
    CopiesMoved s (l.foldl f s) :=
  List.foldlRecOn (motive := fun u : State => CopiesMoved s u) l f (.refl s) fun u hu a _ => hu.trans (hf u a)

theorem CopiesMoved.modTile (t : Nat) (f : Tile → Tile) (s : State) : CopiesMoved s (modTile t f s) := ⟨.modTile t f s, rfl⟩
theorem CopiesMoved.modSlice (p : Nat) (f : Slice → Slice) (s : State) : CopiesMoved s (modSlice p f s) := ⟨.modSlice p f s, rfl⟩
theorem CopiesMoved.setLlc (line : Nat) (q : PSet LlcEntry) (s : State) : CopiesMoved s (setLlc line q s) := modSlice _ _ s
theorem CopiesMoved.setSf (line : Nat) (q : PSet SfEntry) (s : State) : CopiesMoved s (setSf line q s) := modSlice _ _ s

theorem CopiesMoved.tagUse (ch tl : Nat) (w : Bool) (s : State) : CopiesMoved s (tagUse ch tl w s) :=
  ⟨.tagUse ch tl w s, by unfold Machine.tagUse; dsimp only; split <;> rfl⟩

theorem CopiesMoved.memRead (line : Nat) (s : State) : CopiesMoved s (memRead line s) := .tagUse _ _ _ s

theorem CopiesMoved.memWritten (line : Nat) (s : State) : CopiesMoved s (memWritten line s) :=
  CopiesMoved.trans ⟨.dropUnder3 line s, rfl⟩ (.tagUse _ _ _ _)

theorem CopiesMoved.keepUnder3 (line : Nat) (s : State) : CopiesMoved s (keepUnder3 line s) :=
  ⟨.keepUnder3 line s, by unfold Machine.keepUnder3; split <;> rfl⟩

theorem CopiesMoved.entryWriteBack (e : LlcEntry) (s : State) : CopiesMoved s (entryWriteBack e s) :=
  foldl (fun s _ => ite (.memWritten _ s) (.refl s)) _ s

theorem CopiesMoved.llcAlloc (line : Nat) (dirty : Bool) (s : State) : CopiesMoved s (llcAlloc line dirty s) := by
  unfold Machine.llcAlloc
  dsimp only
  have h : CopiesMoved s (if dirty = true then Machine.keepUnder3 line s else s) := ite (.keepUnder3 line s) (.refl s)
  generalize (if dirty = true then Machine.keepUnder3 line s else s) = u at h ⊢
  split
  · exact h.trans (.setLlc _ _ u)
  · refine h.trans (trans ?_ (.setLlc _ _ _))
    split
    · exact .entryWriteBack _ u
    · exact .refl u

theorem CopiesMoved.homeTakeDirty (line : Nat) (s : State) : CopiesMoved s (homeTakeDirty line s) := (llcAlloc line true s).trans ⟨rfl, rfl⟩

theorem CopiesMoved.tileDrop (t line : Nat) (s : State) : CopiesMoved s (tileDrop t line s) := ⟨.tileDrop t line s, rfl⟩

theorem CopiesMoved.backInval (e : SfEntry) (s : State) : CopiesMoved s (backInval e s) :=
  have h := foldl (fun s t => tileDrop t e.line s) (sfHolders e) s
  ite (h.trans (.homeTakeDirty _ _)) h

theorem CopiesMoved.sfStore (e : SfEntry) (s : State) : CopiesMoved s (sfStore e s) := by
  unfold Machine.sfStore
  dsimp only
  split
  · exact .setSf _ _ s
  · split
    · exact (backInval _ s).trans (.setSf _ _ _)
    · exact .setSf _ _ s

/-- What work at a home leaves alone: harts, objects, the RAS controller and requests under way. -/
structure HomeWork (s t : State) : Prop where
  cpus : ∀ k, cpuOf t k = cpuOf s k
  objs : t.objs = s.objs
  ras : t.ras = s.ras
  mshr : t.mshr = s.mshr

theorem HomeWork.trans {s t u : State} (a : HomeWork s t) (b : HomeWork t u) : HomeWork s u :=
  ⟨fun k => (b.cpus k).trans (a.cpus k), b.objs.trans a.objs, b.ras.trans a.ras, b.mshr.trans a.mshr⟩

theorem CopiesMoved.homeWork {s t : State} (h : CopiesMoved s t) : HomeWork s t := ⟨h.caches.cpuOf, h.caches.objs, h.caches.ras, h.mshr⟩

theorem MemOnly.homeWork {s t : State} (h : MemOnly s t) : HomeWork s t := by rw [h]; exact ⟨fun k => by cases k <;> rfl, rfl, rfl, rfl⟩

theorem tileOf_congr {s t : State} (ho : t.objs = s.objs) (hr : t.ras = s.ras) (n : Nat) : tileOf t n = tileOf s n := by
  simp only [tileOf, objN, obj, ho, hr]

theorem cmoFlight_congr {s t : State} (h : t.mshr = s.mshr) (u : Nat) : cmoFlight t u = cmoFlight s u := by rw [cmoFlight, h]; rfl

end Sys2Proof.Machine
end

section
/-! SUPPORT. Maintenance and locking of one quiet line at its home (08 Table 8.4, R204, R212). -/

namespace Sys2Proof.Machine
open Sys2Proof

/-! ## Maintenance of one line at its home (08 Table 8.4) -/

/-- Every copy kept beneath a dirty one of a line is gone: nothing above the line is newer than memory. -/
def Current (line : Nat) (s : State) : Prop :=
  mFind s.mem.under1 line = none ∧ mFind s.mem.under2 line = none ∧ mFind s.mem.under3 line = none

/-- Neither the filter nor the LLC holds a copy of a line. -/
def Gone (line : Nat) (s : State) : Prop := llcValid s line = false ∧ sfFind s line = none

theorem memCurrent_current (line : Nat) (s : State) : Current line (memCurrent line s) :=
  ⟨mFind_mDel_same _ _, mFind_mDel_same _ _, mFind_mDel_same _ _⟩

theorem writtenBack_current (dirty : Bool) (line : Nat) (s : State) : Current line (writtenBack dirty line s) := memCurrent_current _ _

theorem Current.congr {line : Nat} {s t : State} (h : Current line s) (hm : t.mem = s.mem) : Current line t := by
  unfold Current at *; rwa [hm]

theorem llcFind_congr {s t : State} (h : t.slices = s.slices) (line : Nat) : llcFind t line = llcFind s line := by
  simp only [llcFind, sliceAt, h]

theorem llcDirty_congr {s t : State} (h : t.slices = s.slices) (line : Nat) : llcDirty t line = llcDirty s line := by
  simp only [llcDirty, llcFind_congr h]

theorem Gone.congr {line : Nat} {s t : State} (h : Gone line s) (hs : t.slices = s.slices) : Gone line t := by
  have hv : llcValid t line = llcValid s line := by simp only [llcValid, llcFind_congr hs]
  have hf : sfFind t line = sfFind s line := by simp only [sfFind, sliceAt, hs]
  unfold Gone at *
  rwa [hv, hf]

theorem tagUse_slices (ch tl : Nat) (w : Bool) (s : State) : (tagUse ch tl w s).slices = s.slices := by
  unfold tagUse
  dsimp only
  split <;> rfl

theorem writtenBack_slices (dirty : Bool) (line : Nat) (s : State) : (writtenBack dirty line s).slices = s.slices := by
  cases dirty with
  | true => exact tagUse_slices _ _ _ _
  | false => rfl

theorem CopiesMoved.writtenBack (dirty : Bool) (line : Nat) (s : State) : CopiesMoved s (writtenBack dirty line s) :=
  trans (ite (.memWritten line s) (.refl s)) ⟨rfl, rfl⟩

/-! ### The LLC sector -/

/-- What is found of a block whose entries were changed is a changed entry. -/
theorem llcFind_llcMod {line w : Nat} {f : LlcEntry → Option LlcEntry} {s : State} {x : LlcEntry}
    (h : llcFind (llcMod line f s) line = some (w, x)) : ∃ y, f y = some x := by
  rw [llcFind, llcMod, setLlc, sliceAt_modSlice, if_pos rfl] at h
  dsimp only at h
  rw [setOf_putSet, if_pos rfl] at h
  obtain ⟨⟨v, y⟩, -, hy⟩ := List.mem_filterMap.1 (List.mem_of_find?_eq_some h)
  have hx := List.find?_some h
  split at hy
  · obtain ⟨z, hz, he⟩ := Option.map_eq_some_iff.1 hy
    cases he
    exact ⟨y, hz⟩
  · next hn =>
    cases hy
    exact absurd hx hn

/-- A sector's bit cleared in a mask. -/
theorem flag_clear_sector (m : BitVec 4) (line : Nat) : flag (m &&& ~~~(sectorBit line)) (line % 4) = false := by
  have h : ∀ (m : BitVec 4) (k : Fin 4), flag (m &&& ~~~(BitVec.ofNat 4 (2 ^ k.val))) k.val = false := by decide
  exact h m ⟨line % 4, Nat.mod_lt _ (by decide)⟩

theorem llcDirty_llcClean (line : Nat) (s : State) : llcDirty (llcClean line s) line = false := by
  unfold llcDirty
  split
  · next w x hx =>
    obtain ⟨y, hy⟩ := llcFind_llcMod hx
    cases hy
    exact flag_clear_sector _ _
  · rfl

theorem llcValid_llcEmpty (line : Nat) (s : State) : llcValid (llcEmpty line s) line = false := by
  unfold llcValid
  split
  · next w x hx =>
    obtain ⟨y, hy⟩ := llcFind_llcMod hx
    have hv : x.valid = y.valid &&& ~~~(sectorBit line) := by
      dsimp only at hy
      split at hy
      · split at hy <;> cases hy
        rfl
      · cases hy
        rfl
    rw [hv]
    exact flag_clear_sector _ _
  · rfl

/-! ### The copies in the L2s -/

theorem psEntry_psMap_none {α : Type} (p : α → Bool) (q : PSet α) : psEntry p (psMap p (fun _ => none) q) = none := by
  rw [psEntry, Option.map_eq_none_iff, List.find?_eq_none]
  intro e he hp
  obtain ⟨y, -, hy⟩ := List.mem_filterMap.1 he
  split at hy
  · cases hy
  · next hn =>
    cases hy
    exact hn hp

theorem sfFind_sfDrop (line : Nat) (s : State) : sfFind (sfDrop line s) line = none := by
  rw [sfFind, sfDrop, setSf, sliceAt_modSlice, if_pos rfl]
  dsimp only
  rw [setOf_putSet, if_pos rfl]
  exact psEntry_psMap_none _ _

theorem sfFind_removeFromL2s (line : Nat) (s : State) : sfFind (removeFromL2s line s).1 line = none := by
  unfold removeFromL2s
  split
  · assumption
  · exact sfFind_sfDrop _ _

/-- A change of the LLC leaves the filter alone. -/
theorem sfFind_llcMod (line : Nat) (f : LlcEntry → Option LlcEntry) (s : State) : sfFind (llcMod line f s) line = sfFind s line := by
  rw [sfFind, llcMod, setLlc, sliceAt_modSlice, if_pos rfl]
  rfl

theorem lineGone_gone (line : Nat) (s : State) : Gone line (lineGone line s) :=
  ⟨llcValid_llcEmpty _ _, (sfFind_llcMod _ _ _).trans (sfFind_removeFromL2s _ _)⟩

theorem CopiesMoved.lineGone (line : Nat) (s : State) : CopiesMoved s (lineGone line s) := by
  refine trans ?_ (.setLlc _ _ _)
  unfold removeFromL2s
  split
  · exact .refl s
  · exact (foldl (fun s t => tileDrop t line s) _ s).trans (.setSf _ _ _)

/-! ### CLEAN, CLINV and INVAL -/

theorem CopiesMoved.cleanHolders (line : Nat) (s : State) : CopiesMoved s (cleanHolders line s) := by
  have l1 : CopiesMoved s (l1Clean (lineHolders s line) line s) := foldl (fun s t => modTile t _ s) _ s
  have l2 : ∀ (u : State) (t : Nat), CopiesMoved u (if l2State u t line = some .m then l2SetState t line (some .e) u
      else if l2State u t line = some .o then l2SetState t line (some .s) u else u) :=
    fun u t => ite (modTile t _ u) (ite (modTile t _ u) (.refl u))
  have hs := l1.trans (foldl l2 (lineHolders s line) _)
  unfold Machine.cleanHolders
  dsimp only
  split
  · split
    · split
      · exact hs.trans (.sfStore _ _)
      · exact hs.trans (.sfStore _ _)
    · exact hs
  · exact hs

theorem CopiesMoved.cmoClean (line : Nat) (s : State) : CopiesMoved s (cmoClean line s) :=
  ((cleanHolders line s).trans (.setLlc _ _ _)).trans (.writtenBack _ _ _)

theorem llcDirty_cmoClean (line : Nat) (s : State) : llcDirty (cmoClean line s) line = false :=
  (llcDirty_congr (writtenBack_slices _ _ _) line).trans (llcDirty_llcClean _ _)

theorem CopiesMoved.cmoClinv (line : Nat) (s : State) : CopiesMoved s (cmoClinv line s) := (lineGone line s).trans (.writtenBack _ _ _)

theorem cmoClinv_gone (line : Nat) (s : State) : Gone line (cmoClinv line s) := (lineGone_gone line s).congr (writtenBack_slices _ _ _)

/-- INVAL leaves of a line what memory holds or what discarding it left, as a free value decides (08 R204). -/
theorem cmoInval_left (line : Nat) (s : State) : ∃ v, cmoInval line s = writtenBack (llcLocked s line && llcDirty s line) line v ∧
    MemOnly (takeFree (lineGone line s)).2 v := by
  refine ⟨_, rfl, ?_⟩
  split
  · exact .setLine _ _ _
  · exact .refl _

theorem HomeWork.cmoInval (line : Nat) (s : State) : HomeWork s (cmoInval line s) := by
  obtain ⟨v, hv, hm⟩ := cmoInval_left line s
  have free : HomeWork (lineGone line s) (takeFree (lineGone line s)).2 := ⟨fun k => by cases k <;> rfl, rfl, rfl, rfl⟩
  rw [hv]
  exact (((CopiesMoved.lineGone line s).homeWork.trans free).trans hm.homeWork).trans (CopiesMoved.writtenBack _ line v).homeWork

theorem cmoInval_current (line : Nat) (s : State) : Current line (cmoInval line s) := writtenBack_current _ _ _

theorem cmoInval_gone (line : Nat) (s : State) : Gone line (cmoInval line s) := by
  obtain ⟨v, hv, hm⟩ := cmoInval_left line s
  rw [hv]
  refine (lineGone_gone line s).congr ((writtenBack_slices _ _ _).trans ?_)
  rw [hm]
  rfl

/-! ## LOCKLD at a line's home (08 R212) -/

/-- The LLC entry of a way of a line's set. -/
def llcWay (s : State) (line w : Nat) : Option LlcEntry := mFind (setOf (sliceAt s (slicePos line)).llc (llcSet line)).ways w

/-- The data that a lock-load brings to the LLC: as a dirty L2 copy holds it, or from memory. -/
def lockRead (owned : Bool) (line : Nat) (s : State) : State :=
  let u := if owned then s else memRead line s
  if ¬ owned then u
  else
    let v := keepUnder3 line u
    { v with mem := { v.mem with under2 := mIns v.mem.under2 line (getLine v line) } }

/-- A holder that the filter names has the line dirty in its L2. -/
def dirtyHolder (s : State) (line : Nat) : Bool := (lineHolders s line).any (fun t => l2IsDirty s t line)

/-- A way that locks the line's block already takes the line's sector too. -/
def lockSector (line w : Nat) (s : State) : State :=
  let x := (llcWay s line w).getD ⟨line / 4, true, false, 0, 0⟩
  setLlc line (psPut 4 w { x with valid := x.valid ||| sectorBit line } (setOf (sliceAt s (slicePos line)).llc (llcSet line)))
    (if flag x.valid (line % 4) then s else lockRead (dirtyHolder s line) line s)

/-- What a way holds of another block is written back. -/
def wayEmptied (line w : Nat) (s : State) : State :=
  match llcWay s line w with
  | some x => if x.empty ∨ x.block = line / 4 then s else entryWriteBack x s
  | none => s

/-- A way takes the line's block and locks it: what the way held is written back, and an unlocked entry of the block moves here. -/
def lockTake (line w : Nat) (s : State) : State :=
  let q := setOf (sliceAt s (slicePos line)).llc (llcSet line)
  let moved := (llcFind s line).filter (fun p => !p.2.lock)
  let v := match moved with | some (_, x) => x.valid | none => 0
  let d := match moved with | some (_, x) => x.dirty | none => 0
  setLlc line (psPut 4 w ⟨line / 4, true, false, v ||| sectorBit line, d⟩
      (match moved with | some (w', _) => { q with ways := mDel q.ways w' } | none => q))
    (if flag v (line % 4) then wayEmptied line w s else lockRead (dirtyHolder s line) line (wayEmptied line w s))

/-- LOCKLD at its home: a way that holds the block locked, else an own way that takes it, else a refusal. -/
theorem lockLine_cases (e line : Nat) (s : State) : lockLine e line s = (s, false) ∨
    (∃ w, lockLine e line s = (lockSector line w s, true)) ∨ ∃ w, lockLine e line s = (lockTake line w s, true) := by
  unfold lockLine
  dsimp only
  split
  · exact .inr (.inl ⟨_, rfl⟩)
  · split
    · exact .inr (.inr ⟨_, rfl⟩)
    · split
      · exact .inr (.inr ⟨_, rfl⟩)
      · exact .inl rfl

theorem lockLine_no_way {e line : Nat} {s : State} (h : ownWays s e (slicePos line) = []) : lockLine e line s = (s, false) := by
  simp only [lockLine, h, List.find?_nil]

/-- The only own way, when free, takes the line. -/
theorem lockLine_free_way {e line w : Nat} {s : State} (h : ownWays s e (slicePos line) = [w]) (hw : llcWay s line w = none) :
    lockLine e line s = (lockTake line w s, true) := by
  have hq := hw
  unfold llcWay at hq
  simp only [lockLine, lockTake, wayEmptied, h, hq, hw, List.find?_cons, List.find?_nil]
  rfl

theorem CopiesMoved.lockRead (owned : Bool) (line : Nat) (s : State) : CopiesMoved s (lockRead owned line s) := by
  cases owned with
  | false => exact .memRead line s
  | true => exact (keepUnder3 line s).trans ⟨rfl, rfl⟩

theorem CopiesMoved.lockSector (line w : Nat) (s : State) : CopiesMoved s (lockSector line w s) :=
  trans (ite (.refl s) (.lockRead _ line s)) (.setLlc _ _ _)

theorem CopiesMoved.wayEmptied (line w : Nat) (s : State) : CopiesMoved s (wayEmptied line w s) := by
  unfold Machine.wayEmptied
  split
  · exact ite (.refl s) (.entryWriteBack _ s)
  · exact .refl s

theorem CopiesMoved.lockTake (line w : Nat) (s : State) : CopiesMoved s (lockTake line w s) :=
  ((wayEmptied line w s).trans (ite (.refl _) (.lockRead _ line _))).trans (.setLlc _ _ _)

theorem CopiesMoved.lockLine (e line : Nat) (s : State) : CopiesMoved s (lockLine e line s).1 := by
  rcases lockLine_cases e line s with h | ⟨w, h⟩ | ⟨w, h⟩
  · rw [h]; exact .refl s
  · rw [h]; exact .lockSector line w s
  · rw [h]; exact .lockTake line w s

theorem llcWay_setLlc (s : State) (line w : Nat) (x : LlcEntry) (q : PSet LlcEntry) :
    llcWay (setLlc line (psPut 4 w x q) s) line w = some x := by
  rw [llcWay, setLlc, sliceAt_modSlice, if_pos rfl]
  dsimp only
  rw [setOf_putSet, if_pos rfl]
  exact mFind_mIns_same _ _ _

/-- A line that the LLC does not hold is locked clean, in its own sector alone. -/
theorem llcWay_lockTake {line : Nat} {s : State} (w : Nat) (h : llcFind s line = none) :
    llcWay (lockTake line w s) line w = some ⟨line / 4, true, false, sectorBit line, 0⟩ := by
  unfold lockTake
  dsimp only
  rw [llcWay_setLlc, h]
  simp

/-- A refused lock-load: LOCKSTAT names the line; memory, the requests under way and the core's tile stay. -/
theorem lockRefused_core {n : Nat} (line : Nat) (s : State) (hn : n < 192) :
    sysReg (coreOf (lockRefused (.core n) line s) n) 0xC21 = BitVec.ofNat 64 (2 ^ 63 + line * 64) ∧
      (lockRefused (.core n) line s).mem = s.mem ∧ (lockRefused (.core n) line s).mshr = s.mshr ∧
      tileOf (lockRefused (.core n) line s) n = tileOf s n := by
  unfold lockRefused countH
  dsimp only
  generalize hu : bumpObj 0x9710 _ 32 1 (modCpu (.core n) (setSys 0xC21 (BitVec.ofNat 64 (2 ^ 63 + line * 64))) s) = u
  have core : coreOf u n = setSys 0xC21 (BitVec.ofNat 64 (2 ^ 63 + line * 64)) (coreOf s n) := by
    rw [← hu]; exact coreOf_modCpu_same n _ s
  have tile : tileOf u n = tileOf s n := by
    have hk : okey 0x5030 n ≠ okey 0x9710 (enclOf (modCpu (.core n) (setSys 0xC21 (BitVec.ofNat 64 (2 ^ 63 + line * 64))) s) (.core n)) := by
      unfold okey; omega
    rw [← hu]
    unfold tileOf objN bumpObj
    rw [obj_setObj_other _ _ _ _ _ _ hk]
    rfl
  refine ⟨?_, ?_, ?_, ?_⟩
  · rw [(countEv_regs n 0x3D 1 u).sys 0xC21 rfl, core, sysReg_setSys_same]
  · rw [countEv_mem, ← hu]; rfl
  · rw [countEv_frame, ← hu]; rfl
  · rw [tileOf_congr (countEv_objs n 0x3D 1 u) (HartSide.countEv n 0x3D 1 u).ras, tile]

end Sys2Proof.Machine
end

section
/-! PROOF. DCZ, cache maintenance by address, LOCKLD and UNLOCK (O30). -/

namespace Sys2Proof.Machine
open Sys2Proof

/-! ## An operation by address (04 R115, 08 R202) -/

/-- A cache operation of a core by the address in `x` finds its line in memory and quiet at its home, with nothing of the core in the way. -/
structure LineAtHand (n : Nat) (op : CmoOp) (x : GVal) (line : Nat) (t : State) : Prop where
  at_ : lineOf (physOf (coreOf t n) x.v) = line
  base : GoodBase (.core n) (coreOf t n) x
  translates : Translates (coreOf t n) (cmoAccess op) x.v 1
  below : physOf (coreOf t n) x.v < locBase
  place : placeOf t (enclOfCore t n) (physOf (coreOf t n) x.v) = .mem
  sb : (coreOf t n).sb = []
  nt : (coreOf t n).nt = []
  quiet : lineQuiet t line = true
  notAsked : asking t (tileOf t n) line = false
  notEvicted : wbPending t (tileOf t n) line = false
  noFlight : cmoFlight t (tileOf t n) = 0

theorem cmoAccess_ne_fetch (op : CmoOp) : cmoAccess op ≠ .fetch := by cases op <;> decide

theorem linesIn_one (va : Word) : linesIn va 1 = 1 := by
  rw [linesIn, if_neg (by decide)]
  omega

theorem useTlbs_core (n : Nat) (a : Access) (va : Word) (k : Nat) (s : State) :
    useTlbs (.core n) a [(va, k)] s = modCpu (.core n) (tlbUse a va) s := rfl

theorem TlbOnly.kept {c d : Cpu} (h : TlbOnly c d) : FetchKept c d := ⟨h.regs, by rw [h], by rw [h]⟩

theorem pagesOf_one (va : Word) : pagesOf va 1 = [(va, 1)] := by
  have hp : (va.toNat % 4096 + 1 + 4095) / 4096 = 1 := by omega
  simp [pagesOf, hp]

/-- A line that is ready is handled at its home at once. -/
theorem cmoLine_quiet {n : Nat} {op : CmoOp} {line : Nat} {t : State} (hn : (coreOf t n).nt = []) (hq : lineQuiet t line = true)
    (ha : asking t (tileOf t n) line = false) (hw : wbPending t (tileOf t n) line = false) :
    cmoLine (.core n) op line t = (cmoHome (.core n) op line t, true) := by
  have nt : ntLeave (.core n) line t = (t, true) := by
    unfold ntLeave
    rw [show (cpuOf t (.core n)).nt = [] from hn]
    rfl
  simp [cmoLine, nt, unitOf, ha, hw, hq]

section
variable {n : Nat} {op : CmoOp} {x : GVal} {line : Nat} {t : State} (found : LineAtHand n op x line t)
include found

theorem LineAtHand.cmoPa : cmoPa (.core n) op (physOf (coreOf t n) x.v / 64 * 64) t = (cmoHome (.core n) op line t, true) := by
  have hl : lineOf (physOf (coreOf t n) x.v / 64 * 64) = line := by rw [← found.at_]; unfold lineOf; omega
  have hb := found.below
  unfold Machine.cmoPa
  rw [if_neg (by omega), placeOf_line, show enclOf t (.core n) = enclOfCore t n from rfl, found.place, hl]
  exact cmoLine_quiet found.nt found.quiet found.notAsked found.notEvicted

/-- The only line of the operation is handled, and none is left. -/
theorem LineAtHand.cmoLines (start : Nat) : cmoLines (.core n) op [(x.v, physOf (coreOf t n) x.v)] start 1
    (BitVec.ofNat 64 (x.v.toNat / 64 * 64)) 0 t =
      (cmoHome (.core n) op line t, BitVec.ofNat 64 (x.v.toNat / 64 * 64) + 64, 1, 0) := by
  have stops : cmoStops (.core n) 0 start t = false := by simp [cmoStops]
  rw [Machine.cmoLines, if_neg (by simp [stops]), paIn_line (physOf_mod_page (cmoAccess_ne_fetch op) found.translates), found.cmoPa]
  rfl

variable (hm : (cmoHome (.core n) op line t).mshr = t.mshr) (ht : tileOf (cmoHome (.core n) op line t) n = tileOf t n)
include hm ht

/-- The operation ends with its work at the home, which sends nothing. -/
theorem LineAtHand.cmoGo (start : Nat) : cmoGo (.core n) op (BitVec.ofNat 64 (x.v.toNat / 64 * 64)) 1 0 start
    [(x.v, physOf (coreOf t n) x.v)] none t = (cmoHome (.core n) op line t, .seq) := by
  have flight : cmoFlight (cmoHome (.core n) op line t) (unitOf (cmoHome (.core n) op line t) (.core n)) = 0 := by
    rw [cmoFlight_congr hm, unitOf, ht, found.noFlight]
  unfold Machine.cmoGo
  rw [found.cmoLines]
  exact if_pos ⟨flight, .inl rfl⟩

/-- A cache operation by address: its work at the home, and its translation is used. -/
theorem LineAtHand.cmo {ra : Reg} (hx : gpr (coreOf t n) ra = x) : cmo (.core n) op 0 ra 0 .addr t =
    (modCpu (.core n) (tlbUse (cmoAccess op) x.v) (cmoHome (.core n) op line t), .seq) := by
  unfold Machine.cmo cmoSpan
  -- the page and the line first: a step by computation here would divide an open term
  simp only [Bool.false_eq_true, if_false, pagesOf_one, linesIn_one]
  simp only [cpuOf, hx, addrExc_of_goodBase found.base, xlate_of_translates found.translates, afterStores_core _ found.sb, List.map_cons,
    List.map_nil, List.zip_cons_cons, List.zip_nil_left, found.cmoGo hm ht, useTlbs_core, reduceCtorEq, if_false]

end

section
variable {n : Nat} {op : CmoOp} {ra : Reg} {i : Instr} {s t v : State} {x : GVal} {line : Nat}
  (he : exec i s = run (.core n) i (cmo (.core n) op 0 ra 0 .addr) s) (hr : ready (.core n) i s = true)
  (hs : started (.core n) i s = t) (hx : gpr (coreOf t n) ra = x) (found : LineAtHand n op x line t)
  (hv : cmoHome (.core n) op line t = v)
include he hr hs hx found hv

/-- A ready cache operation by address: its hart, its frame and the homes are as its work at the home left them. -/
theorem cmo_falls (hm : v.mshr = t.mshr) (ht : tileOf v n = tileOf t n) :
    ∃ u, exec i s = .next u ∧ RegsKept (coreOf v n) (coreOf u n) ∧ Kept (.core n) {} v u ∧ HomesKept v u := by
  subst hv hs
  obtain ⟨u, hu, regs, kept, homes⟩ := run_falls hr (found.cmo hm ht hx)
  have work := HartWork.modCpu (h := .core n) (cmoHome (.core n) op line (started (.core n) i s)) (TlbOnly.tlbUse (cmoAccess op) x.v _).kept
  exact ⟨u, he.trans hu, work.hart.toRegsKept.trans regs, work.kept.between (.refl _ _ _) kept, (HomesKept.modCpu _ _ _).trans homes⟩

/-- Where that work moves copies alone, memory reads as it did and the core keeps its registers. -/
theorem cmo_falls_moved (hc : CopiesMoved t v) :
    ∃ u, exec i s = .next u ∧ RegsKept (coreOf t n) (coreOf u n) ∧ Kept (.core n) {} s u ∧ MemKept s u ∧ HomesKept v u := by
  obtain ⟨u, hu, regs, kept, homes⟩ := cmo_falls he hr hs hx found hv hc.mshr (tileOf_congr hc.caches.objs hc.caches.ras n)
  have work := hc.caches.work (.core n)
  subst hs
  exact ⟨u, hu, work.hart.toRegsKept.trans regs, (started_kept hr).between work.kept kept,
    (started_memKept hr).trans (hc.caches.memKept.trans (.of_mem homes.mem)), homes⟩

end

/-! ## The operations (08 Table 8.4, R212) -/

theorem ready_core_lt {n : Nat} {i : Instr} {s : State} (hr : ready (.core n) i s = true) : n < 192 := by
  simp only [ready, hartExists, Bool.and_eq_true, decide_eq_true_eq] at hr
  obtain ⟨⟨⟨⟨⟨⟨⟨⟨hn, -⟩, -⟩, -⟩, -⟩, -⟩, -⟩, -⟩, -⟩ := hr
  exact hn

theorem cmoHome_lockld (n line : Nat) (t : State) : cmoHome (.core n) .lockld line t =
    if (lockLine (enclOfCore t n) line t).2 then (lockLine (enclOfCore t n) line t).1 else lockRefused (.core n) line t := rfl

section
variable {n : Nat} {ra : Reg} {s t : State} {x : GVal} {line : Nat} (hx : gpr (coreOf t n) ra = x)
include hx

theorem clean_runs (hr : ready (.core n) (.clean (.core n) 0 ra 0 .addr) s = true) (hs : started (.core n) (.clean (.core n) 0 ra 0 .addr) s = t)
    (found : LineAtHand n .clean x line t) : ∃ u, exec (.clean (.core n) 0 ra 0 .addr) s = .next u ∧ Kept (.core n) {} s u ∧ MemKept s u ∧
      Current line u ∧ llcDirty u line = false := by
  obtain ⟨u, hu, -, kept, mem, homes⟩ := cmo_falls_moved rfl hr hs hx found rfl (.cmoClean line t)
  exact ⟨u, hu, kept, mem, (writtenBack_current _ _ _).congr homes.mem, (llcDirty_congr homes.slices _).trans (llcDirty_cmoClean line t)⟩

theorem clinv_runs (hr : ready (.core n) (.clinv (.core n) 0 ra 0 .addr) s = true) (hs : started (.core n) (.clinv (.core n) 0 ra 0 .addr) s = t)
    (found : LineAtHand n .clinv x line t) : ∃ u, exec (.clinv (.core n) 0 ra 0 .addr) s = .next u ∧
      (∀ r, gpr (coreOf u n) r = gpr (coreOf t n) r) ∧ MemKept s u ∧ Current line u ∧ Gone line u := by
  obtain ⟨u, hu, regs, -, mem, homes⟩ := cmo_falls_moved rfl hr hs hx found rfl (.cmoClinv line t)
  exact ⟨u, hu, regs.gpr, mem, (writtenBack_current _ _ _).congr homes.mem, (cmoClinv_gone line t).congr homes.slices⟩

theorem inval_runs (hr : ready (.core n) (.inval (.core n) 0 ra 0 .addr) s = true) (hs : started (.core n) (.inval (.core n) 0 ra 0 .addr) s = t)
    (found : LineAtHand n .inval x line t) : ∃ u, exec (.inval (.core n) 0 ra 0 .addr) s = .next u ∧
      (∀ r, gpr (coreOf u n) r = gpr (coreOf t n) r) ∧ Current line u ∧ Gone line u := by
  have work := HomeWork.cmoInval line t
  obtain ⟨u, hu, regs, -, homes⟩ := cmo_falls rfl hr hs hx found rfl work.mshr (tileOf_congr work.objs work.ras n)
  exact ⟨u, hu, fun r => (regs.gpr r).trans (congrArg (gpr · r) (work.cpus (.core n))), (cmoInval_current line t).congr homes.mem,
    (cmoInval_gone line t).congr homes.slices⟩

/-- LOCKLD: refused where the enclosure owns no way; a line that the LLC does not hold is locked in the only own way, when that is free. -/
theorem lockld_runs (hr : ready (.core n) (.lockld (.core n) 0 ra 0 .addr) s = true)
    (hs : started (.core n) (.lockld (.core n) 0 ra 0 .addr) s = t) (found : LineAtHand n .lockld x line t) :
    ∃ u, exec (.lockld (.core n) 0 ra 0 .addr) s = .next u ∧ MemKept s u ∧
      (ownWays t (enclOfCore t n) (slicePos line) = [] → sysReg (coreOf u n) 0xC21 = BitVec.ofNat 64 (2 ^ 63 + line * 64)) ∧
      (∀ w, ownWays t (enclOfCore t n) (slicePos line) = [w] → llcFind t line = none → llcWay t line w = none →
        Kept (.core n) {} s u ∧ llcWay u line w = some ⟨line / 4, true, false, sectorBit line, 0⟩) := by
  have work := cmoHome_lockld n line t
  cases taken : (lockLine (enclOfCore t n) line t).2 with
  | true =>
    rw [taken, if_pos rfl] at work
    obtain ⟨u, hu, -, kept, mem, homes⟩ := cmo_falls_moved rfl hr hs hx found work (.lockLine _ line t)
    refine ⟨u, hu, mem, fun hno => ?_, fun w hw hfind hway => ⟨kept, ?_⟩⟩
    · exact absurd (show true = false from taken.symm.trans (congrArg Prod.snd (lockLine_no_way hno))) (by decide)
    · rw [lockLine_free_way hw hway] at homes
      rw [llcWay, sliceAt, homes.slices]
      exact llcWay_lockTake w hfind
  | false =>
    rw [taken, if_neg (by decide)] at work
    obtain ⟨hlock, hmem, hmshr, htile⟩ := lockRefused_core line t (ready_core_lt hr)
    obtain ⟨u, hu, regs, -, homes⟩ := cmo_falls rfl hr hs hx found work hmshr htile
    have mem := started_memKept hr
    rw [hs] at mem
    refine ⟨u, hu, mem.trans (.of_mem (homes.mem.trans hmem)), fun _ => (regs.sys 0xC21 rfl).trans hlock, fun w hw _ hway => ?_⟩
    exact absurd (show false = true from taken.symm.trans (congrArg Prod.snd (lockLine_free_way hw hway))) (by decide)

end

/-! ## DCZ (08 R203) -/

theorem predict_win (pc : Word) (w : BitVec 32) (c : Cpu) : (predict pc w c).2.2.win = c.win := by
  unfold predict
  dsimp only
  repeat' split
  all_goals rfl

theorem countEv_win (n ev k : Nat) (s : State) : (coreOf (countEv n ev k s) n).win = (coreOf s n).win := by rw [countEv_sys]

theorem fetchNext_win (n : Nat) (i : Instr) (s : State) : (coreOf (fetchNext (.core n) i s).2 n).win = (coreOf s n).win := by
  have hs : (coreOf (setCpu (.core n) (fetched i (coreOf s n).pc (coreOf s n)).2.2 s) n).win = (coreOf s n).win := by
    rw [coreOf_setCpu_core]; exact predict_win _ _ _
  unfold fetchNext
  dsimp only
  split
  · exact (countEv_win _ _ _ _).trans hs
  · exact hs

/-- A fetch that no store of its core stands before reads its line, and may count a miss. -/
theorem fetchUse_cases {n : Nat} {s : State} (hd : fetchDelivers (.core n) s = true) : ∃ t, CacheOnly s t ∧
    (fetchUse (.core n) s = t ∨ fetchUse (.core n) s = countEv n 0x21 1 t) := by
  have hs : storesTo (coreOf s n) (lineOf (physAt (coreOf s n) .fetch (coreOf s n).pc)) = false := by
    simp only [fetchDelivers, Bool.and_eq_true, Bool.not_eq_true'] at hd
    exact hd.1
  refine ⟨_, .readLine (.core n) true (lineOf (physAt (coreOf s n) .fetch (coreOf s n).pc)) s, ?_⟩
  unfold fetchUse fetchLine
  dsimp only
  rw [hs]
  simp only [Bool.false_eq_true, if_false, not_true_eq_false]
  split
  · exact .inr rfl
  · exact .inl rfl

theorem fetchUse_win {n : Nat} {s : State} (hd : fetchDelivers (.core n) s = true) :
    (coreOf (fetchUse (.core n) s) n).win = (coreOf s n).win := by
  obtain ⟨t, c, h⟩ := fetchUse_cases hd
  have hw : (coreOf t n).win = (coreOf s n).win := congrArg Cpu.win (c.cpuOf (.core n))
  rcases h with h | h
  · rw [h, hw]
  · rw [h, countEv_win, hw]

/-- Nothing stands behind a ready instruction of a core. -/
theorem started_win {n : Nat} {i : Instr} {s : State} (hr : ready (.core n) i s = true) : (coreOf (started (.core n) i s) n).win = [] := by
  have hw : (coreOf s n).win = [] := by
    simp only [ready, Bool.and_eq_true, decide_eq_true_eq] at hr
    obtain ⟨⟨⟨⟨⟨⟨⟨-, hw⟩, -⟩, -⟩, -⟩, -⟩, -⟩, -⟩ := hr
    exact hw
  have hd := ready_delivers hr
  rw [started, fetchUse_win hd, toFetch, fetchNext_win, fetchCheck_core (ready_check hr), hw]

/-- The store-buffer entry of DCZ: 64 zero octets over the line of an address. -/
def dczEntry (va : Word) (pa : Nat) (pc : Word) : SbEntry :=
  ⟨pa / 64 * 64, List.replicate 64 0, none, true, false, false, BitVec.ofNat 64 (va.toNat / 64 * 64), pc⟩

theorem sbPush_kept (h : Hart) (e : SbEntry) (s : State) : Kept h {} s (sbPush h e s) :=
  Kept.modCpu fun _ => ⟨fun _ _ => rfl, fun _ _ => rfl, fun _ _ => rfl, fun _ _ _ => rfl, fun _ => rfl, fun _ hm => ⟨rfl, rfl, hm⟩,
    fun _ => ⟨rfl, rfl⟩, rfl⟩

/-- A store behind which nothing was fetched is noticed by nothing. -/
theorem noticeStore_empty {n : Nat} {s : State} (pa k : Nat) (hw : (coreOf s n).win = []) : noticeStore (.core n) pa k s = s := if_pos hw

/-- Where the store buffer has an entry free, none is written to make room. -/
theorem sbRoom_free {n : Nat} {s : State} (h : (coreOf s n).sb.length < 96) : sbRoom (.core n) 1 s = (s, true) := by
  have h0 : (coreOf s n).sb.length + 1 - 96 = 0 := by omega
  rw [sbRoom, show cpuOf s (.core n) = coreOf s n from rfl, h0]
  rfl

/-- DCZ to memory with room in the store buffer and nothing behind it queues its entry. -/
theorem dcz_core {n : Nat} {ra : Reg} {t : State} {x : GVal} (hx : gpr (coreOf t n) ra = x) (hg : GoodBase (.core n) (coreOf t n) x)
    (ht : Translates (coreOf t n) .store x.v 1) (hl : physOf (coreOf t n) x.v < locBase)
    (hp : placeOf t (enclOfCore t n) (physOf (coreOf t n) x.v) = .mem) (hs : (coreOf t n).sb.length < 96) (hw : (coreOf t n).win = []) :
    dcz (.core n) ra t = (sbPush (.core n) (dczEntry x.v (physOf (coreOf t n) x.v) (coreOf t n).pc)
      (modCpu (.core n) (tlbUse .store x.v) t), .seq) := by
  have device : toDevice (.core n) t [physOf (coreOf t n) x.v] = false := by
    simp [toDevice, placeH, show enclOf t (.core n) = enclOfCore t n from rfl, hp, Nat.not_le.2 hl]
  have place : placeH (.core n) (modCpu (.core n) (tlbUse .store x.v) t) (physOf (coreOf t n) x.v / 64 * 64) = .mem := by
    rw [placeH, placeOf_modCpu, placeOf_line, show enclOf _ (.core n) = enclOfCore (modCpu (.core n) _ t) n from rfl, enclOfCore_modCpu, hp, ite_self]
  have below : ¬ locBase ≤ physOf (coreOf t n) x.v / 64 * 64 := by omega
  have win : (coreOf (sbPush (.core n) (dczEntry x.v (physOf (coreOf t n) x.v) (coreOf t n).pc)
      (modCpu (.core n) (tlbUse .store x.v) t)) n).win = [] := by
    rw [sbPush, coreOf_modCpu_same, coreOf_modCpu_same]
    show (tlbUse .store x.v (coreOf t n)).win = []
    rw [TlbOnly.tlbUse .store x.v (coreOf t n)]
    exact hw
  unfold dcz
  simp only [cpuOf, hx, addrExc_of_goodBase hg, xlate_of_translates ht, List.headD_cons, device, sbRoom_free hs, useTlbs_core, place, below,
    Bool.false_eq_true, not_true_eq_false, if_false, reduceCtorEq]
  exact congrArg (·, Done.seq) (noticeStore_empty _ _ win)

/-- DCZ of a ready core, on an address it may write, queues 64 zero octets and falls through. -/
theorem dcz_runs {n : Nat} {ra : Reg} {s t : State} {x : GVal} (hs : started (.core n) (.dcz (.core n) ra) s = t)
    (hx : gpr (coreOf t n) ra = x) (hg : GoodBase (.core n) (coreOf t n) x) (ht : Translates (coreOf t n) .store x.v 1)
    (hl : physOf (coreOf t n) x.v < locBase) (hp : placeOf t (enclOfCore t n) (physOf (coreOf t n) x.v) = .mem)
    (hb : (coreOf t n).sb.length < 96) : Runs (.core n) (.dcz (.core n) ra) s {} none (fun d =>
      d.sb = (coreOf t n).sb ++ [dczEntry x.v (physOf (coreOf t n) x.v) (coreOf t n).pc]) := by
  subst hs
  intro hr
  have tlbs := HartWork.modCpu (h := .core n) (started (.core n) (.dcz (.core n) ra) s) (TlbOnly.tlbUse .store x.v _).kept
  have k := (started_work (ready_delivers hr)).1.hart.trans tlbs.hart
  obtain ⟨u, hu, hregs, hk, hm, hpc, -⟩ := run_retires (next := none) hr (dcz_core hx hg ht hl hp hb (started_win hr))
    (tlbs.kept.between (sbPush_kept _ _ _) (.refl _ _ _)) (.of_mem (by simp [sbPush]))
  rw [sbPush, cpuOf_modCpu_same] at hregs hpc
  refine ⟨u, hu, ?_, hk, hm, fun hn => hpc.trans (wentOn_falls k.pc k.le k.lc hn)⟩
  exact hregs.sb.trans (congrArg (· ++ [_]) tlbs.hart.sb)

/-! ## UNLOCK (08 R213) -/

/-- UNLOCK of a locked entry of an own way that is not empty clears its lock. -/
theorem unlockWay_locked {n : Nat} {ra : Reg} {t : State} {x : GVal} {y : LlcEntry} (hx : gpr (coreOf t n) ra = x)
    (hp : Plain (coreOf t n) x) (hw : setWayOk 2 x.v = true) (hs : (coreOf t n).sb = [])
    (hy : mFind (setOf (sliceAt t (fld x.v 31 24)).llc (fld x.v 19 8)).ways (fld x.v 3 0) = some y) (hl : y.lock = true)
    (he : y.empty = false) (ho : wayOwner t (fld x.v 31 24) (fld x.v 3 0) = enclOfCore t n) :
    ∃ v, unlockWay (.core n) ra t = (v, .seq) ∧ v.mem = t.mem ∧
      mFind (setOf (sliceAt v (fld x.v 31 24)).llc (fld x.v 19 8)).ways (fld x.v 3 0) = some { y with lock := false } := by
  have hexc : srcExc (coreOf t n) [x] = none := srcExc_of_plain (by simpa using hp)
  unfold unlockWay
  simp only [cpuOf, hx, hexc, afterStores_core _ hs, hw, hy, hl, he, ho, enclOf, not_true_eq_false, ne_eq, or_self, if_false,
    Bool.false_eq_true]
  refine ⟨_, rfl, rfl, ?_⟩
  rw [sliceAt_modSlice, if_pos rfl]
  dsimp only
  rw [setOf_putSet, if_pos rfl]
  exact mFind_mIns_same _ _ _

/-- Settles O30: each operation's work at the line's home is carried through the instruction's retirement, which leaves the homes alone. -/
theorem cacheOperations : Obligations.CacheOperations := by
  unfold Obligations.CacheOperations
  intro n ra s
  dsimp only
  refine ⟨?dcz, ?clean, ?clinv, ?inval, ?lockld, ?unlock⟩
  case dcz =>
    intro hg ht hl hp hb hr
    exact (dcz_runs rfl rfl hg ht hl hp hb hr).imp fun d hd => ⟨_, hd, rfl, Nat.mul_comm _ _, rfl⟩
  case clean => exact fun hr hg ht hl hp hb hn hq ha hw hf => clean_runs rfl hr rfl ⟨rfl, hg, ht, hl, hp, hb, hn, hq, ha, hw, hf⟩
  case clinv => exact fun hr hg ht hl hp hb hn hq ha hw hf => clinv_runs rfl hr rfl ⟨rfl, hg, ht, hl, hp, hb, hn, hq, ha, hw, hf⟩
  case inval => exact fun hr hg ht hl hp hb hn hq ha hw hf => inval_runs rfl hr rfl ⟨rfl, hg, ht, hl, hp, hb, hn, hq, ha, hw, hf⟩
  case lockld => exact fun hr hg ht hl hp hb hn hq ha hw hf => lockld_runs rfl hr rfl ⟨rfl, hg, ht, hl, hp, hb, hn, hq, ha, hw, hf⟩
  case unlock =>
    intro y hp hw hs hr hy hl he ho
    obtain ⟨v, hv, hmem, hway⟩ := unlockWay_locked rfl hp hw hs hy hl he ho
    obtain ⟨u, hu, -, -, homes⟩ := run_falls hr hv
    refine ⟨u, hu, (started_memKept hr).trans (.of_mem (homes.mem.trans hmem)), ?_⟩
    rwa [sliceAt, homes.slices]

end Sys2Proof.Machine
end
